-- ==== Sys2Proof/Word.lean ====
section
/-! DEFINITION. The machine's word types and their plainest arithmetic. -/

namespace Sys2Proof

/-- A 64-bit register value (01_state.md R7). -/
abbrev Word := BitVec 64
/-- A 32-bit instruction word (R33), lane (R22) or F32 (R222). -/
abbrev Word32 := BitVec 32
abbrev Byte := BitVec 8
/-- A general register number, x0 to x15. -/
abbrev XReg := BitVec 4
/-- A predicate number, k0 to k7. -/
abbrev KReg := BitVec 3
/-- A vector register number, v0 to v7. -/
abbrev VReg := BitVec 3
/-- Core 0 to 1,023, comb 0 to 127, domain 0 to 4,095, VD 0 to 63, thread number (R277, R309, R30). -/
abbrev CoreNo := BitVec 10
abbrev CombNo := BitVec 7
abbrev DomNo := BitVec 12
abbrev VdNo := BitVec 6
abbrev ThreadNo := BitVec 32
abbrev SlotNo := BitVec 4

/-- A truth value as one bit. -/
def bit1 (b : Bool) : BitVec 1 := if b then 1#1 else 0#1

end Sys2Proof
end

