-- ==== Sys2Proof/Syntax.lean ====
section
/-! DEFINITION. The instruction set: one constructor per row of the opcode table. The first 197 rows are words
(02_encoding.md R41, R44 to R54): a constructor's operands are the fields of the row, in the row's order, as bits;
the lone flag L is framing (R34, R35) and no operand. The other 121 rows are the steps and events the part performs
without a word (95_what_each_step_holds.md): their operands name the party concerned and carry the data that comes
from outside. -/

namespace Sys2Proof

/-- Trap causes (09_gates_system.md R217). 10 and 11 are status values and never raised; 17 is never raised. -/
inductive Cause where
  | illegal | misframe | tileform | straddle | faultS1 | faultS2 | prot | stale | gateclosed
  | promise | portbound | align | brk | soft | hcall
  deriving DecidableEq, Repr

/-- The code written to tcause[7:0] (R217). -/
def Cause.code : Cause → Nat
  | .illegal => 1 | .misframe => 2 | .tileform => 3 | .straddle => 4 | .faultS1 => 5 | .faultS2 => 6
  | .prot => 7 | .stale => 8 | .gateclosed => 9 | .promise => 12 | .portbound => 13 | .align => 14
  | .brk => 15 | .soft => 16 | .hcall => 18

/-- Where bytes are serialised (11_memory_model.md R241): the scratchpad bank beside a core, or the cache slice of
a frame. -/
inductive Home where
  | bank (core : BitVec 10)
  | slice (frame : BitVec 5)
  deriving DecidableEq, Repr

/-- Packet delivery modes of the transport (R373). -/
inductive Delivery where
  | ordered | unordered | idempotent | unreliable
  deriving DecidableEq, Repr

/-- Remote operations of the transport (R373). -/
inductive RemoteOp where
  | read (len : Nat)
  | write (data : List (BitVec 8))
  | send (data : List (BitVec 8))
  | atomic | rendezvous | deferredSend
  deriving DecidableEq, Repr

/-- One constructor per row of the opcode table. -/
inductive Instr where
  /-- R74. Does nothing, whatever its guard. -/
  | nop (g : BitVec 3)
  /-- R72. Transfers to the address in x15, raising ALIGN if its low bits are not 0. -/
  | ret (g : BitVec 3)
  /-- R72. Transfers to the address in x(a). -/
  | jx (g : BitVec 3) (a : BitVec 4)
  /-- R72. Writes the link to x15 and transfers to the address in x(a). -/
  | callx (g : BitVec 3) (a : BitVec 4)
  /-- R122. Sleeps until the promise cycle, then traps PROMISE if the tagged copy is still outstanding. -/
  | nap (g : BitVec 3) (a : BitVec 4)
  /-- R121. Writes the apiary cycle counter to x(d), untainted. -/
  | rdcyc (g : BitVec 3) (d : BitVec 4)
  /-- R221. Leaves the trap handler, restoring state from the trap frame and resuming at epc. -/
  | tret (g : BitVec 3)
  /-- R215. Retires and moves the slot to the end of the core's round-robin order. -/
  | yield (g : BitVec 3)
  /-- R194. Drains the thread, releases its ports, lease, slots and mailbox, and frees the slot. -/
  | quit (g : BitVec 3)
  /-- R214. Reads the system register named by the index into x(d). -/
  | sysrd (g : BitVec 3) (d : BitVec 4) (i : BitVec 13)
  /-- R214. Writes x(a) into the system register named by the index, for registers with no row of their own. -/
  | syswr (g : BitVec 3) (a : BitVec 4) (i : BitVec 13)
  /-- R218. Retires and then raises SOFT with the code in tval. -/
  | trap (g : BitVec 3) (i : BitVec 13)
  /-- R218. Raises BRK with the code in tval without retiring. -/
  | brk (g : BitVec 3) (i : BitVec 13)
  /-- R216. Enters the VD's hypervisor domain through an implicit gate, or raises HCALL if it has none. -/
  | hcall (g : BitVec 3) (i : BitVec 13)
  /-- R71. Branches PC-relative when k(g) XOR n is 1. -/
  | b (g : BitVec 3) (n : BitVec 1) (f : BitVec 20)
  /-- R71. When taken, writes the link to x15 and branches PC-relative. -/
  | call (g : BitVec 3) (n : BitVec 1) (f : BitVec 20)
  /-- R73. Decrements the counter register and branches while it is nonzero. -/
  | loop (g : BitVec 3) (d : BitVec 4) (i : BitVec 13)
  /-- R102. Loads a byte and sign-extends it. -/
  | ldI8 (g : BitVec 3) (d : BitVec 4) (a : BitVec 4) (r : BitVec 1) (h : BitVec 1) (s : BitVec 1) (f : BitVec 10)
  /-- R102. Loads a byte and zero-extends it. -/
  | ldN8 (g : BitVec 3) (d : BitVec 4) (a : BitVec 4) (r : BitVec 1) (h : BitVec 1) (s : BitVec 1) (f : BitVec 10)
  /-- R102. Loads 16 bits and sign-extends them. -/
  | ldI16 (g : BitVec 3) (d : BitVec 4) (a : BitVec 4) (r : BitVec 1) (h : BitVec 1) (s : BitVec 1) (f : BitVec 10)
  /-- R102. Loads 16 bits and zero-extends them. -/
  | ldN16 (g : BitVec 3) (d : BitVec 4) (a : BitVec 4) (r : BitVec 1) (h : BitVec 1) (s : BitVec 1) (f : BitVec 10)
  /-- R102. Loads 32 bits and sign-extends them. -/
  | ldI32 (g : BitVec 3) (d : BitVec 4) (a : BitVec 4) (r : BitVec 1) (h : BitVec 1) (s : BitVec 1) (f : BitVec 10)
  /-- R102. Loads 32 bits and zero-extends them. -/
  | ldN32 (g : BitVec 3) (d : BitVec 4) (a : BitVec 4) (r : BitVec 1) (h : BitVec 1) (s : BitVec 1) (f : BitVec 10)
  /-- R102. Loads 64 bits. -/
  | ldI64 (g : BitVec 3) (d : BitVec 4) (a : BitVec 4) (r : BitVec 1) (h : BitVec 1) (s : BitVec 1) (f : BitVec 10)
  /-- R107. Loads 64 bits and taints the destination, so that dependent accesses are ordered after it. -/
  | ldc (g : BitVec 3) (d : BitVec 4) (a : BitVec 4) (r : BitVec 1) (h : BitVec 1) (s : BitVec 1) (f : BitVec 10)
  /-- R102. Stores the low byte of x(d). -/
  | st8 (g : BitVec 3) (d : BitVec 4) (a : BitVec 4) (r : BitVec 1) (h : BitVec 1) (s : BitVec 1) (f : BitVec 10)
  /-- R102. Stores the low 16 bits of x(d). -/
  | st16 (g : BitVec 3) (d : BitVec 4) (a : BitVec 4) (r : BitVec 1) (h : BitVec 1) (s : BitVec 1) (f : BitVec 10)
  /-- R102. Stores the low 32 bits of x(d). -/
  | st32 (g : BitVec 3) (d : BitVec 4) (a : BitVec 4) (r : BitVec 1) (h : BitVec 1) (s : BitVec 1) (f : BitVec 10)
  /-- R102. Stores all 64 bits of x(d). -/
  | st64 (g : BitVec 3) (d : BitVec 4) (a : BitVec 4) (r : BitVec 1) (h : BitVec 1) (s : BitVec 1) (f : BitVec 10)
  /-- R90. Writes to x(d) the address a CM access would form, without making an access. -/
  | lea (g : BitVec 3) (d : BitVec 4) (a : BitVec 4) (c : BitVec 2) (s : BitVec 1) (f : BitVec 10)
  /-- R113. Waits until the aligned 64-bit word at the address differs from x(d). -/
  | wchg (g : BitVec 3) (d : BitVec 4) (a : BitVec 4) (s : BitVec 1) (f : BitVec 10)
  /-- R114. Moves the thread to the core beside the bank that holds the address. -/
  | hop (g : BitVec 3) (a : BitVec 4) (s : BitVec 1) (f : BitVec 10)
  /-- R123. Writes the window and the rights that the current domain holds at the address. -/
  | probe (g : BitVec 3) (d : BitVec 4) (a : BitVec 4) (s : BitVec 1) (f : BitVec 10)
  /-- R109. Fences to its scope, then performs an indivisible read-modify-write and returns the old value. -/
  | amo (g : BitVec 3) (d : BitVec 4) (a : BitVec 4) (b : BitVec 4) (o : BitVec 4) (w : BitVec 1) (s : BitVec 4)
  /-- R109. Performs a relaxed atomic that is counted in STO. -/
  | rxAmo (g : BitVec 3) (d : BitVec 4) (a : BitVec 4) (b : BitVec 4) (o : BitVec 4) (w : BitVec 1) (s : BitVec 4)
  /-- R110. Parks the slot until the earlier operations in the scope's set have completed. -/
  | fence (g : BitVec 3) (s : BitVec 4)
  /-- R112. Parks the slot until the outstanding counters fall to the given bounds. -/
  | wait (g : BitVec 3) (d : BitVec 4) (a : BitVec 4) (c : BitVec 5) (t : BitVec 5)
  /-- R117. Stages a message of 1 to 8 words to the destination word and retires. -/
  | msend (g : BitVec 3) (a : BitVec 4) (b : BitVec 4) (m : BitVec 3)
  /-- R119. Waits for a message and removes the oldest into a run of registers. -/
  | mrecv (g : BitVec 3) (d : BitVec 4) (m : BitVec 3)
  /-- R120. Waits until the slot holds at least one message. -/
  | waitm (g : BitVec 3)
  /-- R157. Enters a lease intent and parks until the comb's arbiter grants the extent. -/
  | mlease (g : BitVec 3) (d : BitVec 4) (e : BitVec 2) (p : BitVec 3)
  /-- R161. Clears the lease intent and releases the grant once the thread's tile operations complete. -/
  | mfree (g : BitVec 3)
  /-- R153. Queues a tile operation that loads a tensor into the B-SRAM by a pattern word. -/
  | mbload (g : BitVec 3) (a : BitVec 4) (b : BitVec 4)
  /-- R173. Queues a multiply-accumulate of A and B into a plain accumulator slot. -/
  | mma (g : BitVec 3) (d : BitVec 4) (a : BitVec 4) (b : BitVec 4) (s : BitVec 3) (p : BitVec 2)
  /-- R173. Queues a multiply-accumulate into a split slot, routing each product by its sign. -/
  | mmas (g : BitVec 3) (d : BitVec 4) (a : BitVec 4) (b : BitVec 4) (s : BitVec 3) (p : BitVec 2)
  /-- R172. Claims an accumulator slot of the given kind and queues its zeroing. -/
  | mzero (g : BitVec 3) (d : BitVec 4) (s : BitVec 3) (x : BitVec 1)
  /-- R174. Queues a drain of a slot to memory in RAW, DIFF, RATIO or GATE mode. -/
  | mdrain (g : BitVec 3) (d : BitVec 4) (a : BitVec 4) (b : BitVec 4) (m : BitVec 2) (c : BitVec 2) (x : BitVec 1) (s : BitVec 3)
  /-- R175. Writes x(a) into an agreement register. -/
  | magr (g : BitVec 3) (a : BitVec 4) (t : BitVec 3)
  /-- R166. Writes the status of an accumulator slot and the lease, without waiting. -/
  | mstat (g : BitVec 3) (d : BitVec 4) (n : BitVec 4)
  /-- R165. Makes the thread's parked copies of a slot active again, then writes its status. -/
  | mreclaim (g : BitVec 3) (d : BitVec 4) (n : BitVec 4)
  /-- R176. Writes x(a) into a shadow format or scale register for the issuing thread. -/
  | mfmt (g : BitVec 3) (a : BitVec 4) (t : BitVec 3)
  /-- R182. Reads a command block and queues a strided copy on the copy engine. -/
  | xcopy (g : BitVec 3) (d : BitVec 4) (a : BitVec 4) (b : BitVec 4) (p : BitVec 1) (m : BitVec 1) (c : BitVec 1)
  /-- R182. Queues a copy that commits only if the version word matches. -/
  | xcopyv (g : BitVec 3) (d : BitVec 4) (a : BitVec 4) (b : BitVec 4) (p : BitVec 1) (m : BitVec 1) (c : BitVec 1)
  /-- R182. Queues a copy of the rows that a bit mask selects. -/
  | xgather (g : BitVec 3) (d : BitVec 4) (a : BitVec 4) (b : BitVec 4) (p : BitVec 1) (m : BitVec 1) (c : BitVec 1)
  /-- R182. Queues a copy of consecutive rows to the rows that a bit mask selects. -/
  | xscatter (g : BitVec 3) (d : BitVec 4) (a : BitVec 4) (b : BitVec 4) (p : BitVec 1) (m : BitVec 1) (c : BitVec 1)
  /-- R182. Queues a fill of the destination walk with an 8-byte pattern. -/
  | xfill (g : BitVec 3) (d : BitVec 4) (a : BitVec 4) (b : BitVec 4) (p : BitVec 1) (m : BitVec 1) (c : BitVec 1)
  /-- R182. Queues a deal of a byte sequence across the banks of one comb. -/
  | xdeal (g : BitVec 3) (d : BitVec 4) (a : BitVec 4) (b : BitVec 4) (p : BitVec 1) (m : BitVec 1) (c : BitVec 1)
  /-- R190. Binds a register as a port to a queue, ring or engine FIFO. -/
  | pbind (g : BitVec 3) (d : BitVec 4) (a : BitVec 4) (k : BitVec 2) (e : BitVec 1)
  /-- R190. Releases a port binding and restores the hidden value. -/
  | punbind (g : BitVec 3) (d : BitVec 4)
  /-- R193. Requests a new thread on a core and writes the answer to a predicate. -/
  | spawn (g : BitVec 3) (k : BitVec 3) (a : BitVec 4) (b : BitVec 4)
  /-- R193. Requests a new thread on a core and retries until the request is placed. -/
  | spawnW (g : BitVec 3) (k : BitVec 3) (a : BitVec 4) (b : BitVec 4)
  /-- R197. Opens a keyed stage on the current core and writes a status and handle. -/
  | kopen (g : BitVec 3) (d : BitVec 4) (a : BitVec 4)
  /-- R204. Closes a stage, retiring its entries, and writes the number retired. -/
  | kclose (g : BitVec 3) (d : BitVec 4) (a : BitVec 4)
  /-- R199. Sends a record of key and two payload words to a stage. -/
  | kput (g : BitVec 3) (a : BitVec 4) (b : BitVec 4)
  /-- R202. Suspends the running coroutine into the brood store, and the worker takes the next record. -/
  | kwait (g : BitVec 3)
  /-- R203. Frees the current coroutine's entry, and the worker takes the next record. -/
  | kend (g : BitVec 3)
  /-- R205. Writes a statistic of a stage. -/
  | kstat (g : BitVec 3) (d : BitVec 4) (a : BitVec 4) (b : BitVec 4)
  /-- R208. Calls through a gate into the callee domain and pushes a domain-stack entry. -/
  | gcall (g : BitVec 3) (d : BitVec 4) (a : BitVec 4) (b : BitVec 4)
  /-- R211. Returns x0 to x(n-1) to the caller and pops the top entry. -/
  | gret (g : BitVec 3) (n : BitVec 3)
  /-- R207. Checks a buffer and packs a grant word. -/
  | awin (g : BitVec 3) (d : BitVec 4) (a : BitVec 4) (b : BitVec 4) (e : BitVec 2)
  /-- R212. Writes the top entry, a gate's state or the grace left. -/
  | gstat (g : BitVec 3) (d : BitVec 4) (a : BitVec 4) (n : BitVec 3)
  /-- R80. Adds modulo 2^64. -/
  | add (g : BitVec 3) (d : BitVec 4) (a : BitVec 4) (b : BitVec 4)
  /-- R80. Subtracts modulo 2^64. -/
  | sub (g : BitVec 3) (d : BitVec 4) (a : BitVec 4) (b : BitVec 4)
  /-- R80. Writes the low 64 bits of the product. -/
  | mul (g : BitVec 3) (d : BitVec 4) (a : BitVec 4) (b : BitVec 4)
  /-- R80. Writes the high 64 bits of the signed product. -/
  | mulhI (g : BitVec 3) (d : BitVec 4) (a : BitVec 4) (b : BitVec 4)
  /-- R80. Writes the high 64 bits of the natural product. -/
  | mulhN (g : BitVec 3) (d : BitVec 4) (a : BitVec 4) (b : BitVec 4)
  /-- R81. Divides as signed numbers, truncating toward zero. -/
  | divI (g : BitVec 3) (d : BitVec 4) (a : BitVec 4) (b : BitVec 4)
  /-- R81. Divides as natural numbers. -/
  | divN (g : BitVec 3) (d : BitVec 4) (a : BitVec 4) (b : BitVec 4)
  /-- R81. Writes the signed remainder. -/
  | remI (g : BitVec 3) (d : BitVec 4) (a : BitVec 4) (b : BitVec 4)
  /-- R81. Writes the natural remainder. -/
  | remN (g : BitVec 3) (d : BitVec 4) (a : BitVec 4) (b : BitVec 4)
  /-- R82. Adds, clamping to the signed range. -/
  | addsatI (g : BitVec 3) (d : BitVec 4) (a : BitVec 4) (b : BitVec 4)
  /-- R82. Adds, clamping to the natural range. -/
  | addsatN (g : BitVec 3) (d : BitVec 4) (a : BitVec 4) (b : BitVec 4)
  /-- R82. Subtracts, clamping to the signed range. -/
  | subsatI (g : BitVec 3) (d : BitVec 4) (a : BitVec 4) (b : BitVec 4)
  /-- R82. Subtracts, clamping to the natural range. -/
  | subsatN (g : BitVec 3) (d : BitVec 4) (a : BitVec 4) (b : BitVec 4)
  /-- R80. Writes the absolute value. -/
  | abs (g : BitVec 3) (d : BitVec 4) (a : BitVec 4)
  /-- R80. Writes 0 minus x(a). -/
  | neg (g : BitVec 3) (d : BitVec 4) (a : BitVec 4)
  /-- R83. Writes the signed minimum. -/
  | minI (g : BitVec 3) (d : BitVec 4) (a : BitVec 4) (b : BitVec 4)
  /-- R83. Writes the signed maximum. -/
  | maxI (g : BitVec 3) (d : BitVec 4) (a : BitVec 4) (b : BitVec 4)
  /-- R83. Writes the natural minimum. -/
  | minN (g : BitVec 3) (d : BitVec 4) (a : BitVec 4) (b : BitVec 4)
  /-- R83. Writes the natural maximum. -/
  | maxN (g : BitVec 3) (d : BitVec 4) (a : BitVec 4) (b : BitVec 4)
  /-- R84. Bitwise AND. -/
  | and (g : BitVec 3) (d : BitVec 4) (a : BitVec 4) (b : BitVec 4)
  /-- R84. Bitwise OR. -/
  | or (g : BitVec 3) (d : BitVec 4) (a : BitVec 4) (b : BitVec 4)
  /-- R84. Bitwise XOR. -/
  | xor (g : BitVec 3) (d : BitVec 4) (a : BitVec 4) (b : BitVec 4)
  /-- R84. x(a) AND NOT x(b). -/
  | andn (g : BitVec 3) (d : BitVec 4) (a : BitVec 4) (b : BitVec 4)
  /-- R84. x(a) OR NOT x(b). -/
  | orn (g : BitVec 3) (d : BitVec 4) (a : BitVec 4) (b : BitVec 4)
  /-- R84. Copies x(a) and its taint. -/
  | mov (g : BitVec 3) (d : BitVec 4) (a : BitVec 4)
  /-- R85. Selects x(a) or x(b) by predicate kp. -/
  | sel (g : BitVec 3) (d : BitVec 4) (a : BitVec 4) (b : BitVec 4) (p : BitVec 3)
  /-- R86. Shifts left by the amount in x(b). -/
  | shl (g : BitVec 3) (d : BitVec 4) (a : BitVec 4) (b : BitVec 4)
  /-- R86. Shifts right logically by the amount in x(b). -/
  | shr (g : BitVec 3) (d : BitVec 4) (a : BitVec 4) (b : BitVec 4)
  /-- R86. Shifts right arithmetically by the amount in x(b). -/
  | sar (g : BitVec 3) (d : BitVec 4) (a : BitVec 4) (b : BitVec 4)
  /-- R86. Rotates left by the amount in x(b). -/
  | rot (g : BitVec 3) (d : BitVec 4) (a : BitVec 4) (b : BitVec 4)
  /-- R87. Counts leading zeros. -/
  | clz (g : BitVec 3) (d : BitVec 4) (a : BitVec 4)
  /-- R87. Counts trailing zeros. -/
  | ctz (g : BitVec 3) (d : BitVec 4) (a : BitVec 4)
  /-- R87. Counts one bits. -/
  | popc (g : BitVec 3) (d : BitVec 4) (a : BitVec 4)
  /-- R87. Reverses the bytes. -/
  | bswap (g : BitVec 3) (d : BitVec 4) (a : BitVec 4)
  /-- R92. Adds packed lanes modulo 2^W. -/
  | padd (g : BitVec 3) (d : BitVec 4) (a : BitVec 4) (b : BitVec 4) (w : BitVec 1)
  /-- R92. Subtracts packed lanes modulo 2^W. -/
  | psub (g : BitVec 3) (d : BitVec 4) (a : BitVec 4) (b : BitVec 4) (w : BitVec 1)
  /-- R92. Adds packed lanes with signed saturation. -/
  | paddsatI (g : BitVec 3) (d : BitVec 4) (a : BitVec 4) (b : BitVec 4) (w : BitVec 1)
  /-- R92. Adds packed lanes with natural saturation. -/
  | paddsatN (g : BitVec 3) (d : BitVec 4) (a : BitVec 4) (b : BitVec 4) (w : BitVec 1)
  /-- R92. Signed per-lane minimum. -/
  | pminI (g : BitVec 3) (d : BitVec 4) (a : BitVec 4) (b : BitVec 4) (w : BitVec 1)
  /-- R92. Natural per-lane minimum. -/
  | pminN (g : BitVec 3) (d : BitVec 4) (a : BitVec 4) (b : BitVec 4) (w : BitVec 1)
  /-- R92. Signed per-lane maximum. -/
  | pmaxI (g : BitVec 3) (d : BitVec 4) (a : BitVec 4) (b : BitVec 4) (w : BitVec 1)
  /-- R92. Natural per-lane maximum. -/
  | pmaxN (g : BitVec 3) (d : BitVec 4) (a : BitVec 4) (b : BitVec 4) (w : BitVec 1)
  /-- R92. Shifts each lane left. -/
  | pshl (g : BitVec 3) (d : BitVec 4) (a : BitVec 4) (b : BitVec 4) (w : BitVec 1)
  /-- R92. Shifts each lane right logically. -/
  | pshr (g : BitVec 3) (d : BitVec 4) (a : BitVec 4) (b : BitVec 4) (w : BitVec 1)
  /-- R92. Shifts each lane right arithmetically. -/
  | psar (g : BitVec 3) (d : BitVec 4) (a : BitVec 4) (b : BitVec 4) (w : BitVec 1)
  /-- R92. Sets each lane to all ones where the lanes are equal. -/
  | pcmpEq (g : BitVec 3) (d : BitVec 4) (a : BitVec 4) (b : BitVec 4) (w : BitVec 1)
  /-- R92. Sets each lane to all ones where A < B as signed. -/
  | pcmpLtI (g : BitVec 3) (d : BitVec 4) (a : BitVec 4) (b : BitVec 4) (w : BitVec 1)
  /-- R92. Sets each lane to all ones where A < B as natural. -/
  | pcmpLtN (g : BitVec 3) (d : BitVec 4) (a : BitVec 4) (b : BitVec 4) (w : BitVec 1)
  /-- R94. Adds F32 values, rounding once with st.RM. -/
  | fadd (g : BitVec 3) (d : BitVec 4) (a : BitVec 4) (b : BitVec 4)
  /-- R94. Subtracts F32 values, rounding once. -/
  | fsub (g : BitVec 3) (d : BitVec 4) (a : BitVec 4) (b : BitVec 4)
  /-- R94. Multiplies F32 values, rounding once. -/
  | fmul (g : BitVec 3) (d : BitVec 4) (a : BitVec 4) (b : BitVec 4)
  /-- R94. Computes the fused multiply-add x(a)·x(b)+x(d) with one rounding. -/
  | ffma (g : BitVec 3) (d : BitVec 4) (a : BitVec 4) (b : BitVec 4)
  /-- R96. Writes the F32 minimum. -/
  | fmin (g : BitVec 3) (d : BitVec 4) (a : BitVec 4) (b : BitVec 4)
  /-- R96. Writes the F32 maximum. -/
  | fmax (g : BitVec 3) (d : BitVec 4) (a : BitVec 4) (b : BitVec 4)
  /-- R96. Clears the F32 sign bit. -/
  | fabs (g : BitVec 3) (d : BitVec 4) (a : BitVec 4)
  /-- R96. Inverts the F32 sign bit. -/
  | fneg (g : BitVec 3) (d : BitVec 4) (a : BitVec 4)
  /-- R97. Converts a signed 32-bit integer to F32. -/
  | fcvtF32I32 (g : BitVec 3) (d : BitVec 4) (a : BitVec 4) (b : BitVec 4)
  /-- R97. Converts a natural 32-bit integer to F32. -/
  | fcvtF32N32 (g : BitVec 3) (d : BitVec 4) (a : BitVec 4) (b : BitVec 4)
  /-- R97. Converts F32 to a signed 32-bit integer. -/
  | fcvtI32F32 (g : BitVec 3) (d : BitVec 4) (a : BitVec 4) (b : BitVec 4)
  /-- R97. Converts F32 to a natural 32-bit integer. -/
  | fcvtN32F32 (g : BitVec 3) (d : BitVec 4) (a : BitVec 4) (b : BitVec 4)
  /-- R97. Converts B16 to F32 exactly. -/
  | fcvtF32B16 (g : BitVec 3) (d : BitVec 4) (a : BitVec 4) (b : BitVec 4)
  /-- R97. Converts F32 to B16, rounding with st.RM. -/
  | fcvtB16F32 (g : BitVec 3) (d : BitVec 4) (a : BitVec 4) (b : BitVec 4)
  /-- R80. Adds a signed immediate. -/
  | addi (g : BitVec 3) (d : BitVec 4) (a : BitVec 4) (i : BitVec 13)
  /-- R84. ANDs with a sign-extended immediate. -/
  | andi (g : BitVec 3) (d : BitVec 4) (a : BitVec 4) (i : BitVec 13)
  /-- R84. ORs with a sign-extended immediate. -/
  | ori (g : BitVec 3) (d : BitVec 4) (a : BitVec 4) (i : BitVec 13)
  /-- R84. XORs with a sign-extended immediate. -/
  | xori (g : BitVec 3) (d : BitVec 4) (a : BitVec 4) (i : BitVec 13)
  /-- R86. Shifts left by an immediate amount. -/
  | shli (g : BitVec 3) (d : BitVec 4) (a : BitVec 4) (i : BitVec 8)
  /-- R86. Shifts right logically by an immediate amount. -/
  | shri (g : BitVec 3) (d : BitVec 4) (a : BitVec 4) (i : BitVec 8)
  /-- R86. Shifts right arithmetically by an immediate amount. -/
  | sari (g : BitVec 3) (d : BitVec 4) (a : BitVec 4) (i : BitVec 8)
  /-- R86. Rotates left by an immediate amount. -/
  | roti (g : BitVec 3) (d : BitVec 4) (a : BitVec 4) (i : BitVec 8)
  /-- R88. Extracts a bit field and sign-extends it. -/
  | extI (g : BitVec 3) (d : BitVec 4) (a : BitVec 4) (q : BitVec 6) (w : BitVec 6)
  /-- R88. Extracts a bit field and zero-extends it. -/
  | extN (g : BitVec 3) (d : BitVec 4) (a : BitVec 4) (q : BitVec 6) (w : BitVec 6)
  /-- R88. Inserts the low bits of x(a) into a bit field of x(d). -/
  | ins (g : BitVec 3) (d : BitVec 4) (a : BitVec 4) (q : BitVec 6) (w : BitVec 6)
  /-- R89. Writes a zero-extended or sign-extended 16-bit immediate. -/
  | movi (g : BitVec 3) (d : BitVec 4) (h : BitVec 1) (i : BitVec 16)
  /-- R89. Shifts in, or places at bits [31:16], a 16-bit immediate. -/
  | movh (g : BitVec 3) (d : BitVec 4) (h : BitVec 1) (i : BitVec 16)
  /-- R76. Compares two registers under a condition and writes a predicate. -/
  | cmp (g : BitVec 3) (k : BitVec 3) (a : BitVec 4) (b : BitVec 4) (f : BitVec 10)
  /-- R78. Compares two F32 values and writes a predicate. -/
  | fcmp (g : BitVec 3) (k : BitVec 3) (a : BitVec 4) (b : BitVec 4) (f : BitVec 10)
  /-- R79. Predicate AND. -/
  | pand (g : BitVec 3) (k : BitVec 3) (a : BitVec 3) (b : BitVec 3)
  /-- R79. Predicate OR. -/
  | por (g : BitVec 3) (k : BitVec 3) (a : BitVec 3) (b : BitVec 3)
  /-- R79. Predicate XOR. -/
  | pxor (g : BitVec 3) (k : BitVec 3) (a : BitVec 3) (b : BitVec 3)
  /-- R79. Predicate NOT. -/
  | pnot (g : BitVec 3) (k : BitVec 3) (a : BitVec 3)
  /-- R79. Predicate copy. -/
  | pmov (g : BitVec 3) (k : BitVec 3) (a : BitVec 3)
  /-- R79. Selects ka or kb by kc. -/
  | psel (g : BitVec 3) (k : BitVec 3) (a : BitVec 3) (b : BitVec 3) (c : BitVec 3)
  /-- R77. Compares with an immediate for equality. -/
  | cmpiEq (g : BitVec 3) (k : BitVec 3) (a : BitVec 4) (i : BitVec 10)
  /-- R77. Compares with an immediate for inequality. -/
  | cmpiNe (g : BitVec 3) (k : BitVec 3) (a : BitVec 4) (i : BitVec 10)
  /-- R77. Signed less-than against an immediate. -/
  | cmpiLt (g : BitVec 3) (k : BitVec 3) (a : BitVec 4) (i : BitVec 10)
  /-- R77. Signed less-or-equal against an immediate. -/
  | cmpiLe (g : BitVec 3) (k : BitVec 3) (a : BitVec 4) (i : BitVec 10)
  /-- R77. Signed greater-than against an immediate. -/
  | cmpiGt (g : BitVec 3) (k : BitVec 3) (a : BitVec 4) (i : BitVec 10)
  /-- R77. Signed greater-or-equal against an immediate. -/
  | cmpiGe (g : BitVec 3) (k : BitVec 3) (a : BitVec 4) (i : BitVec 10)
  /-- R77. Natural less-than against an immediate. -/
  | cmpiLtN (g : BitVec 3) (k : BitVec 3) (a : BitVec 4) (i : BitVec 10)
  /-- R77. Natural greater-or-equal against an immediate. -/
  | cmpiGeN (g : BitVec 3) (k : BitVec 3) (a : BitVec 4) (i : BitVec 10)
  /-- R134. Hands the vector unit a lane-wise add. -/
  | vadd (v : BitVec 3) (a : BitVec 3) (b : BitVec 3) (y : BitVec 4)
  /-- R134. Hands the vector unit a lane-wise subtract. -/
  | vsub (v : BitVec 3) (a : BitVec 3) (b : BitVec 3) (y : BitVec 4)
  /-- R134. Hands the vector unit a lane-wise multiply. -/
  | vmul (v : BitVec 3) (a : BitVec 3) (b : BitVec 3) (y : BitVec 4)
  /-- R134. Hands the vector unit a lane-wise fused multiply-add into vd. -/
  | vfma (v : BitVec 3) (a : BitVec 3) (b : BitVec 3) (y : BitVec 4)
  /-- R134. Hands the vector unit a lane-wise minimum. -/
  | vmin (v : BitVec 3) (a : BitVec 3) (b : BitVec 3) (y : BitVec 4)
  /-- R134. Hands the vector unit a lane-wise maximum. -/
  | vmax (v : BitVec 3) (a : BitVec 3) (b : BitVec 3) (y : BitVec 4)
  /-- R134. Hands the vector unit a lane-wise absolute value. -/
  | vabs (v : BitVec 3) (a : BitVec 3) (y : BitVec 4)
  /-- R134. Hands the vector unit a lane-wise negation. -/
  | vneg (v : BitVec 3) (a : BitVec 3) (y : BitVec 4)
  /-- R135. Hands the vector unit a bitwise AND of all lanes. -/
  | vand (v : BitVec 3) (a : BitVec 3) (b : BitVec 3)
  /-- R135. Hands the vector unit a bitwise OR of all lanes. -/
  | vor (v : BitVec 3) (a : BitVec 3) (b : BitVec 3)
  /-- R135. Hands the vector unit a bitwise XOR of all lanes. -/
  | vxor (v : BitVec 3) (a : BitVec 3) (b : BitVec 3)
  /-- R135. Hands the vector unit a per-lane left shift. -/
  | vshl (v : BitVec 3) (a : BitVec 3) (b : BitVec 3) (y : BitVec 4)
  /-- R135. Hands the vector unit a per-lane logical right shift. -/
  | vshr (v : BitVec 3) (a : BitVec 3) (b : BitVec 3) (y : BitVec 4)
  /-- R135. Hands the vector unit a per-lane arithmetic right shift. -/
  | vsar (v : BitVec 3) (a : BitVec 3) (b : BitVec 3) (y : BitVec 4)
  /-- R135. Hands the vector unit a bitwise select between va and vb, under vd as the mask. -/
  | vsel (v : BitVec 3) (a : BitVec 3) (b : BitVec 3)
  /-- R136. Hands the vector unit a lane-wise compare that writes masks. -/
  | vcmp (v : BitVec 3) (a : BitVec 3) (b : BitVec 3) (c : BitVec 3) (y : BitVec 4)
  /-- R137. Hands the vector unit a conversion from F32 to the given type. -/
  | vcvtFromF32 (v : BitVec 3) (a : BitVec 3) (b : BitVec 3) (y : BitVec 4) (m : BitVec 3)
  /-- R137. Hands the vector unit a conversion from the given type to F32. -/
  | vcvtToF32 (v : BitVec 3) (a : BitVec 3) (b : BitVec 3) (y : BitVec 4) (m : BitVec 3)
  /-- R139. Hands the vector unit a lane-wise 2^((a-b)·s). -/
  | vex2 (v : BitVec 3) (a : BitVec 3) (b : BitVec 3) (s : BitVec 4)
  /-- R140. Hands the vector unit a correctly rounded reciprocal. -/
  | vrcp (v : BitVec 3) (a : BitVec 3)
  /-- R140. Hands the vector unit a correctly rounded reciprocal square root. -/
  | vrsq (v : BitVec 3) (a : BitVec 3)
  /-- R141. Hands the vector unit a sum reduction written to every lane. -/
  | vredSum (v : BitVec 3) (a : BitVec 3) (y : BitVec 4)
  /-- R141. Hands the vector unit a max reduction. -/
  | vredMax (v : BitVec 3) (a : BitVec 3) (y : BitVec 4)
  /-- R141. Hands the vector unit a min reduction. -/
  | vredMin (v : BitVec 3) (a : BitVec 3) (y : BitVec 4)
  /-- R142. Hands the vector unit a broadcast of x(xs) to every lane. -/
  | vbcast (v : BitVec 3) (s : BitVec 4) (y : BitVec 4)
  /-- R142. Hands the vector unit a read of one lane into x(xt). -/
  | vget (a : BitVec 3) (s : BitVec 4) (t : BitVec 4) (y : BitVec 4)
  /-- R142. Hands the vector unit a lane permutation. -/
  | vperm (v : BitVec 3) (a : BitVec 3) (b : BitVec 3)
  /-- R143. Hands the vector unit a pack of narrow elements into lanes. -/
  | vpack (v : BitVec 3) (a : BitVec 3) (y : BitVec 4)
  /-- R143. Hands the vector unit an unpack of narrow elements into lanes. -/
  | vunpack (v : BitVec 3) (a : BitVec 3) (y : BitVec 4)
  /-- R144. Hands the vector unit a gather of 4-byte elements. -/
  | vgath (v : BitVec 3) (a : BitVec 3) (s : BitVec 4) (t : BitVec 4) (y : BitVec 4)
  /-- R144. Hands the vector unit a scatter of 4-byte elements. -/
  | vscat (a : BitVec 3) (b : BitVec 3) (s : BitVec 4) (t : BitVec 4) (y : BitVec 4)
  /-- R131. Binds a vector register to a stream descriptor for popping. -/
  | vbindPop (v : BitVec 3) (s : BitVec 4)
  /-- R131. Binds a vector register to a stream descriptor for pushing. -/
  | vbindPush (v : BitVec 3) (s : BitVec 4)
  /-- R131. Releases a vector register's stream binding. -/
  | vunbind (v : BitVec 3)
  /-- R147. Issues once VBUSY is 0 and orders later accesses after earlier vector commands. -/
  | vfence
  /-- R14. A write of 0 to st.VLIVE waits for VBUSY, releases the streams and zeroes v0-v7. -/
  | vliveClear
  /-- R255. A write of CLR to trctl empties the trace ring and zeroes LOST, HEAD and COUNT. -/
  | traceClear
  /-- R388. A write of evsel selects an event and restarts its count for the thread. -/
  | evselWrite (value : BitVec 64)
  /-- R366. Drops translations of a page or of a whole domain, and parks until every comb has done so. -/
  | tinv1 (value : BitVec 64)
  /-- R366. Drops stage-2 entries of an IPA page or of a whole VD, together with their derived translations. -/
  | tinv2 (value : BitVec 64)
  /-- R368. Answers a pending page request as mapped or refused. -/
  | pgrep (value : BitVec 64)
  /-- R103. A plain access completes, writes its data or acknowledgement, and the slot rejoins. -/
  | plainAccessComplete (thread : BitVec 32)
  /-- R105. A relaxed load's data returns, clearing the pending mark and lowering LDO. -/
  | relaxedLoadReturn (thread : BitVec 32)
  /-- R105. A relaxed store or rx.amo is performed and STO falls. -/
  | relaxedStorePerformed (thread : BitVec 32)
  /-- R284. A bank port serves the next queued request by source round-robin, performing it in bank order. -/
  | bankPortService (home : Home)
  /-- R302. A cache-slice line fill from HBM completes, and the requests waiting for it are served first. -/
  | sliceFill (frame : BitVec 5) (line : Nat)
  /-- R307. The scrubber reads a granule in an idle port cycle and repairs or logs its errors. -/
  | scrub (granule : Nat)
  /-- R98. The normaliser finishes serving a scalar F32 bundle, which retires, and the slot rejoins. -/
  | normaliserServiceEnd (core : BitVec 10)
  /-- R113. A write to a watched word wakes the waiting slots to read again. -/
  | wchgWake (thread : BitVec 32)
  /-- R113. A slot with no watch entry reads its word again every 256 cy. -/
  | wchgPoll (thread : BitVec 32)
  /-- R122. A sleeping nap reaches its promise cycle and checks its copy tag. -/
  | napWake (thread : BitVec 32)
  /-- R219. A trapped bundle enters the current domain's handler, writing the trap frame. -/
  | trapEntry (cause : Cause) (tval : BitVec 64)
  /-- R129. The vector unit grants a ready beat, computes its lanes and writes or pushes them. -/
  | vectorBeat (thread : BitVec 32)
  /-- R129. A vector command completes and VBUSY falls. -/
  | vectorCommandComplete (thread : BitVec 32)
  /-- R158. The comb's arbiter grants a pending lease request whose extent is free. -/
  | leaseGrant (comb : BitVec 7)
  /-- R159. A grant reaches 64 tile operations or 65,536 cy, and either continues or ends. -/
  | leaseExpiry (comb : BitVec 7) (thread : BitVec 32)
  /-- R168. A queued tile operation starts once its sub-arrays are free. -/
  | tileOperationStart (comb : BitVec 7)
  /-- R168. A tile operation completes, writing its results and lowering TLO. -/
  | tileOperationComplete (comb : BitVec 7)
  /-- R238. The audit unit recomputes an audited tile and posts an audit record. -/
  | audit (comb : BitVec 7)
  /-- R181. The forager slot accepts the head command of the input FIFO and the copy engine starts it. -/
  | foragerAccept (core : BitVec 10)
  /-- R181. A copy command completes, lowering CPO and posting its message. -/
  | copyComplete (core : BitVec 10)
  /-- R117. A staged message reaches its destination and is delivered into the mailbox. -/
  | messageDelivery (core : BitVec 10)
  /-- R371. A refused message or spawn.w request is answered with a NACK and held for retry. -/
  | nack (core : BitVec 10)
  /-- R371. The backoff of a refused message expires and it is resent. -/
  | messageRetry (core : BitVec 10)
  /-- R118. A pending report is posted once a mailbox entry frees for the slot. -/
  | pendingReportPost (thread : BitVec 32)
  /-- R200. A record reaches the stage's core and enters the stage queue. -/
  | keyedRecordArrival (core : BitVec 10)
  /-- R200. The brood store decides a record for a free worker, resuming, instantiating or fetching its coroutine. -/
  | broodDecision (core : BitVec 10)
  /-- R203. An entry idle longer than IDLE is resumed at its retire entry. -/
  | idleRetirement (core : BitVec 10)
  /-- R193. A spawn request reaches the target core and is placed in a slot or queued. -/
  | spawnRequest (core : BitVec 10)
  /-- R193. The answer to a spawn reaches the spawner, which writes the predicate. -/
  | spawnAnswer (thread : BitVec 32)
  /-- R291. A launch request reaches a core, which starts up to its quota of threads. -/
  | launchRequest (core : BitVec 10)
  /-- R290. A freed or allotted slot takes an arrival, cached context, spilled context or launch request. -/
  | slotFill (core : BitVec 10) (slot : BitVec 4)
  /-- R292. A quit notice reaches a thread's launch core and the thread is counted. -/
  | quitNotice (core : BitVec 10)
  /-- R293. A done message reaches its parent core or the front end and is combined. -/
  | doneMessage (core : BitVec 10)
  /-- R286. After draining, a thread writes its frame and leaves its slot as a migration message. -/
  | migrationDeparture (thread : BitVec 32)
  /-- R288. A migration message arrives and the thread takes a slot, queue or cache place. -/
  | migrationArrival (thread : BitVec 32)
  /-- R294. A core samples its temperature and disables or enables a slot. -/
  | thermalSample (core : BitVec 10) (temp : BitVec 8)
  /-- R295. A thread in a disabled slot migrates to a ranked core or is saved in place. -/
  | thermalDisplacement (core : BitVec 10) (slot : BitVec 4)
  /-- R360. The pre-emption engine takes a thread out of its slot into the context cache. -/
  | preemptSave (core : BitVec 10) (slot : BitVec 4)
  /-- R361. A saved context is loaded back into a slot and the thread issues. -/
  | contextResume (core : BitVec 10) (slot : BitVec 4)
  /-- R352. A shared core's slice ends and the core picks the next VD by virtual time. -/
  | sliceEnd (core : BitVec 10)
  /-- R353. A slot is handed over to the incoming VD in barrel-slot rotation. -/
  | slotHandover (core : BitVec 10)
  /-- R352. A waking VD's 2 ms weight boost expires. -/
  | boostEnd (vd : BitVec 6)
  /-- R352. The 100 ms budget period ends and budgets renew. -/
  | budgetRenewal
  /-- R315. The 65,536-cy deferral of a non-pre-emptable gate expires. -/
  | deferralExpiry (thread : BitVec 32)
  /-- R317. A revoked or dead callee is unwound to a lower depth with status ABANDONED or DEAD. -/
  | threadUnwind (thread : BitVec 32)
  /-- R319. An orphan's grace budget is spent, and it is unwound and retired or its abandon handler is entered. -/
  | graceExpiry (thread : BitVec 32)
  /-- R320. The abandon handler's second budget runs out and the thread is killed. -/
  | abandonBudgetExpiry (thread : BitVec 32)
  /-- R321. A thread is killed or retired, its entries are unwound and its resources released. -/
  | threadKill (thread : BitVec 32)
  /-- R310. A dying domain becomes dead and its slots, handle table and save area are released. -/
  | domainTeardown (dom : BitVec 12)
  /-- R339. A walker walks the stage-1 and stage-2 tables for a missing page. -/
  | translationWalk (thread : BitVec 32) (va : BitVec 64) (kind : BitVec 2)
  /-- R340. After a mapping reply, the walker repeats the stage-2 walk and releases the held waiters. -/
  | rewalk (vd : BitVec 6) (page : BitVec 36)
  /-- R312. The handle-service gate installs a tensor handle. -/
  | installTensor (slot : BitVec 64) (desc : BitVec 64)
  /-- R312. The handle-service gate drops a handle entry. -/
  | dropHandle (handle : BitVec 64) (dom : BitVec 64)
  /-- R312. The handle-service gate records an offer of a gate or stage to a domain. -/
  | offer (handle : BitVec 64) (target : BitVec 64) (dom : BitVec 64)
  /-- R314. The handle-service gate consumes an offer and installs the handle in the target table. -/
  | importHandle (dom : BitVec 64)
  /-- R312. The handle-service gate reopens, soft-closes or hard-closes a gate. -/
  | closeGate (handle : BitVec 64) (mode : BitVec 64) (dom : BitVec 64)
  /-- R344. A launch packet arrives and is queued, then checked at the head of its queue. -/
  | launchPacket (host : BitVec 4) (endpoint : BitVec 16) (packet : List (BitVec 64))
  /-- R349. A replay packet takes a patch set and runs its graph's chain. -/
  | graphReplay (vd : BitVec 6) (queue : BitVec 4)
  /-- R346. The front end dispatches a dispatchable queue head as launch requests. -/
  | dispatch (vd : BitVec 6)
  /-- R347. The root's done message leads the front end to write a completion record or done event. -/
  | completionRecord (vd : BitVec 6) (pkt : BitVec 32)
  /-- R350. Control operation 1 creates a queue with a priority. -/
  | createQueue (host : BitVec 4) (endpoint : BitVec 16) (packet : List (BitVec 64))
  /-- R351. Control operation 2 destroys a queue in drain or abort mode. -/
  | destroyQueue (host : BitVec 4) (endpoint : BitVec 16) (packet : List (BitVec 64))
  /-- R348. Control operation 3 copies a packet chain and patch table into a graph. -/
  | createGraph (host : BitVec 4) (endpoint : BitVec 16) (packet : List (BitVec 64))
  /-- R350. Control operation 4 frees a graph once both its patch sets are free. -/
  | freeGraph (host : BitVec 4) (endpoint : BitVec 16) (packet : List (BitVec 64))
  /-- R350. Control operation 5 sets the VD's host event ring. -/
  | setEventRing (host : BitVec 4) (endpoint : BitVec 16) (packet : List (BitVec 64))
  /-- R355. Control operation 6 advances the consumer index and may post a summary event. -/
  | acknowledgeEvents (host : BitVec 4) (endpoint : BitVec 16) (packet : List (BitVec 64))
  /-- R350. Control operation 7 sets a VD's weight, cap and budget. -/
  | setVdSchedule (host : BitVec 4) (endpoint : BitVec 16) (packet : List (BitVec 64))
  /-- R379. Management operation 8 creates a VD with its combs, hives and domain quota. -/
  | createVd (host : BitVec 4) (packet : List (BitVec 64))
  /-- R379. Management operation 9 resets and removes a VD. -/
  | destroyVd (host : BitVec 4) (packet : List (BitVec 64))
  /-- R379. Management operation 10 creates a domain of a VD. -/
  | createDomain (host : BitVec 4) (packet : List (BitVec 64))
  /-- R379. Management operation 11 with the pause bit stops a VD's threads by handover. -/
  | pauseVd (host : BitVec 4) (packet : List (BitVec 64))
  /-- R379. Management operation 11 without the pause bit lets a VD's threads resume. -/
  | resumeVd (host : BitVec 4) (packet : List (BitVec 64))
  /-- R378. Management operation 12 sets a data-endpoint entry. -/
  | setDataEndpoint (host : BitVec 4) (packet : List (BitVec 64))
  /-- R184. Management operation 13 sets a remote-endpoint entry. -/
  | setRemoteEndpoint (host : BitVec 4) (packet : List (BitVec 64))
  /-- R373, R378. A remote operation that comes in at one of the 8 ports: a read or write at a data endpoint is made as an access by
  its domain. -/
  | remoteDataAccess (port : BitVec 3) (endpoint : BitVec 16) (mode : Delivery) (op : RemoteOp) (offset : BitVec 64)
  /-- R375. A remote write of a management-region register with no row of its own. -/
  | managementWrite (host : BitVec 4) (offset : BitVec 16) (value : BitVec 64)
  /-- R382. A write of GTOFF restarts a VD's guest time from the given value. -/
  | gtoffWrite (host : BitVec 4) (vd : BitVec 6) (value : BitVec 64)
  /-- R385. A write of PLIM stores the power limit, clamped to 1,200-2,400 W. -/
  | plimWrite (host : BitVec 4) (value : BitVec 16)
  /-- R380. A write of FEATACC accepts offered features before the VD's first packet. -/
  | feataccWrite (host : BitVec 4) (vd : BitVec 6) (hi : Bool) (value : BitVec 64)
  /-- R375. A completion record or event is undelivered for 1 s and is dropped and counted. -/
  | deliveryTimeout
  /-- R381. A host's claim control message is judged and answered. -/
  | claim (host : BitVec 4) (dword0 dword1 : BitVec 64)
  /-- R381. The controller's heartbeat, a message of two dwords, renews control. -/
  | heartbeat (host : BitVec 4) (message : BitVec 64 × BitVec 64)
  /-- R381. The controller releases control, optionally naming a successor. -/
  | release (host : BitVec 4) (message : BitVec 64 × BitVec 64)
  /-- R381. The 50 ms claim window ends and the highest claim wins. -/
  | collectionWindowEnd
  /-- R381. 300 ms without a valid heartbeat returns the part to STATE 1. -/
  | heartbeatTimeout
  /-- R381. The 100 ms in which only the named successor may claim ends. -/
  | successorWindowEnd
  /-- R381. The transport tears down an SPDM session and control is lost if it was the controller's. -/
  | sessionTeardown (conn : Nat)
  /-- R393. SPDM request for the supported versions. -/
  | getVersion (conn : Nat)
  /-- R393. SPDM request for the capabilities. -/
  | getCapabilities (conn : Nat)
  /-- R393. SPDM request that negotiates the algorithms. -/
  | negotiateAlgorithms (conn : Nat) (request : List (BitVec 8))
  /-- R393. SPDM request for the certificate digests. -/
  | getDigests (conn : Nat)
  /-- R393. SPDM request for the certificate of slot 0. -/
  | getCertificate (conn : Nat) (offset : BitVec 16) (len : BitVec 16)
  /-- R393. SPDM challenge answered with a signature. -/
  | challenge (conn : Nat) (nonce : List (BitVec 8))
  /-- R393. SPDM request for the measurement indices 1 to 5. -/
  | getMeasurements (conn : Nat) (index : BitVec 8)
  /-- R393. SPDM key exchange that starts a session. -/
  | keyExchange (conn : Nat) (cert : List (BitVec 8))
  /-- R374. SPDM FINISH completes a session and assigns a host number. -/
  | finish (conn : Nat)
  /-- R381. SPDM END_SESSION ends a session and frees its host number. -/
  | endSession (conn : Nat)
  /-- R394. A vendor-defined request writes an image chunk into the inactive bank. -/
  | updateChunk (conn : Nat) (offset : Nat) (chunk : List (BitVec 8))
  /-- R394. The final vendor-defined request verifies the image and starts the rotation. -/
  | updateVerify (conn : Nat)
  /-- R394. A column core restarts from the new bank and SWITCHED rises. -/
  | updateCoreSwitch (selfCheck : Bool)
  /-- R384. Reset KIND 1 kills the thread of one slot. -/
  | slotReset (core : BitVec 10) (slot : BitVec 4)
  /-- R384. Reset KIND 2 clears a core's threads, queues and stages. -/
  | coreReset (core : BitVec 10)
  /-- R384. Reset KIND 3 clears a comb's cores, accumulators, B-SRAM and caches. -/
  | combReset (comb : BitVec 7)
  /-- R384. Reset KIND 4 clears a hive's combs, walkers and slices. -/
  | hiveReset (hive : BitVec 4)
  /-- R384. Reset KIND 5 kills a VD's threads and kills its domains. -/
  | vdReset (vd : BitVec 6)
  /-- R384. Reset KIND 6 restarts the firmware column from the active bank. -/
  | firmwareColumnReset
  /-- R384. Reset KIND 7 clears all state but HBM contents, then boots. -/
  | warmReset
  /-- R384. Reset KIND 8, the reset input or power-on clears everything, then boots. -/
  | coldReset
  /-- R384. A reset finishes, RSTSTAT reads done and a reset record is posted. -/
  | resetComplete
  /-- R383. The boot ROM verifies the configuration and firmware, starts the column and opens the part. -/
  | boot
  /-- R391. At each 1 ms period the part adjusts TLVL and posts a power record. -/
  | powerPeriod (watts : BitVec 16)
  /-- R387. Each hive posts a thermal record every 1 ms. -/
  | thermalRecord (hive : BitVec 4) (inlet : BitVec 8)
  /-- R392. A die sensor at 110 °C stops every core and halts the part. -/
  | thermalTrip (hive : BitVec 4)
  /-- R310. A single domain is killed and becomes dying: its handles fail, its gates count as hard-closed, its stages close without RETIRE, and threads with entries in it are unwound or killed. -/
  | domainKill (dom : BitVec 12)
  /-- R367. A domain-0 write of pqhead advances the VD's request queue, and page-request records held in the pending table are appended in REQ order. -/
  | pqheadWrite (value : BitVec 64)
  deriving DecidableEq, Repr

/-- A bundle (R35): a word by itself, or a class C word and a class A word issued as one step (R36). -/
inductive Bundle where
  | lone (i : Instr)
  | pair (i0 i1 : Instr)
  deriving DecidableEq, Repr

end Sys2Proof
end

