-- ==== Sys2Proof/WellFormed.lean ====
section
/-! DEFINITION. Which instruction words are well formed beyond their layout: the operand ranges that 02_encoding.md
states (R46, R48, R49, R52 to R55). A word whose operands break one of these raises ILLEGAL at decode. Conditions that
are found at issue (TILEFORM, R55) and reads of bound registers (R24, R133) are not part of it. -/

namespace Sys2Proof

/-- R49: scope codes 11 to 15 raise ILLEGAL. -/
def scopeOk (s : BitVec 4) : Bool := decide (s.toNat ≤ 10)

/-- R48: only x8 to x13 can be bound. -/
def portReg (d : BitVec 4) : Bool := decide (8 ≤ d.toNat ∧ d.toNat ≤ 13)

/-- The element types of `vcvt` (R54): 0x0 to 0x6, 0x8 and 0x9. -/
def cvtType (y : BitVec 4) : Bool := decide (y.toNat ≤ 6) || y == 8#4 || y == 9#4

/-- The element types of `vpack` and `vunpack` (R54): 0x0 to 0x3, 0x6, 0x8 and 0x9. -/
def packType (y : BitVec 4) : Bool := decide (y.toNat ≤ 3) || y == 6#4 || y == 8#4 || y == 9#4

/-- The system registers that R28 and R372 assign. -/
def sysregAssigned (i : Nat) : Bool :=
  decide (i ≤ 0x006) || decide (0x008 ≤ i ∧ i ≤ 0x011) || decide (0x018 ≤ i ∧ i ≤ 0x01F) ||
  decide (0x040 ≤ i ∧ i ≤ 0x045) || decide (0x050 ≤ i ∧ i ≤ 0x052) ||
  [0x100, 0x101, 0x103, 0x120].contains i || decide (0x110 ≤ i ∧ i ≤ 0x117) ||
  decide (0x800 ≤ i ∧ i ≤ 0x806) || decide (0x808 ≤ i ∧ i ≤ 0x80D) ||
  [0x810, 0x820, 0x830, 0x840, 0x842, 0x843].contains i

/-- The operands of an instruction lie in the ranges its rule states. -/
def Instr.wf : Instr → Bool
  -- R29: an index that is not assigned raises ILLEGAL.
  | .sysrd _ _ i => sysregAssigned i.toNat
  | .syswr _ _ i => sysregAssigned i.toNat
  -- R48: the operation is 0 to 10, fadd has w = 0, and the scope is 0 to 10 (R49).
  | .amo _ _ _ _ o w s => scopeOk s && decide (o.toNat ≤ 10) && !(o == 10#4 && w == 1#1)
  | .rxAmo _ _ _ _ o w s => scopeOk s && decide (o.toNat ≤ 10) && !(o == 10#4 && w == 1#1)
  -- R49.
  | .fence _ s => scopeOk s
  -- R46: 0 to 8 relaxed accesses, 0 to 16 commands.
  | .wait _ d a c t => decide (d.toNat ≤ 8) && decide (a.toNat ≤ 8) && decide (c.toNat ≤ 16) && decide (t.toNat ≤ 16)
  -- R48: the run ends at or below x15.
  | .msend _ _ rb m => decide (rb.toNat + m.toNat ≤ 15)
  | .mrecv _ d m => decide (d.toNat + m.toNat ≤ 15)
  -- R48: extents 10 and 11 raise ILLEGAL.
  | .mlease _ _ e _ => decide (e.toNat ≤ 1)
  -- R48: other targets raise ILLEGAL.
  | .magr _ _ t => decide (t.toNat ≤ 2)
  | .mfmt _ _ t => decide (t.toNat ≤ 4)
  -- R48: d is 0 without p, b is 0 without c.
  | .xcopy _ d _ rb p _ c => (p == 1#1 || d == 0#4) && (c == 1#1 || rb == 0#4)
  | .xcopyv _ d _ rb p _ c => (p == 1#1 || d == 0#4) && (c == 1#1 || rb == 0#4)
  | .xgather _ d _ rb p _ c => (p == 1#1 || d == 0#4) && (c == 1#1 || rb == 0#4)
  | .xscatter _ d _ rb p _ c => (p == 1#1 || d == 0#4) && (c == 1#1 || rb == 0#4)
  | .xfill _ d _ rb p _ c => (p == 1#1 || d == 0#4) && (c == 1#1 || rb == 0#4)
  | .xdeal _ d _ rb p _ c => (p == 1#1 || d == 0#4) && (c == 1#1 || rb == 0#4)
  -- R48, R190: x8 to x13; no pushing result port and no popping command port.
  | .pbind _ d _ k e => portReg d && !(k == 2#2 && e == 1#1) && !(k == 3#2 && e == 0#1)
  | .punbind _ d => portReg d
  -- R196.
  | .kput _ _ rb => decide (rb.toNat ≤ 13)
  | .kstat _ _ _ rb => decide (rb.toNat ≤ 7)
  -- R206: without a grant word the b field is 0.
  | .gcall _ d _ rb => d != 0#4 || rb == 0#4
  -- R48.
  | .gret _ n => decide (n.toNat ≤ 6)
  -- R48.
  | .awin _ _ _ _ e => e == 1#2 || e == 2#2
  -- R206: selectors 0 to 4; the handle only for selector 2.
  | .gstat _ _ a n => decide (n.toNat ≤ 4) && (n == 2#3 || a == 0#4)
  -- R52, R88.
  | .extI _ _ _ q w => decide (q.toNat + w.toNat + 1 ≤ 64)
  | .extN _ _ _ q w => decide (q.toNat + w.toNat + 1 ≤ 64)
  | .ins _ _ _ q w => decide (q.toNat + w.toNat + 1 ≤ 64)
  -- R53.
  | .cmp _ _ _ _ f => decide (f.toNat ≤ 10)
  | .fcmp _ _ _ _ f => decide (f.toNat ≤ 4)
  -- R54.
  | .vadd _ _ _ y => decide (y.toNat ≤ 7)
  | .vsub _ _ _ y => decide (y.toNat ≤ 7)
  | .vmul _ _ _ y => decide (y.toNat ≤ 7)
  | .vfma _ _ _ y => decide (4 ≤ y.toNat ∧ y.toNat ≤ 7)
  | .vmin _ _ _ y => decide (y.toNat ≤ 7)
  | .vmax _ _ _ y => decide (y.toNat ≤ 7)
  | .vabs _ _ y => [0#4, 2#4, 4#4, 6#4, 7#4].contains y
  | .vneg _ _ y => [0#4, 2#4, 4#4, 6#4, 7#4].contains y
  | .vshl _ _ _ y => decide (y.toNat ≤ 5)
  | .vshr _ _ _ y => decide (y.toNat ≤ 5)
  | .vsar _ _ _ y => decide (y.toNat ≤ 5)
  | .vcmp _ _ _ c y => (decide (c.toNat ≤ 5) && decide (y.toNat ≤ 7)) || (c == 6#3 && (y == 6#4 || y == 7#4))
  | .vcvtFromF32 _ _ _ y m => cvtType y && m != 5#3 && m != 6#3
  | .vcvtToF32 _ _ _ y m => cvtType y && m != 5#3 && m != 6#3
  | .vredSum _ _ y => y == 4#4 || y == 5#4 || y == 7#4
  | .vredMax _ _ y => decide (4 ≤ y.toNat ∧ y.toNat ≤ 7)
  | .vredMin _ _ y => decide (4 ≤ y.toNat ∧ y.toNat ≤ 7)
  | .vbcast _ _ y => decide (y.toNat ≤ 7)
  | .vget _ _ _ y => y == 4#4 || y == 5#4 || y == 7#4
  | .vpack _ _ y => packType y
  | .vunpack _ _ y => packType y
  | .vgath _ _ _ _ y => y == 4#4 || y == 5#4 || y == 7#4
  | .vscat _ _ _ _ y => y == 4#4 || y == 5#4 || y == 7#4
  -- Every other word, and every row without a word, admits all values of its operands.
  | _ => true

/-- The instruction has no word: it is a step of the part (the last 121 rows of the table). -/
def Instr.isEvent : Instr → Bool
  | .evselWrite _ | .vliveClear | .sliceFill _ _ | .traceClear | .tinv1 _ | .trapEntry _ _ | .budgetRenewal | .tinv2 _
  | .deliveryTimeout | .pgrep _ | .collectionWindowEnd | .plainAccessComplete _ | .leaseExpiry _ _
  | .translationWalk _ _ _ | .relaxedLoadReturn _ | .slotFill _ _ | .relaxedStorePerformed _ | .offer _ _ _
  | .bankPortService _ | .thermalSample _ _ | .remoteDataAccess _ _ _ _ _ | .heartbeatTimeout | .closeGate _ _ _
  | .scrub _ | .thermalDisplacement _ _ | .normaliserServiceEnd _ | .preemptSave _ _ | .launchPacket _ _ _
  | .wchgWake _ | .contextResume _ _ | .wchgPoll _ | .rewalk _ _ | .napWake _ | .successorWindowEnd | .vectorBeat _
  | .installTensor _ _ | .vectorCommandComplete _ | .dropHandle _ _ | .leaseGrant _ | .graphReplay _ _
  | .tileOperationStart _ | .completionRecord _ _ | .createQueue _ _ _ | .tileOperationComplete _ | .createVd _ _
  | .audit _ | .destroyVd _ _ | .destroyQueue _ _ _ | .foragerAccept _ | .createDomain _ _ | .createGraph _ _ _
  | .copyComplete _ | .pauseVd _ _ | .messageDelivery _ | .firmwareColumnReset | .nack _ | .warmReset | .resumeVd _ _
  | .messageRetry _ | .setDataEndpoint _ _ | .freeGraph _ _ _ | .pendingReportPost _ | .setEventRing _ _ _
  | .keyedRecordArrival _ | .setRemoteEndpoint _ _ | .broodDecision _ | .acknowledgeEvents _ _ _ | .plimWrite _ _
  | .idleRetirement _ | .setVdSchedule _ _ _ | .coldReset | .spawnRequest _ | .managementWrite _ _ _
  | .feataccWrite _ _ _ _ | .heartbeat _ _ | .spawnAnswer _ | .release _ _ | .launchRequest _ | .resetComplete
  | .quitNotice _ | .negotiateAlgorithms _ _ | .doneMessage _ | .boot | .challenge _ _ | .migrationDeparture _
  | .getMeasurements _ _ | .migrationArrival _ | .gtoffWrite _ _ _ | .sliceEnd _ | .keyExchange _ _ | .slotHandover _
  | .claim _ _ _ | .boostEnd _ | .getCertificate _ _ _ | .deferralExpiry _ | .slotReset _ _ | .threadUnwind _
  | .updateChunk _ _ _ | .thermalRecord _ _ | .graceExpiry _ | .abandonBudgetExpiry _ | .threadKill _
  | .domainTeardown _ | .importHandle _ | .dispatch _ | .sessionTeardown _ | .getVersion _ | .getCapabilities _
  | .getDigests _ | .finish _ | .endSession _ | .updateVerify _ | .updateCoreSwitch _ | .coreReset _ | .combReset _
  | .hiveReset _ | .vdReset _ | .powerPeriod _ | .thermalTrip _ | .domainKill _ | .pqheadWrite _ => true
  | _ => false

/-- R39: the instructions that change the thread's context or domain stand alone. -/
def Instr.loneOnly : Instr → Bool
  | .gcall _ _ _ _ | .gret _ _ | .tret _ | .quit _ | .hop _ _ _ _ | .yield _ | .trap _ _ | .brk _ _
  | .hcall _ _ | .kwait _ => true
  | _ => false

end Sys2Proof
end

