-- ==== Sys2Proof/Decode.lean ====
section
/-! DEFINITION. Decoding: from words to bundles, total on any bits, every refusal by name (02_encoding.md R33 to R55);
after it the encoder, written from the same layouts, and the tables' numbering of words. -/

namespace Sys2Proof

/-- Why a word is no instruction (R55); every one raises ILLEGAL. -/
inductive DecodeError where
  /-- An unassigned major opcode, sub-function or operation code. -/
  | unassigned
  /-- A field that must be 0 is not 0. -/
  | reserved
  /-- An operand out of the range its instruction states. -/
  | operand
  deriving DecidableEq, Repr

/-- A field of a word: `len` bits from bit `lo` (R3, R41). -/
abbrev fld (w : Word32) (lo len : Nat) : BitVec len := w.extractLsb' lo len

/-- The bits that the encoding fixes stand as fixed, or the word is refused. -/
def needFixed (z : Bool) (i : Instr) : Except DecodeError Instr := if z then .ok i else .error .reserved
/-- The group of class C, major 0x00 (R45). -/
def decodeSystem (w : Word32) : Except DecodeError Instr :=
  match (fld w 0 9).toNat with
  | 0 => needFixed (fld w 17 4 == 0#4 && fld w 13 4 == 0#4 && fld w 9 4 == 0#4) (.nop (fld w 21 3))
  | 1 => needFixed (fld w 17 4 == 0#4 && fld w 13 4 == 0#4 && fld w 9 4 == 0#4) (.ret (fld w 21 3))
  | 2 => needFixed (fld w 17 4 == 0#4 && fld w 9 4 == 0#4) (.jx (fld w 21 3) (fld w 13 4))
  | 3 => needFixed (fld w 17 4 == 0#4 && fld w 9 4 == 0#4) (.callx (fld w 21 3) (fld w 13 4))
  | 4 => needFixed (fld w 17 4 == 0#4 && fld w 9 4 == 0#4) (.nap (fld w 21 3) (fld w 13 4))
  | 5 => needFixed (fld w 13 4 == 0#4 && fld w 9 4 == 0#4) (.rdcyc (fld w 21 3) (fld w 17 4))
  | 6 => needFixed (fld w 17 4 == 0#4 && fld w 13 4 == 0#4 && fld w 9 4 == 0#4) (.tret (fld w 21 3))
  | 7 => needFixed (fld w 17 4 == 0#4 && fld w 13 4 == 0#4 && fld w 9 4 == 0#4) (.yield (fld w 21 3))
  | 8 => needFixed (fld w 17 4 == 0#4 && fld w 13 4 == 0#4 && fld w 9 4 == 0#4) (.quit (fld w 21 3))
  | _ => .error .unassigned

/-- The group of class C, major 0x24 (R48). -/
def decodeMessage (w : Word32) : Except DecodeError Instr :=
  match (fld w 6 3).toNat with
  | 0 => needFixed (fld w 17 4 == 0#4 && fld w 3 3 == 0#3) (.msend (fld w 21 3) (fld w 13 4) (fld w 9 4) (fld w 0 3))
  | 1 => needFixed (fld w 13 4 == 0#4 && fld w 9 4 == 0#4 && fld w 3 3 == 0#3) (.mrecv (fld w 21 3) (fld w 17 4) (fld w 0 3))
  | 2 => needFixed (fld w 17 4 == 0#4 && fld w 13 4 == 0#4 && fld w 9 4 == 0#4 && fld w 0 6 == 0#6) (.waitm (fld w 21 3))
  | _ => .error .unassigned

/-- The group of class C, major 0x2F (R48). -/
def decodeMatrixControl (w : Word32) : Except DecodeError Instr :=
  match (fld w 6 3).toNat with
  | 0 => needFixed (fld w 17 4 == 0#4 && fld w 9 4 == 0#4 && fld w 0 3 == 0#3) (.magr (fld w 21 3) (fld w 13 4) (fld w 3 3))
  | 1 => needFixed (fld w 9 4 == 0#4 && fld w 0 6 == 0#6) (.mstat (fld w 21 3) (fld w 17 4) (fld w 13 4))
  | 2 => needFixed (fld w 9 4 == 0#4 && fld w 0 6 == 0#6) (.mreclaim (fld w 21 3) (fld w 17 4) (fld w 13 4))
  | 3 => needFixed (fld w 17 4 == 0#4 && fld w 9 4 == 0#4 && fld w 0 3 == 0#3) (.mfmt (fld w 21 3) (fld w 13 4) (fld w 3 3))
  | _ => .error .unassigned

/-- The group of class C, major 0x30 (R178). -/
def decodeCopy (w : Word32) : Except DecodeError Instr :=
  match (fld w 6 3).toNat with
  | 0 => needFixed (fld w 0 3 == 0#3) (.xcopy (fld w 21 3) (fld w 17 4) (fld w 13 4) (fld w 9 4) (fld w 5 1) (fld w 4 1) (fld w 3 1))
  | 1 => needFixed (fld w 0 3 == 0#3) (.xcopyv (fld w 21 3) (fld w 17 4) (fld w 13 4) (fld w 9 4) (fld w 5 1) (fld w 4 1) (fld w 3 1))
  | 2 => needFixed (fld w 0 3 == 0#3) (.xgather (fld w 21 3) (fld w 17 4) (fld w 13 4) (fld w 9 4) (fld w 5 1) (fld w 4 1) (fld w 3 1))
  | 3 => needFixed (fld w 0 3 == 0#3) (.xscatter (fld w 21 3) (fld w 17 4) (fld w 13 4) (fld w 9 4) (fld w 5 1) (fld w 4 1) (fld w 3 1))
  | 4 => needFixed (fld w 0 3 == 0#3) (.xfill (fld w 21 3) (fld w 17 4) (fld w 13 4) (fld w 9 4) (fld w 5 1) (fld w 4 1) (fld w 3 1))
  | 5 => needFixed (fld w 0 3 == 0#3) (.xdeal (fld w 21 3) (fld w 17 4) (fld w 13 4) (fld w 9 4) (fld w 5 1) (fld w 4 1) (fld w 3 1))
  | _ => .error .unassigned

/-- The group of class C, major 0x31 (R190). -/
def decodePort (w : Word32) : Except DecodeError Instr :=
  match (fld w 8 1).toNat with
  | 0 => needFixed (fld w 9 4 == 0#4 && fld w 0 5 == 0#5) (.pbind (fld w 21 3) (fld w 17 4) (fld w 13 4) (fld w 6 2) (fld w 5 1))
  | 1 => needFixed (fld w 13 4 == 0#4 && fld w 9 4 == 0#4 && fld w 0 8 == 0#8) (.punbind (fld w 21 3) (fld w 17 4))
  | _ => .error .unassigned

/-- The group of class C, major 0x32 (R193). -/
def decodeSpawn (w : Word32) : Except DecodeError Instr :=
  match (fld w 0 1).toNat with
  | 0 => needFixed (fld w 20 1 == 0#1 && fld w 1 8 == 0#8) (.spawn (fld w 21 3) (fld w 17 3) (fld w 13 4) (fld w 9 4))
  | 1 => needFixed (fld w 20 1 == 0#1 && fld w 1 8 == 0#8) (.spawnW (fld w 21 3) (fld w 17 3) (fld w 13 4) (fld w 9 4))
  | _ => .error .unassigned

/-- The group of class C, major 0x33 (R196). -/
def decodeKeyed (w : Word32) : Except DecodeError Instr :=
  match (fld w 6 3).toNat with
  | 0 => needFixed (fld w 9 4 == 0#4 && fld w 0 6 == 0#6) (.kopen (fld w 21 3) (fld w 17 4) (fld w 13 4))
  | 1 => needFixed (fld w 9 4 == 0#4 && fld w 0 6 == 0#6) (.kclose (fld w 21 3) (fld w 17 4) (fld w 13 4))
  | 2 => needFixed (fld w 17 4 == 0#4 && fld w 0 6 == 0#6) (.kput (fld w 21 3) (fld w 13 4) (fld w 9 4))
  | 3 => needFixed (fld w 17 4 == 0#4 && fld w 13 4 == 0#4 && fld w 9 4 == 0#4 && fld w 0 6 == 0#6) (.kwait (fld w 21 3))
  | 4 => needFixed (fld w 17 4 == 0#4 && fld w 13 4 == 0#4 && fld w 9 4 == 0#4 && fld w 0 6 == 0#6) (.kend (fld w 21 3))
  | 5 => needFixed (fld w 0 6 == 0#6) (.kstat (fld w 21 3) (fld w 17 4) (fld w 13 4) (fld w 9 4))
  | _ => .error .unassigned

/-- The group of class C, major 0x38 (R206). -/
def decodeGate (w : Word32) : Except DecodeError Instr :=
  match (fld w 6 3).toNat with
  | 0 => needFixed (fld w 0 6 == 0#6) (.gcall (fld w 21 3) (fld w 17 4) (fld w 13 4) (fld w 9 4))
  | 1 => needFixed (fld w 17 4 == 0#4 && fld w 13 4 == 0#4 && fld w 9 4 == 0#4 && fld w 0 3 == 0#3) (.gret (fld w 21 3) (fld w 3 3))
  | 2 => needFixed (fld w 3 3 == 0#3 && fld w 0 1 == 0#1) (.awin (fld w 21 3) (fld w 17 4) (fld w 13 4) (fld w 9 4) (fld w 1 2))
  | 3 => needFixed (fld w 9 4 == 0#4 && fld w 0 3 == 0#3) (.gstat (fld w 21 3) (fld w 17 4) (fld w 13 4) (fld w 3 3))
  | _ => .error .unassigned

/-- The group of class A, major 0x00 (R51). -/
def decodeInteger (w : Word32) : Except DecodeError Instr :=
  match (fld w 0 9).toNat with
  | 0 => .ok (.add (fld w 21 3) (fld w 17 4) (fld w 13 4) (fld w 9 4))
  | 1 => .ok (.sub (fld w 21 3) (fld w 17 4) (fld w 13 4) (fld w 9 4))
  | 2 => .ok (.mul (fld w 21 3) (fld w 17 4) (fld w 13 4) (fld w 9 4))
  | 3 => .ok (.mulhI (fld w 21 3) (fld w 17 4) (fld w 13 4) (fld w 9 4))
  | 4 => .ok (.mulhN (fld w 21 3) (fld w 17 4) (fld w 13 4) (fld w 9 4))
  | 5 => .ok (.divI (fld w 21 3) (fld w 17 4) (fld w 13 4) (fld w 9 4))
  | 6 => .ok (.divN (fld w 21 3) (fld w 17 4) (fld w 13 4) (fld w 9 4))
  | 7 => .ok (.remI (fld w 21 3) (fld w 17 4) (fld w 13 4) (fld w 9 4))
  | 8 => .ok (.remN (fld w 21 3) (fld w 17 4) (fld w 13 4) (fld w 9 4))
  | 9 => .ok (.addsatI (fld w 21 3) (fld w 17 4) (fld w 13 4) (fld w 9 4))
  | 10 => .ok (.addsatN (fld w 21 3) (fld w 17 4) (fld w 13 4) (fld w 9 4))
  | 11 => .ok (.subsatI (fld w 21 3) (fld w 17 4) (fld w 13 4) (fld w 9 4))
  | 12 => .ok (.subsatN (fld w 21 3) (fld w 17 4) (fld w 13 4) (fld w 9 4))
  | 13 => needFixed (fld w 9 4 == 0#4) (.abs (fld w 21 3) (fld w 17 4) (fld w 13 4))
  | 14 => needFixed (fld w 9 4 == 0#4) (.neg (fld w 21 3) (fld w 17 4) (fld w 13 4))
  | 15 => .ok (.minI (fld w 21 3) (fld w 17 4) (fld w 13 4) (fld w 9 4))
  | 16 => .ok (.maxI (fld w 21 3) (fld w 17 4) (fld w 13 4) (fld w 9 4))
  | 17 => .ok (.minN (fld w 21 3) (fld w 17 4) (fld w 13 4) (fld w 9 4))
  | 18 => .ok (.maxN (fld w 21 3) (fld w 17 4) (fld w 13 4) (fld w 9 4))
  | _ => .error .unassigned

/-- The group of class A, major 0x01 (R51). -/
def decodeLogic (w : Word32) : Except DecodeError Instr :=
  match (fld w 3 6).toNat with
  | 0 => match (fld w 0 3).toNat with
    | 0 => .ok (.and (fld w 21 3) (fld w 17 4) (fld w 13 4) (fld w 9 4))
    | 1 => .ok (.or (fld w 21 3) (fld w 17 4) (fld w 13 4) (fld w 9 4))
    | 2 => .ok (.xor (fld w 21 3) (fld w 17 4) (fld w 13 4) (fld w 9 4))
    | 3 => .ok (.andn (fld w 21 3) (fld w 17 4) (fld w 13 4) (fld w 9 4))
    | 4 => .ok (.orn (fld w 21 3) (fld w 17 4) (fld w 13 4) (fld w 9 4))
    | 5 => needFixed (fld w 9 4 == 0#4) (.mov (fld w 21 3) (fld w 17 4) (fld w 13 4))
    | _ => .error .unassigned
  | 1 => .ok (.sel (fld w 21 3) (fld w 17 4) (fld w 13 4) (fld w 9 4) (fld w 0 3))
  | _ => .error .unassigned

/-- The group of class A, major 0x02 (R51). -/
def decodeShift (w : Word32) : Except DecodeError Instr :=
  match (fld w 0 9).toNat with
  | 0 => .ok (.shl (fld w 21 3) (fld w 17 4) (fld w 13 4) (fld w 9 4))
  | 1 => .ok (.shr (fld w 21 3) (fld w 17 4) (fld w 13 4) (fld w 9 4))
  | 2 => .ok (.sar (fld w 21 3) (fld w 17 4) (fld w 13 4) (fld w 9 4))
  | 3 => .ok (.rot (fld w 21 3) (fld w 17 4) (fld w 13 4) (fld w 9 4))
  | 4 => needFixed (fld w 9 4 == 0#4) (.clz (fld w 21 3) (fld w 17 4) (fld w 13 4))
  | 5 => needFixed (fld w 9 4 == 0#4) (.ctz (fld w 21 3) (fld w 17 4) (fld w 13 4))
  | 6 => needFixed (fld w 9 4 == 0#4) (.popc (fld w 21 3) (fld w 17 4) (fld w 13 4))
  | 7 => needFixed (fld w 9 4 == 0#4) (.bswap (fld w 21 3) (fld w 17 4) (fld w 13 4))
  | _ => .error .unassigned

/-- The group of class A, major 0x03 (R91). -/
def decodePacked (w : Word32) : Except DecodeError Instr :=
  match (fld w 0 5).toNat with
  | 0 => needFixed (fld w 6 3 == 0#3) (.padd (fld w 21 3) (fld w 17 4) (fld w 13 4) (fld w 9 4) (fld w 5 1))
  | 1 => needFixed (fld w 6 3 == 0#3) (.psub (fld w 21 3) (fld w 17 4) (fld w 13 4) (fld w 9 4) (fld w 5 1))
  | 2 => needFixed (fld w 6 3 == 0#3) (.paddsatI (fld w 21 3) (fld w 17 4) (fld w 13 4) (fld w 9 4) (fld w 5 1))
  | 3 => needFixed (fld w 6 3 == 0#3) (.paddsatN (fld w 21 3) (fld w 17 4) (fld w 13 4) (fld w 9 4) (fld w 5 1))
  | 4 => needFixed (fld w 6 3 == 0#3) (.pminI (fld w 21 3) (fld w 17 4) (fld w 13 4) (fld w 9 4) (fld w 5 1))
  | 5 => needFixed (fld w 6 3 == 0#3) (.pminN (fld w 21 3) (fld w 17 4) (fld w 13 4) (fld w 9 4) (fld w 5 1))
  | 6 => needFixed (fld w 6 3 == 0#3) (.pmaxI (fld w 21 3) (fld w 17 4) (fld w 13 4) (fld w 9 4) (fld w 5 1))
  | 7 => needFixed (fld w 6 3 == 0#3) (.pmaxN (fld w 21 3) (fld w 17 4) (fld w 13 4) (fld w 9 4) (fld w 5 1))
  | 8 => needFixed (fld w 6 3 == 0#3) (.pshl (fld w 21 3) (fld w 17 4) (fld w 13 4) (fld w 9 4) (fld w 5 1))
  | 9 => needFixed (fld w 6 3 == 0#3) (.pshr (fld w 21 3) (fld w 17 4) (fld w 13 4) (fld w 9 4) (fld w 5 1))
  | 10 => needFixed (fld w 6 3 == 0#3) (.psar (fld w 21 3) (fld w 17 4) (fld w 13 4) (fld w 9 4) (fld w 5 1))
  | 11 => needFixed (fld w 6 3 == 0#3) (.pcmpEq (fld w 21 3) (fld w 17 4) (fld w 13 4) (fld w 9 4) (fld w 5 1))
  | 12 => needFixed (fld w 6 3 == 0#3) (.pcmpLtI (fld w 21 3) (fld w 17 4) (fld w 13 4) (fld w 9 4) (fld w 5 1))
  | 13 => needFixed (fld w 6 3 == 0#3) (.pcmpLtN (fld w 21 3) (fld w 17 4) (fld w 13 4) (fld w 9 4) (fld w 5 1))
  | _ => .error .unassigned

/-- The group of class A, major 0x04 (R51). -/
def decodeF32 (w : Word32) : Except DecodeError Instr :=
  match (fld w 0 9).toNat with
  | 0 => .ok (.fadd (fld w 21 3) (fld w 17 4) (fld w 13 4) (fld w 9 4))
  | 1 => .ok (.fsub (fld w 21 3) (fld w 17 4) (fld w 13 4) (fld w 9 4))
  | 2 => .ok (.fmul (fld w 21 3) (fld w 17 4) (fld w 13 4) (fld w 9 4))
  | 3 => .ok (.ffma (fld w 21 3) (fld w 17 4) (fld w 13 4) (fld w 9 4))
  | 4 => .ok (.fmin (fld w 21 3) (fld w 17 4) (fld w 13 4) (fld w 9 4))
  | 5 => .ok (.fmax (fld w 21 3) (fld w 17 4) (fld w 13 4) (fld w 9 4))
  | 6 => needFixed (fld w 9 4 == 0#4) (.fabs (fld w 21 3) (fld w 17 4) (fld w 13 4))
  | 7 => needFixed (fld w 9 4 == 0#4) (.fneg (fld w 21 3) (fld w 17 4) (fld w 13 4))
  | 16 => .ok (.fcvtF32I32 (fld w 21 3) (fld w 17 4) (fld w 13 4) (fld w 9 4))
  | 17 => .ok (.fcvtF32N32 (fld w 21 3) (fld w 17 4) (fld w 13 4) (fld w 9 4))
  | 18 => .ok (.fcvtI32F32 (fld w 21 3) (fld w 17 4) (fld w 13 4) (fld w 9 4))
  | 19 => .ok (.fcvtN32F32 (fld w 21 3) (fld w 17 4) (fld w 13 4) (fld w 9 4))
  | 20 => .ok (.fcvtF32B16 (fld w 21 3) (fld w 17 4) (fld w 13 4) (fld w 9 4))
  | 21 => .ok (.fcvtB16F32 (fld w 21 3) (fld w 17 4) (fld w 13 4) (fld w 9 4))
  | _ => .error .unassigned

/-- The group of class A, major 0x1A (R79). -/
def decodePredicate (w : Word32) : Except DecodeError Instr :=
  match (fld w 7 3).toNat with
  | 0 => needFixed (fld w 17 1 == 0#1 && fld w 13 1 == 0#1 && fld w 0 7 == 0#7) (.pand (fld w 21 3) (fld w 18 3) (fld w 14 3) (fld w 10 3))
  | 1 => needFixed (fld w 17 1 == 0#1 && fld w 13 1 == 0#1 && fld w 0 7 == 0#7) (.por (fld w 21 3) (fld w 18 3) (fld w 14 3) (fld w 10 3))
  | 2 => needFixed (fld w 17 1 == 0#1 && fld w 13 1 == 0#1 && fld w 0 7 == 0#7) (.pxor (fld w 21 3) (fld w 18 3) (fld w 14 3) (fld w 10 3))
  | 3 => needFixed (fld w 17 1 == 0#1 && fld w 10 4 == 0#4 && fld w 0 7 == 0#7) (.pnot (fld w 21 3) (fld w 18 3) (fld w 14 3))
  | 4 => needFixed (fld w 17 1 == 0#1 && fld w 10 4 == 0#4 && fld w 0 7 == 0#7) (.pmov (fld w 21 3) (fld w 18 3) (fld w 14 3))
  | 5 => needFixed (fld w 17 1 == 0#1 && fld w 13 1 == 0#1 && fld w 3 4 == 0#4) (.psel (fld w 21 3) (fld w 18 3) (fld w 14 3) (fld w 10 3) (fld w 0 3))
  | _ => .error .unassigned

/-- The group of class A, major 0x30 (R54). -/
def decodeVArith (w : Word32) : Except DecodeError Instr :=
  match (fld w 4 3).toNat with
  | 0 => needFixed (fld w 11 4 == 0#4 && fld w 7 4 == 0#4) (.vadd (fld w 21 3) (fld w 18 3) (fld w 15 3) (fld w 0 4))
  | 1 => needFixed (fld w 11 4 == 0#4 && fld w 7 4 == 0#4) (.vsub (fld w 21 3) (fld w 18 3) (fld w 15 3) (fld w 0 4))
  | 2 => needFixed (fld w 11 4 == 0#4 && fld w 7 4 == 0#4) (.vmul (fld w 21 3) (fld w 18 3) (fld w 15 3) (fld w 0 4))
  | 3 => needFixed (fld w 11 4 == 0#4 && fld w 7 4 == 0#4) (.vfma (fld w 21 3) (fld w 18 3) (fld w 15 3) (fld w 0 4))
  | 4 => needFixed (fld w 11 4 == 0#4 && fld w 7 4 == 0#4) (.vmin (fld w 21 3) (fld w 18 3) (fld w 15 3) (fld w 0 4))
  | 5 => needFixed (fld w 11 4 == 0#4 && fld w 7 4 == 0#4) (.vmax (fld w 21 3) (fld w 18 3) (fld w 15 3) (fld w 0 4))
  | 6 => needFixed (fld w 15 3 == 0#3 && fld w 11 4 == 0#4 && fld w 7 4 == 0#4) (.vabs (fld w 21 3) (fld w 18 3) (fld w 0 4))
  | 7 => needFixed (fld w 15 3 == 0#3 && fld w 11 4 == 0#4 && fld w 7 4 == 0#4) (.vneg (fld w 21 3) (fld w 18 3) (fld w 0 4))
  | _ => .error .unassigned

/-- The group of class A, major 0x31 (R54). -/
def decodeVLogic (w : Word32) : Except DecodeError Instr :=
  match (fld w 4 3).toNat with
  | 0 => needFixed (fld w 11 4 == 0#4 && fld w 7 4 == 0#4 && fld w 0 4 == 0#4) (.vand (fld w 21 3) (fld w 18 3) (fld w 15 3))
  | 1 => needFixed (fld w 11 4 == 0#4 && fld w 7 4 == 0#4 && fld w 0 4 == 0#4) (.vor (fld w 21 3) (fld w 18 3) (fld w 15 3))
  | 2 => needFixed (fld w 11 4 == 0#4 && fld w 7 4 == 0#4 && fld w 0 4 == 0#4) (.vxor (fld w 21 3) (fld w 18 3) (fld w 15 3))
  | 3 => needFixed (fld w 11 4 == 0#4 && fld w 7 4 == 0#4) (.vshl (fld w 21 3) (fld w 18 3) (fld w 15 3) (fld w 0 4))
  | 4 => needFixed (fld w 11 4 == 0#4 && fld w 7 4 == 0#4) (.vshr (fld w 21 3) (fld w 18 3) (fld w 15 3) (fld w 0 4))
  | 5 => needFixed (fld w 11 4 == 0#4 && fld w 7 4 == 0#4) (.vsar (fld w 21 3) (fld w 18 3) (fld w 15 3) (fld w 0 4))
  | 6 => needFixed (fld w 11 4 == 0#4 && fld w 7 4 == 0#4 && fld w 0 4 == 0#4) (.vsel (fld w 21 3) (fld w 18 3) (fld w 15 3))
  | _ => .error .unassigned

/-- The group of class A, major 0x35 (R54). -/
def decodeVSpecial (w : Word32) : Except DecodeError Instr :=
  match (fld w 4 3).toNat with
  | 0 => needFixed (fld w 7 4 == 0#4 && fld w 0 4 == 7#4) (.vex2 (fld w 21 3) (fld w 18 3) (fld w 15 3) (fld w 11 4))
  | 1 => needFixed (fld w 15 3 == 0#3 && fld w 11 4 == 0#4 && fld w 7 4 == 0#4 && fld w 0 4 == 7#4) (.vrcp (fld w 21 3) (fld w 18 3))
  | 2 => needFixed (fld w 15 3 == 0#3 && fld w 11 4 == 0#4 && fld w 7 4 == 0#4 && fld w 0 4 == 7#4) (.vrsq (fld w 21 3) (fld w 18 3))
  | 3 => needFixed (fld w 15 3 == 0#3 && fld w 11 4 == 0#4 && fld w 7 4 == 0#4) (.vredSum (fld w 21 3) (fld w 18 3) (fld w 0 4))
  | 4 => needFixed (fld w 15 3 == 0#3 && fld w 11 4 == 0#4 && fld w 7 4 == 0#4) (.vredMax (fld w 21 3) (fld w 18 3) (fld w 0 4))
  | 5 => needFixed (fld w 15 3 == 0#3 && fld w 11 4 == 0#4 && fld w 7 4 == 0#4) (.vredMin (fld w 21 3) (fld w 18 3) (fld w 0 4))
  | _ => .error .unassigned

/-- The group of class A, major 0x36 (R54). -/
def decodeVLanes (w : Word32) : Except DecodeError Instr :=
  match (fld w 4 3).toNat with
  | 0 => needFixed (fld w 18 3 == 0#3 && fld w 15 3 == 0#3 && fld w 7 4 == 0#4) (.vbcast (fld w 21 3) (fld w 11 4) (fld w 0 4))
  | 1 => needFixed (fld w 21 3 == 0#3 && fld w 15 3 == 0#3) (.vget (fld w 18 3) (fld w 11 4) (fld w 7 4) (fld w 0 4))
  | 2 => needFixed (fld w 11 4 == 0#4 && fld w 7 4 == 0#4 && fld w 0 4 == 0#4) (.vperm (fld w 21 3) (fld w 18 3) (fld w 15 3))
  | 3 => needFixed (fld w 15 3 == 0#3 && fld w 11 4 == 0#4 && fld w 7 4 == 0#4) (.vpack (fld w 21 3) (fld w 18 3) (fld w 0 4))
  | 4 => needFixed (fld w 15 3 == 0#3 && fld w 11 4 == 0#4 && fld w 7 4 == 0#4) (.vunpack (fld w 21 3) (fld w 18 3) (fld w 0 4))
  | 5 => needFixed (fld w 15 3 == 0#3) (.vgath (fld w 21 3) (fld w 18 3) (fld w 11 4) (fld w 7 4) (fld w 0 4))
  | 6 => needFixed (fld w 21 3 == 0#3) (.vscat (fld w 18 3) (fld w 15 3) (fld w 11 4) (fld w 7 4) (fld w 0 4))
  | _ => .error .unassigned

/-- The group of class A, major 0x37 (R54). -/
def decodeVStreams (w : Word32) : Except DecodeError Instr :=
  match (fld w 0 3).toNat with
  | 0 => needFixed (fld w 18 3 == 0#3 && fld w 15 3 == 0#3 && fld w 7 4 == 0#4 && fld w 3 4 == 0#4) (.vbindPop (fld w 21 3) (fld w 11 4))
  | 1 => needFixed (fld w 18 3 == 0#3 && fld w 15 3 == 0#3 && fld w 7 4 == 0#4 && fld w 3 4 == 0#4) (.vbindPush (fld w 21 3) (fld w 11 4))
  | 2 => needFixed (fld w 18 3 == 0#3 && fld w 15 3 == 0#3 && fld w 11 4 == 0#4 && fld w 7 4 == 0#4 && fld w 3 4 == 0#4) (.vunbind (fld w 21 3))
  | 3 => needFixed (fld w 21 3 == 0#3 && fld w 18 3 == 0#3 && fld w 15 3 == 0#3 && fld w 11 4 == 0#4 && fld w 7 4 == 0#4 && fld w 3 4 == 0#4) (.vfence)
  | _ => .error .unassigned

/-- The class C map (R44). -/
def decodeC (w : Word32) : Except DecodeError Instr :=
  match (fld w 24 6).toNat with
  | 0x00 => decodeSystem w
  | 0x01 => needFixed (fld w 13 4 == 0#4) (.sysrd (fld w 21 3) (fld w 17 4) (fld w 0 13))
  | 0x02 => needFixed (fld w 17 4 == 0#4) (.syswr (fld w 21 3) (fld w 13 4) (fld w 0 13))
  | 0x03 => needFixed (fld w 17 4 == 0#4 && fld w 13 4 == 0#4) (.trap (fld w 21 3) (fld w 0 13))
  | 0x04 => needFixed (fld w 17 4 == 0#4 && fld w 13 4 == 0#4) (.brk (fld w 21 3) (fld w 0 13))
  | 0x05 => needFixed (fld w 17 4 == 0#4 && fld w 13 4 == 0#4) (.hcall (fld w 21 3) (fld w 0 13))
  | 0x06 => .ok (.b (fld w 21 3) (fld w 20 1) (fld w 0 20))
  | 0x07 => .ok (.call (fld w 21 3) (fld w 20 1) (fld w 0 20))
  | 0x08 => needFixed (fld w 13 4 == 0#4) (.loop (fld w 21 3) (fld w 17 4) (fld w 0 13))
  | 0x10 => .ok (.ldI8 (fld w 21 3) (fld w 17 4) (fld w 13 4) (fld w 12 1) (fld w 11 1) (fld w 10 1) (fld w 0 10))
  | 0x11 => .ok (.ldN8 (fld w 21 3) (fld w 17 4) (fld w 13 4) (fld w 12 1) (fld w 11 1) (fld w 10 1) (fld w 0 10))
  | 0x12 => .ok (.ldI16 (fld w 21 3) (fld w 17 4) (fld w 13 4) (fld w 12 1) (fld w 11 1) (fld w 10 1) (fld w 0 10))
  | 0x13 => .ok (.ldN16 (fld w 21 3) (fld w 17 4) (fld w 13 4) (fld w 12 1) (fld w 11 1) (fld w 10 1) (fld w 0 10))
  | 0x14 => .ok (.ldI32 (fld w 21 3) (fld w 17 4) (fld w 13 4) (fld w 12 1) (fld w 11 1) (fld w 10 1) (fld w 0 10))
  | 0x15 => .ok (.ldN32 (fld w 21 3) (fld w 17 4) (fld w 13 4) (fld w 12 1) (fld w 11 1) (fld w 10 1) (fld w 0 10))
  | 0x16 => .ok (.ldI64 (fld w 21 3) (fld w 17 4) (fld w 13 4) (fld w 12 1) (fld w 11 1) (fld w 10 1) (fld w 0 10))
  | 0x17 => .ok (.ldc (fld w 21 3) (fld w 17 4) (fld w 13 4) (fld w 12 1) (fld w 11 1) (fld w 10 1) (fld w 0 10))
  | 0x18 => .ok (.st8 (fld w 21 3) (fld w 17 4) (fld w 13 4) (fld w 12 1) (fld w 11 1) (fld w 10 1) (fld w 0 10))
  | 0x19 => .ok (.st16 (fld w 21 3) (fld w 17 4) (fld w 13 4) (fld w 12 1) (fld w 11 1) (fld w 10 1) (fld w 0 10))
  | 0x1A => .ok (.st32 (fld w 21 3) (fld w 17 4) (fld w 13 4) (fld w 12 1) (fld w 11 1) (fld w 10 1) (fld w 0 10))
  | 0x1B => .ok (.st64 (fld w 21 3) (fld w 17 4) (fld w 13 4) (fld w 12 1) (fld w 11 1) (fld w 10 1) (fld w 0 10))
  | 0x1C => .ok (.lea (fld w 21 3) (fld w 17 4) (fld w 13 4) (fld w 11 2) (fld w 10 1) (fld w 0 10))
  | 0x1D => needFixed (fld w 12 1 == 0#1 && fld w 11 1 == 0#1) (.wchg (fld w 21 3) (fld w 17 4) (fld w 13 4) (fld w 10 1) (fld w 0 10))
  | 0x1E => needFixed (fld w 17 4 == 0#4 && fld w 12 1 == 0#1 && fld w 11 1 == 0#1) (.hop (fld w 21 3) (fld w 13 4) (fld w 10 1) (fld w 0 10))
  | 0x1F => needFixed (fld w 12 1 == 0#1 && fld w 11 1 == 0#1) (.probe (fld w 21 3) (fld w 17 4) (fld w 13 4) (fld w 10 1) (fld w 0 10))
  | 0x20 => .ok (.amo (fld w 21 3) (fld w 17 4) (fld w 13 4) (fld w 9 4) (fld w 5 4) (fld w 4 1) (fld w 0 4))
  | 0x21 => .ok (.rxAmo (fld w 21 3) (fld w 17 4) (fld w 13 4) (fld w 9 4) (fld w 5 4) (fld w 4 1) (fld w 0 4))
  | 0x22 => needFixed (fld w 17 4 == 0#4 && fld w 13 4 == 0#4 && fld w 9 4 == 0#4 && fld w 4 5 == 0#5) (.fence (fld w 21 3) (fld w 0 4))
  | 0x23 => needFixed (fld w 0 3 == 0#3) (.wait (fld w 21 3) (fld w 17 4) (fld w 13 4) (fld w 8 5) (fld w 3 5))
  | 0x24 => decodeMessage w
  | 0x28 => needFixed (fld w 13 4 == 0#4 && fld w 9 4 == 0#4 && fld w 0 4 == 0#4) (.mlease (fld w 21 3) (fld w 17 4) (fld w 7 2) (fld w 4 3))
  | 0x29 => needFixed (fld w 17 4 == 0#4 && fld w 13 4 == 0#4 && fld w 9 4 == 0#4 && fld w 0 9 == 0#9) (.mfree (fld w 21 3))
  | 0x2A => needFixed (fld w 17 4 == 0#4 && fld w 0 9 == 0#9) (.mbload (fld w 21 3) (fld w 13 4) (fld w 9 4))
  | 0x2B => needFixed (fld w 0 4 == 0#4) (.mma (fld w 21 3) (fld w 17 4) (fld w 13 4) (fld w 9 4) (fld w 6 3) (fld w 4 2))
  | 0x2C => needFixed (fld w 0 4 == 0#4) (.mmas (fld w 21 3) (fld w 17 4) (fld w 13 4) (fld w 9 4) (fld w 6 3) (fld w 4 2))
  | 0x2D => needFixed (fld w 13 4 == 0#4 && fld w 9 4 == 0#4 && fld w 0 5 == 0#5) (.mzero (fld w 21 3) (fld w 17 4) (fld w 6 3) (fld w 5 1))
  | 0x2E => needFixed (fld w 0 1 == 0#1) (.mdrain (fld w 21 3) (fld w 17 4) (fld w 13 4) (fld w 9 4) (fld w 7 2) (fld w 5 2) (fld w 4 1) (fld w 1 3))
  | 0x2F => decodeMatrixControl w
  | 0x30 => decodeCopy w
  | 0x31 => decodePort w
  | 0x32 => decodeSpawn w
  | 0x33 => decodeKeyed w
  | 0x38 => decodeGate w
  | _ => .error .unassigned

/-- The class A map (R50). -/
def decodeA (w : Word32) : Except DecodeError Instr :=
  match (fld w 24 6).toNat with
  | 0x00 => decodeInteger w
  | 0x01 => decodeLogic w
  | 0x02 => decodeShift w
  | 0x03 => decodePacked w
  | 0x04 => decodeF32 w
  | 0x08 => .ok (.addi (fld w 21 3) (fld w 17 4) (fld w 13 4) (fld w 0 13))
  | 0x09 => .ok (.andi (fld w 21 3) (fld w 17 4) (fld w 13 4) (fld w 0 13))
  | 0x0A => .ok (.ori (fld w 21 3) (fld w 17 4) (fld w 13 4) (fld w 0 13))
  | 0x0B => .ok (.xori (fld w 21 3) (fld w 17 4) (fld w 13 4) (fld w 0 13))
  | 0x0C => needFixed (fld w 8 5 == 0#5) (.shli (fld w 21 3) (fld w 17 4) (fld w 13 4) (fld w 0 8))
  | 0x0D => needFixed (fld w 8 5 == 0#5) (.shri (fld w 21 3) (fld w 17 4) (fld w 13 4) (fld w 0 8))
  | 0x0E => needFixed (fld w 8 5 == 0#5) (.sari (fld w 21 3) (fld w 17 4) (fld w 13 4) (fld w 0 8))
  | 0x0F => needFixed (fld w 8 5 == 0#5) (.roti (fld w 21 3) (fld w 17 4) (fld w 13 4) (fld w 0 8))
  | 0x10 => needFixed (fld w 12 1 == 0#1) (.extI (fld w 21 3) (fld w 17 4) (fld w 13 4) (fld w 6 6) (fld w 0 6))
  | 0x11 => needFixed (fld w 12 1 == 0#1) (.extN (fld w 21 3) (fld w 17 4) (fld w 13 4) (fld w 6 6) (fld w 0 6))
  | 0x12 => needFixed (fld w 12 1 == 0#1) (.ins (fld w 21 3) (fld w 17 4) (fld w 13 4) (fld w 6 6) (fld w 0 6))
  | 0x14 => .ok (.movi (fld w 21 3) (fld w 17 4) (fld w 16 1) (fld w 0 16))
  | 0x15 => .ok (.movh (fld w 21 3) (fld w 17 4) (fld w 16 1) (fld w 0 16))
  | 0x18 => .ok (.cmp (fld w 21 3) (fld w 18 3) (fld w 14 4) (fld w 10 4) (fld w 0 10))
  | 0x19 => .ok (.fcmp (fld w 21 3) (fld w 18 3) (fld w 14 4) (fld w 10 4) (fld w 0 10))
  | 0x1A => decodePredicate w
  | 0x20 => needFixed (fld w 10 4 == 0#4) (.cmpiEq (fld w 21 3) (fld w 18 3) (fld w 14 4) (fld w 0 10))
  | 0x21 => needFixed (fld w 10 4 == 0#4) (.cmpiNe (fld w 21 3) (fld w 18 3) (fld w 14 4) (fld w 0 10))
  | 0x22 => needFixed (fld w 10 4 == 0#4) (.cmpiLt (fld w 21 3) (fld w 18 3) (fld w 14 4) (fld w 0 10))
  | 0x23 => needFixed (fld w 10 4 == 0#4) (.cmpiLe (fld w 21 3) (fld w 18 3) (fld w 14 4) (fld w 0 10))
  | 0x24 => needFixed (fld w 10 4 == 0#4) (.cmpiGt (fld w 21 3) (fld w 18 3) (fld w 14 4) (fld w 0 10))
  | 0x25 => needFixed (fld w 10 4 == 0#4) (.cmpiGe (fld w 21 3) (fld w 18 3) (fld w 14 4) (fld w 0 10))
  | 0x26 => needFixed (fld w 10 4 == 0#4) (.cmpiLtN (fld w 21 3) (fld w 18 3) (fld w 14 4) (fld w 0 10))
  | 0x27 => needFixed (fld w 10 4 == 0#4) (.cmpiGeN (fld w 21 3) (fld w 18 3) (fld w 14 4) (fld w 0 10))
  | 0x30 => decodeVArith w
  | 0x31 => decodeVLogic w
  | 0x32 => needFixed (fld w 11 4 == 0#4 && fld w 7 4 == 0#4) (.vcmp (fld w 21 3) (fld w 18 3) (fld w 15 3) (fld w 4 3) (fld w 0 4))
  | 0x33 => needFixed (fld w 11 4 == 0#4 && fld w 7 4 == 0#4) (.vcvtFromF32 (fld w 21 3) (fld w 18 3) (fld w 15 3) (fld w 3 4) (fld w 0 3))
  | 0x34 => needFixed (fld w 11 4 == 0#4 && fld w 7 4 == 0#4) (.vcvtToF32 (fld w 21 3) (fld w 18 3) (fld w 15 3) (fld w 3 4) (fld w 0 3))
  | 0x35 => decodeVSpecial w
  | 0x36 => decodeVLanes w
  | 0x37 => decodeVStreams w
  | _ => .error .unassigned

/-- The layout of a word, without the operand ranges. -/
def decodeRaw (w : Word32) : Except DecodeError Instr :=
  if fld w 30 1 == 1#1 then decodeA w else decodeC w

/-- A word's instruction, whatever its lone flag (R55). -/
def decodeWord (w : Word32) : Except DecodeError Instr :=
  match decodeRaw w with
  | .ok i => if i.wf then .ok i else .error .operand
  | .error e => .error e

/-- A register that the pair rule counts as written (R37). -/
inductive Dest where
  | x (r : XReg)
  | k (p : KReg)
  | v (r : VReg)
  | sys (i : BitVec 13)
  deriving DecidableEq, Repr

/-- The x registers x(d) to x(d + m) of an `mrecv`. -/
def xRun (d : XReg) (m : BitVec 3) : List Dest :=
  (List.range (m.toNat + 1)).map fun j => .x (d + BitVec.ofNat 4 j)

/-- A predicate destination; a write of k0 is ignored and does not count (R37). -/
def kDest (p : KReg) : List Dest := if p == 0#3 then [] else [.k p]

/-- R37: the registers a word writes, by its encoding alone. -/
def Instr.dests : Instr → List Dest
  | .callx _ _ | .call _ _ _ => [.x 15#4]
  | .mlease _ d _ _ | .sysrd _ d _ | .ldI8 _ d _ _ _ _ _ | .probe _ d _ _ _ | .loop _ d _ | .pbind _ d _ _ _
  | .mstat _ d _ | .rdcyc _ d | .ldN8 _ d _ _ _ _ _ | .mreclaim _ d _ | .awin _ d _ _ _ | .kopen _ d _
  | .kstat _ d _ _ | .sel _ d _ _ _ | .kclose _ d _ | .padd _ d _ _ _ | .gstat _ d _ _ | .ldI16 _ d _ _ _ _ _
  | .abs _ d _ | .add _ d _ _ | .psub _ d _ _ _ | .sub _ d _ _ | .ldN16 _ d _ _ _ _ _ | .neg _ d _ | .lea _ d _ _ _ _
  | .paddsatI _ d _ _ _ | .mul _ d _ _ | .paddsatN _ d _ _ _ | .ldI32 _ d _ _ _ _ _ | .mov _ d _ | .mulhI _ d _ _
  | .pminI _ d _ _ _ | .ldN32 _ d _ _ _ _ _ | .mulhN _ d _ _ | .punbind _ d | .divI _ d _ _ | .pminN _ d _ _ _
  | .divN _ d _ _ | .pmaxI _ d _ _ _ | .remI _ d _ _ | .ldI64 _ d _ _ _ _ _ | .pmaxN _ d _ _ _ | .remN _ d _ _
  | .pshl _ d _ _ _ | .addsatI _ d _ _ | .clz _ d _ | .pshr _ d _ _ _ | .addsatN _ d _ _ | .psar _ d _ _ _
  | .subsatI _ d _ _ | .pcmpEq _ d _ _ _ | .subsatN _ d _ _ | .pcmpLtI _ d _ _ _ | .minI _ d _ _ | .ldc _ d _ _ _ _ _
  | .maxI _ d _ _ | .ctz _ d _ | .amo _ d _ _ _ _ _ | .minN _ d _ _ | .popc _ d _ | .maxN _ d _ _ | .pcmpLtN _ d _ _ _
  | .and _ d _ _ | .extI _ d _ _ _ | .or _ d _ _ | .extN _ d _ _ _ | .xor _ d _ _ | .bswap _ d _ | .andn _ d _ _
  | .fabs _ d _ | .orn _ d _ _ | .rxAmo _ d _ _ _ _ _ | .shl _ d _ _ | .ins _ d _ _ _ | .shr _ d _ _ | .fneg _ d _
  | .sar _ d _ _ | .rot _ d _ _ | .fadd _ d _ _ | .fsub _ d _ _ | .fmul _ d _ _ | .ffma _ d _ _ | .fmin _ d _ _
  | .fmax _ d _ _ | .fcvtF32I32 _ d _ _ | .fcvtF32N32 _ d _ _ | .fcvtI32F32 _ d _ _ | .fcvtN32F32 _ d _ _
  | .fcvtF32B16 _ d _ _ | .fcvtB16F32 _ d _ _ | .addi _ d _ _ | .andi _ d _ _ | .ori _ d _ _ | .xori _ d _ _
  | .shli _ d _ _ | .shri _ d _ _ | .sari _ d _ _ | .roti _ d _ _ | .movi _ d _ _ | .movh _ d _ _ => [.x d]
  | .syswr _ _ i => if i == 4#13 then (List.range 7).map (fun j => .k (BitVec.ofNat 3 (j + 1))) else [.sys i]
  | .mrecv _ d m => xRun d m
  | .xcopy _ d _ _ p _ _ | .xcopyv _ d _ _ p _ _ | .xgather _ d _ _ p _ _ | .xscatter _ d _ _ p _ _
  | .xfill _ d _ _ p _ _ | .xdeal _ d _ _ p _ _ => if p == 1#1 then [.x d] else []
  | .spawn _ k _ _ | .cmp _ k _ _ _ | .pnot _ k _ | .spawnW _ k _ _ | .pmov _ k _ | .pand _ k _ _ | .fcmp _ k _ _ _
  | .por _ k _ _ | .psel _ k _ _ _ | .pxor _ k _ _ | .cmpiEq _ k _ _ | .cmpiNe _ k _ _ | .cmpiLt _ k _ _
  | .cmpiLe _ k _ _ | .cmpiGt _ k _ _ | .cmpiGe _ k _ _ | .cmpiLtN _ k _ _ | .cmpiGeN _ k _ _ => kDest k
  | .vrcp v _ | .vabs v _ _ | .vrsq v _ | .vneg v _ _ | .vadd v _ _ _ | .vand v _ _ | .vsub v _ _ _ | .vor v _ _
  | .vmul v _ _ _ | .vxor v _ _ | .vbindPop v _ | .vfma v _ _ _ | .vsel v _ _ | .vcmp v _ _ _ _ | .vredSum v _ _
  | .vmin v _ _ _ | .vredMax v _ _ | .vcvtFromF32 v _ _ _ _ | .vredMin v _ _ | .vmax v _ _ _ | .vcvtToF32 v _ _ _ _
  | .vshl v _ _ _ | .vbcast v _ _ | .vbindPush v _ | .vperm v _ _ | .vshr v _ _ _ | .vunbind v | .vgath v _ _ _ _
  | .vsar v _ _ _ | .vpack v _ _ | .vex2 v _ _ _ | .vunpack v _ _ => [.v v]
  | .vget _ _ t _ => [.x t]
  | _ => []

/-- R37: both words of the pair write one register. -/
def pairConflict (i0 i1 : Instr) : Bool := i0.dests.any fun d => i1.dests.contains d

/-- Why a fetched doubleword is no bundle: framing (R35) or an illegal encoding (R55). -/
inductive BundleError where
  | misframe
  | illegal
  deriving DecidableEq, Repr

/-- A lone word's bundle. -/
def decodeLone (w : Word32) : Except BundleError Bundle :=
  match decodeWord w with
  | .ok i => .ok (.lone i)
  | .error _ => .error .illegal

/-- A pair's bundle: ILLEGAL for word 0, then for word 1, then for the pair rules (R37, R39, R40). -/
def decodePair (w0 w1 : Word32) : Except BundleError Bundle :=
  match decodeWord w0, decodeWord w1 with
  | .ok i0, .ok i1 => if i0.loneOnly || pairConflict i0 i1 then .error .illegal else .ok (.pair i0 i1)
  | _, _ => .error .illegal

/-- R35: the bundle that begins in the aligned doubleword `dw`, at its second word when `odd`. -/
def decodeBundle (odd : Bool) (dw : Word) : Except BundleError Bundle :=
  let w0 := dw.extractLsb' 0 32
  let w1 := dw.extractLsb' 32 32
  if odd then
    if fld w1 31 1 == 0#1 then .error .misframe else decodeLone w1
  else if fld w0 31 1 == 1#1 then decodeLone w0
  else if fld w0 30 1 == 1#1 || fld w1 31 1 == 1#1 || fld w1 30 1 == 0#1 then .error .misframe
  else decodePair w0 w1

/-- The instruction words of a bundle as tval of ILLEGAL and TILEFORM holds them (R40). -/
def bundleBits (odd : Bool) (dw : Word) : Word :=
  let w0 := dw.extractLsb' 0 32
  let w1 := dw.extractLsb' 32 32
  if odd then w1.setWidth 64 else if fld w0 31 1 == 1#1 then w0.setWidth 64 else dw

/-- The word of an instruction with lone flag `l`, from the layouts of R41 to R54; none for the rows without words. -/
def Instr.encode (l : BitVec 1) : Instr → Option Word32
  | .nop g => some (l ++ 0b0#1 ++ 0x00#6 ++ g ++ 0#4 ++ 0#4 ++ 0#4 ++ 0#9)
  | .ret g => some (l ++ 0b0#1 ++ 0x00#6 ++ g ++ 0#4 ++ 0#4 ++ 0#4 ++ 1#9)
  | .jx g a => some (l ++ 0b0#1 ++ 0x00#6 ++ g ++ 0#4 ++ a ++ 0#4 ++ 2#9)
  | .callx g a => some (l ++ 0b0#1 ++ 0x00#6 ++ g ++ 0#4 ++ a ++ 0#4 ++ 3#9)
  | .nap g a => some (l ++ 0b0#1 ++ 0x00#6 ++ g ++ 0#4 ++ a ++ 0#4 ++ 4#9)
  | .rdcyc g d => some (l ++ 0b0#1 ++ 0x00#6 ++ g ++ d ++ 0#4 ++ 0#4 ++ 5#9)
  | .tret g => some (l ++ 0b0#1 ++ 0x00#6 ++ g ++ 0#4 ++ 0#4 ++ 0#4 ++ 6#9)
  | .yield g => some (l ++ 0b0#1 ++ 0x00#6 ++ g ++ 0#4 ++ 0#4 ++ 0#4 ++ 7#9)
  | .quit g => some (l ++ 0b0#1 ++ 0x00#6 ++ g ++ 0#4 ++ 0#4 ++ 0#4 ++ 8#9)
  | .sysrd g d i => some (l ++ 0b0#1 ++ 0x01#6 ++ g ++ d ++ 0#4 ++ i)
  | .syswr g a i => some (l ++ 0b0#1 ++ 0x02#6 ++ g ++ 0#4 ++ a ++ i)
  | .trap g i => some (l ++ 0b0#1 ++ 0x03#6 ++ g ++ 0#4 ++ 0#4 ++ i)
  | .brk g i => some (l ++ 0b0#1 ++ 0x04#6 ++ g ++ 0#4 ++ 0#4 ++ i)
  | .hcall g i => some (l ++ 0b0#1 ++ 0x05#6 ++ g ++ 0#4 ++ 0#4 ++ i)
  | .b g n f => some (l ++ 0b0#1 ++ 0x06#6 ++ g ++ n ++ f)
  | .call g n f => some (l ++ 0b0#1 ++ 0x07#6 ++ g ++ n ++ f)
  | .loop g d i => some (l ++ 0b0#1 ++ 0x08#6 ++ g ++ d ++ 0#4 ++ i)
  | .ldI8 g d a r h s f => some (l ++ 0b0#1 ++ 0x10#6 ++ g ++ d ++ a ++ r ++ h ++ s ++ f)
  | .ldN8 g d a r h s f => some (l ++ 0b0#1 ++ 0x11#6 ++ g ++ d ++ a ++ r ++ h ++ s ++ f)
  | .ldI16 g d a r h s f => some (l ++ 0b0#1 ++ 0x12#6 ++ g ++ d ++ a ++ r ++ h ++ s ++ f)
  | .ldN16 g d a r h s f => some (l ++ 0b0#1 ++ 0x13#6 ++ g ++ d ++ a ++ r ++ h ++ s ++ f)
  | .ldI32 g d a r h s f => some (l ++ 0b0#1 ++ 0x14#6 ++ g ++ d ++ a ++ r ++ h ++ s ++ f)
  | .ldN32 g d a r h s f => some (l ++ 0b0#1 ++ 0x15#6 ++ g ++ d ++ a ++ r ++ h ++ s ++ f)
  | .ldI64 g d a r h s f => some (l ++ 0b0#1 ++ 0x16#6 ++ g ++ d ++ a ++ r ++ h ++ s ++ f)
  | .ldc g d a r h s f => some (l ++ 0b0#1 ++ 0x17#6 ++ g ++ d ++ a ++ r ++ h ++ s ++ f)
  | .st8 g d a r h s f => some (l ++ 0b0#1 ++ 0x18#6 ++ g ++ d ++ a ++ r ++ h ++ s ++ f)
  | .st16 g d a r h s f => some (l ++ 0b0#1 ++ 0x19#6 ++ g ++ d ++ a ++ r ++ h ++ s ++ f)
  | .st32 g d a r h s f => some (l ++ 0b0#1 ++ 0x1A#6 ++ g ++ d ++ a ++ r ++ h ++ s ++ f)
  | .st64 g d a r h s f => some (l ++ 0b0#1 ++ 0x1B#6 ++ g ++ d ++ a ++ r ++ h ++ s ++ f)
  | .lea g d a c s f => some (l ++ 0b0#1 ++ 0x1C#6 ++ g ++ d ++ a ++ c ++ s ++ f)
  | .wchg g d a s f => some (l ++ 0b0#1 ++ 0x1D#6 ++ g ++ d ++ a ++ 0#1 ++ 0#1 ++ s ++ f)
  | .hop g a s f => some (l ++ 0b0#1 ++ 0x1E#6 ++ g ++ 0#4 ++ a ++ 0#1 ++ 0#1 ++ s ++ f)
  | .probe g d a s f => some (l ++ 0b0#1 ++ 0x1F#6 ++ g ++ d ++ a ++ 0#1 ++ 0#1 ++ s ++ f)
  | .amo g d a rb o w s => some (l ++ 0b0#1 ++ 0x20#6 ++ g ++ d ++ a ++ rb ++ o ++ w ++ s)
  | .rxAmo g d a rb o w s => some (l ++ 0b0#1 ++ 0x21#6 ++ g ++ d ++ a ++ rb ++ o ++ w ++ s)
  | .fence g s => some (l ++ 0b0#1 ++ 0x22#6 ++ g ++ 0#4 ++ 0#4 ++ 0#4 ++ 0#5 ++ s)
  | .wait g d a c t => some (l ++ 0b0#1 ++ 0x23#6 ++ g ++ d ++ a ++ c ++ t ++ 0#3)
  | .msend g a rb m => some (l ++ 0b0#1 ++ 0x24#6 ++ g ++ 0#4 ++ a ++ rb ++ 0#3 ++ 0#3 ++ m)
  | .mrecv g d m => some (l ++ 0b0#1 ++ 0x24#6 ++ g ++ d ++ 0#4 ++ 0#4 ++ 1#3 ++ 0#3 ++ m)
  | .waitm g => some (l ++ 0b0#1 ++ 0x24#6 ++ g ++ 0#4 ++ 0#4 ++ 0#4 ++ 2#3 ++ 0#6)
  | .mlease g d e p => some (l ++ 0b0#1 ++ 0x28#6 ++ g ++ d ++ 0#4 ++ 0#4 ++ e ++ p ++ 0#4)
  | .mfree g => some (l ++ 0b0#1 ++ 0x29#6 ++ g ++ 0#4 ++ 0#4 ++ 0#4 ++ 0#9)
  | .mbload g a rb => some (l ++ 0b0#1 ++ 0x2A#6 ++ g ++ 0#4 ++ a ++ rb ++ 0#9)
  | .mma g d a rb s p => some (l ++ 0b0#1 ++ 0x2B#6 ++ g ++ d ++ a ++ rb ++ s ++ p ++ 0#4)
  | .mmas g d a rb s p => some (l ++ 0b0#1 ++ 0x2C#6 ++ g ++ d ++ a ++ rb ++ s ++ p ++ 0#4)
  | .mzero g d s x => some (l ++ 0b0#1 ++ 0x2D#6 ++ g ++ d ++ 0#4 ++ 0#4 ++ s ++ x ++ 0#5)
  | .mdrain g d a rb m c x s => some (l ++ 0b0#1 ++ 0x2E#6 ++ g ++ d ++ a ++ rb ++ m ++ c ++ x ++ s ++ 0#1)
  | .magr g a t => some (l ++ 0b0#1 ++ 0x2F#6 ++ g ++ 0#4 ++ a ++ 0#4 ++ 0#3 ++ t ++ 0#3)
  | .mstat g d n => some (l ++ 0b0#1 ++ 0x2F#6 ++ g ++ d ++ n ++ 0#4 ++ 1#3 ++ 0#6)
  | .mreclaim g d n => some (l ++ 0b0#1 ++ 0x2F#6 ++ g ++ d ++ n ++ 0#4 ++ 2#3 ++ 0#6)
  | .mfmt g a t => some (l ++ 0b0#1 ++ 0x2F#6 ++ g ++ 0#4 ++ a ++ 0#4 ++ 3#3 ++ t ++ 0#3)
  | .xcopy g d a rb p m c => some (l ++ 0b0#1 ++ 0x30#6 ++ g ++ d ++ a ++ rb ++ 0#3 ++ p ++ m ++ c ++ 0#3)
  | .xcopyv g d a rb p m c => some (l ++ 0b0#1 ++ 0x30#6 ++ g ++ d ++ a ++ rb ++ 1#3 ++ p ++ m ++ c ++ 0#3)
  | .xgather g d a rb p m c => some (l ++ 0b0#1 ++ 0x30#6 ++ g ++ d ++ a ++ rb ++ 2#3 ++ p ++ m ++ c ++ 0#3)
  | .xscatter g d a rb p m c => some (l ++ 0b0#1 ++ 0x30#6 ++ g ++ d ++ a ++ rb ++ 3#3 ++ p ++ m ++ c ++ 0#3)
  | .xfill g d a rb p m c => some (l ++ 0b0#1 ++ 0x30#6 ++ g ++ d ++ a ++ rb ++ 4#3 ++ p ++ m ++ c ++ 0#3)
  | .xdeal g d a rb p m c => some (l ++ 0b0#1 ++ 0x30#6 ++ g ++ d ++ a ++ rb ++ 5#3 ++ p ++ m ++ c ++ 0#3)
  | .pbind g d a k e => some (l ++ 0b0#1 ++ 0x31#6 ++ g ++ d ++ a ++ 0#4 ++ 0#1 ++ k ++ e ++ 0#5)
  | .punbind g d => some (l ++ 0b0#1 ++ 0x31#6 ++ g ++ d ++ 0#4 ++ 0#4 ++ 1#1 ++ 0#8)
  | .spawn g k a rb => some (l ++ 0b0#1 ++ 0x32#6 ++ g ++ 0#1 ++ k ++ a ++ rb ++ 0#8 ++ 0#1)
  | .spawnW g k a rb => some (l ++ 0b0#1 ++ 0x32#6 ++ g ++ 0#1 ++ k ++ a ++ rb ++ 0#8 ++ 1#1)
  | .kopen g d a => some (l ++ 0b0#1 ++ 0x33#6 ++ g ++ d ++ a ++ 0#4 ++ 0#3 ++ 0#6)
  | .kclose g d a => some (l ++ 0b0#1 ++ 0x33#6 ++ g ++ d ++ a ++ 0#4 ++ 1#3 ++ 0#6)
  | .kput g a rb => some (l ++ 0b0#1 ++ 0x33#6 ++ g ++ 0#4 ++ a ++ rb ++ 2#3 ++ 0#6)
  | .kwait g => some (l ++ 0b0#1 ++ 0x33#6 ++ g ++ 0#4 ++ 0#4 ++ 0#4 ++ 3#3 ++ 0#6)
  | .kend g => some (l ++ 0b0#1 ++ 0x33#6 ++ g ++ 0#4 ++ 0#4 ++ 0#4 ++ 4#3 ++ 0#6)
  | .kstat g d a rb => some (l ++ 0b0#1 ++ 0x33#6 ++ g ++ d ++ a ++ rb ++ 5#3 ++ 0#6)
  | .gcall g d a rb => some (l ++ 0b0#1 ++ 0x38#6 ++ g ++ d ++ a ++ rb ++ 0#3 ++ 0#6)
  | .gret g n => some (l ++ 0b0#1 ++ 0x38#6 ++ g ++ 0#4 ++ 0#4 ++ 0#4 ++ 1#3 ++ n ++ 0#3)
  | .awin g d a rb e => some (l ++ 0b0#1 ++ 0x38#6 ++ g ++ d ++ a ++ rb ++ 2#3 ++ 0#3 ++ e ++ 0#1)
  | .gstat g d a n => some (l ++ 0b0#1 ++ 0x38#6 ++ g ++ d ++ a ++ 0#4 ++ 3#3 ++ n ++ 0#3)
  | .add g d a rb => some (l ++ 0b1#1 ++ 0x00#6 ++ g ++ d ++ a ++ rb ++ 0#9)
  | .sub g d a rb => some (l ++ 0b1#1 ++ 0x00#6 ++ g ++ d ++ a ++ rb ++ 1#9)
  | .mul g d a rb => some (l ++ 0b1#1 ++ 0x00#6 ++ g ++ d ++ a ++ rb ++ 2#9)
  | .mulhI g d a rb => some (l ++ 0b1#1 ++ 0x00#6 ++ g ++ d ++ a ++ rb ++ 3#9)
  | .mulhN g d a rb => some (l ++ 0b1#1 ++ 0x00#6 ++ g ++ d ++ a ++ rb ++ 4#9)
  | .divI g d a rb => some (l ++ 0b1#1 ++ 0x00#6 ++ g ++ d ++ a ++ rb ++ 5#9)
  | .divN g d a rb => some (l ++ 0b1#1 ++ 0x00#6 ++ g ++ d ++ a ++ rb ++ 6#9)
  | .remI g d a rb => some (l ++ 0b1#1 ++ 0x00#6 ++ g ++ d ++ a ++ rb ++ 7#9)
  | .remN g d a rb => some (l ++ 0b1#1 ++ 0x00#6 ++ g ++ d ++ a ++ rb ++ 8#9)
  | .addsatI g d a rb => some (l ++ 0b1#1 ++ 0x00#6 ++ g ++ d ++ a ++ rb ++ 9#9)
  | .addsatN g d a rb => some (l ++ 0b1#1 ++ 0x00#6 ++ g ++ d ++ a ++ rb ++ 10#9)
  | .subsatI g d a rb => some (l ++ 0b1#1 ++ 0x00#6 ++ g ++ d ++ a ++ rb ++ 11#9)
  | .subsatN g d a rb => some (l ++ 0b1#1 ++ 0x00#6 ++ g ++ d ++ a ++ rb ++ 12#9)
  | .abs g d a => some (l ++ 0b1#1 ++ 0x00#6 ++ g ++ d ++ a ++ 0#4 ++ 13#9)
  | .neg g d a => some (l ++ 0b1#1 ++ 0x00#6 ++ g ++ d ++ a ++ 0#4 ++ 14#9)
  | .minI g d a rb => some (l ++ 0b1#1 ++ 0x00#6 ++ g ++ d ++ a ++ rb ++ 15#9)
  | .maxI g d a rb => some (l ++ 0b1#1 ++ 0x00#6 ++ g ++ d ++ a ++ rb ++ 16#9)
  | .minN g d a rb => some (l ++ 0b1#1 ++ 0x00#6 ++ g ++ d ++ a ++ rb ++ 17#9)
  | .maxN g d a rb => some (l ++ 0b1#1 ++ 0x00#6 ++ g ++ d ++ a ++ rb ++ 18#9)
  | .and g d a rb => some (l ++ 0b1#1 ++ 0x01#6 ++ g ++ d ++ a ++ rb ++ 0#6 ++ 0#3)
  | .or g d a rb => some (l ++ 0b1#1 ++ 0x01#6 ++ g ++ d ++ a ++ rb ++ 0#6 ++ 1#3)
  | .xor g d a rb => some (l ++ 0b1#1 ++ 0x01#6 ++ g ++ d ++ a ++ rb ++ 0#6 ++ 2#3)
  | .andn g d a rb => some (l ++ 0b1#1 ++ 0x01#6 ++ g ++ d ++ a ++ rb ++ 0#6 ++ 3#3)
  | .orn g d a rb => some (l ++ 0b1#1 ++ 0x01#6 ++ g ++ d ++ a ++ rb ++ 0#6 ++ 4#3)
  | .mov g d a => some (l ++ 0b1#1 ++ 0x01#6 ++ g ++ d ++ a ++ 0#4 ++ 0#6 ++ 5#3)
  | .sel g d a rb p => some (l ++ 0b1#1 ++ 0x01#6 ++ g ++ d ++ a ++ rb ++ 1#6 ++ p)
  | .shl g d a rb => some (l ++ 0b1#1 ++ 0x02#6 ++ g ++ d ++ a ++ rb ++ 0#9)
  | .shr g d a rb => some (l ++ 0b1#1 ++ 0x02#6 ++ g ++ d ++ a ++ rb ++ 1#9)
  | .sar g d a rb => some (l ++ 0b1#1 ++ 0x02#6 ++ g ++ d ++ a ++ rb ++ 2#9)
  | .rot g d a rb => some (l ++ 0b1#1 ++ 0x02#6 ++ g ++ d ++ a ++ rb ++ 3#9)
  | .clz g d a => some (l ++ 0b1#1 ++ 0x02#6 ++ g ++ d ++ a ++ 0#4 ++ 4#9)
  | .ctz g d a => some (l ++ 0b1#1 ++ 0x02#6 ++ g ++ d ++ a ++ 0#4 ++ 5#9)
  | .popc g d a => some (l ++ 0b1#1 ++ 0x02#6 ++ g ++ d ++ a ++ 0#4 ++ 6#9)
  | .bswap g d a => some (l ++ 0b1#1 ++ 0x02#6 ++ g ++ d ++ a ++ 0#4 ++ 7#9)
  | .padd g d a rb w => some (l ++ 0b1#1 ++ 0x03#6 ++ g ++ d ++ a ++ rb ++ 0#3 ++ w ++ 0#5)
  | .psub g d a rb w => some (l ++ 0b1#1 ++ 0x03#6 ++ g ++ d ++ a ++ rb ++ 0#3 ++ w ++ 1#5)
  | .paddsatI g d a rb w => some (l ++ 0b1#1 ++ 0x03#6 ++ g ++ d ++ a ++ rb ++ 0#3 ++ w ++ 2#5)
  | .paddsatN g d a rb w => some (l ++ 0b1#1 ++ 0x03#6 ++ g ++ d ++ a ++ rb ++ 0#3 ++ w ++ 3#5)
  | .pminI g d a rb w => some (l ++ 0b1#1 ++ 0x03#6 ++ g ++ d ++ a ++ rb ++ 0#3 ++ w ++ 4#5)
  | .pminN g d a rb w => some (l ++ 0b1#1 ++ 0x03#6 ++ g ++ d ++ a ++ rb ++ 0#3 ++ w ++ 5#5)
  | .pmaxI g d a rb w => some (l ++ 0b1#1 ++ 0x03#6 ++ g ++ d ++ a ++ rb ++ 0#3 ++ w ++ 6#5)
  | .pmaxN g d a rb w => some (l ++ 0b1#1 ++ 0x03#6 ++ g ++ d ++ a ++ rb ++ 0#3 ++ w ++ 7#5)
  | .pshl g d a rb w => some (l ++ 0b1#1 ++ 0x03#6 ++ g ++ d ++ a ++ rb ++ 0#3 ++ w ++ 8#5)
  | .pshr g d a rb w => some (l ++ 0b1#1 ++ 0x03#6 ++ g ++ d ++ a ++ rb ++ 0#3 ++ w ++ 9#5)
  | .psar g d a rb w => some (l ++ 0b1#1 ++ 0x03#6 ++ g ++ d ++ a ++ rb ++ 0#3 ++ w ++ 10#5)
  | .pcmpEq g d a rb w => some (l ++ 0b1#1 ++ 0x03#6 ++ g ++ d ++ a ++ rb ++ 0#3 ++ w ++ 11#5)
  | .pcmpLtI g d a rb w => some (l ++ 0b1#1 ++ 0x03#6 ++ g ++ d ++ a ++ rb ++ 0#3 ++ w ++ 12#5)
  | .pcmpLtN g d a rb w => some (l ++ 0b1#1 ++ 0x03#6 ++ g ++ d ++ a ++ rb ++ 0#3 ++ w ++ 13#5)
  | .fadd g d a rb => some (l ++ 0b1#1 ++ 0x04#6 ++ g ++ d ++ a ++ rb ++ 0#9)
  | .fsub g d a rb => some (l ++ 0b1#1 ++ 0x04#6 ++ g ++ d ++ a ++ rb ++ 1#9)
  | .fmul g d a rb => some (l ++ 0b1#1 ++ 0x04#6 ++ g ++ d ++ a ++ rb ++ 2#9)
  | .ffma g d a rb => some (l ++ 0b1#1 ++ 0x04#6 ++ g ++ d ++ a ++ rb ++ 3#9)
  | .fmin g d a rb => some (l ++ 0b1#1 ++ 0x04#6 ++ g ++ d ++ a ++ rb ++ 4#9)
  | .fmax g d a rb => some (l ++ 0b1#1 ++ 0x04#6 ++ g ++ d ++ a ++ rb ++ 5#9)
  | .fabs g d a => some (l ++ 0b1#1 ++ 0x04#6 ++ g ++ d ++ a ++ 0#4 ++ 6#9)
  | .fneg g d a => some (l ++ 0b1#1 ++ 0x04#6 ++ g ++ d ++ a ++ 0#4 ++ 7#9)
  | .fcvtF32I32 g d a rb => some (l ++ 0b1#1 ++ 0x04#6 ++ g ++ d ++ a ++ rb ++ 16#9)
  | .fcvtF32N32 g d a rb => some (l ++ 0b1#1 ++ 0x04#6 ++ g ++ d ++ a ++ rb ++ 17#9)
  | .fcvtI32F32 g d a rb => some (l ++ 0b1#1 ++ 0x04#6 ++ g ++ d ++ a ++ rb ++ 18#9)
  | .fcvtN32F32 g d a rb => some (l ++ 0b1#1 ++ 0x04#6 ++ g ++ d ++ a ++ rb ++ 19#9)
  | .fcvtF32B16 g d a rb => some (l ++ 0b1#1 ++ 0x04#6 ++ g ++ d ++ a ++ rb ++ 20#9)
  | .fcvtB16F32 g d a rb => some (l ++ 0b1#1 ++ 0x04#6 ++ g ++ d ++ a ++ rb ++ 21#9)
  | .addi g d a i => some (l ++ 0b1#1 ++ 0x08#6 ++ g ++ d ++ a ++ i)
  | .andi g d a i => some (l ++ 0b1#1 ++ 0x09#6 ++ g ++ d ++ a ++ i)
  | .ori g d a i => some (l ++ 0b1#1 ++ 0x0A#6 ++ g ++ d ++ a ++ i)
  | .xori g d a i => some (l ++ 0b1#1 ++ 0x0B#6 ++ g ++ d ++ a ++ i)
  | .shli g d a i => some (l ++ 0b1#1 ++ 0x0C#6 ++ g ++ d ++ a ++ 0#5 ++ i)
  | .shri g d a i => some (l ++ 0b1#1 ++ 0x0D#6 ++ g ++ d ++ a ++ 0#5 ++ i)
  | .sari g d a i => some (l ++ 0b1#1 ++ 0x0E#6 ++ g ++ d ++ a ++ 0#5 ++ i)
  | .roti g d a i => some (l ++ 0b1#1 ++ 0x0F#6 ++ g ++ d ++ a ++ 0#5 ++ i)
  | .extI g d a q w => some (l ++ 0b1#1 ++ 0x10#6 ++ g ++ d ++ a ++ 0#1 ++ q ++ w)
  | .extN g d a q w => some (l ++ 0b1#1 ++ 0x11#6 ++ g ++ d ++ a ++ 0#1 ++ q ++ w)
  | .ins g d a q w => some (l ++ 0b1#1 ++ 0x12#6 ++ g ++ d ++ a ++ 0#1 ++ q ++ w)
  | .movi g d h i => some (l ++ 0b1#1 ++ 0x14#6 ++ g ++ d ++ h ++ i)
  | .movh g d h i => some (l ++ 0b1#1 ++ 0x15#6 ++ g ++ d ++ h ++ i)
  | .cmp g k a rb f => some (l ++ 0b1#1 ++ 0x18#6 ++ g ++ k ++ a ++ rb ++ f)
  | .fcmp g k a rb f => some (l ++ 0b1#1 ++ 0x19#6 ++ g ++ k ++ a ++ rb ++ f)
  | .pand g k a rb => some (l ++ 0b1#1 ++ 0x1A#6 ++ g ++ k ++ 0#1 ++ a ++ 0#1 ++ rb ++ 0#3 ++ 0#7)
  | .por g k a rb => some (l ++ 0b1#1 ++ 0x1A#6 ++ g ++ k ++ 0#1 ++ a ++ 0#1 ++ rb ++ 1#3 ++ 0#7)
  | .pxor g k a rb => some (l ++ 0b1#1 ++ 0x1A#6 ++ g ++ k ++ 0#1 ++ a ++ 0#1 ++ rb ++ 2#3 ++ 0#7)
  | .pnot g k a => some (l ++ 0b1#1 ++ 0x1A#6 ++ g ++ k ++ 0#1 ++ a ++ 0#4 ++ 3#3 ++ 0#7)
  | .pmov g k a => some (l ++ 0b1#1 ++ 0x1A#6 ++ g ++ k ++ 0#1 ++ a ++ 0#4 ++ 4#3 ++ 0#7)
  | .psel g k a rb c => some (l ++ 0b1#1 ++ 0x1A#6 ++ g ++ k ++ 0#1 ++ a ++ 0#1 ++ rb ++ 5#3 ++ 0#4 ++ c)
  | .cmpiEq g k a i => some (l ++ 0b1#1 ++ 0x20#6 ++ g ++ k ++ a ++ 0#4 ++ i)
  | .cmpiNe g k a i => some (l ++ 0b1#1 ++ 0x21#6 ++ g ++ k ++ a ++ 0#4 ++ i)
  | .cmpiLt g k a i => some (l ++ 0b1#1 ++ 0x22#6 ++ g ++ k ++ a ++ 0#4 ++ i)
  | .cmpiLe g k a i => some (l ++ 0b1#1 ++ 0x23#6 ++ g ++ k ++ a ++ 0#4 ++ i)
  | .cmpiGt g k a i => some (l ++ 0b1#1 ++ 0x24#6 ++ g ++ k ++ a ++ 0#4 ++ i)
  | .cmpiGe g k a i => some (l ++ 0b1#1 ++ 0x25#6 ++ g ++ k ++ a ++ 0#4 ++ i)
  | .cmpiLtN g k a i => some (l ++ 0b1#1 ++ 0x26#6 ++ g ++ k ++ a ++ 0#4 ++ i)
  | .cmpiGeN g k a i => some (l ++ 0b1#1 ++ 0x27#6 ++ g ++ k ++ a ++ 0#4 ++ i)
  | .vadd v a rb y => some (l ++ 0b1#1 ++ 0x30#6 ++ v ++ a ++ rb ++ 0#4 ++ 0#4 ++ 0#3 ++ y)
  | .vsub v a rb y => some (l ++ 0b1#1 ++ 0x30#6 ++ v ++ a ++ rb ++ 0#4 ++ 0#4 ++ 1#3 ++ y)
  | .vmul v a rb y => some (l ++ 0b1#1 ++ 0x30#6 ++ v ++ a ++ rb ++ 0#4 ++ 0#4 ++ 2#3 ++ y)
  | .vfma v a rb y => some (l ++ 0b1#1 ++ 0x30#6 ++ v ++ a ++ rb ++ 0#4 ++ 0#4 ++ 3#3 ++ y)
  | .vmin v a rb y => some (l ++ 0b1#1 ++ 0x30#6 ++ v ++ a ++ rb ++ 0#4 ++ 0#4 ++ 4#3 ++ y)
  | .vmax v a rb y => some (l ++ 0b1#1 ++ 0x30#6 ++ v ++ a ++ rb ++ 0#4 ++ 0#4 ++ 5#3 ++ y)
  | .vabs v a y => some (l ++ 0b1#1 ++ 0x30#6 ++ v ++ a ++ 0#3 ++ 0#4 ++ 0#4 ++ 6#3 ++ y)
  | .vneg v a y => some (l ++ 0b1#1 ++ 0x30#6 ++ v ++ a ++ 0#3 ++ 0#4 ++ 0#4 ++ 7#3 ++ y)
  | .vand v a rb => some (l ++ 0b1#1 ++ 0x31#6 ++ v ++ a ++ rb ++ 0#4 ++ 0#4 ++ 0#3 ++ 0#4)
  | .vor v a rb => some (l ++ 0b1#1 ++ 0x31#6 ++ v ++ a ++ rb ++ 0#4 ++ 0#4 ++ 1#3 ++ 0#4)
  | .vxor v a rb => some (l ++ 0b1#1 ++ 0x31#6 ++ v ++ a ++ rb ++ 0#4 ++ 0#4 ++ 2#3 ++ 0#4)
  | .vshl v a rb y => some (l ++ 0b1#1 ++ 0x31#6 ++ v ++ a ++ rb ++ 0#4 ++ 0#4 ++ 3#3 ++ y)
  | .vshr v a rb y => some (l ++ 0b1#1 ++ 0x31#6 ++ v ++ a ++ rb ++ 0#4 ++ 0#4 ++ 4#3 ++ y)
  | .vsar v a rb y => some (l ++ 0b1#1 ++ 0x31#6 ++ v ++ a ++ rb ++ 0#4 ++ 0#4 ++ 5#3 ++ y)
  | .vsel v a rb => some (l ++ 0b1#1 ++ 0x31#6 ++ v ++ a ++ rb ++ 0#4 ++ 0#4 ++ 6#3 ++ 0#4)
  | .vcmp v a rb c y => some (l ++ 0b1#1 ++ 0x32#6 ++ v ++ a ++ rb ++ 0#4 ++ 0#4 ++ c ++ y)
  | .vcvtFromF32 v a rb y m => some (l ++ 0b1#1 ++ 0x33#6 ++ v ++ a ++ rb ++ 0#4 ++ 0#4 ++ y ++ m)
  | .vcvtToF32 v a rb y m => some (l ++ 0b1#1 ++ 0x34#6 ++ v ++ a ++ rb ++ 0#4 ++ 0#4 ++ y ++ m)
  | .vex2 v a rb s => some (l ++ 0b1#1 ++ 0x35#6 ++ v ++ a ++ rb ++ s ++ 0#4 ++ 0#3 ++ 7#4)
  | .vrcp v a => some (l ++ 0b1#1 ++ 0x35#6 ++ v ++ a ++ 0#3 ++ 0#4 ++ 0#4 ++ 1#3 ++ 7#4)
  | .vrsq v a => some (l ++ 0b1#1 ++ 0x35#6 ++ v ++ a ++ 0#3 ++ 0#4 ++ 0#4 ++ 2#3 ++ 7#4)
  | .vredSum v a y => some (l ++ 0b1#1 ++ 0x35#6 ++ v ++ a ++ 0#3 ++ 0#4 ++ 0#4 ++ 3#3 ++ y)
  | .vredMax v a y => some (l ++ 0b1#1 ++ 0x35#6 ++ v ++ a ++ 0#3 ++ 0#4 ++ 0#4 ++ 4#3 ++ y)
  | .vredMin v a y => some (l ++ 0b1#1 ++ 0x35#6 ++ v ++ a ++ 0#3 ++ 0#4 ++ 0#4 ++ 5#3 ++ y)
  | .vbcast v s y => some (l ++ 0b1#1 ++ 0x36#6 ++ v ++ 0#3 ++ 0#3 ++ s ++ 0#4 ++ 0#3 ++ y)
  | .vget a s t y => some (l ++ 0b1#1 ++ 0x36#6 ++ 0#3 ++ a ++ 0#3 ++ s ++ t ++ 1#3 ++ y)
  | .vperm v a rb => some (l ++ 0b1#1 ++ 0x36#6 ++ v ++ a ++ rb ++ 0#4 ++ 0#4 ++ 2#3 ++ 0#4)
  | .vpack v a y => some (l ++ 0b1#1 ++ 0x36#6 ++ v ++ a ++ 0#3 ++ 0#4 ++ 0#4 ++ 3#3 ++ y)
  | .vunpack v a y => some (l ++ 0b1#1 ++ 0x36#6 ++ v ++ a ++ 0#3 ++ 0#4 ++ 0#4 ++ 4#3 ++ y)
  | .vgath v a s t y => some (l ++ 0b1#1 ++ 0x36#6 ++ v ++ a ++ 0#3 ++ s ++ t ++ 5#3 ++ y)
  | .vscat a rb s t y => some (l ++ 0b1#1 ++ 0x36#6 ++ 0#3 ++ a ++ rb ++ s ++ t ++ 6#3 ++ y)
  | .vbindPop v s => some (l ++ 0b1#1 ++ 0x37#6 ++ v ++ 0#3 ++ 0#3 ++ s ++ 0#4 ++ 0#4 ++ 0#3)
  | .vbindPush v s => some (l ++ 0b1#1 ++ 0x37#6 ++ v ++ 0#3 ++ 0#3 ++ s ++ 0#4 ++ 0#4 ++ 1#3)
  | .vunbind v => some (l ++ 0b1#1 ++ 0x37#6 ++ v ++ 0#3 ++ 0#3 ++ 0#4 ++ 0#4 ++ 0#4 ++ 2#3)
  | .vfence => some (l ++ 0b1#1 ++ 0x37#6 ++ 0#3 ++ 0#3 ++ 0#3 ++ 0#4 ++ 0#4 ++ 0#4 ++ 3#3)
  -- The rows without a word.
  | _ => none

/-- The word that stands beside a half of a pair when one word alone is asked about: `nop` before a class A word, and
`pmov k0,k0`, which writes nothing, after a class C word. -/
def fillerC : Word32 := 0x00000000#32
def fillerA : Word32 := 0x5A000200#32

/-- A doubleword in which the word `w` stands where its lone flag and class say (R34, R35), and whether it is fetched
at the second word. -/
def frameWord (w : Word32) : Word :=
  if fld w 31 1 == 1#1 then (0#32 ++ w)
  else if fld w 30 1 == 0#1 then (fillerA ++ w)
  else (w ++ fillerC)

/-- The instruction the decoder reads from a word numbered as the opcode table numbers it: the word is laid out in a
doubleword as R33 to R35 have it, and the decoder reads the bundle. -/
def decodeTableWord (nbits w : Nat) : Option Instr :=
  if nbits != 32 then none
  else
    let w := BitVec.ofNat 32 w
    match decodeBundle false (frameWord w) with
    | .ok (.lone i) => some i
    | .ok (.pair i0 i1) => if fld w 30 1 == 0#1 then some i0 else some i1
    | .error _ => none

end Sys2Proof
end

