-- ==== Sys2Proof/Machine/Numbers.lean ====
section
/-! DEFINITION. The floating-point formats and exact rounding (10_formats_arithmetic.md R222 to R227). A finite value is
held exactly, as a sign and a quotient of naturals; each operation computes exactly and rounds once. -/

namespace Sys2Proof.Machine

/-- A floating-point format: exponent bits, mantissa bits, bias (R222). -/
inductive Fmt where
  | f8n | f8w | b16 | f32
  deriving DecidableEq, Repr

def Fmt.m : Fmt → Nat
  | .f8n => 3 | .f8w => 2 | .b16 => 7 | .f32 => 23
def Fmt.e : Fmt → Nat
  | .f8n => 4 | .f8w => 5 | .b16 => 8 | .f32 => 8
def Fmt.bias : Fmt → Nat
  | .f8n => 8 | .f8w => 15 | .b16 => 127 | .f32 => 127
def Fmt.width (f : Fmt) : Nat := 1 + f.e + f.m
/-- Magnitude encodings (R223). -/
def Fmt.inf : Fmt → Nat
  | .f8n => 0x78 | .f8w => 0x7C | .b16 => 0x7F80 | .f32 => 0x7F800000
def Fmt.nan : Fmt → Nat
  | .f8n => 0x79 | .f8w => 0x7E | .b16 => 0x7FC0 | .f32 => 0x7FC00000
def Fmt.maxFinite : Fmt → Nat
  | .f8n => 0x7F | .f8w => 0x7B | .b16 => 0x7F7F | .f32 => 0x7F7FFFFF

/-- A value: NaN (signalling or not), an infinity, or an exact quotient `num / den` with a sign, which a zero has too. -/
inductive Num where
  | nan (signalling : Bool)
  | inf (neg : Bool)
  | fin (neg : Bool) (num den : Nat)
  deriving DecidableEq, Repr

/-- Rounding modes (R12). -/
inductive Mode where
  | rne | rz | ru | rd | stoch
  deriving DecidableEq, Repr

/-- A mode field: 000 RNE, 001 RZ, 010 RU, 011 RD, 100 stochastic. -/
def modeOf (rm : BitVec 3) : Mode :=
  match rm.toNat with
  | 1 => .rz | 2 => .ru | 3 => .rd | 4 => .stoch | _ => .rne

/-- `m · 2^e` as a quotient. -/
def scaled (m : Nat) (e : Int) : Nat × Nat :=
  if 0 ≤ e then (m * 2 ^ e.toNat, 1) else (m, 2 ^ (-e).toNat)

/-- Reads an encoding (R222, R223). -/
def decodeF (f : Fmt) (bits : Nat) : Num :=
  let mag := bits % 2 ^ (f.e + f.m)
  let neg := bits / 2 ^ (f.e + f.m) % 2 == 1
  let frac := mag % 2 ^ f.m
  let ex := mag / 2 ^ f.m
  let isInf := mag == f.inf
  let isNan := match f with
    | .f8n => mag == 0x79
    | _ => decide (f.inf < mag)
  let signalling := match f with
    | .f8n => false
    | .f8w => false
    | _ => frac / 2 ^ (f.m - 1) % 2 == 0
  if isNan then .nan signalling
  else if isInf then .inf neg
  else if ex = 0 then
    let p := scaled frac (1 - f.bias - f.m)
    .fin neg p.1 p.2
  else
    let p := scaled (2 ^ f.m + frac) ((ex : Int) - f.bias - f.m)
    .fin neg p.1 p.2

/-- A finite encoding with exponent field 0 and a mantissa (R222). -/
def subnormal (f : Fmt) (bits : Nat) : Bool :=
  let mag := bits % 2 ^ (f.e + f.m)
  mag != 0 && decide (mag < 2 ^ f.m)

/-- Flushes a subnormal encoding to zero of its sign (R227). -/
def flush (f : Fmt) (on : Bool) (bits : Nat) : Nat :=
  if on && subnormal f bits then bits / 2 ^ (f.e + f.m) % 2 * 2 ^ (f.e + f.m) else bits

/-- ⌊log2 (n / d)⌋ for positive `n`, `d`. -/
def log2q (n d : Nat) : Int :=
  let e : Int := (n.log2 : Int) - d.log2
  let p := scaled d e
  if n * p.2 < p.1 then e - 1 else e

/-- `n / d` in units of 2^q: the whole part, and the rest as a numerator over the given denominator. -/
def unitsOf (n d : Nat) (q : Int) : Nat × Nat × Nat :=
  let nn := if q < 0 then n * 2 ^ (-q).toNat else n
  let dd := if q < 0 then d else d * 2 ^ q.toNat
  (nn / dd, nn % dd, dd)

/-- Whether a magnitude between two neighbours rounds away from zero: `k` the lower neighbour, `r / d` the rest (R225,
R138). -/
def roundsUp (m : Mode) (neg : Bool) (k r d : Nat) (rand : Nat) : Bool :=
  match m with
  | .rne => decide (d < 2 * r) || (2 * r == d && k % 2 == 1)
  | .rz => false
  | .ru => r != 0 && !neg
  | .rd => r != 0 && neg
  | .stoch => decide (2 ^ 32 ≤ r * 2 ^ 32 / d + rand)

/-- A rounded magnitude, and what rounding found. -/
structure Rounded where
  mag : Nat
  overflow : Bool
  inexact : Bool
  tiny : Bool
  deriving DecidableEq, Repr

/-- Rounds the magnitude `n / d` on the grid with lowest unit 2^low (R225). -/
def gridRound (f : Fmt) (m : Mode) (neg : Bool) (n d rand : Nat) (low : Option Int) : Int × Nat × Bool :=
  let e := log2q n d
  let q0 := e - f.m
  let q := match low with
    | some l => max q0 l
    | none => q0
  let (k, r, dd) := unitsOf n d q
  (q, if roundsUp m neg k r dd rand then k + 1 else k, r != 0)

/-- R225: rounds the positive magnitude `n / d` into a format. -/
def roundMag (f : Fmt) (m : Mode) (neg : Bool) (n d rand : Nat) : Rounded :=
  let toInf := match m with
    | .rne => true
    | .ru => !neg
    | .rd => neg
    | _ => false
  if f = .f8n ∧ 120 * d < n ∧ n < 160 * d then
    let up := match m with
      | .rne => decide (140 * d ≤ n)
      | .rz => false
      | .ru => !neg
      | .rd => neg
      | .stoch => decide (2 ^ 32 ≤ 2 ^ 32 * (n - 120 * d) / (40 * d) + rand)
    { mag := if up then 0x7A else 0x77, overflow := false, inexact := true, tiny := false }
  else
    let low : Int := 1 - f.bias - f.m
    let (q, k, inexact) := gridRound f m neg n d rand (some low)
    let enc := (q - low).toNat * 2 ^ f.m + k
    let (q', k', _) := gridRound f m neg n d rand none
    let p := scaled k' q'
    let tiny := decide (p.1 * 2 ^ (f.bias - 1) < p.2)
    if f.maxFinite < enc then
      { mag := if toInf then f.inf else f.maxFinite, overflow := true, inexact := true, tiny := false }
    else { mag := enc, overflow := false, inexact := inexact, tiny := tiny }

/-- Flags that an operation raises (R94). -/
structure FFlags where
  nv : Bool := false
  of : Bool := false
  uf : Bool := false
  nx : Bool := false
  deriving DecidableEq, Repr

/-- An encoding with a sign. -/
def signed (f : Fmt) (neg : Bool) (mag : Nat) : Nat := (if neg then 2 ^ (f.e + f.m) else 0) + mag

/-- Rounds a value into a format, flushes a subnormal result under FZR (R95), and gives the flags of rounding. -/
def roundNum (f : Fmt) (m : Mode) (rand : Nat) (fzr : Bool) (x : Num) : Nat × FFlags :=
  match x with
  | .nan s => (f.nan, { nv := s })
  | .inf neg => (signed f neg f.inf, {})
  | .fin neg n d =>
    if n = 0 then (signed f neg 0, {})
    else
      let r := roundMag f m neg n d rand
      if fzr && subnormal f r.mag then (signed f neg 0, { uf := true, nx := true })
      else (signed f neg r.mag, { of := r.overflow, uf := r.tiny && r.inexact, nx := r.inexact })

/-! ### Exact operations -/

def Num.neg : Num → Num
  | .nan s => .nan s
  | .inf b => .inf (!b)
  | .fin b n d => .fin (!b) n d

def Num.isNan : Num → Bool
  | .nan _ => true
  | _ => false

def Num.signalling : Num → Bool
  | .nan s => s
  | _ => false

def Num.isZero : Num → Bool
  | .fin _ n _ => n == 0
  | _ => false

def Num.sign : Num → Bool
  | .nan _ => false
  | .inf b => b
  | .fin b _ _ => b

/-- A signed quotient as an integer numerator over a denominator. -/
def Num.int : Num → Int × Nat
  | .fin b n d => (if b then -(n : Int) else n, d)
  | _ => (0, 1)

/-- The exact sum; `rd` tells the sign of an exact zero (R94). A NaN result says whether a signalling NaN or an invalid
operation gave it. -/
def Num.add (rd : Bool) (x y : Num) : Num :=
  match x, y with
  | .nan s, .nan t => .nan (s || t)
  | .nan s, _ => .nan s
  | _, .nan t => .nan t
  | .inf a, .inf b => if a = b then .inf a else .nan true
  | .inf a, .fin _ _ _ => .inf a
  | .fin _ _ _, .inf b => .inf b
  | .fin a n d, .fin b p q =>
    let u : Int := (if a then -((n * q : Nat) : Int) else (n * q : Nat)) +
      (if b then -((p * d : Nat) : Int) else (p * d : Nat))
    if u = 0 then (if n = 0 ∧ p = 0 ∧ a = b then .fin a 0 1 else .fin rd 0 1)
    else .fin (decide (u < 0)) u.natAbs (d * q)

/-- The exact product. -/
def Num.mul (x y : Num) : Num :=
  match x, y with
  | .nan s, .nan t => .nan (s || t)
  | .nan s, _ => .nan s
  | _, .nan t => .nan t
  | .inf a, .inf b => .inf (a != b)
  | .inf a, .fin b n _ => if n = 0 then .nan true else .inf (a != b)
  | .fin a n _, .inf b => if n = 0 then .nan true else .inf (a != b)
  | .fin a n d, .fin b p q => .fin (a != b) (n * p) (d * q)

/-- a · b + c with an unrounded product; an invalid product is invalid whatever the addend (R94). -/
def Num.fma (rd : Bool) (a b c : Num) : Num :=
  let p := a.mul b
  match p with
  | .nan true => .nan true
  | _ => p.add rd c

/-- Compares two values that are not NaN: less, with -0 equal to +0. -/
def Num.lt (x y : Num) : Bool :=
  match x, y with
  | .inf true, .inf true => false
  | .inf true, _ => true
  | _, .inf true => false
  | .inf false, _ => false
  | _, .inf false => true
  | x, y => decide (x.int.1 * y.int.2 < y.int.1 * x.int.2)

def Num.eq (x y : Num) : Bool :=
  match x, y with
  | .nan _, _ => false
  | _, .nan _ => false
  | .inf a, .inf b => a == b
  | .inf _, _ => false
  | _, .inf _ => false
  | x, y => decide (x.int.1 * y.int.2 = y.int.1 * x.int.2)

/-- Less, with -0 below +0 (R96). -/
def Num.below (x y : Num) : Bool :=
  if x.isZero && y.isZero then x.sign && !y.sign else x.lt y

/-- Rounds a finite value to an integer (R97, R137): the integer, and whether it was inexact. -/
def roundInt (m : Mode) (rand : Nat) (neg : Bool) (n d : Nat) : Int × Bool :=
  let k := n / d
  let r := n % d
  let mag := if roundsUp m neg k r d rand then k + 1 else k
  (if neg then -(mag : Int) else mag, r != 0)

/-! ### Square root, reciprocal, power of two -/

/-- Integer square root, bit by bit from `2^fuel` down. -/
def isqrtFrom (n : Nat) : Nat → Nat → Nat
  | 0, r => r
  | fuel + 1, r => isqrtFrom n fuel (if (r + 2 ^ fuel) * (r + 2 ^ fuel) ≤ n then r + 2 ^ fuel else r)

def isqrt (n : Nat) : Nat := isqrtFrom n (n.log2 / 2 + 1) 0

/-- √(n / d) to 160 bits below the point: exact, or the middle of the interval in which it lies, which rounds to an F32
or B16 as the root does, since no rounding boundary has so many bits. -/
def sqrtq (n d : Nat) : Nat × Nat :=
  let a := n * 2 ^ 320 / d
  let s := isqrt a
  if n * 2 ^ 320 % d = 0 ∧ s * s = a then (s, 2 ^ 160) else (2 * s + 1, 2 ^ 161)

/-- ln 2 with `p` bits below the point, at most `p` units too small. -/
def ln2Sum (p : Nat) : Nat → Nat
  | 0 => 0
  | k + 1 => ln2Sum p k + 2 ^ p / ((k + 1) * 2 ^ (k + 1))

/-- The terms of e^t, t with `p` bits below the point: `term` is the k-th. -/
def expSum (p t : Nat) : Nat → Nat → Nat → Nat → Nat
  | 0, _, _, acc => acc
  | fuel + 1, k, term, acc => expSum p t fuel (k + 1) (term * t / 2 ^ p / (k + 1)) (acc + term)

/-- 2^(n / d) for 0 ≤ n / d < 1, with `p` bits below the point; the error is less than 2^16 units. -/
def exp2Fixed (p n d : Nat) : Nat := expSum p (n * ln2Sum p p / d) (p / 2 + 20) 0 (2 ^ p) 0

/-- 2^(w + n / d), `n / d` in (0, 1), rounded by RNE: precision rises until both ends of the interval round alike. -/
def exp2Round (f : Fmt) (w : Int) (n d : Nat) : Nat → Nat → Nat
  | 0, p =>
    let a := exp2Fixed p n d
    let q := scaled a (w - p)
    (roundMag f .rne false q.1 q.2 0).mag
  | fuel + 1, p =>
    let a := exp2Fixed p n d
    let lo := scaled (a - 2 ^ 16) (w - p)
    let hi := scaled (a + 2 ^ 16) (w - p)
    let x := (roundMag f .rne false lo.1 lo.2 0).mag
    if x = (roundMag f .rne false hi.1 hi.2 0).mag then x else exp2Round f w n d fuel (2 * p)

/-- R139: 2^y as an F32 encoding. -/
def exp2 (y : Num) : Nat :=
  match y with
  | .nan _ => Fmt.f32.nan
  | .inf neg => if neg then 0 else Fmt.f32.inf
  | .fin neg n d =>
    let w : Int := if neg then -(((n + d - 1) / d : Nat) : Int) else (n / d : Nat)
    let r : Nat := if neg then (n + d - 1) / d * d - n else n % d
    if 128 ≤ w then Fmt.f32.inf
    else if w < -151 then 0
    else if r = 0 then
      let q := scaled 1 w
      (roundMag .f32 .rne false q.1 q.2 0).mag
    else exp2Round .f32 w r d 4 128

/-- R140: 1 / a. -/
def recip (x : Num) : Num :=
  match x with
  | .nan s => .nan s
  | .inf b => .fin b 0 1
  | .fin b n d => if n = 0 then .inf b else .fin b d n

/-- R140: 1 / √a. -/
def rsqrt (x : Num) : Num :=
  match x with
  | .nan s => .nan s
  | .inf b => if b then .nan true else .fin false 0 1
  | .fin b n d =>
    if n = 0 then .inf b
    else if b then .nan true
    else let q := sqrtq d n
      .fin false q.1 q.2

/-! ### Element types (02_encoding.md R54) -/

/-- Width of a type code 0x0 to 0x9. -/
def typeWidth (t : BitVec 4) : Nat :=
  match t.toNat with
  | 0 | 1 | 8 | 9 => 8
  | 2 | 3 | 6 => 16
  | _ => 32

/-- Signed integer types. -/
def typeSigned (t : BitVec 4) : Bool := t == 0#4 || t == 2#4 || t == 4#4

def typeFloat (t : BitVec 4) : Option Fmt :=
  match t.toNat with
  | 6 => some .b16
  | 7 => some .f32
  | 8 => some .f8n
  | 9 => some .f8w
  | _ => none

/-- A value of `w` bits as an integer. -/
def toInt (sgn : Bool) (w : Nat) (v : Nat) : Int :=
  let u := v % 2 ^ w
  if sgn && decide (2 ^ (w - 1) ≤ u) then (u : Int) - 2 ^ w else u

/-- An integer as `w` bits. -/
def ofInt (w : Nat) (v : Int) : Nat := (v % 2 ^ w).toNat

/-- R128: a result of a type, extended to a lane. -/
def extendLane (t : BitVec 4) (v : Nat) : BitVec 32 :=
  let w := typeWidth t
  if typeSigned t then BitVec.ofInt 32 (toInt true w v) else BitVec.ofNat 32 (v % 2 ^ w)

/-- Clamps to a range. -/
def clampInt (lo hi v : Int) : Int := if v < lo then lo else if hi < v then hi else v

/-- R86, R92: shifts at a width. -/
def shlAt (w a s : Nat) : Nat := if w ≤ s then 0 else a * 2 ^ s % 2 ^ w
def shrAt (w a s : Nat) : Nat := if w ≤ s then 0 else a % 2 ^ w / 2 ^ s
def sarAt (w a s : Nat) : Nat := ofInt w (toInt true w a / 2 ^ (min s (w - 1)))

end Sys2Proof.Machine
end

