-- ==== Sys2Proof/Config.lean ====
section
/-! DEFINITION. What the spec leaves open as a value, and what a deployment fixes: opaque constants, so that no proof
can rest on a value of one. Each is named in the assumption log. -/

namespace Sys2Proof.Config

/-- A value the spec leaves open, one for each reading of the State's counter of free values (log entry 2). -/
opaque freeValue : Nat → BitVec 64

/-- Whether a signed table or image in a firmware bank verifies under both signatures (R383, R394); the contents of
keys and signatures are not in the spec. -/
opaque signatureOk : List (BitVec 8) → Bool

/-- Whether the boot ROM can read a signed table from a bank (R383). -/
opaque tableReadable : List (BitVec 8) → Bool

/-- Where the parts of a domain's initial state lie in its record, in dwords (R379): 0 the stage-1 root, 1 HTBASE, 2 HTLEN, 3 dcb,
4 tvec, 5 the save-area record of R356. -/
opaque statePlace : Nat → Nat

/-- SHA-384 (R393). -/
opaque sha384 : List (BitVec 8) → List (BitVec 8)

/-- The firmware column's width that the signed configuration table names (R354), 1 to 4 when the table is good. -/
opaque tableWidth : List (BitVec 8) → Nat

/-- The table's role map: the role, 0 to 5, of the n-th column core (R354). -/
opaque tableRole : List (BitVec 8) → Nat → Nat

/-- The number of host-list entries of the table (R383). -/
opaque tableHosts : List (BitVec 8) → Nat

/-- The host-list entry that a certificate matches, as its MAXPRIO, if it matches one (R381). -/
opaque hostPrio : List (BitVec 8) → List (BitVec 8) → Option (BitVec 8)

/-- The security version of a firmware image (R385, R394). -/
opaque imageSvn : List (BitVec 8) → BitVec 32

/-- The body of an SPDM response (R393): the layouts belong to the SPDM specification, not to this one. Arguments:
the request code, the request's bytes and the measured contents. -/
opaque spdmBody : Nat → List (BitVec 8) → List (BitVec 8) → List (BitVec 8)

end Sys2Proof.Config
end

