-- ==== Sys2Proof/Machine/State.lean ====
section
/-! DEFINITION. The state of the machine: plain data, everything the spec names (INVENTORY.md, State). Records of which
the part holds many (cores, combs, domains ...) are lists keyed by number, in which a number that is not listed stands
for the record's reset value. The machine right after reset stands at the end. -/

namespace Sys2Proof.Machine

/-- Why the machine stops with a fault. There is no reason: every case the spec describes (a trap, a kill, a report,
a wait, a halt of the part) is a next state. Safe. -/
inductive Fault where
  deriving DecidableEq, Repr

/-- Why an instruction has no meaning. -/
inductive Refusal where
  /-- The instruction's meaning is not written. Raised by Dispatch alone. Safe: nothing is claimed about it. -/
  | notModelled (mnemonic : String)
  deriving DecidableEq, Repr

/-- Why a bundle, or the thread after its bundle, waits out of rotation (R281 and the rules it lists). -/
inductive Wait where
  /-- A condition of the state that the bundle tests again when it issues again. -/
  | cond
  /-- The bundle has issued and parks its slot on a condition, or its answer has come: it retires once the condition
  holds (R110, R112, R117, R119, R120, R284). -/
  | held
  /-- A plain access in flight (R103). -/
  | access
  /-- A page request's reply (R101), for the page of this VD; the address that missed. -/
  | page (vd : VdNo) (page : BitVec 36) (va : Word)
  /-- The reply has refused the page: FAULT_S2 is raised in place of the bundle (R101, R369). -/
  | refused (va : Word)
  /-- `wchg`: a watch entry on the word, or a poll every 256 cy (R113). -/
  | watch (addr : Nat)
  | poll (addr : Nat)
  /-- `nap` until the cycle (R122). -/
  | sleep (until_ : Word)
  /-- A lease request at the comb's arbiter (R157, R160). -/
  | lease
  /-- The answer to a `spawn` (R193). -/
  | spawn
  /-- The close of a stage (R204). -/
  | closing
  /-- A stage worker with no ready record (R197). -/
  | record
  /-- Draining before it leaves its slot (R114, R286). -/
  | leaving
  deriving DecidableEq, Repr

/-- What became of the word that exec ran last (the model's own field). -/
inductive Mark where
  | retired
  | parked
  | trapped (c : Cause)
  deriving DecidableEq, Repr

/-- Where the word that exec runs stands (R35): alone, or as word 0 or word 1 of a pair. -/
inductive Pos where
  | lone | w0 | w1
  deriving DecidableEq, Repr

/-- The binding of a vector register to a stream (R22, R131). -/
structure Stream where
  bound : Bool := false
  push : Bool := false
  desc : Word := 0
  pos : Word := 0
  deriving DecidableEq, Repr

/-- The binding of one of x8 to x13 as a port (R23). -/
structure Port where
  bound : Bool := false
  push : Bool := false
  kind : BitVec 2 := 0
  target : Word := 0
  deriving DecidableEq, Repr

/-- 32 lanes of 32 bits (R22). -/
abbrev Lanes := Vector Word32 32

/-- A vector command in progress (R126, R129, R132). -/
structure VCmd where
  instr : Instr
  xs : Word
  xt : Word
  rm : BitVec 3
  fzs : Bool
  fzr : Bool
  /-- Domain that issued the command (R146). -/
  dom : DomNo
  /-- Its descriptors have been read: the bound registers it names with their descriptor dwords, and its length. -/
  started : Bool := false
  descs : List (VReg × List Word) := []
  len : Nat := 0
  /-- The descriptors that it names are still to be read: plain loads of the thread, before everything that follows
  (R240, R245). -/
  unread : Bool := false
  /-- A trap entry or return has come behind it: the thread's later accesses wait for its end (R251). -/
  gated : Bool := false
  /-- Elements done, and elements reduced so far. -/
  done : Nat := 0
  elems : List Word32 := []
  /-- Lanes of a gather or scatter still to be performed (R144, R145). -/
  todo : BitVec 32 := 0xFFFFFFFF
  /-- Pages on whose walks its lanes or elements wait: a page of a domain (R339, R340). -/
  waits : List (DomNo × BitVec 36) := []
  /-- The v registers as the bundle found them, where word 0 of the pair has cleared them (R36). -/
  old : Option (Vector Lanes 8) := none
  /-- It has ended, with its last effect done (R129). -/
  finished : Bool := false
  deriving DecidableEq, Repr

/-- A domain-stack entry (R25). -/
structure Entry where
  cdom : DomNo
  gdom : DomNo
  depth : BitVec 4
  nwin : BitVec 3
  grant : BitVec 2
  retpc : Word
  gbase : Word
  glen : Word
  ecyc : Word
  gate : BitVec 32
  cframe : Word
  deriving DecidableEq, Repr

/-- A context block that a thread holds in a domain: its number, and the physical addresses of its two 64 KiB pages
as the part recorded them (R356). -/
structure Block where
  dom : DomNo
  index : Nat
  lo : Nat
  hi : Nat
  deriving DecidableEq, Repr

/-- A pending report: of kind 2, 3 or 4 for a domain, its payload words (R118, R146). -/
structure Report where
  kind : BitVec 4
  dom : DomNo
  w0 : Word
  w1 : Word
  deriving DecidableEq, Repr

/-- What an orphaned thread has left to run on (R319, R320). -/
structure Orphan where
  budget : BitVec 32
  /-- chg when the budget began. -/
  since : Word
  /-- The abandon handler runs, on the second budget. -/
  second : Bool
  deriving DecidableEq, Repr

/-- The stage worker a thread is (R197): its core, the stage's handle slot identity there, the key of the coroutine
that runs, and whether it runs the retire entry. -/
structure Worker where
  core : CoreNo
  stage : Nat
  key : Option Word
  deriving DecidableEq, Repr

/-- Where a thread is (R289, R316). -/
inductive Place where
  /-- No such thread, or it has ended. -/
  | gone
  | slot (core : CoreNo) (n : SlotNo)
  | arrival (core : CoreNo)
  | cached (core : CoreNo)
  /-- In the save area, on the spill list of a core (R289, R359). -/
  | spilled (core : CoreNo)
  /-- A migration message to a core (R287). -/
  | travelling (core : CoreNo)
  deriving DecidableEq, Repr

/-- A migration message on its way (R371): the core that it left, the NACKs it has received, the cycle from which it is sent again, and
a refusal that is not yet answered. -/
structure Trip where
  from_ : CoreNo := 0
  nacks : Nat := 0
  due : Word := 0
  refused : Bool := false
  deriving DecidableEq, Repr

/-- A thread (R6 to R27). -/
structure Thread where
  num : ThreadNo := 0
  place : Place := .gone
  /-- While it travels: its migration message. -/
  trip : Trip := {}
  x : Vector Word 16 := Vector.replicate 16 0
  /-- Predicate word; bit 0 is 1 (R8). -/
  pw : BitVec 8 := 1
  pc : Word := 0
  cb : Word := 0
  st : Word := 0
  taint : BitVec 16 := 0
  /-- Outstanding-operation counters (R16). -/
  ldo : Nat := 0
  sto : Nat := 0
  cpo : Nat := 0
  tlo : Nat := 0
  /-- Pending destinations (R105, R142). -/
  pend : BitVec 16 := 0
  /-- Shadow registers (R18). -/
  fmtA : BitVec 4 := 0
  fmtB : BitVec 4 := 0
  scA : Word := 0
  scB : Word := 0
  scC : Word := 0
  /-- Agreement registers (R20). -/
  agv : Word32 := 0x3F000000
  agc : BitVec 16 := 0x8000
  cen : Bool := false
  v : Vector Lanes 8 := Vector.replicate 8 (Vector.replicate 32 0)
  streams : Vector Stream 8 := Vector.replicate 8 {}
  ports : Vector Port 6 := Vector.replicate 6 {}
  vcmd : Option VCmd := none
  /-- The result FIFO of the slot, and the dwords collected for its command port (R192). -/
  result : List Word := []
  cmdWords : List Word := []
  /-- DOMID, BOTDOM, VDID and CHGVD of the dom register (R26). -/
  dom : DomNo := 0
  botdom : DomNo := 0
  vdid : VdNo := 0
  chgvd : VdNo := 0
  /-- DEPTH, and the top entry of the domain stack; deeper entries lie in the hardware page (R25, R32). -/
  depth : BitVec 4 := 0
  top : Option Entry := none
  /-- Physical address of the gate descriptor through which each entry was pushed, by depth; 0 for `hcall` (R313). -/
  gates : List (Nat × Nat) := []
  /-- The hardware page: its number and physical address (R32, R356). -/
  hwIndex : Nat := 0
  hwPage : Option Nat := none
  blocks : List Block := []
  chg : Word := 0
  /-- Trap registers (R28, R217, R219), and the depths at which a trap frame is open (R221). -/
  tcause : Word := 0
  epc : Word := 0
  tval : Word := 0
  est : Word := 0
  trapOpen : BitVec 9 := 0
  /-- Port bindings suspended by a trap entry, by depth (R219, R221). -/
  susp : List (Nat × Vector Port 6) := []
  evsel : Word := 0
  evcnt : Word := 0
  /-- Lease intent: extent (true for the whole array) and class (R157). -/
  intent : Option (Bool × BitVec 3) := none
  orphan : Option Orphan := none
  /-- The deferral of R315 has run out for this top entry; the cycle in which it began. -/
  deferOver : Bool := false
  deferSince : Option Word := none
  worker : Option Worker := none
  /-- Packet number (0 for a spawned thread) and launch core (R287, R292). -/
  pkt : BitVec 32 := 0
  lcore : CoreNo := 0
  /-- VD of its packet, to which it is reported (R293). -/
  pvd : VdNo := 0
  /-- A kind-4 message was received (R293, ERR bit ECC). -/
  eccSeen : Bool := false
  reports : List Report := []
  /-- An access of the part to one of its records has failed: it is killed (R299, R358). -/
  lost : Bool := false
  /-- A reset or an abort has doomed it: it is killed once its accesses are over, and this says whether its done report
  tells (R321, R351, R384). -/
  doom : Option Bool := none
  wait : Option Wait := none
  /-- Served by the normaliser, or queued for it (R98). -/
  norm : Bool := false
  /-- The doubleword of a bundle that has issued and has not retired (R110 and its like), and the cycle in which the last
  wait ended: the slot is ready from the next one on (R281). -/
  inHand : Option Word := none
  rejoin : Option Word := none
  /-- Where the access of the bundle in hand stands at the ports of its homes: behind what its core has sent there before
  this number; the physical addresses of its bytes (R284, R302, R327). -/
  stands : Option (Nat × List Nat) := none
  /-- Word 0 of the bundle in hand has acted, and word 1 waits for it (R36, R248). -/
  halfway : Bool := false
  /-- Address of the last retired bundle (R273). -/
  lastPc : Word := 0
  /-- Matrix flags that enter st at the end of the cycle, or, of a thread that stands in no slot, when it takes one (R15,
  R333). -/
  lateFlags : Word := 0
  /-- Target of a hop that has retired (R114, R115), and whether it waits for oc = 0 or for LDO = STO = 0 alone. -/
  leaving : Option (CoreNo × Bool) := none
  /-- The answer of a spawn that has arrived (R193). -/
  answer : Option Bool := none
  /-- The result of a `kclose` that has ended (R204). -/
  closed : Option Word := none
  /-- A grant, tile status or invalidation that the parked bundle waited for has come. -/
  granted : Bool := false
  deriving DecidableEq, Repr

/-- A mailbox entry (R118, R209). -/
structure Mail where
  thread : ThreadNo
  dom : DomNo
  header : Word
  payload : List Word
  deriving DecidableEq, Repr

/-- A slot queue: its elements, oldest first, and its two bindings (R191). -/
structure SlotQueue where
  elems : List Word := []
  popper : Option ThreadNo := none
  pusher : Option ThreadNo := none
  deriving DecidableEq, Repr

/-- A copy command: what its word named, its block and the thread it is for (R178 to R189). -/
structure Copy where
  /-- 0 xcopy, 1 xcopyv, 2 xgather, 3 xscatter, 4 xfill, 5 xdeal. -/
  op : BitVec 3
  thread : ThreadNo
  dom : DomNo
  block : List Word
  post : Bool
  barrier : Option Word
  /-- The end that a promise estimate assumes (R185). -/
  estimate : Word
  /-- It came through a command port (R192). -/
  viaPort : Bool := false
  /-- The number before which the accesses of its thread come first (R188). -/
  num : Nat := 0
  /-- Chunks done, bytes written or pushed, and what has been read and not yet used: the elements of a chunk for the result
  port, the mask, the source of `xcopyv` (R181, R182, R192). -/
  chunk : Nat := 0
  bytes : Nat := 0
  buffer : List Byte := []
  /-- A remote side: the transport has been asked, and chunks that it will still take (R184). -/
  sending : Bool := false
  left : Nat := 0
  /-- STATUS and INFO of a command whose barrier decrement alone is left (R187). -/
  ending : Option (Nat × Word) := none
  /-- Its block was found to end it with DESC when it was accepted (R183). -/
  desc : Bool := false
  /-- Pages it is held for, and whether the reply has refused the page (R181). -/
  held : List (VdNo × BitVec 36 × Bool) := []
  deriving DecidableEq, Repr

/-- A `spawn` on its way or stored (R193, R11). -/
structure SpawnReq where
  spawner : ThreadNo
  from_ : CoreNo
  seeds : List Word
  pc : Word
  cb : Word
  st : Word
  shadow : BitVec 4 × BitVec 4 × Word × Word × Word
  agree : Word32 × BitVec 16 × Bool
  dom : DomNo
  vd : VdNo
  retry : Bool
  /-- NACKs received, the cycle from which it may be sent again, and a refusal that is not yet answered (R371). -/
  nacks : Nat := 0
  due : Word := 0
  refused : Bool := false
  /-- The cycle in which it was stored. -/
  came : Word := 0
  deriving DecidableEq, Repr

/-- A launch request, on its way or in a launch table (R291): threads still to start. -/
structure LaunchReq where
  vd : VdNo
  dom : DomNo
  pkt : BitVec 32
  entry : Word
  seeds : List Word
  fmtA : BitVec 4
  fmtB : BitVec 4
  scA : Word
  scB : Word
  scC : Word
  left : Nat
  came : Word := 0
  deriving DecidableEq, Repr

/-- A launch core's part of a packet (R292, R293). -/
structure PktPart where
  vd : VdNo
  pkt : BitVec 32
  /-- Threads to be counted, and counted. -/
  quota : Nat
  counted : Nat
  err : BitVec 16
  fin : Word
  /-- COUNT of this core and of the children that have reported. -/
  count : BitVec 32
  children : Nat
  parent : Option CoreNo
  deriving DecidableEq, Repr

/-- A done message on its way: to a core, or to the front end (R293). -/
structure Done where
  dest : Option CoreNo
  vd : VdNo
  pkt : BitVec 32
  err : BitVec 16
  count : BitVec 32
  fin : Word
  deriving DecidableEq, Repr

/-- A quit notice on its way to a launch core (R292). -/
structure QuitNote where
  dest : CoreNo
  vd : VdNo
  pkt : BitVec 32
  err : BitVec 16
  fin : Word
  deriving DecidableEq, Repr

/-- A message staged in a core's network interface (R117, R199, R371): an `msend` or a `kput` record. -/
structure Msg where
  sender : ThreadNo
  dom : DomNo
  /-- The destination word, or the stage's handle with its core and index. -/
  dest : Word
  stage : Option (CoreNo × Nat)
  payload : List Word
  /-- NACKs received, and the cycle from which it may be sent again. -/
  nacks : Nat
  due : Word
  /-- The destination has refused it, and the NACK has not yet been answered. -/
  refused : Bool
  /-- The number under which it was staged: the order sent (R117, R199). -/
  num : Nat := 0
  deriving DecidableEq, Repr

/-- A keyed stage (R195 to R205). -/
structure Stage where
  id : Nat
  dom : DomNo
  vd : VdNo
  hslot : BitVec 20
  gen : BitVec 12
  entry : Word
  retire : Word
  initMask : BitVec 16
  initVals : List Word
  spill : Word
  spn : Nat
  idle : BitVec 32
  limit : Nat
  workers : List ThreadNo
  /-- RM, FZS and FZR bits, and shadow registers, of the opener. -/
  stBits : Word
  shadow : BitVec 4 × BitVec 4 × Word × Word × Word
  queue : List (List Word) := []
  closing : Option ThreadNo := none
  spfull : Bool := false
  refusedFlag : Bool := false
  failFlag : Bool := false
  counts : List Word := [0, 0, 0, 0, 0, 0]
  /-- Keys spilled, with the age of each, and entries retired by a close. -/
  spilled : List (Word × BitVec 32) := []
  retiredByClose : Word := 0
  /-- Pages that its spill area waits for, and whether the reply has refused the page (R201). -/
  held : List (VdNo × BitVec 36 × Bool) := []
  /-- Keys whose record (false) or retirement (true) waits because its spill-area access failed or found the area full:
  it is tried again when a later record or retirement needs it (R201). -/
  failed : List (Word × Bool) := []
  deriving DecidableEq, Repr

/-- What a brood-store entry is doing (R200). -/
inductive BroodLife where
  | idle | running | retiring | spilling | fetching
  deriving DecidableEq, Repr

/-- A brood-store entry (R198). -/
structure Brood where
  stage : Nat
  key : Word
  pc : Word
  pw : BitVec 8
  mask : BitVec 16
  regs : List Word
  age : Word
  life : BroodLife
  deriving DecidableEq, Repr

/-- The next access of a decision's spill-area traffic (R200): a probe read for the key, with the records left; the write of ST to the
record found; a probe read along the victim's path; the spill write. -/
inductive SpillStep where
  | look (i left : Nat)
  | vacate (i : Nat) (ws : List Word)
  | room (i left : Nat)
  | put (i : Nat)
  deriving DecidableEq, Repr

/-- A decision of the brood store whose spill-area traffic is not over (R200): the stage, the worker that takes the item, the
item (key and payload words), whether it is a retirement, and the cycle of the decision. -/
structure Decision where
  stage : Nat
  worker : ThreadNo
  item : List Word
  retire : Bool
  at_ : Word
  /-- The victim still to be spilled: its stage and key. -/
  victim : Option (Nat × Word)
  next : Option SpillStep := none
  /-- The record whose ST has been written, and the entry that is installed at the end. -/
  vacated : Option Nat := none
  entry : Option Brood := none
  deriving DecidableEq, Repr

/-- A core: its slots' shared things (R277 to R295, R118, R177, R191, R195, R255, R354, R389). -/
structure Core where
  num : CoreNo
  lastCompute : SlotNo := 15
  /-- Cycle of the forager slot's last turn, of the last issue of any slot, and of each slot's last issue (R281, R282). -/
  lastForager : Option Word := none
  lastTurn : Option Word := none
  slotIssue : List (SlotNo × Word) := []
  disabled : BitVec 16 := 0
  /-- For a slot that has yielded, the slots it still lets go first (R215). -/
  yields : List (SlotNo × BitVec 16) := []
  mailbox : List Mail := []
  queues : Vector SlotQueue 8 := Vector.replicate 8 {}
  fifo : List Copy := []
  engine : Option Copy := none
  /-- The cycle in which the engine's last command completed (R181). -/
  engineFree : Option Word := none
  spawnStore : List SpawnReq := []
  launchTable : List LaunchReq := []
  parts : List PktPart := []
  retry : List Msg := []
  stages : List Stage := []
  brood : List Brood := []
  /-- Decisions in progress, at most one of each worker (R200). -/
  decisions : List Decision := []
  nextStage : Nat := 0
  arrivals : List ThreadNo := []
  cache : List ThreadNo := []
  spills : List ThreadNo := []
  /-- Trace ring (R255 to R257): trctl's EN, STOP and LOST; ranges; selector; entries oldest first; HEAD. -/
  trEn : Bool := false
  trStop : Bool := false
  trLost : BitVec 16 := 0
  trHead : BitVec 12 := 0
  trWins : Vector Word 4 := Vector.replicate 4 0
  trSel : BitVec 12 := 0
  trRing : List (Word × Word) := []
  fcfw : BitVec 5 := 1
  temp : BitVec 8 := 0
  hot : BitVec 8 := 95
  cool : BitVec 8 := 85
  /-- hsel, fsel and rksel as written from this core (R372; log entry 8). -/
  hsel : Word := 0
  fsel : Word := 0
  rksel : Word := 0
  norm : List ThreadNo := []
  /-- The VD whose slice it is, the VD to which it is being handed over, and the slots handed over (R352, R353). -/
  sliceVd : Option VdNo := none
  nextVd : Option VdNo := none
  handed : BitVec 16 := 0
  /-- The slot at which the pointer of the handover stands (R353). -/
  pointer : SlotNo := 0
  /-- Threads that the pre-emption engine has been asked to save, in the order of request (R360). -/
  saves : List ThreadNo := []
  /-- Core time of each VD in the current 100 ms period (R352). -/
  share : List (VdNo × Nat) := []
  sliceStart : Word := 0
  deriving DecidableEq, Repr

/-- A granted lease (R157 to R161). -/
structure Grant where
  thread : ThreadNo
  core : CoreNo
  whole : Bool
  quarter : BitVec 2
  entered : Nat
  since : Word
  /-- The holder has given it up; it ends when its operations have completed. -/
  ending : Bool
  deriving DecidableEq, Repr

/-- A pending lease request (R158). -/
structure LeaseReq where
  thread : ThreadNo
  core : CoreNo
  whole : Bool
  cls : BitVec 3
  bypassed : Nat
  /-- The only quarter it may receive (R157). -/
  only : Option (BitVec 2)
  deriving DecidableEq, Repr

/-- An accumulator slot that is not free (R162): of sub-array `sub`, number `n`. Thread number 0 is a killed owner. -/
structure Acc where
  sub : BitVec 2
  n : BitVec 4
  thread : ThreadNo
  dom : DomNo
  core : CoreNo
  slot : SlotNo
  parked : Bool
  split : Bool
  /-- None until an operation gives the type: F32, or I32 (`some true`). -/
  i32 : Option Bool
  err : Bool
  ecause : BitVec 3
  elems : List Word32
  /-- On the even half of a split slot, cP and cN of each element. -/
  counts : List (BitVec 16 × BitVec 16)
  deriving DecidableEq, Repr

/-- One column slice of the B-SRAM (R151): its tag and the step rows that are not all 0. -/
structure Slice where
  num : BitVec 6
  tag : DomNo
  rows : List (Nat × List Byte)
  deriving DecidableEq, Repr

/-- A tensor as a descriptor gives it, read at issue (R155). -/
structure Tensor where
  handle : BitVec 32
  base : Word
  fmt : BitVec 4
  scm : BitVec 3
  sp : Bool
  scale : Word
  dir : Word
  d0 : Nat
  d1 : Nat
  d2 : Nat
  d3 : Nat
  s1 : Int
  s2 : Int
  s3 : Int
  deriving DecidableEq, Repr

/-- Flags a drain sets (R174). -/
structure MFlags where
  mz : Bool := false
  mrovf : Bool := false
  mcsat : Bool := false
  deriving DecidableEq, Repr

/-- A tile operation in a comb's queues, with what it latched at issue (R167). -/
structure TileOp where
  /-- The number under which it issued: the order of issue (R168). -/
  num : Nat := 0
  instr : Instr
  thread : ThreadNo
  core : CoreNo
  dom : DomNo
  subs : List (BitVec 2)
  /-- A or the source, B, destination. -/
  a : Option Tensor
  b : Option Tensor
  pattern : Word
  random : Word
  rm : BitVec 3
  fzs : Bool
  fzr : Bool
  agv : Word32
  agc : BitVec 16
  cen : Bool
  started : Bool
  /-- It counts in its thread's TLO: until the thread is saved (R168). -/
  counted : Bool := true
  /-- The sub-arrays whose slot holds I32 at a drain's issue (R174). -/
  i32 : List (BitVec 2) := []
  /-- Pages it is held for, and whether the reply has refused the page (R170). -/
  held : List (VdNo × BitVec 36 × Bool) := []
  /-- K steps, elements or blocks done (R159, R170). -/
  step : Nat := 0
  /-- The audit unit's P and N of each output so far (R238), and the flags of the elements drained so far (R174). -/
  refs : List (Word32 × Word32) := []
  flags : MFlags := {}
  deriving DecidableEq, Repr

/-- An audit that is due: its record's body but for the count of skipped audits, computed from what the operation had
decoded (R237, R238). -/
structure AuditJob where
  d2 : Word
  d3 : Word
  d4 : Word
  d5 : Word
  deriving DecidableEq, Repr

/-- A cached translation: a VA page of a domain to a physical page with its rights, and the IPA page and VD it was
derived from (R365, R366). -/
structure Tlb where
  dom : DomNo
  page : BitVec 36
  vd : VdNo
  ipa : BitVec 36
  phys : BitVec 36
  r : Bool
  w : Bool
  x : Bool
  /-- IPA pages of the stage-1 tables it was read from. -/
  via : List (BitVec 36) := []
  deriving DecidableEq, Repr

/-- A cached stage-2 entry: an IPA page of a VD, and the level of its leaf (R365). -/
structure Tlb2 where
  vd : VdNo
  ipa : BitVec 36
  phys : BitVec 36
  r : Bool
  w : Bool
  x : Bool
  level : BitVec 2
  deriving DecidableEq, Repr

/-- Rights of a leaf, or of a translation (R364). -/
structure Rights where
  r : Bool
  w : Bool
  x : Bool
  deriving DecidableEq, Repr

/-- Where a walk stands (R339, R340): at the stage-1 table of a level, or at an output whose stage-1 rights are known;
with the table pages passed so far (IPA page, physical page, rights, level of the stage-2 leaf). -/
inductive WalkAt where
  | table (level table : Nat) (via : List (Nat × Nat × Rights × Nat))
  | output (ipa : Nat) (rights : Rights) (via : List (Nat × Nat × Rights × Nat))
  deriving DecidableEq, Repr

/-- A walk of a hive's pool (R339, R365): the page of a domain, the combs that missed, the first miss, and, once it has
stopped at stage 2, where it stands and the IPA page whose reply it waits for. -/
structure Walk where
  hive : BitVec 4
  combs : List CombNo
  dom : DomNo
  page : BitVec 36
  thread : ThreadNo
  core : CoreNo
  va : Word
  kind : BitVec 2
  held : Option (VdNo × BitVec 36) := none
  at_ : Option WalkAt := none
  /-- What it has missed: the IPA, the level, and whether it is a stage-1 table (R367). -/
  missed : Option (Nat × Nat × Bool) := none
  deriving DecidableEq, Repr

/-- A comb (R149 to R170, R237, R365). -/
structure Comb where
  num : CombNo
  grants : List Grant := []
  requests : List LeaseReq := []
  lastCore : BitVec 3 := 7
  accs : List Acc := []
  slices : List Slice := []
  queue : List TileOp := []
  /-- BERR and BCAUSE of a thread (R166). -/
  berr : List (ThreadNo × BitVec 3) := []
  seq : BitVec 32 := 0
  auEn : Bool := true
  auExp : BitVec 5 := 12
  audit : Option AuditJob := none
  skipped : Nat := 0
  /-- Threads whose active slots on this comb park once their operations in flight have completed (R164). -/
  parking : List ThreadNo := []
  tlb : List Tlb := []
  tlb2 : List Tlb2 := []
  deriving DecidableEq, Repr

/-- A hive: its thermal ranking table, by entry, and displacements since its last record (R387, R389). -/
structure Hive where
  num : BitVec 4
  rank : List (BitVec 6 × Word) := []
  displaced : Nat := 0
  deriving DecidableEq, Repr

/-- The life of a domain (R310). -/
inductive Life where
  | absent | live | dying | dead
  deriving DecidableEq, Repr

/-- What the loader records of a domain's image (R269, R273): `.text` base and size, safe-point table and its length. -/
structure Image where
  text : Word
  size : Word
  safe : Word
  safeLen : Nat
  deriving DecidableEq, Repr

/-- An export the loader has published (R271, R314): its name, and the entry words it gives a handle. -/
structure Export where
  name : List Byte
  w0 : Word
  w1 : Word
  deriving DecidableEq, Repr

/-- A domain (R309, R356). -/
structure Domain where
  num : DomNo
  vd : VdNo := 0
  life : Life := .absent
  s1root : Word := 0
  htbase : Nat := 0
  htlen : Nat := 0
  dcb : Word := 0
  tvec : Word := 0
  svbase : Word := 0
  svn : Nat := 0
  hwbase : Nat := 0
  hwn : Nat := 0
  bmap : Nat := 0
  hyp : Bool := false
  launch : Bool := false
  image : Option Image := none
  exports : List Export := []
  deriving DecidableEq, Repr

/-- An offer of a gate or stage to a domain (R312, R314). -/
structure Offer where
  odom : DomNo
  target : DomNo
  name : List Byte
  w0 : Word
  w1 : Word
  /-- The number of the stage that a stage entry stands for. -/
  stage : Nat := 0
  deriving DecidableEq, Repr

/-- A pending page request (R367). -/
structure PageReq where
  req : BitVec 32
  ipa : BitVec 36
  level : BitVec 2
  kind : BitVec 2
  core : CoreNo
  dom : DomNo
  va : Word
  thread : ThreadNo
  cyc : BitVec 32
  posted : Bool
  /-- The reply has mapped it, and its waiters have not yet walked again. -/
  mapped : Bool
  deriving DecidableEq, Repr

/-- A data-endpoint entry (R378). -/
structure DataEp where
  entry : BitVec 6
  dom : DomNo
  rights : BitVec 2
  base : Word
  len : Word
  deriving DecidableEq, Repr

/-- A remote-endpoint entry (R184, R379). -/
structure RemoteEp where
  entry : BitVec 8
  dom : DomNo
  rights : BitVec 2
  peer : Bool
  fabric : Word
  endpoint : BitVec 16
  base : Word
  len : Word
  deriving DecidableEq, Repr

/-- A queue of packets (R345). -/
structure PktQueue where
  num : BitVec 4
  prio : BitVec 3
  packets : List (List Word) := []
  deriving DecidableEq, Repr

/-- A graph: its packets, patch table and the patch sets in use (R348, R349). -/
structure Graph where
  num : BitVec 6
  packets : List (List Word)
  patches : List Word
  sets : List (Nat × List Word)
  /-- Numbers of the packets that ask for it to be freed once none of its sets is in use (R350, operation 4). -/
  freeing : List (BitVec 32) := []
  deriving DecidableEq, Repr

/-- A packet that is being dispatched or runs (R346, R347, R351). -/
structure Active where
  pkt : BitVec 32
  queue : BitVec 4
  caddr : Word
  cep : BitVec 16
  /-- The launch packet it sends next, cores still to be sent, and packets of the chain behind it. -/
  launch : List Word
  cores : List CoreNo
  allCores : List CoreNo
  chain : List (List Word)
  graph : Option (BitVec 6 × Nat)
  err : BitVec 16
  count : BitVec 32
  fin : Word
  partial_ : Bool
  waiting : Bool
  /-- The rest of its chain has been cut off: a record of its own follows (R351). -/
  rest : Bool := false
  deriving DecidableEq, Repr

/-- A queue whose destruction waits for packets that it runs (R351): its number, whether in abort mode, the packets behind, and the
numbers of those that run. The number may name a new queue meanwhile. -/
structure QueueEnd where
  queue : BitVec 4
  abort : Bool
  rest : List (List Word)
  awaits : List (BitVec 32)
  deriving DecidableEq, Repr

/-- A VD (R309, R343 to R355, R367, R372, R376 to R382). -/
structure Vd where
  num : VdNo
  /-- VDST: 0 absent, 1 running, 2 paused, 3 resetting. -/
  st : BitVec 2 := 0
  combs : BitVec 128 := 0
  hives : BitVec 16 := 0
  quota : BitVec 12 := 0
  s2root : Vector Word 4 := Vector.replicate 4 0
  pqbase : Word := 0
  pqsz : BitVec 4 := 0
  pqhead : Word := 0
  pqtail : Word := 0
  splbase : Word := 0
  /-- Spill-ring entries in use, by ring position (R359). -/
  spills : List (Nat × ThreadNo) := []
  pend : List PageReq := []
  nextReq : BitVec 32 := 1
  dataEps : List DataEp := []
  remoteEps : List RemoteEp := []
  feat0 : Word := 0
  feat1 : Word := 0
  firstPkt : Bool := false
  gtoff : Word := 0
  /-- Cycles of R382's C so far. -/
  gcyc : Word := 0
  evallow : Vector Word 4 := Vector.replicate 4 0
  sticky : Word := 0
  qsticky : Vector Word 16 := Vector.replicate 16 0
  weight : Nat := 16
  cap : Nat := 256
  budget : Nat := 0
  vt : Nat := 0
  boost : Bool := false
  /-- The cycle of its last wake; since when it has had no work on the shared cores, none while it has some (R352). -/
  woke : Word := 0
  idleSince : Option Word := some 0
  /-- Core time spent in the period (R352). -/
  spent : Nat := 0
  queues : List PktQueue := []
  lastQueue : BitVec 4 := 15
  graphs : List Graph := []
  active : List Active := []
  destroying : List QueueEnd := []
  highPkt : BitVec 32 := 0
  donePkts : List (BitVec 32) := []
  /-- Host event ring: base, log2 of entries, endpoint, producer, consumer, overflow, flags raised in overflow. -/
  ringBase : Word := 0
  ringLog : BitVec 5 := 0
  ringCep : BitVec 16 := 0
  ringProd : Nat := 0
  ringCons : Nat := 0
  ringOver : BitVec 32 := 0
  ringMask : BitVec 17 := 0
  /-- A TYPE 4 event has gone out and no block has freed since (R358). -/
  saveEvent : Bool := false
  /-- It is removed once its reset is over (R379, operation 9). -/
  doomed : Bool := false
  deriving DecidableEq, Repr

/-- What a request at a home does (R240, R257). -/
inductive ReqKind where
  | load (signed : Bool) (bytes : Nat)
  | ldc
  | store (bytes : Nat) (data : Word)
  | atomic (op : BitVec 4) (bytes : Nat) (operand expect : Word)
  deriving DecidableEq, Repr

/-- A relaxed request that waits at its home's port (R105, R284). -/
structure Req where
  home : Home
  core : CoreNo
  slot : SlotNo
  thread : ThreadNo
  dom : DomNo
  va : Word
  /-- Physical addresses of its bytes, lowest first. -/
  phys : List Nat
  kind : ReqKind
  dest : XReg
  /-- The number of the access: of one that crosses a 64-byte boundary there are two requests (R100). -/
  num : Nat := 0
  /-- Physical addresses of the whole access, and the place of this request's first byte in it. -/
  whole : List Nat := []
  off : Nat := 0
  /-- What the other part has given: its bytes with their places, an uncorrectable error, corrections. -/
  got : List (Nat × Byte) := []
  bad : Bool := false
  fixed : Nat := 0
  deriving DecidableEq, Repr

/-- A request that has been performed and whose answer has not come back. -/
structure Ret where
  thread : ThreadNo
  isLoad : Bool
  /-- The register, value and taint written on return, if any. -/
  write : Option (XReg × Word × Bool)
  /-- Physical addresses of the bytes it touched. -/
  phys : List Nat
  deriving DecidableEq, Repr

/-- A watch entry (R113): at a home, of a thread, on an aligned 8-byte physical address, with the value that the thread
has found there; a write has changed it (R328). -/
structure Watch where
  home : Home
  thread : ThreadNo
  addr : Nat
  was : Word
  hit : Bool
  deriving DecidableEq, Repr

/-- Where a damaged granule lies (R305). -/
inductive Spot where
  /-- Scratchpad or HBM: the physical address of its first byte. -/
  | mem (granule : Nat)
  /-- The copy that a cache slice holds of 8 bytes of HBM. -/
  | slice (granule : Nat)
  /-- B-SRAM: comb, column slice, byte offset in it. -/
  | bsram (comb : CombNo) (num : BitVec 6) (off : Nat)
  /-- The registers of a thread in a slot, or its context in a cache. -/
  | thread (n : ThreadNo)
  /-- A brood-store entry. -/
  | brood (core : CoreNo) (stage : Nat) (key : Word)
  /-- The mailbox of a core; an input FIFO or slot queue of a core. -/
  | mailbox (core : CoreNo)
  | fifo (core : CoreNo)
  deriving DecidableEq, Repr

/-- A damaged granule (R305): whether it is uncorrectable, whether its cell has failed for good (R308), and the cycle
in which the scrubber last read it (R307). -/
structure Damage where
  spot : Spot
  fatal : Bool
  lasting : Bool := false
  scrubbed : Word := 0
  deriving DecidableEq, Repr

/-- A home as the ECC record names it (R387): kind (0 bank, 1 B-SRAM, 2 slice, 3 HBM, 4 other SRAM) and number. -/
structure EccHome where
  kind : Nat
  num : Nat
  deriving DecidableEq, Repr

/-- ECC counts of a home (R387). -/
structure EccCount where
  home : EccHome
  corrected : BitVec 32
  fatal : BitVec 32
  deriving DecidableEq, Repr

/-- A claim that waits in a collection window (R381). -/
structure Claim where
  host : BitVec 4
  prio : BitVec 8
  deriving DecidableEq, Repr

/-- An SPDM session: its connection, the certificate of the peer, its host number once it has one (R374, R381). -/
structure Session where
  conn : Nat
  cert : List Byte
  host : Option (BitVec 4)
  deriving DecidableEq, Repr

/-- What an SPDM response tells of the part (R393): the protocol's version, the signature and hash algorithms with their bits, the
certificate slot. -/
inductive SpdmItem where
  | version (major minor : Nat)
  | rsassa (bits : Nat)
  | sha (bits : Nat)
  | slot (n : Nat)
  deriving DecidableEq, Repr

/-- What the part has sent to hosts and peers. -/
inductive Out where
  /-- A remote write to a host or peer: endpoint, address, dwords (completion records, events: R347, R355). -/
  | record (vd : VdNo) (cep : BitVec 16) (addr : Word) (dwords : List Word)
  /-- A copy's chunk written to a remote side (R184). -/
  | chunk (fabric : Word) (endpoint : BitVec 16) (addr : Word) (bytes : List Byte)
  /-- The 16-byte answer to a claim (R381): host and dwords. -/
  | answer (host : BitVec 4) (dword0 dword1 : Word)
  /-- An SPDM response (R393): connection, request code, what it tells by that rule, body; or an error status. -/
  | spdm (conn : Nat) (code : Nat) (tells : List SpdmItem) (body : List Byte)
  | spdmError (conn : Nat)
  /-- A remote read's data, or the transport's status: access denied, unsupported operation (R373, R375, R378). -/
  | data (bytes : List Byte)
  | denied
  | unsupported
  deriving DecidableEq, Repr

/-- A record that the transport has not delivered (R375): the cycle in which it was posted, and whether the transport has tried and
has not got through. -/
structure Flight where
  record : Out
  since : Word
  stuck : Bool := false
  deriving DecidableEq, Repr

/-- A reset that runs (R384). -/
structure Reset where
  kind : BitVec 4
  target : BitVec 16
  since : Word
  /-- It has come while a context of a VD that it covers was being saved (R362). -/
  duringSave : Bool := false
  deriving DecidableEq, Repr

/-- The management region, election, sessions, resets (R375, R381, R384). -/
structure Mgmt where
  state : BitVec 8 := 0
  cprio : BitVec 8 := 0
  chost : BitVec 4 := 0
  term : BitVec 32 := 0
  rststat : Word := 0
  booterr : BitVec 32 := 0
  dropped : BitVec 32 := 0
  colw : BitVec 3 := 0
  claims : Option (List Claim) := none
  /-- Cycles in which the collection window opened, and in which a release named a successor. -/
  opened : Word := 0
  released : Word := 0
  /-- Cycle of the controller's last heartbeat. -/
  beat : Word := 0
  /-- Only this host's claims are valid (R381, Release). -/
  succ : Option (BitVec 4) := none
  sessions : List Session := []
  reset : Option Reset := none
  deriving DecidableEq, Repr

/-- Telemetry, update, power (R385 to R395). -/
structure Fleet where
  /-- Units written, and the ring's units by index 0 to 2,047. -/
  tlprod : Nat := 0
  ring : List (Nat × Word × Word) := []
  recSeq : BitVec 32 := 0
  plim : BitVec 16 := 2400
  tlvl : BitVec 8 := 0
  pwr : BitVec 16 := 0
  updst : BitVec 8 := 0
  svn : BitVec 32 := 0
  /-- The connection whose update runs, and whether its chunk at offset 0 has come (R395). -/
  begun : Option Nat := none
  based : Bool := false
  /-- The two firmware banks: the active one and the other. -/
  active : List Byte := []
  inactive : List Byte := []
  /-- Column cores that run the new image, in the order in which they switched. -/
  switched : List CoreNo := []
  ecc : List EccCount := []
  deriving DecidableEq, Repr

/-- What happens next (the model's own field; log entry 3). -/
inductive Item where
  /-- Cycles pass. -/
  | pass (n : Nat)
  /-- A core takes a turn (R282). -/
  | turn (core : CoreNo)
  /-- A step or event of the part. -/
  | event (i : Instr)
  deriving DecidableEq, Repr

/-- The machine. -/
structure State where
  /-- The thread whose bundle a step issues; the other threads. -/
  cur : Thread
  others : List Thread
  mem : List Host.Cell
  damage : List Damage
  /-- The apiary cycle counter (R121). -/
  cyc : Word
  cores : List Core
  combs : List Comb
  hives : List Hive
  domains : List Domain
  vds : List Vd
  offers : List Offer
  /-- Which stage, by its number on its core, a stage entry of a domain's handle table stands for: domain, slot, number.
  The part knows it; an entry's words do not say it (R311). -/
  stageLinks : List (DomNo × Nat × Nat)
  reqs : List Req
  rets : List Ret
  /-- The next number of a request, a message or a tile operation (the model's own field). -/
  stamp : Nat
  /-- The cycle in which the 100 ms period of budgets began (R352). -/
  period : Word
  /-- Homes that have had a request in every cycle: since when, and the scrub passes missed (R307). -/
  busy : List (Home × Word × Nat)
  /-- The source that each home served last, by its number, and how many of its requests in a row (R284). -/
  served : List (Home × Nat × Nat)
  watches : List Watch
  /-- Walks of vector commands, oldest first (R339). -/
  walks : List Walk
  /-- Cache-slice lines being filled (R302): frame and line; they delay and change no value. -/
  fills : List (BitVec 5 × Nat)
  /-- Lines that the slices hold, most recently used first (R302). -/
  lines : List (BitVec 5 × Nat)
  /-- Lines whose fill has completed: frame, line, and the number before which the requests that waited for it came; they are
  served first (R302). -/
  firsts : List (BitVec 5 × Nat × Nat)
  /-- Bytes that vector commands in progress have pushed to: thread, physical address, and what the byte held before; until
  another party writes it (R132, R241). -/
  pushed : List (ThreadNo × Nat × Byte)
  /-- Pages that the allocation of a block waits for, and whether the reply has refused the page (R356). -/
  allocHeld : List (VdNo × BitVec 36 × Bool)
  /-- Pages that remote accesses at data endpoints wait for (R378). -/
  dataHeld : List (VdNo × BitVec 36 × Bool)
  spawns : List (CoreNo × SpawnReq)
  answers : List (ThreadNo × Bool)
  launches : List (CoreNo × LaunchReq)
  quits : List QuitNote
  dones : List Done
  mgmt : Mgmt
  fleet : Fleet
  out : List Out
  /-- Of these, the records that are not delivered, oldest first (R375). -/
  flights : List Flight
  /-- The next thread number (R30). -/
  nextThread : ThreadNo
  /-- The counter of free values (log entry 2). -/
  free : Nat
  agenda : List Item
  /-- With nothing on the agenda, the next step is an event rather than an issue, if one can happen (log entry 3). -/
  evTurn : Bool
  /-- The bundle in hand: where the word stands, the bundle's bits, the thread as it was before word 0, the ports
  popped so far, each with the element and, at a ring, the HEAD that was loaded, and what became of the last word. -/
  pos : Pos
  bundle : Word
  src : Option Thread
  popped : List (XReg × Port × Word × Word)
  mark : Mark
  /-- Threads as they were before a bundle whose word 0 has acted and whose word 1 waits (R36, R248). -/
  halves : List Thread
  deriving DecidableEq, Repr

/-- The machine right after a cold reset (R5, R384): no thread, domain 0 live in VD 0 with no memory of its own,
memory with nothing listed, STATE 0. -/
def State.reset : State where
  cur := {}
  others := []
  mem := []
  damage := []
  cyc := 0
  cores := []
  combs := []
  hives := []
  domains := [{ num := 0, life := .live }]
  vds := [{ num := 0, st := 1 }]
  offers := []
  stageLinks := []
  reqs := []
  rets := []
  stamp := 0
  period := 0
  busy := []
  served := []
  watches := []
  walks := []
  fills := []
  lines := []
  firsts := []
  pushed := []
  allocHeld := []
  dataHeld := []
  spawns := []
  answers := []
  launches := []
  quits := []
  dones := []
  mgmt := {}
  fleet := {}
  out := []
  flights := []
  nextThread := 1
  free := 0
  agenda := []
  evTurn := false
  pos := .lone
  bundle := 0
  src := none
  popped := []
  mark := .retired
  halves := []

end Sys2Proof.Machine
end

