-- ==== Sys2Proof/Machine/Memory.lean ====
section
/-! DEFINITION. Lookups of records, and memory by physical address: bytes, regions and homes (14_memory_hierarchy.md
R299 to R302), damaged granules (R305, R306), watch entries (05_memory_sync.md R113) and the trace ring at a bank port
(11_memory_model.md R255 to R257). -/

namespace Sys2Proof.Machine

/-! ### Records kept by number -/

/-- The first record with the key, or the default. -/
def getBy {α κ : Type} [DecidableEq κ] (key : α → κ) (k : κ) (dflt : α) : List α → α
  | [] => dflt
  | a :: r => if key a = k then a else getBy key k dflt r

/-- Replaces the first record that has the key of `a`, or adds `a` at the end. -/
def putBy {α κ : Type} [DecidableEq κ] (key : α → κ) (a : α) : List α → List α
  | [] => [a]
  | b :: r => if key b = key a then a :: r else b :: putBy key a r

def State.core (s : State) (c : CoreNo) : Core := getBy Core.num c { num := c } s.cores
def State.setCore (s : State) (c : Core) : State := { s with cores := putBy Core.num c s.cores }
def State.comb (s : State) (c : CombNo) : Comb := getBy Comb.num c { num := c } s.combs
def State.setComb (s : State) (c : Comb) : State := { s with combs := putBy Comb.num c s.combs }
def State.hive (s : State) (h : BitVec 4) : Hive := getBy Hive.num h { num := h } s.hives
def State.setHive (s : State) (h : Hive) : State := { s with hives := putBy Hive.num h s.hives }
def State.domain (s : State) (d : DomNo) : Domain := getBy Domain.num d { num := d } s.domains
def State.setDomain (s : State) (d : Domain) : State := { s with domains := putBy Domain.num d s.domains }
def State.vd (s : State) (v : VdNo) : Vd := getBy Vd.num v { num := v } s.vds
def State.setVd (s : State) (v : Vd) : State := { s with vds := putBy Vd.num v s.vds }

/-- The thread with this number, if there is one. -/
def State.thread? (s : State) (n : ThreadNo) : Option Thread :=
  if s.cur.num = n then some s.cur else s.others.find? fun t => t.num == n

/-- Changes the thread with this number. -/
def State.modThread (s : State) (n : ThreadNo) (f : Thread → Thread) : State :=
  if s.cur.num = n then { s with cur := f s.cur }
  else { s with others := s.others.map fun t => if t.num == n then f t else t }

/-- R388: the thread's evcnt rises when bits [7:0] of its evsel name the event (R382). -/
def Thread.event (t : Thread) (event n : Nat) : Thread :=
  if (t.evsel.extractLsb' 0 8).toNat = event then { t with evcnt := t.evcnt + BitVec.ofNat 64 n } else t

/-- All threads that exist. -/
def State.threads (s : State) : List Thread := (s.cur :: s.others).filter fun t => t.place != .gone

/-- Makes the thread with this number the one in hand. -/
def State.focus (s : State) (n : ThreadNo) : State :=
  if s.cur.num = n then s
  else match s.others.find? fun t => t.num == n with
    | none => s
    | some t => { s with cur := t, others := s.cur :: s.others.filter fun u => u.num != n }

/-- The core a thread stands on, or was last bound to (R289). -/
def Thread.core (t : Thread) : CoreNo :=
  match t.place with
  | .slot c _ | .arrival c | .cached c | .spilled c | .travelling c => c
  | .gone => 0

def Thread.slotNo (t : Thread) : SlotNo :=
  match t.place with
  | .slot _ n => n
  | _ => 0

def Thread.inSlot (t : Thread) : Bool :=
  match t.place with
  | .slot _ _ => true
  | _ => false

/-- The bundle in hand tests its condition again (R110 and its like): its event has come. -/
def Thread.retests (t : Thread) : Thread := { t with wait := some .held }

/-- Comb, frame and hive of a core (R277). -/
def combOf (c : CoreNo) : CombNo := c.extractLsb' 3 7
def frameOf (c : CoreNo) : BitVec 5 := c.extractLsb' 5 5
def hiveOf (c : CoreNo) : BitVec 4 := c.extractLsb' 6 4

/-- Takes a free value and advances its counter (log entry 2). -/
def State.freeVal (s : State) : Word × State := (Config.freeValue s.free, { s with free := s.free + 1 })

/-! ### Bytes -/

/-- What a byte of memory that nothing has written reads as (log entry 4). -/
def unlisted : Byte := 0

/-- The byte at a physical address. -/
def memGet : List Host.Cell → Nat → Byte
  | [], _ => unlisted
  | (k, v) :: r, a => if a = k then v else memGet r a

/-- Memory with one byte written, in canonical form. -/
def memSet : List Host.Cell → Nat → Byte → List Host.Cell
  | [], a, v => if v = unlisted then [] else [(a, v)]
  | (k, u) :: r, a, v =>
    if a < k then (if v = unlisted then (k, u) :: r else (a, v) :: (k, u) :: r)
    else if a = k then (if v = unlisted then r else (k, v) :: r)
    else (k, u) :: memSet r a v

/-- The canonical form: addresses strictly rising from `lo`, no entry equal to what an unlisted address reads as. -/
def Memory.wfFrom : Nat → List Host.Cell → Bool
  | _, [] => true
  | lo, (k, v) :: r => decide (lo ≤ k) && v != unlisted && Memory.wfFrom (k + 1) r

def Memory.wf (m : List Host.Cell) : Bool := Memory.wfFrom 0 m

/-- Bytes as a little-endian number, the first byte lowest. -/
def leWord : List Byte → Word
  | [] => 0
  | b :: r => (leWord r <<< 8) ||| b.setWidth 64

/-- The low `n` bytes of a word, lowest first. -/
def wordBytes (w : Word) (n : Nat) : List Byte := (List.range n).map fun i => w.extractLsb' (8 * i) 8

/-- Writes bytes at the addresses that go with them. -/
def memSetAll (m : List Host.Cell) : List (Nat × Byte) → List Host.Cell
  | [] => m
  | (a, b) :: r => memSetAll (memSet m a b) r

/-- `n` bytes from a physical address on. -/
def physRange (a n : Nat) : List Nat := (List.range n).map (a + ·)

/-! ### Regions and homes -/

/-- First physical address of the scratchpad (R299). -/
def scratchBase : Nat := 0x8000000000000

/-- R299: the physical addresses that exist: the populated HBM of each stack and the scratchpad. -/
def present (p : Nat) : Bool :=
  (decide (p < 2 ^ 41) && decide (p % 2 ^ 37 < 80 * 2 ^ 30)) ||
  (decide (scratchBase ≤ p) && decide (p < scratchBase + 2 ^ 29))

/-- The home of a present byte (R241, R300, R302). -/
def homeOf (p : Nat) : Home :=
  if scratchBase ≤ p then .bank (BitVec.ofNat 10 ((p - scratchBase) / 2 ^ 19))
  else .slice (BitVec.ofNat 5 (2 * (p / 2 ^ 37) + p / 128 % 2))

/-- The core whose place stands for a home in R280: the core beside a bank, the first core of a slice's frame. -/
def homeCore : Home → CoreNo
  | .bank c => c
  | .slice f => f ++ 0#5

/-- R301: the unloaded latency from a core to a home. -/
def latency (c : CoreNo) (h : Home) : Nat :=
  let k := homeCore h
  let isBank := match h with
    | .bank _ => true
    | .slice _ => false
  if isBank && c == k then 6
  else if isBank && combOf c == combOf k then 14
  else if frameOf c == frameOf k then 90
  else if hiveOf c == hiveOf k then 200
  else if c.extractLsb' 8 2 == k.extractLsb' 8 2 then 450
  else if (c.extractLsb' 8 1 == k.extractLsb' 8 1) || (c.extractLsb' 9 1 == k.extractLsb' 9 1) then 860
  else 1260

/-- The largest latency over some bytes. -/
def latencyMax (c : CoreNo) (ps : List Nat) : Nat := ps.foldl (fun l p => max l (latency c (homeOf p))) 0

/-! ### Telemetry and damaged granules -/

/-- Length of a record in 16-byte units, by schema (R387). -/
def recordUnits (schema : Nat) : Nat := if schema = 1 then 4 else if schema = 2 ∨ schema = 3 then 3 else 2

/-- R385, R386: posts a telemetry record: header and body dwords, those that R387 does not list 0, then TLPROD rises. -/
def State.telemetry (s : State) (schema : Nat) (body : List Word) : State :=
  let f := s.fleet
  let units := recordUnits schema
  let d0 := BitVec.ofNat 64 (schema * 2 ^ 48 + 1 * 2 ^ 40 + units * 2 ^ 36) ||| f.recSeq.setWidth 64
  let all := d0 :: s.cyc :: body
  let ring := (List.range units).foldl (fun r i =>
    putBy Prod.fst ((f.tlprod + i) % 2048, all.getD (2 * i) 0, all.getD (2 * i + 1) 0) r) f.ring
  { s with fleet := { f with ring := ring, tlprod := f.tlprod + units, recSeq := f.recSeq + 1 } }

/-- The granule of a byte of memory (R305): 8 bytes of scratchpad, 32 bytes of HBM. -/
def granuleSize (p : Nat) : Nat := if scratchBase ≤ p then 8 else 32
def granuleOf (p : Nat) : Nat := p / granuleSize p * granuleSize p

/-- The byte at a physical address lies in the granule. -/
def Spot.holds (sp : Spot) (p : Nat) : Bool := match sp with
  | .mem g => granuleOf p == g
  | .slice g => decide (p < scratchBase) && p / 8 * 8 == g
  | _ => false

/-- A write of these bytes covers the whole granule. -/
def Spot.covered (sp : Spot) (ps : List Nat) : Bool := match sp with
  | .mem g => (List.range (granuleSize g)).all fun i => ps.contains (g + i)
  | .slice g => (List.range 8).all fun i => ps.contains (g + i)
  | _ => false

/-- The home of a granule and its offset there, as the ECC record gives them (R387). The record's number is the bank's
core, the comb of a B-SRAM, the frame of a slice, the HBM stack, or the core of other SRAM (DESIGN CHOICE, log entry
56). -/
def State.spotHome (s : State) : Spot → EccHome × Nat
  | .mem g => if scratchBase ≤ g then ({ kind := 0, num := (g - scratchBase) / 2 ^ 19 }, (g - scratchBase) % 2 ^ 19)
    else ({ kind := 3, num := g / 2 ^ 37 }, g % 2 ^ 37)
  | .slice g => ({ kind := 2, num := 2 * (g / 2 ^ 37) + g / 128 % 2 }, g % 2 ^ 37)
  | .bsram c n off => ({ kind := 1, num := c.toNat }, n.toNat * 98304 + off)
  | .thread n => ({ kind := 4, num := ((s.thread? n).map Thread.core).getD 0 |>.toNat }, 0)
  | .brood c _ _ | .mailbox c | .fifo c => ({ kind := 4, num := c.toNat }, 0)

/-- Some byte lies in a granule with an uncorrectable error. -/
def State.fatalAt (s : State) (ps : List Nat) : Bool := s.damage.any fun d => d.fatal && ps.any d.spot.holds

/-- The bytes at some addresses as a read finds them: all ones where a granule is damaged (R104). -/
def State.peek (s : State) (ps : List Nat) : List Byte :=
  if s.fatalAt ps then ps.map fun _ => 0xFF else ps.map (memGet s.mem)

/-- A little-endian number of `n` bytes at a physical address, for reads the part makes itself. -/
def State.physRead (s : State) (a n : Nat) : Word := leWord (s.peek (physRange a n))

/-- A count of errors, saturating. -/
def countUp (n : BitVec 32) : BitVec 32 := if n = BitVec.allOnes 32 then n else n + 1

/-- The counts of a home (R387). -/
def State.eccCount (s : State) (h : EccHome) : EccCount :=
  getBy EccCount.home h { home := h, corrected := 0, fatal := 0 } s.fleet.ecc

/-- ECC counts of a home, raised (R305, R387). -/
def State.countEcc (s : State) (h : EccHome) (fatal : Bool) : State :=
  let c := s.eccCount h
  let c := if fatal then { c with fatal := countUp c.fatal } else { c with corrected := countUp c.corrected }
  { s with fleet := { s.fleet with ecc := putBy EccCount.home c s.fleet.ecc } }

/-- The ECC record of a home (R387, SCHEMA 2); `event` 0 corrected, 1 uncorrectable, 2 scrub lag. -/
def State.eccRecord (s : State) (h : EccHome) (off event lag : Nat) : State :=
  let c := s.eccCount h
  s.telemetry 2 [BitVec.ofNat 64 (h.kind * 2 ^ 60 + h.num * 2 ^ 48 + event * 2 ^ 46 + off % 2 ^ 46),
    c.corrected.setWidth 64 <<< 32 ||| c.fatal.setWidth 64, BitVec.ofNat 64 lag]

/-- R305: damaged granules are met: each error is counted and recorded, a single-bit error is corrected, and stays only
where its cell has failed (R308). Answers whether one was uncorrectable, and corrections. -/
def State.meet (s : State) (hit : List Damage) : State × Bool × Nat :=
  let s1 := hit.foldl (fun (s : State) (d : Damage) =>
    let h := s.spotHome d.spot
    (s.countEcc h.1 d.fatal).eccRecord h.1 h.2 (if d.fatal then 1 else 0) 0) s
  ({ s1 with damage := s1.damage.filter fun d => d.fatal || d.lasting || !(hit.contains d) },
    hit.any Damage.fatal, (hit.filter fun d => !d.fatal).length)

/-- R305: what a read does to the granules of memory that it meets. -/
def State.eccRead (s : State) (ps : List Nat) : State × Bool × Nat := s.meet (s.damage.filter fun d => ps.any d.spot.holds)

/-- R305: a read of a granule outside memory. -/
def State.meetSpot (s : State) (f : Spot → Bool) : State × Bool × Nat := s.meet (s.damage.filter fun d => f d.spot)

/-- R305: an entry of a store, a mailbox or a FIFO is read and leaves it, with any error that stays in it. Answers whether there was an
uncorrectable one, and corrections. -/
def State.meetEntry (s : State) (sp : Spot) : State × Bool × Nat :=
  let (s1, bad, fixed) := s.meetSpot (· == sp)
  ({ s1 with damage := s1.damage.filter fun d => d.lasting || d.spot != sp }, bad, fixed)

/-- R306: the granules that hold back a write: uncorrectable, and not wholly covered by it. -/
def State.stuck (s : State) (ps : List Nat) : List Damage :=
  s.damage.filter fun d => d.fatal && ps.any d.spot.holds && !d.spot.covered ps

/-- R306: the byte may be written by a store to `ps`. -/
def State.writable (s : State) (ps : List Nat) (p : Nat) : Bool := !((s.stuck ps).any fun d => d.spot.holds p)

/-- R306: a write of bytes: it writes fresh code for the granules it covers; one that a damaged granule holds back
writes nothing, and the error is counted and recorded (R104). What a vector command had found in these bytes before it
pushed to them no longer stands (R132, R241). Answers whether the write was held back. -/
def State.storeCells (s : State) (ps : List Nat) (bs : List Byte) : Bool × State :=
  if (s.stuck ps).isEmpty then
    (false, { s with
      mem := memSetAll s.mem (ps.zip bs), damage := s.damage.filter fun d => d.lasting || !d.spot.covered ps
      pushed := s.pushed.filter fun e => !ps.contains e.2.1 })
  else (true, (s.meet (s.stuck ps)).1)

/-! ### Lines of the cache slices (R302) -/

/-- The set of a line: address bits [19:8] (R302). -/
def setOf (line : Nat) : Nat := line / 2 % 4096

/-- A line becomes the most recently used of its set of 16 ways. -/
def touchLine (lines : List (BitVec 5 × Nat)) (f : BitVec 5) (line : Nat) : List (BitVec 5 × Nat) :=
  let others := lines.filter fun l => !(l.1 == f && l.2 == line)
  let set := others.filter fun l => l.1 == f && setOf l.2 == setOf line
  let out := if 16 ≤ set.length then set.getLast? else none
  (f, line) :: others.filter fun l => some l != out

/-- The lines of the slices that an access of some bytes touches. -/
def linesOf (ps : List Nat) : List (BitVec 5 × Nat) :=
  (ps.filterMap fun p => match homeOf p with
    | .slice f => some (f, p / 128)
    | .bank _ => none).dedup

/-- The lines that an access touches are held and most recently used. -/
def State.touch (s : State) (ps : List Nat) : State :=
  { s with lines := (linesOf ps).foldl (fun ls l => touchLine ls l.1 l.2) s.lines }

/-! ### The trace ring -/

/-- Who made an event at a home (R257): core, slot number, thread. -/
structure Source where
  core : CoreNo
  slot : Nat
  thread : ThreadNo
  /-- A remote access of the transport. -/
  remote : Bool := false

/-- The source of a thread's own events (R240, R257). -/
def Thread.recSource (t : Thread) : Source := { core := t.core, slot := t.slotNo.toNat, thread := t.num }

/-- log2 of a number of bytes, 0 to 6, rounded down (R257). -/
def log2Size (n : Nat) : Nat :=
  if n ≥ 64 then 6 else if n ≥ 32 then 5 else if n ≥ 16 then 4 else if n ≥ 8 then 3 else if n ≥ 4 then 2
  else if n ≥ 2 then 1 else 0

/-- R255, R257: one event at a bank's port is logged when it touches an enabled range and its kind is logged. A failed
`cas` is a read (R109, R240). -/
def State.trace (s : State) (src : Source) (kind : Nat) (ps : List Nat) (split : Bool) : State :=
  match ps with
  | [] => s
  | p :: _ =>
    match homeOf p with
    | .slice _ => s
    | .bank c =>
      let k := s.core c
      let offset (q : Nat) : Nat := (q - scratchBase) % 2 ^ 19
      let isRead := kind == 0 || kind == 3 || kind == 5 || kind == 6
      let hits := (List.range 4).filter fun i =>
        let w := (k.trWins.toList.getD i 0)
        w.getLsbD 63 && (!isRead || w.getLsbD 62) && ps.any fun q =>
          decide ((w.extractLsb' 0 19).toNat ≤ offset q) && decide (offset q ≤ (w.extractLsb' 19 19).toNat)
      match hits with
      | [] => s
      | win :: _ =>
        if !k.trEn then s
        else
          let w0 := BitVec.ofNat 64 (src.core.toNat * 2 ^ 54 + src.slot * 2 ^ 49 + kind * 2 ^ 46 +
            log2Size ps.length * 2 ^ 43 + offset p * 2 ^ 24 + win * 2 ^ 22 + (if split then 2 ^ 21 else 0))
          let w1 := src.thread ++ s.cyc.extractLsb' 0 32
          let lost := if k.trLost = BitVec.allOnes 16 then k.trLost else k.trLost + 1
          if k.trRing.length < 4096 then
            s.setCore { k with trRing := k.trRing ++ [(w0, w1)], trHead := k.trHead + 1 }
          else if k.trStop then s.setCore { k with trLost := lost }
          else s.setCore { k with trRing := k.trRing.drop 1 ++ [(w0, w1)], trHead := k.trHead + 1, trLost := lost }

/-! ### Arbitration at a port (R284, R302, R327)

A home serves its sources in turn: the cores by number, then the matrix array (1,024) and the transport (1,025) (DESIGN CHOICE,
log entry 72). A relaxed request waits in `reqs`; the plain access of a bundle in hand stands there by its number (`stands`). -/

def matrixSource : Nat := 1024
def transportSource : Nat := 1025

/-- Distance of a source after another in the round robin. -/
def sourceDistance (last n : Nat) : Nat := (n + 1025 - last % 1026) % 1026

/-- The source that a home serves next of some that have requests, and how many in a row it will then have served. -/
def State.pick (s : State) (h : Home) (srcs : List Nat) : Option (Nat × Nat) :=
  let (last, n) := match s.served.find? fun v => v.1 == h with
    | some v => v.2
    | none => (1025, 15)
  if srcs.contains last && decide (n < 15) then some (last, n + 1)
  else match srcs with
    | [] => none
    | c :: r => some (r.foldl (fun b d => if sourceDistance last d < sourceDistance last b then d else b) c, 1)

/-- A home has served a request of a source. -/
def State.tookTurn (s : State) (src : Nat) (h : Home) : State :=
  let n := match s.served.find? fun v => v.1 == h with
    | some v => if v.2.1 = src ∧ v.2.2 < 15 then v.2.2 + 1 else 1
    | none => 1
  { s with served := (h, src, n) :: s.served.filter fun v => v.1 != h }

/-- The homes of some bytes. -/
def homesOf (ps : List Nat) : List Home := (ps.map homeOf).dedup

/-- The source number of an event's source. -/
def Source.number (src : Source) : Nat := if src.remote then transportSource else if src.slot = 17 then matrixSource else src.core.toNat

/-- The homes of some bytes have served a source. -/
def State.tookTurns (s : State) (src : Nat) (ps : List Nat) : State := (homesOf ps).foldl (fun s h => s.tookTurn src h) s

/-- Something that a core has sent stands at one of some homes: a request, or the plain access of a bundle in hand, with a
number that satisfies `p`. -/
def State.coreStands (s : State) (c : CoreNo) (p : Nat → Bool) (hs : List Home) : Bool :=
  (s.reqs.any fun q => q.core == c && p q.num && hs.contains q.home) ||
  (s.threads.any fun t => t.core == c && t.stands.any fun a => p a.1 && (homesOf a.2).any hs.contains)

/-- A line of the bytes is being filled (R302). -/
def State.fillsAt (s : State) (ps : List Nat) : Bool := (linesOf ps).any s.fills.contains

/-- The requests of a home, in order of arrival. -/
def State.queueAt (s : State) (h : Home) : List Req := s.reqs.filter fun q => q.home == h

/-- The line of a request at a slice (R302). -/
def Req.line (q : Req) : Nat := q.phys.headD 0 / 128

/-- A plain access of the request's core stands at the home before it (R327). -/
def State.standsBefore (s : State) (q : Req) : Bool :=
  s.threads.any fun t => t.core == q.core && t.stands.any fun p => decide (p.1 < q.num) && (homesOf p.2).contains q.home

/-- A request waits for its line, which is being filled (R302). -/
def State.filling (s : State) (q : Req) : Bool := match q.home with
  | .bank _ => false
  | .slice f => s.fills.contains (f, q.line)

/-- The requests of a home that may be performed next: of each core its oldest one, unless it waits for a line or a
plain access stands before it (R284, R302, R327). -/
def State.servable (s : State) (h : Home) : List Req :=
  let q := s.queueAt h
  q.filter fun r => !s.filling r && !s.standsBefore r && (q.find? fun w => w.core == r.core) == some r

/-- The plain accesses that stand first at a home and could be performed now: number, core, bytes. One that reaches two homes
takes its turn at the first (DESIGN CHOICE, log entry 72). -/
def State.standing (s : State) (h : Home) : List (Nat × CoreNo × List Nat) := s.threads.filterMap fun t =>
  match t.stands with
  | none => none
  | some (n, ps) =>
    if (ps.head?.map homeOf) == some h && !s.coreStands t.core (fun m => decide (m < n)) (homesOf ps) && !s.fillsAt ps then
      some (n, t.core, ps)
    else none

/-- R302: what had waited for a line when its fill completed is served first, in order of arrival: its number and core. -/
def State.servedFirst (s : State) (h : Home) : Option (Nat × CoreNo) :=
  match h with
  | .bank _ => none
  | .slice f =>
    let waited (n : Nat) (line : Nat) : Bool := s.firsts.any fun l => l.1 == f && l.2.1 == line && decide (n < l.2.2)
    let l := ((s.servable h).filter fun q => waited q.num q.line).map (fun q => (q.num, q.core)) ++
      ((s.standing h).filter fun a => (linesOf a.2.2).any fun l => l.1 == f && waited a.1 l.2).map (fun a => (a.1, a.2.1))
    match l with
    | [] => none
    | a :: r => some (r.foldl (fun b d => if d.1 < b.1 then d else b) a)

/-- The sources with something that a home could serve now. -/
def State.heads (s : State) (h : Home) : List Nat :=
  (s.servable h).map (fun q => q.core.toNat) ++ (s.standing h).map fun a => a.2.1.toNat

/-- R284, R302: the source a home serves next, and how many in a row it will then have served. -/
def State.nextSource (s : State) (h : Home) : Option (Nat × Nat) :=
  match s.servedFirst h with
  | some (_, c) => some (c.toNat, 1)
  | none => s.pick h (s.heads h)

/-- R284, R302: another source comes before this one at the home of the first of some bytes. -/
def State.outranked (s : State) (src : Nat) (ps : List Nat) : Bool :=
  match ps.head?.map homeOf with
  | none => false
  | some h => match s.servedFirst h with
    | some (_, c) => c.toNat != src
    | none => (s.pick h (src :: s.heads h)).map Prod.fst != some src

/-! ### Performing events at a home -/

/-- R113, R328: a write has touched a watched word, and the port reads it again as its next act. The thread is woken where it
has changed; a damaged one it reads again itself (R104). -/
def State.reread (s : State) (w : Watch) : State :=
  let ps := physRange w.addr 8
  let woken := s.fatalAt ps || leWord (s.peek ps) != w.was
  let s1 := ((s.eccRead ps).1.touch ps).trace ((s.thread? w.thread).getD {}).recSource 0 ps false
  { s1 with watches := s1.watches.map fun u => if u = w then { u with hit := woken } else u }

/-- R113: a write to any of a watched word's 8 bytes makes the port read it again for its watchers. -/
def State.hitWatches (s : State) (ps : List Nat) : State :=
  (s.watches.filter fun w => !w.hit && ps.any fun p => p / 8 * 8 == w.addr).foldl State.reread s

/-- The parts in which an access is performed (R100): one, or two when it is misaligned and crosses a 64-byte
boundary. -/
def parts (va : Nat) (ps : List Nat) : List (List Nat) :=
  let n := ps.length
  if va % n == 0 || va / 64 == (va + n - 1) / 64 then [ps]
  else let k := 64 - va % 64
    [ps.take k, ps.drop k]

/-- The bytes of an access by home, in order of their first byte. -/
def byHome (ps : List Nat) : List (List Nat) := (ps.map homeOf).dedup.map fun h => ps.filter fun p => homeOf p == h

/-- Logs an access: a load or store by its parts (R100), one of a unit at each home. -/
def State.traceParts (s : State) (src : Source) (kind : Nat) (va : Nat) (ps : List Nat) : State :=
  if kind ≤ 1 then
    let l := parts va ps
    l.foldl (fun s p => s.trace src kind p (l.length != 1)) s
  else (byHome ps).foldl (fun s p => s.trace src kind p false) s

/-- A read of bytes is performed (R241, R104): their values, all ones where a granule is damaged; whether one was;
corrections made. -/
def State.readBytes (s : State) (src : Source) (kind : Nat) (va : Nat) (ps : List Nat) :
    List Byte × Bool × Nat × State :=
  let (s1, bad, fixed) := s.eccRead ps
  (s.peek ps, bad, fixed, ((s1.touch ps).tookTurns src.number ps).traceParts src kind va ps)

/-- A write of bytes is performed (R241, R306): memory, the trace ring, watchers. One that a damaged granule holds back is no
event at the port (R104, DEDUCED, log entry 73). Answers whether it was held back. -/
def State.writeBytes (s : State) (src : Source) (kind : Nat) (va : Nat) (ps : List Nat) (bs : List Byte) :
    Bool × State :=
  match s.storeCells ps bs with
  | (true, s1) => (true, s1)
  | (false, s1) => (false, (((s1.touch ps).tookTurns src.number ps).traceParts src kind va ps).hitWatches ps)

/-- The part of a store that begins at a byte of it is performed (R100). -/
def State.storePart (src : Source) (split : Bool) (r : Bool × State) (p : List Nat × List Byte) : Bool × State :=
  match r.2.storeCells p.1 p.2 with
  | (true, s1) => (true, s1)
  | (false, s1) => (r.1, (((s1.touch p.1).tookTurns src.number p.1).trace src 1 p.1 split).hitWatches p.1)

/-- A store is performed in its parts, each of which a damaged granule may hold back by itself (R100, R104; DEDUCED, log entry
73). Answers whether one was. -/
def State.storeBytes (s : State) (src : Source) (va : Nat) (ps : List Nat) (bs : List Byte) : Bool × State :=
  match parts va ps with
  | [p, q] => [(p, bs.take p.length), (q, bs.drop p.length)].foldl (State.storePart src true) (false, s)
  | _ => State.storePart src false (false, s) (ps, bs)

/-! ### Mailbox and pending reports (R118) -/

/-- The header word of a message. -/
def mailHeader (src : ThreadNo) (sdom : DomNo) (kind len : BitVec 4) (tag : BitVec 12) : Word :=
  src ++ sdom ++ kind ++ len ++ tag

/-- Outstanding copies of a core that have reserved a mailbox entry (R180). -/
def Core.copies (k : Core) : List Copy := k.engine.toList ++ k.fifo

def Core.held (k : Core) (n : ThreadNo) : Nat := (k.mailbox.filter fun m => m.thread == n).length

/-- Entries that the copies of a thread have reserved (R180). -/
def Core.reserved (k : Core) (n : ThreadNo) : Nat := (k.copies.filter fun c => c.post && c.thread == n).length

/-- An entry may be taken: the slot holds fewer than 8, and the core has a free entry, with those that copies have reserved. -/
def Core.mailFree (k : Core) (n : ThreadNo) : Bool :=
  decide (k.held n + k.reserved n < 8) && decide (k.mailbox.length + (k.copies.filter Copy.post).length < 64)

/-- Posts a report of kind 2, 3 or 4 for a domain, or holds it in the thread's pending report, into which later ones
merge (R118, R146). SDOM of a message from the part is a free value (log entry 2). -/
def State.postReport (s : State) (n : ThreadNo) (kind : BitVec 4) (dm : DomNo) (w0 w1 : Word) : State :=
  match s.thread? n with
  | none => s
  | some t =>
    let k := s.core t.core
    if t.inSlot && k.mailFree n && !(t.reports.any fun r => r.kind == kind && r.dom == dm) then
      let (v, s1) := s.freeVal
      let m : Mail := { thread := n, dom := dm, header := mailHeader 0 (v.extractLsb' 0 12) kind 2 0, payload := [w0, w1] }
      let k1 := s1.core t.core
      let s2 := s1.setCore { k1 with mailbox := k1.mailbox ++ [m] }
      if kind = 4 then s2.modThread n fun t => { t with eccSeen := true } else s2
    else
      let inc (w : Word) (lo : Nat) : Word :=
        if w.extractLsb' lo 16 = BitVec.allOnes 16 then w else w + (1#64 <<< lo)
      s.modThread n fun t =>
        if t.reports.any fun r => r.kind == kind && r.dom == dm then
          { t with reports := t.reports.map fun r =>
              if r.kind == kind && r.dom == dm then
                if kind = 3 then { r with w0 := inc (r.w0 ||| (w0 &&& 0xFFFFFFFF#64)) 48 }
                else { r with w1 := inc r.w1 0 }
              else r }
        else { t with reports := t.reports ++ [{ kind := kind, dom := dm, w0 := w0, w1 := w1 }] }

/-- R104: an access that met an uncorrectable error reports it. Word 0 of the message, the failing address, is the address of the
access (DESIGN CHOICE, log entry 77). -/
def State.memoryError (s : State) (n : ThreadNo) (dm : DomNo) (va : Word) : State := s.postReport n 4 dm va 1

/-! ### Accesses of the part -/

/-- A write by the part itself to its own records (frames, tables of the part). -/
def State.physWrite (s : State) (a : Nat) (bs : List Byte) : State :=
  let ps := physRange a bs.length
  match s.storeCells ps bs with
  | (true, s1) => s1
  | (false, s1) => (s1.touch ps).hitWatches ps

/-- The part reads some bytes of its tables for a thread, if for any (0 is none): an uncorrectable error is reported as R104 has it (R305), and reads as
all ones (DESIGN CHOICE, log entry 74). -/
def State.partRead (s : State) (n : ThreadNo) (dm : DomNo) (a k : Nat) : State :=
  let (s1, bad, _) := s.eccRead (physRange a k)
  let s2 := s1.touch (physRange a k)
  if bad && n != 0 then s2.memoryError n dm (BitVec.ofNat 64 a) else s2

/-- The part writes bytes of its tables for a thread: a write that a damaged granule holds back is reported (R306). -/
def State.partWrite (s : State) (n : ThreadNo) (dm : DomNo) (a : Nat) (bs : List Byte) : State :=
  if (s.stuck (physRange a bs.length)).isEmpty || n == 0 then s.physWrite a bs
  else (s.physWrite a bs).memoryError n dm (BitVec.ofNat 64 a)

/-- R299: all of some bytes are present. -/
def presentAll (a n : Nat) : Bool :=
  n == 0 || (present a && present (a + n - 1) && (decide (scratchBase ≤ a) || a / 2 ^ 37 == (a + n - 1) / 2 ^ 37))

/-! ### Records of the part (R240, R358) -/

/-- Bytes in pieces of 64. -/
def pieces {α : Type} : Nat → List α → List (List α)
  | 0, _ => []
  | fuel + 1, l => if l.isEmpty then [] else l.take 64 :: pieces fuel (l.drop 64)

/-- Logs a thread's access to its records in pieces of 64 bytes, as loads or stores of the thread (DESIGN CHOICE, log
entry 57). -/
def State.traceRec (s : State) (t : Thread) (kind : Nat) (ps : List Nat) : State :=
  (pieces ps.length ps).foldl (fun s p => s.trace t.recSource kind p false) s

/-- R299, R358: an access of the part to a record fails: an address is absent, or a damaged granule meets it. -/
def State.recBad (s : State) (ps : List Nat) (write : Bool) : Bool :=
  !(ps.all present) || (if write then !(s.stuck ps).isEmpty else s.fatalAt ps)

/-- The part reads a record of a thread: errors are corrected, counted and recorded, and the event is logged; its words
are then read with `recWord`. Answers whether the access has failed. -/
def State.recRead (s : State) (t : Thread) (a n : Nat) : Bool × State :=
  let ps := physRange a n
  (s.recBad ps false, (((s.eccRead ps).1.touch ps).tookTurns t.core.toNat ps).traceRec t 0 ps)

/-- The part writes a record of a thread: nothing where the access fails. Answers whether it has failed. -/
def State.recWrite (s : State) (t : Thread) (a : Nat) (bs : List Byte) : Bool × State :=
  let ps := physRange a bs.length
  if s.recBad ps true then (true, (s.meet (s.stuck ps)).1)
  else (false, ((((s.storeCells ps bs).2.touch ps).tookTurns t.core.toNat ps).traceRec t 1 ps).hitWatches ps)

/-- R284, R327: the part's access to a record of a thread comes behind what its core has queued at the homes of the record. -/
def State.recBehind (s : State) (t : Thread) (a n : Nat) : Bool :=
  let hs := homesOf (physRange a n)
  (s.reqs.any fun q => q.core == t.core && hs.contains q.home) ||
  (s.threads.any fun u => u.num != t.num && u.core == t.core && u.stands.any fun p => (homesOf p.2).any hs.contains)

/-- One of some records of a thread, each an address and its bytes, comes behind (R284, R327). -/
def State.anyBehind (s : State) (t : Thread) (l : List (Nat × Nat)) : Bool := l.any fun r => s.recBehind t r.1 r.2

end Sys2Proof.Machine
end

