-- ==== Sys2Proof/Machine/Places.lean ====
section
/-! DEFINITION. Where threads may stand: the mesh (13_execution.md R277 to R279), the firmware column and its firewall
(21_launch_queues.md R354), core sets and shared cores (13 R278), slots that serve a VD (21 R352, R353). -/

namespace Sys2Proof.Machine

/-- Mesh column of a core (R279). -/
def meshX (c : CoreNo) : Nat :=
  16 * ((c.extractLsb' 8 2).toNat % 2) + 8 * ((c.extractLsb' 6 2).toNat % 2) + 2 * (c.extractLsb' 3 2).toNat +
    (c.extractLsb' 0 3).toNat % 2

/-- Mesh row of a core (R279). -/
def meshY (c : CoreNo) : Nat :=
  16 * ((c.extractLsb' 8 2).toNat / 2) + 8 * ((c.extractLsb' 6 2).toNat / 2) + 4 * (c.extractLsb' 5 1).toNat +
    (c.extractLsb' 0 3).toNat / 2

/-- R354: the core belongs to the firmware column of the width in force. -/
def State.inColumn (s : State) (c : CoreNo) : Bool := decide (32 ≤ meshX c + s.mgmt.colw.toNat)

/-- The cores of the column in ascending order. -/
def State.column (s : State) : List CoreNo :=
  ((List.range 1024).map (BitVec.ofNat 10)).filter s.inColumn

/-- R380: a feature that the VD has accepted: 0 graphs, 1 capped formats, 2 split accumulators, 3 keyed stages,
4 data endpoints. -/
def State.feature (s : State) (v : VdNo) (bit : Nat) : Bool := (s.vd v).feat0.getLsbD bit

/-- The VD to which a comb is partitioned (R378). -/
def State.partition? (s : State) (c : CombNo) : Option VdNo :=
  (s.vds.find? fun v => v.st != 0#2 && v.combs.getLsbD c.toNat).map Vd.num

/-- R278: a shared core. -/
def State.isShared (s : State) (c : CoreNo) : Bool := !s.inColumn c && (s.partition? (combOf c)).isNone

/-- R278: a core of a VD's core set. -/
def State.inCoreSet (s : State) (v : VdNo) (c : CoreNo) : Bool :=
  if v = 0 then s.inColumn c
  else !s.inColumn c && (match s.partition? (combOf c) with
    | none => true
    | some w => w == v)

/-- R394: the column core that restarts while an update rotates: the lowest that does not run the new image. -/
def State.restarting (s : State) : Option CoreNo :=
  if s.fleet.updst = 3#8 then s.column.find? fun c => !s.fleet.switched.contains c else none

/-- The VD that a compute slot serves now (R290, R352, R353); none while that VD is paused (R379) or reset, or the core
restarts (R394). -/
def State.slotVd (s : State) (c : CoreNo) (n : SlotNo) : Option VdNo :=
  let v := if s.inColumn c then (if s.restarting == some c then none else some 0)
    else match s.partition? (combOf c) with
      | some v => some v
      | none =>
        let k := s.core c
        if k.nextVd.isSome && k.handed.getLsbD n.toNat then k.nextVd else k.sliceVd
  v.filter fun v => (s.vd v).st == 1#2

/-- R353: a slot of the core is handed over to the incoming VD; the slice changes with the last one. -/
def Core.handOver (k : Core) (v : VdNo) (n : SlotNo) (now : Word) : Core :=
  let handed := k.handed ||| (1#16 <<< n.toNat)
  if handed = BitVec.allOnes 16 then { k with handed := 0, nextVd := none, sliceVd := some v, sliceStart := now }
  else { k with handed := handed }

/-- The thread in a slot. -/
def State.occupant (s : State) (c : CoreNo) (n : SlotNo) : Option Thread :=
  s.threads.find? fun t => t.place == .slot c n

/-- Free slots of a core that serve a VD, lowest first (R290, R291, R294). -/
def State.freeSlots (s : State) (c : CoreNo) (v : VdNo) : List SlotNo :=
  ((List.range 16).map (BitVec.ofNat 4)).filter fun n =>
    s.slotVd c n == some v && (s.occupant c n).isNone && !(s.core c).disabled.getLsbD n.toNat

/-- R354: a core of the column does not admit messages of a class (R285) from a core: 0 control, 1 response, 2 request,
3 bulk. -/
def State.refuses (s : State) (to_ from_ : CoreNo) (cls : Nat) : Bool :=
  s.inColumn to_ && !s.inColumn from_ && !(s.core to_).fcfw.getLsbD cls

/-- The thread's migration message has left a core. -/
def Thread.leftFrom (c : CoreNo) (t : Thread) : Bool := t.trip.from_ == c && (match t.place with
  | .travelling _ => true
  | _ => false)

/-- Messages in the retry buffer of a core (R371): staged ones, migration messages on their way, and `spawn.w` requests that have been
refused (DESIGN CHOICE, log entry 13). -/
def State.buffered (s : State) (c : CoreNo) : Nat :=
  (s.core c).retry.length +
  (s.threads.filter (Thread.leftFrom c)).length +
  (s.spawns.filter fun p => p.2.from_ == c && (p.2.refused || p.2.nacks != 0)).length

/-- A core stages another message unless its retry buffer of 32 is full (R117, R371). -/
def State.canStage (s : State) (c : CoreNo) : Bool := decide (s.buffered c < 32)

/-- R354, R285: a bank of the column does not admit accesses of a class from a core; or a core of the column does not admit what
answers them from a bank outside: responses, or the data of bulk accesses (DESIGN CHOICE, log entry 65). -/
def State.barredAs (s : State) (cls : Nat) (c : CoreNo) (p : Nat) : Bool :=
  match homeOf p with
  | .slice _ => false
  | .bank b => s.refuses b c 4 || s.refuses b c cls || s.refuses c b (if cls = 2 then 1 else cls)

/-- The bank does not admit the loads, stores and atomics of a core. -/
def State.barred (s : State) (c : CoreNo) (p : Nat) : Bool := s.barredAs 2 c p

end Sys2Proof.Machine
end

