-- ==== Sys2Proof/Machine/Translate.lean ====
section
/-! DEFINITION. Windows (14_memory_hierarchy.md R298), the two-stage page walks (22_traps_translation.md R363 to R366),
the argument window (09_gates_system.md R210), the checks of every access (05_memory_sync.md R99) and page requests
(22 R367). -/

namespace Sys2Proof.Machine

/-- The windows of R298. -/
inductive Window where
  | none | image | priv | sram | arg
  deriving DecidableEq, Repr

def imageBase : Nat := 0x0000001000000000
def sramBase : Nat := 0x00007E0000000000
/-- AWB, the base of the argument window. -/
def argBase : Nat := 0x4000000000000000

/-- The window an address lies in (R298). -/
def windowOf (a : Nat) : Window :=
  if imageBase ≤ a ∧ a ≤ 0x0000001FFFFFFFFF then .image
  else if 0x0000010000000000 ≤ a ∧ a ≤ 0x00007DFFFFFFFFFF then .priv
  else if sramBase ≤ a ∧ a ≤ 0x00007E001FFFFFFF then .sram
  else if argBase ≤ a ∧ a ≤ 0x7FFFFFFFFFFFFFFF then .arg
  else .none

def Rights.and (p q : Rights) : Rights := ⟨p.r && q.r, p.w && q.w, p.x && q.x⟩

/-- A table entry read at a level: a next table, a leaf, or nothing usable (R364). -/
inductive Pte where
  | table (addr : Nat)
  | leaf (out : Nat) (rights : Rights)
  | bad
  deriving DecidableEq, Repr

/-- log2 of the bytes a leaf at a level maps (R363). -/
def leafShift (level : Nat) : Nat := if level = 1 then 30 else if level = 2 then 21 else 16

/-- R364: reads an entry's 64 bits at a level; malformed and invalid entries are bad. -/
def pte (level : Nat) (e : Word) : Pte :=
  let addr := (e.extractLsb' 8 44).toNat * 256
  let rights : Rights := ⟨e.getLsbD 2, e.getLsbD 3, e.getLsbD 4⟩
  if !e.getLsbD 0 || e.extractLsb' 52 12 != 0#12 || e.extractLsb' 5 3 != 0#3 then .bad
  else if e.getLsbD 1 then
    if level = 0 || addr % 2 ^ leafShift level != 0 then .bad else .leaf addr rights
  else if level = 3 || rights.r || rights.w || rights.x then .bad
  else if level < 2 && addr % 4096 != 0 then .bad
  else .table addr

/-- The index into the table of a level: bits of a VA (9 at level 0) or an IPA (13 at level 0) (R363). -/
def tableIndex (level a : Nat) (bits0 : Nat) : Nat :=
  if level = 0 then a / 2 ^ 39 % 2 ^ bits0
  else if level = 1 then a / 2 ^ 30 % 512
  else if level = 2 then a / 2 ^ 21 % 512
  else a / 2 ^ 16 % 32

/-- R378: the output lies in the stack of a hive partitioned to another VD. -/
def hiveTaken (s : State) (v : VdNo) (p : Nat) : Bool :=
  decide (p < 2 ^ 41) && s.vds.any fun d => d.num != v && d.st != 0#2 && d.hives.getLsbD (p / 2 ^ 37)

/-- A stage-2 translation: the physical page address, rights and the leaf's level, or the level at which the walk
stopped. -/
inductive S2 where
  | ok (page : Nat) (rights : Rights) (level : Nat)
  | miss (level : Nat)
  deriving DecidableEq, Repr

/-- The stage-2 walk from a table on; `fuel` counts the levels left. A read of an absent address is a refused table
read (R364). -/
def s2from (s : State) (v : VdNo) (ipa : Nat) : Nat → Nat → Nat → S2
  | 0, level, _ => .miss level
  | fuel + 1, level, table =>
    let a := table + 8 * tableIndex level ipa 13
    if !present a then .miss level
    else match pte level (s.physRead a 8) with
      | .bad => .miss level
      | .table next => s2from s v ipa fuel (level + 1) next
      | .leaf out rights =>
        let page := out + ipa / 65536 * 65536 % 2 ^ leafShift level
        if present page && !hiveTaken s v page then .ok page rights level else .miss level

/-- The page that the leaf of a stage-2 walk names, present or not. -/
def s2leaf (s : State) (ipa : Nat) : Nat → Nat → Nat → Option Nat
  | 0, _, _ => none
  | fuel + 1, level, table =>
    let a := table + 8 * tableIndex level ipa 13
    if !present a then none
    else match pte level (s.physRead a 8) with
      | .bad => none
      | .table next => s2leaf s ipa fuel (level + 1) next
      | .leaf out _ => some (out + ipa / 65536 * 65536 % 2 ^ leafShift level)

/-- R363: stage 2 of a VD for an IPA page: the root of its colour, then four levels. VD 0 bypasses it. -/
def s2walk (s : State) (v : VdNo) (ipa : Nat) : S2 :=
  if v = 0 then .ok (ipa / 65536 * 65536) ⟨true, true, true⟩ 3
  else
    let root := (s.vd v).s2root.toList.getD (ipa / 65536 % 4) 0
    if root.getLsbD 0 then s2from s v ipa 4 0 ((root.extractLsb' 16 36).toNat * 65536) else .miss 0

/-- A valid stage-2 leaf maps an IPA to an absent address (R299). -/
def s2absent (s : State) (v : VdNo) (ipa : Nat) : Bool :=
  let root := (s.vd v).s2root.toList.getD (ipa / 65536 % 4) 0
  root.getLsbD 0 && (s2leaf s ipa 4 0 ((root.extractLsb' 16 36).toNat * 65536)).any fun p => !present p

/-- Stage 2 for an IPA page, the comb's cached entries first (R365, R339). -/
def s2cached (s : State) (c : CombNo) (v : VdNo) (ipa : Nat) : S2 :=
  match (s.comb c).tlb2.find? fun e => e.vd == v && e.ipa.toNat == ipa / 65536 with
  | some e => .ok (e.phys.toNat * 65536) ⟨e.r, e.w, e.x⟩ e.level.toNat
  | none => s2walk s v ipa

/-- What a translation of one page answers. -/
inductive Tr where
  /-- The physical page, the rights of both stages, the IPA page, and the pages that stage 2 translated: those of the
  tables, then the page itself. -/
  | ok (page : Nat) (rights : Rights) (ipa : Nat) (via : List (Nat × Nat × Rights × Nat))
  /-- Stage 1 does not map the page. -/
  | s1
  /-- Stage 2 does not map: the IPA, of a stage-1 table that of the table (KIND 11), the level, and where the walk
  stands. -/
  | s2 (ipa : Nat) (level : Nat) (table : Bool) (at_ : WalkAt)
  deriving DecidableEq, Repr

/-- The end of a walk, from the output of stage 1 and its rights: stage 2 of the output is given (R363, R299). In the SRAM
window a leaf at either stage maps an address only to its own scratchpad byte. -/
def outputTr (va : Nat) (ipaOut : Nat) (r1 : Rights) (via : List (Nat × Nat × Rights × Nat)) : S2 → Tr
  | .miss l => .s2 ipaOut l false (.output ipaOut r1 via)
  | .ok page rights level =>
    if windowOf va == .sram && page != scratchBase + (va / 65536 * 65536 - sramBase) then
      .s2 ipaOut level false (.output ipaOut r1 via)
    else .ok page (r1.and rights) (ipaOut / 65536) (via ++ [(ipaOut / 65536, page, rights, level)])

/-- The stage-1 walk from a table on, whose pointers are IPAs (R363). -/
def s1from (s : State) (c : CombNo) (v : VdNo) (va : Nat) : Nat → Nat → Nat → List (Nat × Nat × Rights × Nat) → Tr
  | 0, _, _, _ => .s1
  | fuel + 1, level, table, via =>
    let ipa := table + 8 * tableIndex level va 9
    match s2cached s c v ipa with
    | .miss l => .s2 table l true (.table level table via)
    | .ok page0 r2 l2 =>
      let a := page0 + ipa % 65536
      let via1 := via ++ [(ipa / 65536, page0, r2, l2)]
      if !present a then .s1
      else match pte level (s.physRead a 8) with
        | .bad => .s1
        | .table next => s1from s c v va fuel (level + 1) next via1
        | .leaf out r1 =>
          let ipaOut := out + va / 65536 * 65536 % 2 ^ leafShift level
          if (windowOf va == .sram && ipaOut != scratchBase + (va / 65536 * 65536 - sramBase)) || (v == 0 && !present ipaOut)
          then .s1
          else outputTr va ipaOut r1 via1 (s2cached s c v ipaOut)

/-- The translation that a comb holds for a page of a domain (R365). -/
def State.tlbAt (s : State) (c : CombNo) (d : DomNo) (page : Nat) : Option Tlb :=
  (s.comb c).tlb.find? fun e => e.dom == d && e.page.toNat == page

/-- R363: the walk of both stages for the page of a virtual address of a domain. -/
def walkPage (s : State) (c : CombNo) (d : DomNo) (va : Nat) : Tr :=
  let dm := s.domain d
  s1from s c dm.vd (va % 2 ^ 48) 4 0 ((dm.s1root.extractLsb' 12 40).toNat * 4096) []

/-- Both stages for the page of a virtual address of a domain (R363), the comb's translation cache first (R365). -/
def translate (s : State) (c : CombNo) (d : DomNo) (va : Nat) : Tr :=
  match s.tlbAt c d (va / 65536) with
  | some e => .ok (e.phys.toNat * 65536) ⟨e.r, e.w, e.x⟩ e.ipa.toNat []
  | none => walkPage s c d va

/-! What a walk reads: the physical addresses of the entries (R305, R302). A damaged entry reads as all ones and is malformed
(DESIGN CHOICE, log entry 74). -/

/-- The entries that a stage-2 walk reads from a table on. -/
def s2reads (s : State) (ipa : Nat) : Nat → Nat → Nat → List Nat
  | 0, _, _ => []
  | fuel + 1, level, table =>
    let a := table + 8 * tableIndex level ipa 13
    if !present a then []
    else a :: match pte level (s.physRead a 8) with
      | .table next => s2reads s ipa fuel (level + 1) next
      | _ => []

/-- The entries that stage 2 reads for an IPA page that the comb does not hold. -/
def s2walkReads (s : State) (c : CombNo) (v : VdNo) (ipa : Nat) : List Nat :=
  let root := (s.vd v).s2root.toList.getD (ipa / 65536 % 4) 0
  if v = 0 || !root.getLsbD 0 || (s.comb c).tlb2.any (fun e => e.vd == v && e.ipa.toNat == ipa / 65536) then []
  else s2reads s ipa 4 0 ((root.extractLsb' 16 36).toNat * 65536)

/-- The entries that a stage-1 walk reads from a table on. -/
def s1reads (s : State) (c : CombNo) (v : VdNo) (va : Nat) : Nat → Nat → Nat → List Nat
  | 0, _, _ => []
  | fuel + 1, level, table =>
    let ipa := table + 8 * tableIndex level va 9
    s2walkReads s c v ipa ++ match s2cached s c v ipa with
      | .miss _ => []
      | .ok page0 _ _ =>
        let a := page0 + ipa % 65536
        if !present a then []
        else a :: match pte level (s.physRead a 8) with
          | .bad => []
          | .table next => s1reads s c v va fuel (level + 1) next
          | .leaf out _ => s2walkReads s c v (out + va / 65536 * 65536 % 2 ^ leafShift level)

/-- The part reads table entries: errors are counted and corrected, and the lines are held (R305, R302). -/
def State.noteTables (s : State) (l : List Nat) : State :=
  l.foldl (fun (s : State) a => (s.eccRead (physRange a 8)).1.touch (physRange a 8)) s

/-- The walk for a page of a domain reads its tables, unless the comb holds the page. -/
def State.noteWalk (s : State) (c : CombNo) (d : DomNo) (va : Nat) : State :=
  if (s.tlbAt c d (va / 65536)).isSome then s
  else
    let dm := s.domain d
    s.noteTables (s1reads s c dm.vd (va % 2 ^ 48) 4 0 ((dm.s1root.extractLsb' 12 40).toNat * 4096))

/-- A walk that goes on from where it stood reads the tables that are left. -/
def WalkAt.reads (s : State) (c : CombNo) (d : DomNo) (va : Nat) : WalkAt → List Nat
  | .table level tab _ => s1reads s c (s.domain d).vd (va % 2 ^ 48) (4 - level) level tab
  | .output ipa _ _ => s2walkReads s c (s.domain d).vd ipa

/-- A walk goes on from where it stood: the stage-2 walk of its page is repeated from the root (R340, R368). -/
def WalkAt.resume (s : State) (c : CombNo) (d : DomNo) (va : Nat) : WalkAt → Tr
  | .table level tab via => s1from s c (s.domain d).vd (va % 2 ^ 48) (4 - level) level tab via
  | .output ipa r1 via => outputTr va ipa r1 via (s2walk s (s.domain d).vd ipa)

/-- R365: the comb caches a translation and the stage-2 entries it used, each as the most recently used. -/
def cacheTr (s : State) (c : CombNo) (d : DomNo) (va : Nat) (tr : Tr) : State :=
  match tr with
  | .ok page rights ipa via =>
    let k := s.comb c
    let v := (s.domain d).vd
    match k.tlb.find? fun e => e.dom == d && e.page.toNat == va / 65536 with
    | some e => s.setComb { k with tlb := e :: k.tlb.erase e }
    | none =>
      let e : Tlb := { dom := d, page := BitVec.ofNat 36 (va / 65536), vd := v, ipa := BitVec.ofNat 36 ipa,
                       phys := BitVec.ofNat 36 (page / 65536), r := rights.r, w := rights.w, x := rights.x,
                       via := via.map fun t => BitVec.ofNat 36 t.1 }
      let t2 := if v = 0 then [] else via.map fun t =>
        ({ vd := v, ipa := BitVec.ofNat 36 t.1, phys := BitVec.ofNat 36 (t.2.1 / 65536),
           r := t.2.2.1.r, w := t.2.2.1.w, x := t.2.2.1.x, level := BitVec.ofNat 2 t.2.2.2 } : Tlb2)
      s.setComb { k with tlb := (e :: k.tlb).take 1024,
                         tlb2 := (t2.dedup ++ k.tlb2.filter fun t => !(t2.any fun u => u.vd == t.vd && u.ipa == t.ipa)).take 256 }
  | _ => s

/-- What an access is for (R99, R367). -/
inductive Acc1 where
  | read | write | fetch
  deriving DecidableEq, Repr

def Rights.allow (p : Rights) : Acc1 → Bool
  | .read => p.r
  | .write => p.w
  | .fetch => p.x

/-- A stage-2 miss that a page reply must decide (R101, R367). -/
structure Miss where
  dom : DomNo
  vd : VdNo
  /-- The lowest byte that stage 2 does not map, as the accessing domain knows it, and the address that the request
  names (R99, R210, R367). -/
  at_ : Nat
  va : Nat
  ipa : Nat
  level : Nat
  kind : BitVec 2
  deriving DecidableEq, Repr

/-- What the checks of an access answer. -/
inductive Chk where
  /-- Every byte may be accessed, at these physical addresses. -/
  | ok (phys : List Nat)
  | trap (c : Cause) (tval : Nat)
  | miss (m : Miss)
  deriving DecidableEq, Repr

/-- The KIND field of a request (R367). -/
def reqKind (table : Bool) : Acc1 → BitVec 2
  | .read => if table then 3 else 0
  | .write => if table then 3 else 1
  | .fetch => if table then 3 else 2

/-- An access of `n` bytes in the tables of a domain: at most two pages. Stage 1 of every byte, stage 2 of every byte,
then rights (R99 checks 4 to 6). Where the first page misses stage 2 in its data and the second in a stage-1 table, the
first page is asked for before stage 1 of the second is known (DESIGN CHOICE, log entry 58). -/
def checkTables (s : State) (c : CombNo) (d : DomNo) (va n : Nat) (k : Acc1) : Chk :=
  let va2 := (va + n - 1) / 65536 * 65536
  let two := va / 65536 != (va + n - 1) / 65536
  let t1 := translate s c d va
  let t2 := if two then translate s c d va2 else t1
  let image := windowOf va == .image
  let miss (a ipa level : Nat) (tb : Bool) : Chk :=
    .miss { dom := d, vd := (s.domain d).vd, at_ := a, va := if tb then ipa else a, ipa := ipa, level := level,
            kind := reqKind tb k }
  match t1, t2 with
  | .s1, _ => .trap .faultS1 va
  | .s2 ipa l true _, _ => miss va ipa l true
  | _, .s1 => .trap .faultS1 va2
  | .s2 ipa l false _, _ => miss va ipa l false
  | _, .s2 ipa l tb _ => miss va2 ipa l tb
  | .ok p1 r1 _ _, .ok p2 r2 _ _ =>
    if !r1.allow k || (image && k == .write) then .trap .prot va
    else if !r2.allow k then .trap .prot va2
    else .ok ((List.range n).map fun i =>
      if (va + i) / 65536 == va / 65536 then p1 + (va + i) % 65536 else p2 + (va + i) % 65536)

/-- A 64-bit word of memory at a physical address as a domain-stack entry's dwords (R25, R32). -/
def decodeEntry (w : Nat → Word) : Entry :=
  let w0 := w 0
  { cdom := w0.extractLsb' 52 12, gdom := w0.extractLsb' 40 12, depth := w0.extractLsb' 36 4,
    nwin := w0.extractLsb' 33 3, grant := w0.extractLsb' 31 2, retpc := w 1, gbase := w 2, glen := w 3,
    ecyc := w 4, gate := (w 5).extractLsb' 0 32, cframe := w 6 }

/-- The dwords of an entry (R25). -/
def Entry.words (e : Entry) : List Word :=
  [e.cdom ++ e.gdom ++ e.depth ++ e.nwin ++ e.grant ++ 0#31, e.retpc, e.gbase, e.glen, e.ecyc,
   e.gate.setWidth 64, e.cframe, 0]

/-- The place of the entry of a depth in a hardware page (R32). -/
def pageEntry (page d : Nat) : Nat := page + 0x40 + 64 * (d - 1)

/-- The entry of a depth: the top one in the slot; a deeper one, and the top one of a thread that stands in no slot, in
the hardware page (R25, R32). -/
def entryAt (s : State) (t : Thread) (d : Nat) : Option Entry :=
  if d = 0 ∨ t.depth.toNat < d then none
  else if d = t.depth.toNat ∧ t.top.isSome then t.top
  else t.hwPage.map fun a => decodeEntry fun i => s.physRead (pageEntry a d + 8 * i) 8

/-- Where an access is checked: in the tables of a domain, at an address; or it traps before. -/
inductive Route where
  | trap (c : Cause) (tval : Nat)
  | to (dm : DomNo) (va : Nat)
  deriving DecidableEq, Repr

/-- R99 with R210: the window of an access of `n` bytes by a thread as the domain that stands at depth `d` of its stack;
in an argument window it is the same access in the caller's space. A store that GRANT does not allow is refused from its
first byte on, also where it crosses GLEN. `fuel` is the depth left. -/
def route (s : State) (t : Thread) (k : Acc1) : Nat → Nat → DomNo → Nat → Nat → Route
  | fuel, d, dm, va, n =>
    if windowOf va != windowOf ((va + n - 1) % 2 ^ 64) then .trap .straddle va
    else match windowOf va with
      | .none => .trap .prot va
      | .image | .priv | .sram => .to dm va
      | .arg =>
        match fuel, entryAt s t d with
        | fuel' + 1, some e =>
          let o := va - argBase
          if e.grant = 0#2 then .trap .prot va
          else if k == .write && e.grant != 2#2 then .trap .prot va
          else if e.glen.toNat < o + n then .trap .prot (max va (argBase + e.glen.toNat))
          else match route s t k fuel' (d - 1) e.cdom ((e.gbase.toNat + o) % 2 ^ 64) n with
            | .trap _ _ => .trap .prot va
            | r => r
        | _, _ => .trap .prot va

/-- R99 with R210: the checks of an access of `n` bytes. ALIGN is checked before. Whatever refuses an access in the
caller's space is PROT in the argument window. -/
def checkAt (s : State) (c : CombNo) (t : Thread) (k : Acc1) (fuel d : Nat) (dm : DomNo) (va n : Nat) : Chk :=
  match route s t k fuel d dm va n with
  | .trap c v => .trap c v
  | .to dm' there => match checkTables s c dm' there n k with
    | .ok ps => .ok ps
    | .miss m => .miss { m with at_ := va + (m.at_ - there) }
    | .trap cause v => if windowOf va == .arg then .trap .prot va else .trap cause v

/-- R99 for an access by a thread in its current domain. -/
def checkAccess (s : State) (t : Thread) (k : Acc1) (va : Word) (n : Nat) : Chk :=
  checkAt s (combOf t.core) t k 9 t.depth.toNat t.dom va.toNat n

/-- The greatest depth of a thread's stack at which a domain stands; 0 where it stands at none. -/
def depthOf (s : State) (t : Thread) (dm : DomNo) : Nat :=
  ((List.range (t.depth.toNat + 1)).filter fun d =>
    if d = 0 then t.botdom == dm else (entryAt s t d).any fun e => e.gdom == dm).foldl max 0

/-- R99 in a domain that the thread may have left: its place in the stack is found by its number. -/
def checkAs (s : State) (c : CombNo) (t : Thread) (dm : DomNo) (k : Acc1) (va : Word) (n : Nat) : Chk :=
  checkAt s c t k 9 (depthOf s t dm) dm va.toNat n

/-- The IPA page of a miss. -/
def Miss.page (m : Miss) : BitVec 36 := BitVec.ofNat 36 (m.ipa / 65536)

/-- The pages in which an access lies, with an address in each, in the domains whose tables map them (R210); none where it
traps before translation. -/
def pagesOf (s : State) (t : Thread) (k : Acc1) (d : Nat) (dm : DomNo) (va n : Nat) : List (DomNo × Nat) :=
  match route s t k 9 d dm va n with
  | .trap _ _ => []
  | .to d a =>
    let last := a + n - 1
    if a / 65536 = last / 65536 then [(d, a)] else [(d, a), (d, last / 65536 * 65536)]

/-- The comb's translation cache holds the pages of an access of a thread. -/
def State.cached (s : State) (t : Thread) (va : Word) (n : Nat) : Bool :=
  (pagesOf s t .read t.depth.toNat t.dom va.toNat n).all fun p => (s.tlbAt (combOf t.core) p.1 (p.2 / 65536)).isSome

/-- The pages an access translated enter the comb's cache. -/
def cacheAccess (s : State) (t : Thread) (va : Word) (n : Nat) : State :=
  let c := combOf t.core
  (pagesOf s t .read t.depth.toNat t.dom va.toNat n).foldl (fun (s : State) p => cacheTr s c p.1 p.2 (translate s c p.1 p.2)) s

/-- Size of a VD's request queue (R367, R372): 2^(SZ + 4) records, SZ 9 to 15 read as 8. -/
def Vd.queueSize (v : Vd) : Nat := 2 ^ ((if v.pqsz.toNat > 8 then 8 else v.pqsz.toNat) + 4)

/-- The 32-byte record of a request (R367). -/
def PageReq.words (v : VdNo) (p : PageReq) : List Word :=
  [p.req ++ p.dom ++ v ++ p.level ++ p.kind ++ p.core, p.va, (p.ipa.setWidth 64 <<< 16),
   p.thread ++ p.cyc]

/-- R367: appends records in REQ order while the queue has room. Where the queue's place is absent the access fails, and
the thread of the miss is lost (R299, R358). -/
def postRecords (v : VdNo) : Nat → State → State
  | 0, s => s
  | fuel + 1, s =>
    let d := s.vd v
    match d.pend.find? fun p => !p.posted && !p.mapped with
    | none => s
    | some p =>
      if (d.pqtail - d.pqhead).toNat ≥ d.queueSize then s
      else
        let a := d.pqbase.toNat + 32 * (d.pqtail.toNat % d.queueSize)
        let bytes := (p.words v).flatMap fun w => wordBytes w 8
        let s1 := if present a then s.physWrite a bytes
          else s.modThread p.thread fun t => { t with lost := t.place != .gone }
        postRecords v fuel (s1.setVd { d with
          pqtail := d.pqtail + 1, pend := d.pend.map (fun q => if q.req = p.req then { q with posted := true } else q) })

/-- R367: a walk that stopped at stage 2 joins its page's pending entry, or makes one with the next REQ and posts its
record. With 64 entries pending the miss is held: it comes again. Event 11 of the thread counts (R388). -/
def State.pageRequest (s : State) (t : Thread) (m : Miss) : State :=
  let d := s.vd m.vd
  let page := BitVec.ofNat 36 (m.ipa / 65536)
  if d.pend.any (fun p => p.ipa == page) then s.modThread t.num fun u => u.event 11 1
  else if d.pend.length ≥ 64 then s
  else
    let p : PageReq :=
      { req := d.nextReq, ipa := page, level := BitVec.ofNat 2 m.level, kind := m.kind, core := t.core, dom := m.dom
        va := BitVec.ofNat 64 m.va, thread := t.num, cyc := s.cyc.extractLsb' 0 32, posted := false
        mapped := false }
    postRecords m.vd 1 ((s.setVd { d with pend := d.pend ++ [p], nextReq := d.nextReq + 1 }).modThread t.num fun u => u.event 11 1)

end Sys2Proof.Machine
end

