-- ==== Sys2Proof/Machine/Frames.lean ====
section
/-! DEFINITION. The registers that show other state (st, oc, dom, vbs, pbs: 01_state.md R12 to R26), frame records and
hardware pages (R30 to R32), context blocks (22_traps_translation.md R356 to R358), mailbox entries and pending reports
(05_memory_sync.md R118), VD sticky words and the host event ring (21_launch_queues.md R355). -/

namespace Sys2Proof.Machine

/-! ### Registers that show other state -/

/-- Bit positions of st (R12). -/
def stVLIVE : Nat := 7
def stHM : Nat := 5
def stEVZ : Nat := 16
def stNX : Nat := 17
def stUF : Nat := 18
def stOF : Nat := 19
def stNV : Nat := 20
def stMZ : Nat := 21
def stMROVF : Nat := 22
def stMCSAT : Nat := 23

/-- A word with one bit set or cleared. -/
def putBit (w : Word) (i : Nat) (b : Bool) : Word :=
  if b then w ||| (1#64 <<< i) else w &&& ~~~(1#64 <<< i)

/-- The defined bits of st that a frame record gives back (R12). -/
def stDefined (w : Word) : Word := w &&& 0xFF00BF#64

def Thread.portsBound (t : Thread) : Bool := t.ports.toList.any Port.bound
def Thread.vbusy (t : Thread) : Bool := t.vcmd.isSome
def Thread.vlive (t : Thread) : Bool := t.st.getLsbD stVLIVE
def Thread.hm (t : Thread) : Bool := t.st.getLsbD stHM
/-- RM, FZS and FZR (R12). -/
def Thread.rm (t : Thread) : BitVec 3 := t.st.extractLsb' 0 3
def Thread.fzs (t : Thread) : Bool := t.st.getLsbD 3
def Thread.fzr (t : Thread) : Bool := t.st.getLsbD 4

/-- The status word as it reads: DEPTH, PORTS and VBUSY show the state (R12). -/
def Thread.stWord (t : Thread) : Word :=
  putBit (putBit ((t.st &&& ~~~(0x1E00#64)) ||| (t.depth.setWidth 64 <<< 9)) 8 t.portsBound) 6 t.vbusy

/-- oc (R16). -/
def Thread.ocWord (t : Thread) : Word :=
  BitVec.ofNat 64 (t.tlo * 2 ^ 24 + t.cpo * 2 ^ 16 + t.sto * 2 ^ 8 + t.ldo)

/-- dom (R26). -/
def Thread.domWord (t : Thread) : Word := 0#28 ++ t.chgvd ++ t.botdom ++ t.vdid ++ t.dom

/-- A list of bits as a number, the first lowest. -/
def bitsNat : List Bool → Nat
  | [] => 0
  | b :: r => (if b then 1 else 0) + 2 * bitsNat r

/-- vbs (R22). -/
def Thread.vbsWord (t : Thread) : Word :=
  BitVec.ofNat 64 (bitsNat (t.streams.toList.map fun v => v.bound && v.push) * 256 +
    bitsNat (t.streams.toList.map Stream.bound))

/-- The nibble of a port (R23). -/
def Port.nibble (p : Port) : Nat :=
  if p.bound then 8 + (if p.push then 4 else 0) + p.kind.toNat else 0

/-- pbs (R23). -/
def Thread.pbsWord (t : Thread) : Word :=
  BitVec.ofNat 64 (t.ports.toList.foldr (fun p acc => p.nibble + 16 * acc) 0)

/-- agm (R20). -/
def Thread.agmWord (t : Thread) : Word := if t.cen then 1 else 0

/-! ### Frame records (R30) -/

/-- Words 0x000 to 0x138 of a frame record. -/
def frameLow (t : Thread) (depth : Nat) (kind : Nat) (pc : Word) : List Word :=
  [t.num ++ t.dom ++ t.vdid ++ BitVec.ofNat 4 depth ++ BitVec.ofNat 2 kind ++ 0#8, pc, t.stWord, t.cb,
   (t.vbsWord.extractLsb' 0 16) ++ (t.pbsWord.extractLsb' 0 24) ++ t.taint ++ t.pw, t.ocWord, 0, 0]
  ++ t.x.toList
  ++ [t.fmtA.setWidth 64, t.fmtB.setWidth 64, t.scA, t.scB, t.scC,
      0#8 ++ (bit1 t.cen).setWidth 8 ++ t.agc ++ t.agv]
  ++ (t.ports.toList.map fun p => if p.bound then p.target else 0) ++ [0, 0, 0, 0]

/-- Words 0x140 to 0x5F8: the vector registers, the streams, reserved words. -/
def frameHigh (t : Thread) : List Word :=
  (t.v.toList.flatMap fun v => (List.range 16).map fun i => v.toList.getD (2 * i + 1) 0 ++ v.toList.getD (2 * i) 0)
  ++ (t.streams.toList.flatMap fun v => if v.bound then [v.desc, v.pos] else [0, 0])
  ++ List.replicate 8 0

/-- Bytes of 64-bit words. -/
def wordsBytes (ws : List Word) : List Byte := ws.flatMap fun w => wordBytes w 8

/-- A 64-bit word of a record at a physical address. -/
def State.recWord (s : State) (a : Nat) (i : Nat) : Word := s.physRead (a + 8 * i) 8

/-- A list of the first 16 words given by a function, as a register file. -/
def regFile (f : Nat → Word) : Vector Word 16 := Vector.mk ((List.range 16).map f).toArray (by simp)

def vecOf (f : Nat → Word32) : Lanes := Vector.mk ((List.range 32).map f).toArray (by simp)

def vecFile (f : Nat → Lanes) : Vector Lanes 8 := Vector.mk ((List.range 8).map f).toArray (by simp)

/-- Ports as a frame record holds them (R30). -/
def framePorts (w : Nat → Word) : Vector Port 6 :=
  Vector.mk ((List.range 6).map fun i =>
    let nib := ((w 4).extractLsb' 24 24).extractLsb' (4 * i) 4
    ({ bound := nib.getLsbD 3, push := nib.getLsbD 2, kind := nib.extractLsb' 0 2, target := w (30 + i) } : Port)).toArray
    (by simp)

/-- Shadow and agreement registers as a frame record holds them. -/
def restoreModes (t : Thread) (w : Nat → Word) : Thread :=
  { t with fmtA := (w 24).extractLsb' 0 4, fmtB := (w 25).extractLsb' 0 4, scA := w 26, scB := w 27, scC := w 28,
           agv := (w 29).extractLsb' 0 32, agc := (w 29).extractLsb' 32 16, cen := (w 29).getLsbD 48 }

/-- Vector registers and streams as a frame record holds them. -/
def restoreVector (t : Thread) (w : Nat → Word) : Thread :=
  { t with
    v := vecFile fun k => vecOf fun i => (w (40 + 16 * k + i / 2)).extractLsb' (if i % 2 = 0 then 0 else 32) 32
    streams := Vector.mk ((List.range 8).map fun k =>
      ({ bound := (w 4).getLsbD (48 + k), push := (w 4).getLsbD (56 + k),
         desc := w (168 + 2 * k), pos := w (169 + 2 * k) } : Stream)).toArray (by simp) }

/-! ### Context blocks and hardware pages (R356, R357) -/

def svMask : Nat := 2 ^ 17

/-- Virtual address of a context block in its domain. -/
def Domain.blockVa (d : Domain) (k : Nat) : Nat := d.svbase.toNat / svMask * svMask + k * svMask

/-- A bit of a domain's allocation bitmap. -/
def State.bmapBit (s : State) (d : Domain) (k : Nat) : Bool := (s.physRead (d.bmap + k / 8) 1).getLsbD (k % 8)

/-- Changes a bit of the bitmap, for a thread. -/
def State.setBmap (s : State) (n : ThreadNo) (d : Domain) (k : Nat) (b : Bool) : State :=
  let a := d.bmap + k / 8
  let v := (s.physRead a 1).setWidth 8
  let m : Byte := 1#8 <<< (k % 8)
  s.partWrite n d.num a [if b then v ||| m else v &&& ~~~m]

/-- The lowest clear bit among `n` from `from_` on, as its number from there. -/
def lowestFree (s : State) (d : Domain) (from_ : Nat) : Nat → Nat → Option Nat
  | 0, _ => none
  | fuel + 1, k => if s.bmapBit d (from_ + k) then lowestFree s d from_ fuel (k + 1) else some k

/-- SVFREE and HWFREE (R356). -/
def State.svFree (s : State) (d : Domain) : Nat := ((List.range d.svn).filter fun k => !s.bmapBit d k).length
def State.hwFree (s : State) (d : Domain) : Nat := ((List.range d.hwn).filter fun k => !s.bmapBit d (d.svn + k)).length

/-- What allocating a context block answers (R356, R358). -/
inductive Alloc where
  | ok (s : State) (t : Thread)
  /-- No free block or page. -/
  | full
  /-- A failed allocation. -/
  | failed
  /-- Pages that stage 2 does not map. -/
  | miss (ms : List Miss)

def Thread.block? (t : Thread) (d : DomNo) : Option Block := t.blocks.find? fun b => b.dom == d

/-- R298: a domain stores only in its private and SRAM windows, where a context block must lie. -/
def blockWindow (va : Nat) : Bool := windowOf va == .priv || windowOf va == .sram

/-- R356: an output that is absent fails the allocation, where for another access its page is requested (log entry 54). -/
def blockMiss (s : State) (ms : List Miss) : Alloc :=
  if ms.any fun m => m.kind != 3#2 && s2absent s m.vd m.ipa then .failed else .miss ms

/-- R356: the thread takes the lowest free context block of a domain, unless it holds one there; both pages are
translated as stores by the domain, and the block's header is written. -/
def allocBlock (s : State) (c : CombNo) (t : Thread) (dn : DomNo) : Alloc :=
  if (t.block? dn).isSome then .ok s t
  else
    let d := s.domain dn
    match lowestFree s d 0 d.svn 0 with
    | none => .full
    | some k =>
      let va := d.blockVa k
      if !blockWindow va || !blockWindow (va + 65536) then .failed
      else match checkTables s c dn va 8 .write, checkTables s c dn (va + 65536) 8 .write with
      | .miss m, .miss m2 => blockMiss s [m, m2]
      | .miss m, .ok _ => blockMiss s [m]
      | .ok _, .miss m => blockMiss s [m]
      | .ok p, .ok q =>
        let lo := p.headD 0
        let hi := q.headD 0
        if present lo && present hi && present (d.bmap + k / 8) then
          let s1 := cacheTr (cacheTr s c dn va (translate s c dn va)) c dn (va + 65536) (translate s c dn (va + 65536))
          let s2 := (s1.partRead t.num dn d.bmap (k / 8 + 1)).setBmap t.num d k true
          let s3 := s2.partWrite t.num dn lo (wordsBytes ((t.num ++ dn ++ 0#20) :: List.replicate 7 0))
          .ok s3 { t with blocks := t.blocks ++ [{ dom := dn, index := k, lo := lo, hi := hi }] }
        else .failed
      | _, _ => .failed

/-- R356, R32: the thread takes the lowest free hardware page of its bottom domain; one at an absent address fails the
allocation (R299). -/
def allocPage (s : State) (t : Thread) (dn : DomNo) : Alloc :=
  let d := s.domain dn
  match lowestFree s d d.svn d.hwn 0 with
  | none => .full
  | some k =>
    let a := d.hwbase / 65536 * 65536 + 65536 * k
    if present a && present (d.bmap + (d.svn + k) / 8) then
      let s1 := s.partRead t.num dn (d.bmap + d.svn / 8) ((d.svn + k) / 8 - d.svn / 8 + 1)
      .ok ((s1.setBmap t.num d (d.svn + k) true).partWrite t.num dn a (wordsBytes ((t.num ++ 0#32) :: List.replicate 7 0)))
        { t with hwIndex := k, hwPage := some a }
    else .failed

/-- Frees the block a thread holds in a domain. -/
def freeBlock (s : State) (t : Thread) (dn : DomNo) : State × Thread :=
  match t.block? dn with
  | none => (s, t)
  | some b =>
    let s1 := s.setBmap t.num (s.domain dn) b.index false
    let v := s1.vd (s1.domain dn).vd
    (s1.setVd { v with saveEvent := false }, { t with blocks := t.blocks.filter fun c => c.dom != dn })

/-- Frees every block and the hardware page (R321). That of an orphan went with its bottom domain's save area (R310). -/
def freeAll (s : State) (t : Thread) : State × Thread :=
  let (s1, t1) := t.blocks.foldl (fun (p : State × Thread) b => freeBlock p.1 p.2 b.dom) (s, t)
  match t.hwPage, t.orphan with
  | none, _ => (s1, t1)
  | some _, some _ => (s1, { t1 with hwPage := none })
  | some _, none =>
    let d := s1.domain (if t.depth = 0 then t.dom else t.botdom)
    let bottom := match entryAt s t 1 with
      | some e => s1.domain e.cdom
      | none => d
    (s1.setBmap t.num bottom (bottom.svn + t.hwIndex) false, { t1 with hwPage := none })

/-- Physical addresses of the records of a context block (R357). -/
def Block.trapFrame (b : Block) : Nat := b.lo + 0x8000
def Block.running (b : Block) : Nat := b.lo + 0x8600
def Block.caller (b : Block) (d : Nat) : Nat := b.hi + 0x600 * d

/-- The records of a thread in its hardware page, up to the entry of a depth: address and bytes (R32). -/
def Thread.pageRecords (t : Thread) (d : Nat) : List (Nat × Nat) := match t.hwPage with
  | none => []
  | some a => (a, 16) :: if d = 0 then [] else [(pageEntry a d, 64)]

/-- The running frame in its block (R357). -/
def Thread.runningRecord (t : Thread) : List (Nat × Nat) := ((t.block? t.dom).map fun b => (b.running, 0x600)).toList

/-- Writes the hardware page: header with DEPTH, chg and, for a stack that is not empty, the top entry (R32). Answers
whether an access has failed (R358). -/
def writeHwPage (s : State) (t : Thread) : Bool × State :=
  match t.hwPage with
  | none => (false, s)
  | some a =>
    let r := s.recWrite t a (wordsBytes [t.num ++ 0#28 ++ t.depth, t.chg])
    match t.top with
    | none => r
    | some e =>
      let q := r.2.recWrite t (pageEntry a t.depth.toNat) (wordsBytes e.words)
      (r.1 || q.1, q.2)

/-- The part reads the entry of a depth in the thread's hardware page. Answers whether the access has failed. -/
def readEntry (s : State) (t : Thread) (d : Nat) : Bool × State :=
  match t.hwPage with
  | none => (false, s)
  | some a => if d = 0 then (false, s) else s.recRead t (pageEntry a d) 64

/-! ### Sticky words and the host event ring (R355) -/

/-- Flags of a sticky word. -/
def flagBADPKT : Nat := 0
def flagBADSET : Nat := 1
def flagSTALEIMG : Nat := 2
def flagNOQUEUE : Nat := 3
def flagDTRAP : Nat := 4
def flagNOSAVE : Nat := 5
def flagCANCEL : Nat := 6

/-- Sets flags in a sticky word and counts the error. -/
def stickySet (w : Word) (flags : List Nat) : Word :=
  let c := w.extractLsb' 48 16
  let c1 := if c = BitVec.allOnes 16 then c else c + 1
  flags.foldl (fun w i => putBit w i true) (c1 ++ w.extractLsb' 0 48)

/-- A W1C write of a sticky word: COUNT is zeroed when it clears the last flag. -/
def stickyClear (w v : Word) : Word :=
  let r := w &&& ~~~(v &&& 0x7F#64)
  if r &&& 0x7F#64 = 0#64 then 0 else r

/-- A sticky word changes: while the event ring overflows, the summary will name it (R355). -/
def Vd.noteSticky (d : Vd) (bit : Nat) : Vd :=
  if d.ringOver = 0 then d else { d with ringMask := d.ringMask ||| (1#17 <<< bit) }

/-- An error in the sticky word of a VD. -/
def State.vdSticky (s : State) (v : VdNo) (flag : Nat) : State :=
  let d := s.vd v
  s.setVd ({ d with sticky := stickySet d.sticky [flag] }.noteSticky 16)

/-- An error in the sticky word of a queue. -/
def State.queueSticky (s : State) (v : VdNo) (q : BitVec 4) (flag : Nat) : State :=
  let d := s.vd v
  s.setVd ({ d with qsticky := Vector.mk ((List.range 16).map fun i =>
    let w := d.qsticky.toList.getD i 0
    if i = q.toNat then stickySet w [flag] else w).toArray (by simp) }.noteSticky q.toNat)

/-- Entries of the event ring; 0 before one is set. -/
def Vd.ringSize (d : Vd) : Nat := if d.ringLog = 0 then 0 else 2 ^ d.ringLog.toNat

/-- A record or event goes to a host: the transport has it to deliver (R375). -/
def State.post (s : State) (r : Out) : State := { s with out := s.out ++ [r], flights := s.flights ++ [{ record := r, since := s.cyc }] }

/-- Posts an event to a VD's host event ring. When the ring is full the event raises its flag in the sticky word, which
for types 3 and 4 is the VD's and for type 2 has recorded it already, and the overflow count. A done event goes to the
endpoint of its packet (R343). -/
def State.hostEvent (s : State) (v : VdNo) (type_ : Nat) (queue : BitVec 4) (pkt : BitVec 32) (dws : List Word)
    (flag : Option Nat) (cep : Option (BitVec 16) := none) : State :=
  let d := s.vd v
  if d.ringSize ≤ d.ringProd - d.ringCons then
    let s1 := s.setVd { d with ringOver := countUp d.ringOver }
    match flag with
    | none => s1
    | some f =>
      if type_ = 3 ∨ type_ = 4 then s1.vdSticky v f else s1.setVd ((s1.vd v).noteSticky queue.toNat)
  else
    let d0 := BitVec.ofNat 64 (type_ * 2 ^ 56 + queue.toNat * 2 ^ 32) ||| pkt.setWidth 64
    let a := d.ringBase + BitVec.ofNat 64 (32 * (d.ringProd % d.ringSize))
    (s.setVd { d with ringProd := d.ringProd + 1 }).post (.record v (cep.getD d.ringCep) a (d0 :: dws))

/-- R358: the event of a save area that has run out, at most once until a block frees. -/
def State.saveExhausted (s : State) (v : VdNo) (c : CoreNo) : State :=
  let d := s.vd v
  if d.saveEvent then s
  else (s.setVd { d with saveEvent := true }).hostEvent v 4 0 0 [c.setWidth 64, 0, 0] (some flagNOSAVE)

end Sys2Proof.Machine
end

