-- ==== Sys2Proof/Machine/Life.lean ====
section
/-! DEFINITION. How a thread's stay in a domain and its life end: leaving a level of the domain stack
(15_domains_nesting.md R317), restoring a caller (09_gates_system.md R211), the end by `quit`, retirement or kill
(R194, R321), and the counting of a packet's threads (13_execution.md R292, R293). -/

namespace Sys2Proof.Machine

/-! ### Counting (R292, R293) -/

/-- Bits of ERR (R293). -/
def errDTRAP : BitVec 16 := 1
def errKILLED : BitVec 16 := 2
def errPARTIAL : BitVec 16 := 4
def errECC : BitVec 16 := 8

def wordMax (a b : Word) : Word := if a.toNat ≤ b.toNat then b else a

def PktPart.ofPkt (v : VdNo) (p : BitVec 32) (q : PktPart) : Bool := q.vd == v && q.pkt == p

/-- A core's part of a packet is done when all its threads are counted and all its children have reported; its done
message then goes to its parent or the front end. -/
def State.settlePart (s : State) (c : CoreNo) (v : VdNo) (p : BitVec 32) : State :=
  let k := s.core c
  match k.parts.find? (PktPart.ofPkt v p) with
  | none => s
  | some q =>
    if q.counted ≥ q.quota && q.children = 0 then
      { s.setCore { k with parts := k.parts.filter fun r => !(PktPart.ofPkt v p r) } with
        dones := s.dones ++ [{ dest := q.parent, vd := v, pkt := p, err := q.err, count := q.count, fin := q.fin }] }
    else s

/-- A thread of a packet is counted at its launch core. -/
def State.countThread (s : State) (c : CoreNo) (v : VdNo) (p : BitVec 32) (err : BitVec 16) (fin : Word) : State :=
  let k := s.core c
  let up (q : PktPart) : PktPart :=
    if q.ofPkt v p then { q with counted := q.counted + 1, count := q.count + 1, err := q.err ||| err, fin := wordMax q.fin fin }
    else q
  (s.setCore { k with parts := k.parts.map up }).settlePart c v p

/-! ### Gates and slots -/

/-- R314: INSIDE of a gate changes by one, for a thread. -/
def State.addInside (s : State) (t : Thread) (gate : Nat) (up : Bool) : State :=
  let n := (s.physRead (gate + 0x24) 4)
  (s.partRead t.num t.dom (gate + 0x24) 4).partWrite t.num t.dom (gate + 0x24) (wordBytes (if up then n + 1 else n - 1) 4)

/-- Drops a handle-table entry: KIND becomes 0 and GEN rises (R311). A write that is held back is reported to a thread for which
the part acts, if any (R306). -/
def State.dropEntry (s : State) (d : Domain) (slot : Nat) (who : ThreadNo := 0) : State :=
  let a := d.htbase + 16 * slot
  let w := s.physRead a 8
  s.partWrite who d.num a (wordBytes (0#4 ++ (w.extractLsb' 48 12 + 1) ++ w.extractLsb' 0 48) 8)

/-- Drops every entry of every table whose words satisfy `p`. -/
def State.dropNaming (s : State) (p : Word → Word → Bool) : State :=
  s.domains.foldl (fun s d => (List.range d.htlen).foldl (fun s i =>
    let a := d.htbase + 16 * i
    if p (s.physRead a 8) (s.physRead (a + 8) 8) then s.dropEntry d i else s) s) s

/-- The words of an entry are those of a gate entry that names the descriptor at an address. -/
def namesGate (gate : Nat) (w0 w1 : Word) : Bool := w0.extractLsb' 60 4 == 2#4 && w1.toNat == gate

/-- R314: once no thread is inside a hard-closed gate, its descriptor is freed: every entry naming it is dropped, and no
offer of it can be imported. -/
def State.dropGate (s : State) (gate : Nat) : State :=
  { s.dropNaming (namesGate gate) with offers := s.offers.filter fun o => !namesGate gate o.w0 o.w1 }

/-- INSIDE falls when the thread's last entry through the gate of depth `d` goes; a gate that is hard-closed, as those of a
dying domain count (R310), is freed with the last thread inside (R314). -/
def State.leaveGate (s : State) (t : Thread) (d : Nat) : State :=
  match t.gates.find? fun g => g.1 == d with
  | none => s
  | some (_, 0) => s
  | some (_, g) =>
    if t.gates.any fun h => h.2 == g && decide (h.1 < d) then s
    else
      let s1 := s.addInside t g false
      let w3 := s1.physRead (g + 0x18) 8
      let life := (s1.domain (w3.extractLsb' 52 12)).life
      if (w3.extractLsb' 0 2 == 2#2 || life == .dying || life == .dead) && s1.physRead (g + 0x24) 4 == 0 then s1.dropGate g else s1

/-- R164: the thread's active accumulator slots owned in a domain become parked. -/
def State.parkAccs (s : State) (t : Thread) (dm : DomNo) : State :=
  { s with combs := s.combs.map fun c => { c with accs := c.accs.map fun a =>
      if a.thread == t.num && a.dom == dm then { a with parked := true } else a } }

/-- The active slots of a thread on a comb become parked. -/
def Comb.park (c : Comb) (n : ThreadNo) : Comb :=
  { c with
    accs := c.accs.map fun a => if a.thread == n then { a with parked := true } else a
    parking := c.parking.filter fun m => m != n }

/-- Operations of a thread on a comb that have not completed. -/
def Comb.tilesOf (c : Comb) (n : ThreadNo) : List TileOp := c.queue.filter fun o => o.thread == n

/-- R164 at pre-emption and when the thread leaves the comb: all its active slots become parked, on a comb where
operations of it are in flight once they have completed. -/
def State.parkAllAccs (s : State) (n : ThreadNo) : State :=
  { s with combs := s.combs.map fun c =>
      if (c.tilesOf n).isEmpty then c.park n else { c with parking := n :: c.parking.filter fun m => m != n } }

/-- Tile operations of a thread that have not completed. -/
def State.tilesOf (s : State) (n : ThreadNo) : List TileOp := s.combs.flatMap fun c => c.tilesOf n

/-- R161: a thread's requests go, and its grant ends once its tile operations on that comb have completed. -/
def State.dropLease (s : State) (n : ThreadNo) : State :=
  { s with combs := s.combs.map fun c =>
      { c with requests := c.requests.filter fun r => r.thread != n
               grants := if (c.tilesOf n).isEmpty then c.grants.filter (fun g => g.thread != n)
                 else c.grants.map (fun g => if g.thread == n then { g with ending := true } else g) } }

/-- Releases port bindings: a slot queue's direction is free again, and a result port's elements and a command port's
words are discarded (R190 to R192). -/
def State.releasePorts (s : State) (t : Thread) (ports : List Port) : State :=
  ports.foldl (fun s p =>
    if p.bound = false then s
    else if p.kind = 0 then
      let k := s.core t.core
      let i := (p.target.extractLsb' 0 3).toNat
      let f (j : Nat) (q : SlotQueue) : SlotQueue :=
        if j = i then (if p.push then { q with pusher := none } else { q with popper := none }) else q
      s.setCore { k with queues := k.queues.mapIdx f }
    else if p.kind = 2 then s.modThread t.num fun t => { t with result := [] }
    else if p.kind = 3 then s.modThread t.num fun t => { t with cmdWords := [] }
    else s) s

/-- R315: pre-emption of the thread is deferred, by the gate of its top entry. -/
def State.deferred (s : State) (t : Thread) : Bool :=
  !t.deferOver && (match t.gates.find? fun g => g.1 == t.depth.toNat with
    | some (_, 0) => false
    | some (_, g) => t.depth != 0#4 && !(s.physRead (g + 0x18) 8).getLsbD 8
    | none => false)

/-! ### Leaving a level (R317), restoring a caller (R211) -/

/-- Domains in which the thread stands below depth `d`. -/
def domainsBelow (s : State) (t : Thread) (d : Nat) : List DomNo :=
  (List.range d).map fun i => match entryAt s t (i + 1) with
    | some e => e.cdom
    | none => t.dom

/-- R317, R211: what is done with the level of depth `d`, the domain GDOM(d): its port bindings, accumulator slots,
context block and gate; and, unless it is left by `gret`, its mailbox entries and pending reports. -/
def State.leaveLevel (s : State) (t : Thread) (discard : Bool) (d : Nat) : State :=
  match entryAt s t d with
  | none => s
  | some e =>
    let ports := if d = t.depth.toNat then t.ports.toList
      else match entryAt s t (d + 1) with
        | some f => (framePorts fun i => s.recWord f.cframe.toNat i).toList
        | none => []
    let held := (t.susp.filter fun p => p.1 == d).flatMap fun p => p.2.toList
    let s1 := (s.releasePorts t (ports ++ held)).parkAccs t e.gdom
    let noMail (k : Core) : Core := { k with mailbox := k.mailbox.filter fun m => !(discard && m.thread == t.num && m.dom == e.gdom) }
    let s2 := { s1 with cores := s1.cores.map noMail }
    let s3 := s2.modThread t.num fun t => { t with reports := t.reports.filter fun r => !(discard && r.dom == e.gdom) }
    let s4 := s3.leaveGate t d
    if (domainsBelow s t d).contains e.gdom then s4
    else match s4.thread? t.num with
      | none => s4
      | some u =>
        let (s5, u1) := freeBlock s4 u e.gdom
        s5.modThread t.num fun _ => u1

/-- R358: the part reads the entry of depth `d`, and those of the levels above it and their caller frames, before it leaves
them.
Answers whether an access has failed. -/
def State.readLevels (s : State) (t : Thread) (d : Nat) : Bool × State :=
  (List.range (t.depth.toNat - d)).foldl (fun r i =>
    let e := t.depth.toNat - i
    let q := if e = t.depth.toNat ∧ t.top.isSome then (false, r.2) else readEntry r.2 t e
    let f := match entryAt r.2 t e with
      | none => (false, q.2)
      | some x => q.2.recRead t x.cframe.toNat 1536
    (r.1 || q.1 || f.1, f.2)) (readEntry s t d)

/-- R284, R327: the entry of depth `d`, or one above it with its caller frame, lies behind what the thread's core has queued. -/
def State.levelsBehind (s : State) (t : Thread) (d : Nat) : Bool :=
  s.anyBehind t (t.pageRecords d) || (List.range (t.depth.toNat - d)).any fun i =>
    s.anyBehind t (t.pageRecords (t.depth.toNat - i)) ||
      (entryAt s t (t.depth.toNat - i)).any fun e => s.recBehind t e.cframe.toNat 1536

/-- Leaves the levels from the top down to `d + 1`. -/
def State.leaveTo (s : State) (t : Thread) (d : Nat) : State :=
  (List.range (t.depth.toNat - d)).foldl (fun s i => s.leaveLevel t true (t.depth.toNat - i)) s

/-- R211, R317: the thread stands at depth `d` again, in the domain that called entry `d + 1`, with that caller's saved
state: everything but the x registers, which the caller of this operation sets. The frame's words are given. -/
def Thread.backTo (t : Thread) (d : Nat) (e : Entry) (top : Option Entry) (vd : VdNo) (w : Nat → Word) : Thread :=
  let t1 := restoreVector (restoreModes t w) w
  { t1 with
    st := stDefined (w 2), cb := w 3, pw := (w 4).extractLsb' 0 8 ||| 1
    ports := framePorts w, vcmd := none
    dom := e.cdom, vdid := vd, depth := BitVec.ofNat 4 d, top := top
    gates := t.gates.filter fun g => decide (g.1 ≤ d)
    susp := t.susp.filter fun p => decide (p.1 ≤ d)
    trapOpen := t.trapOpen &&& BitVec.ofNat 9 (2 ^ (d + 1) - 1)
    deferOver := false, deferSince := none, pc := e.retpc &&& ~~~3#64, lastPc := (e.retpc &&& ~~~3#64) - 4
    wait := none, inHand := none, stands := none, halfway := false, answer := none, closed := none, granted := false }

/-- R317: unwinds the thread to depth `d` with a status, once its accesses and commands are over. A caller frame or entry
that cannot be read loses the thread (R358). -/
def State.unwindTo (s : State) (t : Thread) (d : Nat) (status : Word) : State :=
  match entryAt s t (d + 1) with
  | none => s
  | some e =>
    let below := entryAt s t d
    let r := s.readLevels t d
    if r.1 then r.2.modThread t.num fun t => { t with lost := true } else
    let s1 := r.2.leaveTo t d
    let w := s1.recWord e.cframe.toNat
    s1.modThread t.num fun t =>
      let t1 := t.backTo d e (if d = 0 then none else below) (s.domain e.cdom).vd w
      { t1 with
        x := regFile fun i => if i = 0 then status else if i < e.nwin.toNat then 0 else w (8 + i)
        taint := ((w 4).extractLsb' 8 16) &&& ~~~(BitVec.ofNat 16 (2 ^ (max 1 e.nwin.toNat) - 1))
        pw := t1.pw &&& 0xFD }

/-! ### The end of a thread -/

/-- How a thread ends: by `quit`, retired (R321), killed, killed by a double trap, or killed by a reset or an abort that
sets no bit (R351, R384). -/
inductive EndKind where
  | quit | retired | killed | dtrap | silent
  deriving DecidableEq, Repr

def EndKind.err : EndKind → BitVec 16
  | .killed => errKILLED
  | .dtrap => errDTRAP
  | _ => 0

/-- How a thread that must be killed ends. -/
def Thread.killKind (t : Thread) : EndKind := if t.doom = some false then .silent else .killed

/-- R164, R321: the slots of a thread that ends: freed after `quit` or retirement, on a comb where operations of it are
in flight once they have completed; parked with thread number 0 when it is killed. -/
def State.endAccs (s : State) (n : ThreadNo) (kind : EndKind) : State :=
  match kind with
  | .quit | .retired =>
    { s with combs := s.combs.map fun c =>
        if (c.tilesOf n).isEmpty then { c with accs := c.accs.filter fun a => a.thread != n } else c }
  | _ => { s with combs := s.combs.map fun c => { c with accs := c.accs.map fun a =>
      if a.thread == n then { a with thread := 0, parked := true } else a } }

/-- The key of a decision's item. -/
def Decision.key (d : Decision) : Word := d.item.getD 0 0

/-- A decision is given up: the entry that it was to bring goes, and its victim, if not spilled, is idle again. -/
def Core.cancel (k : Core) (d : Decision) : Core :=
  let mine (b : Brood) : Bool := b.stage == d.stage && b.key == d.key && b.life == .fetching
  let free (b : Brood) : Brood := if d.victim = some (b.stage, b.key) ∧ b.life = .spilling then { b with life := .idle } else b
  { k with decisions := k.decisions.filter (fun e => e.worker != d.worker), brood := (k.brood.filter fun b => !mine b).map free }

/-- A worker that ends leaves its stage, the entry of the coroutine it ran is freed, and a decision for it is given up (R198, log
entry 20). -/
def State.endWorker (s : State) (t : Thread) : State :=
  match t.worker with
  | none => s
  | some w =>
    let k0 := s.core w.core
    let k := (k0.decisions.filter fun d => d.worker == t.num).foldl Core.cancel k0
    s.setCore { k with
      stages := k.stages.map fun g => if g.id == w.stage then { g with workers := g.workers.filter fun n => n != t.num } else g
      brood := k.brood.filter fun b => !(b.stage == w.stage && some b.key == w.key) }

/-- Stages of a core close without RETIRE: their entries and decisions go, and a `kclose` that waits for one ends with the count so
far. -/
def State.shutStages (s : State) (c : CoreNo) (p : Stage → Bool) : State :=
  let k0 := s.core c
  let gone := k0.stages.filter p
  let ids := gone.map Stage.id
  let k := (k0.decisions.filter fun d => ids.contains d.stage).foldl Core.cancel k0
  let s1 := s.setCore { k with
    stages := k.stages.filter (fun g => !ids.contains g.id), brood := k.brood.filter (fun b => !ids.contains b.stage) }
  gone.foldl (fun (s : State) (g : Stage) => match g.closing with
    | none => s
    | some n => s.modThread n fun t => { t.retests with closed := some g.retiredByClose }) s1

/-- A core without a thread that has ended: its mailbox entries, places in lists; its copies post nothing. -/
def Core.forget (n : ThreadNo) (k : Core) : Core :=
  let quiet (c : Copy) : Copy := if c.thread == n then { c with post := false } else c
  { k with
    mailbox := k.mailbox.filter (fun m => m.thread != n)
    fifo := k.fifo.map quiet
    engine := k.engine.map quiet
    arrivals := k.arrivals.filter (fun m => m != n)
    cache := k.cache.filter (fun m => m != n)
    spills := k.spills.filter (fun m => m != n)
    norm := k.norm.filter (fun m => m != n) }

/-- The spill ring without the entry of a thread (R359). -/
def Vd.unspill (n : ThreadNo) (v : Vd) : Vd := { v with spills := v.spills.filter fun p => p.2 != n }

/-- R194, R321: a thread ends. Every level is left, its records are released, ports, lease, slots, mailbox entries and
reservations go, its slot is free, and a thread of a packet is counted at its launch core (R292). -/
def State.endThread (s : State) (n : ThreadNo) (kind : EndKind) : State :=
  match s.thread? n with
  | none => s
  | some t =>
    if t.place = .gone then s else
    let s1 := s.leaveTo t 0
    let bottomPorts := if t.depth = 0 then t.ports.toList else match entryAt s t 1 with
      | some f => (framePorts fun i => s.recWord f.cframe.toNat i).toList
      | none => []
    let held := (t.susp.filter fun p => p.1 == 0).flatMap fun p => p.2.toList
    let s2 := s1.releasePorts t (bottomPorts ++ held)
    let t2 := (s2.thread? n).getD t
    let (s3, t3) := freeAll s2 { t2 with depth := t.depth, top := t.top }
    let s4 := ((s3.dropLease n).endAccs n kind).endWorker t
    let s5 := { s4 with
      cores := s4.cores.map (Core.forget n)
      vds := s4.vds.map (Vd.unspill n)
      watches := s4.watches.filter fun w => w.thread != n
      halves := s4.halves.filter fun u => u.num != n
      pushed := s4.pushed.filter fun e => e.1 != n }
    let s6 := s5.modThread n fun _ => { t3 with
      place := .gone, vcmd := none, intent := none, wait := none, norm := false, inHand := none, stands := none, halfway := false, lost := false
      doom := none, reports := [], worker := none, leaving := none
      depth := 0, top := none, gates := [], susp := [], ports := Vector.replicate 6 {}, result := [], cmdWords := [] }
    if t.pkt = 0 then s6
    else
      let err := kind.err ||| (if t.eccSeen then errECC else 0)
      if t.core = t.lcore then s6.countThread t.lcore t.pvd t.pkt err s.cyc
      else { s6 with quits := s6.quits ++ [{ dest := t.lcore, vd := t.pvd, pkt := t.pkt, err := err, fin := s.cyc }] }

end Sys2Proof.Machine
end

