-- ==== Sys2Proof/Machine/Blocks.lean ====
section
/-! DEFINITION. Command blocks of the copy engine (08_engines_keyed.md R179): fields, the two walks, the byte counts and
the unloaded completion estimate of R181 and R185. -/

namespace Sys2Proof.Machine

/-- A dword of a command block. -/
def Copy.dw (c : Copy) (i : Nat) : Word := c.block.getD i 0

def Copy.n0 (c : Copy) : Nat := ((c.dw 2).extractLsb' 0 32).toNat
def Copy.n1 (c : Copy) : Nat := ((c.dw 2).extractLsb' 32 32).toNat
def Copy.n2 (c : Copy) : Nat := ((c.dw 3).extractLsb' 0 32).toNat
def Copy.ss1 (c : Copy) : Word := ((c.dw 4).extractLsb' 0 32).signExtend 64
def Copy.ss2 (c : Copy) : Word := ((c.dw 4).extractLsb' 32 32).signExtend 64
def Copy.ds1 (c : Copy) : Word := ((c.dw 5).extractLsb' 0 32).signExtend 64
def Copy.ds2 (c : Copy) : Word := ((c.dw 5).extractLsb' 32 32).signExtend 64
def Copy.aux (c : Copy) : Word := c.dw 6
def Copy.tag (c : Copy) : BitVec 8 := (c.dw 7).extractLsb' 0 8
def Copy.toPort (c : Copy) : Bool := (c.dw 7).getLsbD 8
def Copy.rdir (c : Copy) : BitVec 2 := (c.dw 7).extractLsb' 56 2
def Copy.rep (c : Copy) : BitVec 8 := (c.dw 7).extractLsb' 48 8

/-- Addresses of the first bytes of the rows, source and destination, in walk order (R179). -/
def Copy.rows (c : Copy) : List (Word × Word) :=
  (List.range c.n2).flatMap fun i2 => (List.range c.n1).map fun i1 =>
    (c.dw 0 + BitVec.ofNat 64 i1 * c.ss1 + BitVec.ofNat 64 i2 * c.ss2,
     c.dw 1 + BitVec.ofNat 64 i1 * c.ds1 + BitVec.ofNat 64 i2 * c.ds2)

/-- The bytes of rows: source and destination address of each. -/
def Copy.bytesOf (c : Copy) (rows : List (Word × Word)) : List (Word × Word) :=
  rows.flatMap fun r => (List.range c.n0).map fun i => (r.1 + BitVec.ofNat 64 i, r.2 + BitVec.ofNat 64 i)

/-- The byte count B (R179). -/
def Copy.count (c : Copy) : Nat := c.n0 * c.n1 * c.n2

/-- `n` elements at a time. -/
def cut {α : Type} (n : Nat) : Nat → List α → List (List α)
  | 0, _ => []
  | fuel + 1, l => if l.isEmpty then [] else l.take n :: cut n fuel (l.drop n)

/-- The 64-byte chunks of a byte sequence, in order (R181). -/
def chunks {α : Type} (l : List α) : List (List α) := cut 64 l.length l

/-! ### The pattern word of `xdeal` and `mbload` (07_matrix_split.md R152) -/

structure Pattern where
  blk : Nat
  first : Nat
  stride : Nat
  cyc : Nat
  row0 : Nat
  deriving DecidableEq, Repr

def pattern (w : Word) : Pattern :=
  { blk := (w.extractLsb' 0 16).toNat, first := (w.extractLsb' 16 8).toNat, stride := (w.extractLsb' 24 8).toNat
    cyc := (w.extractLsb' 32 8).toNat, row0 := (w.extractLsb' 40 11).toNat }

/-- Destinations of the blocks of `xdeal` (R182): block `i` at its bank of the comb that holds DST. -/
def Copy.dealDst (c : Copy) (i : Nat) : Word :=
  let p := pattern c.aux
  let off := c.dw 1 - BitVec.ofNat 64 sramBase
  let comb := off.toNat / 2 ^ 22
  let bank := (p.first + p.stride * (i % p.cyc)) % 8
  BitVec.ofNat 64 (sramBase + comb * 2 ^ 22 + bank * 2 ^ 19 + off.toNat % 2 ^ 19 + i / p.cyc * p.blk)

/-- Bytes an operation moves, before any mask: source and destination address; a missing source is a zero byte or a
fill. Rows selected by a mask are given by `sel`. -/
def Copy.moves (c : Copy) (sel : Nat → Bool) : List (Option Word × Word) :=
  if c.op = 4 then (c.bytesOf c.rows).map fun b => (none, b.2)
  else if c.op = 5 then
    let p := pattern c.aux
    let src := (c.bytesOf c.rows).map Prod.fst
    let blocks := cut p.blk src.length src
    blocks.zipIdx.flatMap fun b => (List.range p.blk).map fun j =>
      (b.1[j]?, c.dealDst b.2 + BitVec.ofNat 64 j)
  else if c.op = 2 then
    let rs := (List.range c.n1).filter sel
    (rs.zipIdx.flatMap fun r => (List.range c.n0).map fun i =>
      (some (c.dw 0 + BitVec.ofNat 64 r.1 * c.ss1 + BitVec.ofNat 64 i),
       c.dw 1 + BitVec.ofNat 64 r.2 * c.ds1 + BitVec.ofNat 64 i))
  else if c.op = 3 then
    let rs := (List.range c.n1).filter sel
    (rs.zipIdx.flatMap fun r => (List.range c.n0).map fun i =>
      (some (c.dw 0 + BitVec.ofNat 64 r.2 * c.ss1 + BitVec.ofNat 64 i),
       c.dw 1 + BitVec.ofNat 64 r.1 * c.ds1 + BitVec.ofNat 64 i))
  else (c.bytesOf c.rows).map fun b => (some b.1, b.2)

/-! ### DESC (R183) -/

/-- The pattern of `xdeal` is one that R182 allows, and every block fits in its bank. -/
def Copy.dealOk (c : Copy) : Bool :=
  let p := pattern c.aux
  let off := c.dw 1 - BitVec.ofNat 64 sramBase
  let banks := (List.range p.cyc).map fun i => (p.first + p.stride * i) % 8
  c.aux.extractLsb' 51 13 == 0 && p.row0 == 0 && p.blk % 8 == 0 && p.blk != 0 && decide (1 ≤ p.cyc) && decide (p.cyc ≤ 8) &&
    decide (p.first ≤ 7) && decide (p.stride ≤ 7) && banks.Nodup && windowOf (c.dw 1).toNat == .sram &&
    (let n := (c.count + p.blk - 1) / p.blk
     c.count == 0 || decide (off.toNat % 2 ^ 19 + ((n - 1) / p.cyc + 1) * p.blk ≤ 2 ^ 19))

/-- The fields of the block are those that R179, R182 and R184 allow, apart from the remote-endpoint entry. A block through a command
port gives OP and M in its last dword came through a command port. -/
def Copy.fieldsOk (c : Copy) : Bool :=
  let w7 := c.dw 7
  (c.dw 3).extractLsb' 32 32 == 0 && w7.extractLsb' 58 6 == 0 && w7.extractLsb' 16 32 == 0 && w7.extractLsb' 9 3 == 0 &&
  (c.viaPort || w7.extractLsb' 12 4 == 0) && (c.rdir != 0 || c.rep == 0) && c.rdir != 3 &&
  (c.rdir == 0 || (c.op == 0 && !c.toPort)) && (c.op == 0 || !c.toPort) &&
  (if c.op = 0 then c.aux == 0 && (!c.toPort || c.n0 % 8 == 0)
   else if c.op = 1 then
     c.n1 == 1 && c.n2 == 1 && decide (1 ≤ c.n0) && decide (c.n0 ≤ 4096) && c.dw 1 % 8 == 0 &&
       (let v := (c.dw 1 - 8).toNat
        windowOf v == .sram && windowOf (v + 8 + c.n0 - 1) == .sram &&
          (v - sramBase) / 2 ^ 19 == (v + 8 + c.n0 - 1 - sramBase) / 2 ^ 19)
   else if c.op = 2 ∨ c.op = 3 then c.n2 == 1
   else if c.op = 4 then c.dw 0 == 0 && c.ss1 == 0 && c.ss2 == 0
   else if c.op = 5 then c.dealOk
   else false)

/-- The remote-endpoint entry a command names, if its side and rights allow it (R184). -/
def Copy.remote? (s : State) (c : Copy) : Option RemoteEp :=
  ((s.vd (s.domain c.dom).vd).remoteEps.find? fun e => e.entry == c.rep).filter fun e =>
    e.dom == c.dom && (if c.rdir = 1#2 then e.rights.getLsbD 1 else e.rights.getLsbD 0)

/-- A bound result port (R192). -/
def Port.isResult (p : Port) : Bool := p.bound && p.kind == 2#2

/-- R192, R183: the slot has a result port bound: a current binding, or one that a trap or a gate call has suspended. -/
def State.hasResult (s : State) (n : ThreadNo) : Bool :=
  match s.thread? n with
  | none => false
  | some t => t.place != .gone && (t.ports.toList.any Port.isResult || t.susp.any (fun p => p.2.toList.any Port.isResult) ||
      (List.range t.depth.toNat).any fun i => match entryAt s t (i + 1) with
        | none => false
        | some e => (framePorts fun j => s.recWord e.cframe.toNat j).toList.any Port.isResult)

/-- R183: the block breaks R179, R182 or R184, or asks for a result port that is not bound. -/
def Copy.bad (s : State) (c : Copy) : Bool :=
  !c.fieldsOk || (c.toPort && !s.hasResult c.thread) ||
  (c.rdir != 0#2 && (match c.remote? s with
    | none => true
    | some e => (c.moves fun _ => true).any fun m =>
        let off := if c.rdir = 1#2 then m.2 else m.1.getD 0
        decide (e.len.toNat ≤ off.toNat)))

/-! ### The estimate of R185 -/

/-- Unloaded latency of the tier of a virtual address, as the domain of the command sees it for an access: none where
the address has no translation. -/
def tierOf (s : State) (k : CoreNo) (t : Thread) (dm : DomNo) (acc : Acc1) (va : Word) : Option Nat :=
  match checkAs s (combOf k) t dm acc va 1 with
  | .ok ps => some (latencyMax k ps)
  | _ => none

/-- The largest latency over some addresses; none when one has no translation. -/
def tierMax (s : State) (k : CoreNo) (t : Thread) (dm : DomNo) (acc : Acc1) (l : List Word) : Option Nat :=
  l.foldl (fun m a => m.bind fun x => (tierOf s k t dm acc a).map fun y => max x y) (some 0)

/-- The bits of the mask of `xgather` and `xscatter` as they stand (R182). -/
def Copy.maskBit (s : State) (k : CoreNo) (t : Thread) (c : Copy) (r : Nat) : Bool :=
  match checkAs s (combOf k) t c.dom .read (c.aux + BitVec.ofNat 64 (r / 8)) 1 with
  | .ok ps => (memGet s.mem (ps.headD 0)).getLsbD (r % 8)
  | _ => false

/-- Cycles from a command's start to its end, by R181 with unloaded latencies: none where an address has no
translation. A remote side counts as 0. -/
def Copy.duration (s : State) (k : CoreNo) (t : Thread) (c : Copy) : Option Nat :=
  let bar := match c.barrier with
    | none => some 0
    | some a => (tierOf s k t c.dom .write a).map (· + 4)
  let body :=
    if c.count = 0 || c.bad s then some 1
    else
      let ms := c.moves (c.maskBit s k t)
      let masked := c.op == 2#3 || c.op == 3#3
      let src := if c.rdir = 2 then some 0 else tierMax s k t c.dom .read (ms.filterMap Prod.fst)
      let dst := if c.rdir = 1 || c.toPort then some 0 else tierMax s k t c.dom .write (ms.map Prod.snd)
      let aux := if masked then
          tierMax s k t c.dom .read ((List.range ((c.n1 + 7) / 8)).map fun i => c.aux + BitVec.ofNat 64 i)
        else some 0
      let bytes := if masked then ms.length else c.count
      src.bind fun a => dst.bind fun b => aux.map fun x => x + a + (bytes + 63) / 64 + b
  body.bind fun x => bar.map fun y => x + y

/-- R185: the estimated end of a command that enters the input FIFO of a core at a cycle: the commands ahead end at
their own estimates. -/
def Copy.estimateFrom (s : State) (k : Core) (t : Thread) (c : Copy) (enter : Word) : Option Word :=
  let accept := match k.copies.getLast? with
    | none => enter
    | some p => wordMax enter (p.estimate + 1)
  (c.duration s k.num t).map fun n => accept + 1 + BitVec.ofNat 64 n

/-- A command enters the input FIFO: CPO rises (R180). -/
def State.enterCopy (s : State) (c : Copy) : State :=
  let k := s.core s.cur.core
  let s1 := s.setCore { k with fifo := k.fifo ++ [{ c with num := s.stamp }] }
  { s1 with cur := { s1.cur with cpo := s1.cur.cpo + 1 } }

/-- R180 step 1: what a copy word waits for. -/
def copyWaits (k : Core) (t : Thread) (post : Bool) : Bool :=
  decide (16 ≤ t.cpo) || decide (16 ≤ k.fifo.length) ||
    (post && (decide (8 ≤ k.held t.num + ((k.copies.filter fun c => c.post && c.thread == t.num).length)) ||
      decide (64 ≤ k.mailbox.length + (k.copies.filter Copy.post).length)))

end Sys2Proof.Machine
end

