-- ==== Sys2Proof/Machine/Ops.lean ====
section
/-! DEFINITION. What a word's meaning is built from: registers (01_state.md R7, R8, R17), ports (R23, R24 and
08_engines_keyed.md R190 to R192), accesses (05_memory_sync.md R99 to R109), retirement (02_encoding.md R36), taking a
trap (09_gates_system.md R219, R220) and returning from one (R221). -/

namespace Sys2Proof.Machine

/-- The outcome of a step. -/
abbrev Out1 := Host.Outcome State Fault Refusal

/-- What a word does, before it is turned into a next state. -/
inductive Res where
  /-- It retires, and the next word follows. -/
  | done (s : State)
  /-- It retires, and control goes to an address (R38). -/
  | jump (pc : Word) (s : State)
  /-- It retires, and the thread's whole place is already set: another domain, a handler, or the thread has ended. -/
  | moved (s : State)
  /-- It does not issue: it tests a condition again later, and nothing has changed. -/
  | wait
  /-- It issues and parks its slot until a condition holds, which it tests again then; nothing has changed but where its
  access stands at the ports (R110, R112, R284). -/
  | hold (stands : Option (Nat × List Nat))
  /-- It issues, or is held for a page: the slot waits for an event that has been asked for. -/
  | park (w : Wait) (s : State)
  /-- It raises a trap, and nothing of it happens (R40), but for what its page walks have met (R305, R365). -/
  | trap (c : Cause) (tval : Word) (walked : State → State := id)
  /-- It retires and then raises a trap (R216, R218). -/
  | after (c : Cause) (tval : Word)
  /-- A stage-2 miss: a page request is posted and the thread waits (R101). -/
  | miss (m : Miss) (walked : State → State := id)

/-! ### Registers -/

def Thread.reg (t : Thread) (r : XReg) : Word := t.x[r.toNat]'r.isLt

/-- Writes an x register and its taint bit (R17). -/
def Thread.setReg (t : Thread) (r : XReg) (v : Word) (tnt : Bool) : Thread :=
  { t with x := t.x.set r.toNat v r.isLt
           taint := if tnt then t.taint ||| (1#16 <<< r.toNat) else t.taint &&& ~~~(1#16 <<< r.toNat) }

def Thread.tainted (t : Thread) (r : XReg) : Bool := t.taint.getLsbD r.toNat

/-- A predicate: k0 reads 1 (R8). -/
def Thread.pred (t : Thread) (k : KReg) : Bool := k == 0#3 || t.pw.getLsbD k.toNat

/-- Writes a predicate; a write to k0 is ignored (R8). -/
def Thread.setPred (t : Thread) (k : KReg) (b : Bool) : Thread :=
  if k = 0#3 then t
  else { t with pw := if b then t.pw ||| (1#8 <<< k.toNat) else t.pw &&& ~~~(1#8 <<< k.toNat) }

/-- The thread as the word in hand reads it: as it was before its bundle (R36). -/
def State.rd (s : State) : Thread := s.src.getD s.cur

/-- The port that a register is bound as (R23). -/
def Thread.port? (t : Thread) (r : XReg) : Option Port :=
  if 8 ≤ r.toNat ∧ r.toNat < 14 then
    let p := t.ports.toList.getD (r.toNat - 8) {}
    if p.bound then some p else none
  else none

/-! ### Counting events (24_fleet.md R388) -/

/-- The issuing thread's evcnt rises when its evsel names the event. -/
def State.countEv (s : State) (event n : Nat) : State :=
  { s with cur := s.cur.event event n }

/-! ### Accesses -/

/-- The thread's vector command has descriptors to read, before everything that follows it (R245). -/
def Thread.owes (t : Thread) : Bool := t.vcmd.any fun c => !c.finished && c.unread

/-- Events of the thread's vector command come before every later access of the thread: its descriptors are still to be read
(R245), or a trap entry or return lies between (R251). -/
def Thread.gated (t : Thread) : Bool := t.vcmd.any fun c => !c.finished && (c.unread || c.gated)

/-- A transition has come behind the command. -/
def VCmd.gate (c : VCmd) : VCmd := { c with gated := true }

/-- The source of the current thread's events at a port (R257). -/
def State.source (s : State) : Source := { core := s.cur.core, slot := s.cur.slotNo.toNat, thread := s.cur.num }

/-- The comb's translation cache holds the page of an address for a domain. -/
def cachedPage (s : State) (c : CombNo) (d : DomNo) (va : Nat) : Bool :=
  (s.comb c).tlb.any fun e => e.dom == d && e.page.toNat == va / 65536

/-- An earlier relaxed access of the thread, not yet performed, touches one of the bytes (R106). -/
def State.overlaps (s : State) (ps : List Nat) : Bool :=
  s.reqs.any fun q => q.thread == s.cur.num && q.phys.any fun p => ps.contains p

/-- The walks for the pages of an access that the comb's translation cache does not hold: each counts as a miss (R388), and
reads its tables (R305). -/
def State.walksOf (s : State) (kind : Acc1) (va : Word) (n : Nat) (u : State) : State :=
  let miss := (pagesOf s s.cur kind s.cur.depth.toNat s.cur.dom va.toNat n).filter fun p =>
    (s.tlbAt (combOf s.cur.core) p.1 (p.2 / 65536)).isNone
  miss.foldl (fun (u : State) p => (u.countEv 10 1).noteWalk (combOf s.cur.core) p.1 p.2) u

/-- Checks an access of `n` bytes (R99) and gives the physical addresses of its bytes to `k`. It waits while events of the
thread's vector command must come first (R245, R251). -/
def checked (s : State) (kind : Acc1) (va : Word) (n : Nat) (k : List Nat → State → Res) : Res :=
  if s.cur.gated then .wait
  else match checkAccess s s.cur kind va n with
  | .trap c v => .trap c (BitVec.ofNat 64 v) (s.walksOf kind va n)
  | .miss m => .miss m (s.walksOf kind va n)
  | .ok ps =>
    if let some i := ps.findIdx? (s.barred s.cur.core) then .trap .prot (va + BitVec.ofNat 64 i)
    else k ps (cacheAccess (s.walksOf kind va n s) s.cur va n)

/-- A checked access waits while an earlier relaxed access of the thread to one of its bytes has not been performed
(R106). -/
def accessRelaxed (s : State) (kind : Acc1) (va : Word) (n : Nat) (k : List Nat → State → Res) : Res :=
  checked s kind va n fun ps s1 => if s1.overlaps ps then .wait else k ps s1

/-- The number before which the requests of the core stand ahead of the thread's access: that of its issue (R327). -/
def State.behind (s : State) : Nat := (s.cur.stands.map Prod.fst).getD s.stamp

/-- R284, R327, R302: something stands ahead of an access of the thread at one of its homes: what its core has sent there
earlier, a fill of its line, or another source whose turn it is. -/
def State.ahead (s : State) (ps : List Nat) : Bool :=
  s.coreStands s.cur.core (fun m => decide (m < s.behind)) (homesOf ps) || s.fillsAt ps || s.outranked s.cur.core.toNat ps

/-- A plain access: it is performed in the order of issue at its home, for which the slot is out of rotation. -/
def access (s : State) (kind : Acc1) (va : Word) (n : Nat) (k : List Nat → State → Res) : Res :=
  accessRelaxed s kind va n fun ps s1 =>
    if s.ahead ps then .hold (some (s.behind, ps))
    else k ps s1

/-- An access that must be aligned to its size (R99 check 1). -/
def accessAligned (s : State) (kind : Acc1) (va : Word) (n : Nat) (k : List Nat → State → Res) : Res :=
  if va.toNat % n ≠ 0 then .trap .align va else access s kind va n k

/-- A plain read is performed (R102, R104): its value, all ones where a granule is damaged. -/
def State.readNow (s : State) (va : Word) (ps : List Nat) : Word × State :=
  let (bs, bad, fixed, s1) := s.readBytes s.source 0 va.toNat ps
  let s2 := if bad then s1.memoryError s1.cur.num s1.cur.dom va else s1
  (leWord bs, if fixed = 0 then s2 else s2.countEv 14 fixed)

/-- A block of dwords is read as a plain load (R104, R240): all ones where a granule is damaged. -/
def State.readDwords (s : State) (va : Word) (ps : List Nat) : List Word × State :=
  let r := s.readBytes s.source 0 va.toNat ps
  ((cut 8 ps.length r.1).map leWord, (s.readNow va ps).2)

/-- A plain write is performed (R102, R104). -/
def State.writeNow (s : State) (va : Word) (ps : List Nat) (v : Word) : State :=
  let (bad, s1) := s.storeBytes s.source va.toNat ps (wordBytes v ps.length)
  if bad then s1.memoryError s1.cur.num s1.cur.dom va else s1

/-- The slot waits for its plain access (R103), after which its bundle has retired. -/
def State.inFlight (s : State) : State := { s with cur := { s.cur with wait := some .access } }

/-! ### Ports -/

/-- The two ends of a ring (R192), read at its descriptor. -/
structure RingView where
  base : Word
  cap : Nat
  head : Word
  tail : Word

/-- The fields of a ring descriptor (R192). -/
def ringView (ws : List Word) : RingView :=
  { base := ws.getD 0 0, cap := ((ws.getD 1 0).extractLsb' 0 32).toNat, head := ws.getD 2 0, tail := ws.getD 3 0 }

/-- Reads a ring descriptor as a plain load. -/
def readRing (s : State) (desc : Word) (k : RingView → State → Res) : Res :=
  access s .read desc 32 fun ps s1 => k (ringView (s1.readDwords desc ps).1) (s1.readDwords desc ps).2

/-- A ring descriptor as the load that has just been performed found it. -/
def State.ringAt (s : State) (ps : List Nat) : RingView := ringView ((cut 8 ps.length (s.peek ps)).map leWord)

/-- The address of the element that a count names. -/
def RingView.elem (v : RingView) (count : Word) : Word := v.base + BitVec.ofNat 64 (8 * (count.toNat % v.cap))

/-- R305: the thread in hand takes an entry out of a mailbox or a FIFO of its core: whether it met an uncorrectable error, which is
reported as R104 has it, with 0 for the address that it lacks (DESIGN CHOICE, log entry 81). -/
def State.takeEntry (s : State) (sp : Spot) : Bool × State :=
  if s.damage.any fun d => d.spot == sp then
    let (s1, bad, fixed) := s.meetEntry sp
    let s2 := s1.countEv 14 fixed
    (bad, if bad then s2.memoryError s2.cur.num s2.cur.dom 0 else s2)
  else (false, s)

/-- R104: a dword, all ones where an uncorrectable error was met. -/
def onesIf (bad : Bool) (v : Word) : Word := if bad then BitVec.allOnes 64 else v

/-- The head of a popping port, with the HEAD that was loaded at a ring; or a wait (R24, R191, R192). What a ring's empty
descriptor was read with stays read (R240). -/
def popPort (s : State) (p : Port) (k : Word → Word → State → Res) : Res :=
  if p.kind = 0 then
    let q := (s.core s.cur.core).queues.toList.getD (p.target.extractLsb' 0 3).toNat {}
    match q.elems with
    | [] => .wait
    | v :: _ =>
      if s.cur.gated then .wait
      else let r := s.takeEntry (.fifo s.cur.core)
        k (onesIf r.1 v) 0 r.2
  else if p.kind = 1 then
    readRing s p.target fun v s1 =>
      if v.head = v.tail then .park .cond s1
      else access s1 .read (v.elem v.head) 8 fun ps s2 =>
        access s2 .write (p.target + 16) 8 fun _ s3 =>
          let (x, s4) := s3.readNow (v.elem v.head) ps
          k x v.head s4
  else match s.cur.result with
    | [] => .wait
    | v :: _ => let r := s.takeEntry (.fifo s.cur.core)
      k (onesIf r.1 v) 0 r.2

/-- Reads an x register as a source: its value and taint. A pending one waits (R105); a bound one pops (R24). -/
def useX (s : State) (r : XReg) (k : Word → Bool → State → Res) : Res :=
  if s.rd.pend.getLsbD r.toNat then .wait
  else match s.rd.port? r with
    | none => k (s.rd.reg r) (s.rd.tainted r) s
    | some p =>
      if p.push then .trap .illegal s.bundle
      else match s.popped.lookup r with
        | some v => k v.2.1 false s
        | none => popPort s p fun v head s1 => k v false { s1 with popped := s1.popped ++ [(r, p, v, head)] }

/-- R24: a read of a register bound for pushing, or a write of one bound for popping, is ILLEGAL, before anything else
of the word. -/
def legal (s : State) (srcs dsts : List XReg) (r : Res) : Res :=
  if srcs.any (fun a => (s.rd.port? a).any Port.push) || dsts.any (fun d => (s.rd.port? d).any fun p => !p.push) then
    .trap .illegal s.bundle
  else r

/-- Reads two sources. -/
def useXX (s : State) (a b : XReg) (k : Word → Word → Bool → State → Res) : Res :=
  useX s a fun va ta s1 => useX s1 b fun vb tb s2 => k va vb (ta || tb) s2

/-- The command whose eighth dword is being pushed to a command port (R192). -/
def State.portCopy (s : State) (last : Word) : Copy :=
  let block := s.cur.cmdWords ++ [last]
  let c : Copy := { op := last.extractLsb' 13 3, thread := s.cur.num, dom := s.cur.dom, block := block
                    post := last.getLsbD 12, barrier := none, estimate := 0, viaPort := true }
  { c with estimate := (c.estimateFrom s (s.core s.cur.core) s.cur s.cyc).getD s.cyc }

/-- R191, R192, R248: a push to a slot queue or a ring comes after every earlier access of the thread, and after the events of a
vector command that must come first (R245, R251). -/
def State.pushWaits (s : State) : Bool := (s.reqs.any fun q => q.thread == s.cur.num) || s.cur.gated

/-- The place where a port leads: its kind and its target. -/
def Port.place (p : Port) : BitVec 2 × Word := (p.kind, p.target)

/-- Checks that a value may be written to an x register, after those that the same word pushes to the ports `before` it: a pending
one waits, one bound for popping is ILLEGAL, a full port waits (R24, R105). The value is known, since the eighth dword of a
command decides what it waits for. -/
def destAfter (s : State) (before : List Port) (d : XReg) (v : Word) (k : State → Res) : Res :=
  if s.rd.pend.getLsbD d.toNat then .wait
  else match s.rd.port? d with
    | none => k s
    | some p =>
      let n := (before.filter fun q => q.place == p.place).length
      if !p.push then .trap .illegal s.bundle
      else if (p.kind = 0 || p.kind = 1) && s.pushWaits then .wait
      else if p.kind = 0 then
        let q := (s.core s.cur.core).queues.toList.getD (p.target.extractLsb' 0 3).toNat {}
        if 16 ≤ q.elems.length + n then .wait else k s
      else if p.kind = 1 then
        readRing s p.target fun r s1 =>
          let tail := r.tail + BitVec.ofNat 64 n
          if tail - r.head = BitVec.ofNat 64 r.cap then .park .cond s1
          else access s1 .write (r.elem tail) 8 fun _ s2 =>
            access s2 .write (p.target + 24) 8 fun _ s3 => k s3
      else if s.cur.cmdWords.length + n = 7 && copyWaits (s.core s.cur.core) s.cur (v.getLsbD 12) then .wait
      else k s

/-- The check of a word's one x destination. -/
def destX (s : State) (d : XReg) (v : Word) (k : State → Res) : Res := destAfter s [] d v k

/-- The store of an 8-byte value whose checks have passed. -/
def State.storeChecked (s : State) (va : Word) (v : Word) : State :=
  match checkAccess s s.cur .write va 8 with
  | .ok ps => s.writeNow va ps v
  | _ => s

/-- Pushes a value to a port whose room has been checked (R191, R192). A push to a ring, whose descriptor the check has just
loaded, stores the element and then TAIL + 1. -/
def State.push (s : State) (p : Port) (v : Word) : State :=
  if p.kind = 0 then
    let k := s.core s.cur.core
    let i := (p.target.extractLsb' 0 3).toNat
    let f (j : Nat) (q : SlotQueue) : SlotQueue := if j = i then { q with elems := q.elems ++ [v] } else q
    s.setCore { k with queues := k.queues.mapIdx f }
  else if p.kind = 1 then
    match checkAccess s s.cur .read p.target 32 with
    | .ok ps =>
      let r := s.ringAt ps
      (s.storeChecked (r.elem r.tail) v).storeChecked (p.target + 24) (r.tail + 1)
    | _ => s
  else if s.cur.cmdWords.length = 7 then
    let c := s.portCopy v
    let s1 := (s.enterCopy c).countEv 8 1
    { s1 with cur := { s1.cur with cmdWords := [] } }
  else { s with cur := { s.cur with cmdWords := s.cur.cmdWords ++ [v] } }

/-- Writes a result to x(d): the register and its taint, or a push. -/
def State.setX (s : State) (d : XReg) (v : Word) (tnt : Bool) : State :=
  match s.cur.port? d with
  | none => { s with cur := s.cur.setReg d v tnt }
  | some p => s.push p v

/-- The usual end of a word with an x destination. -/
def putX (s : State) (d : XReg) (v : Word) (tnt : Bool) : Res := destX s d v fun s1 => .done (s1.setX d v tnt)

/-- The usual end of a word with a predicate destination. -/
def putK (s : State) (k : KReg) (b : Bool) : Res := .done { s with cur := s.cur.setPred k b }

/-- Removes the elements popped by the bundle, from the ports as the bundle found them (R36). -/
def State.commitPops (s : State) : State :=
  { (s.popped.foldl (fun (s : State) (e : XReg × Port × Word × Word) =>
      let p := e.2.1
      if p.kind = 0 then
        let k := s.core s.cur.core
        let i := (p.target.extractLsb' 0 3).toNat
        let f (j : Nat) (q : SlotQueue) : SlotQueue := if j = i then { q with elems := q.elems.drop 1 } else q
        s.setCore { k with queues := k.queues.mapIdx f }
      else if p.kind = 1 then s.storeChecked (p.target + 16) (e.2.2.2 + 1)
      else { s with cur := { s.cur with result := s.cur.result.drop 1 } }) s) with popped := [] }

/-! ### Traps -/

/-- R220: a double trap kills the thread and posts an event to the VD's host event ring. -/
def State.doubleTrap (s : State) (c : Cause) (tval epc : Word) : State :=
  (s.endThread s.cur.num .dtrap).hostEvent s.cur.vdid 3 0 0 [BitVec.ofNat 64 c.code, epc, tval] (some flagDTRAP)

/-- R358: an access by the part to a save area fails: the thread is killed and NOSAVE is set, once its accesses are over
(R321). -/
def State.saveLost (s : State) : State := { s with cur := { s.cur with lost := true } }

/-- R219: TAKING A TRAP in the current domain. The trap frame is written, tcause, tval, epc and est take the trap, HM
is set, x15 holds the frame's address and control goes to tvec. Without a handler, or in one, it is a double trap
(R220). It waits while relaxed accesses are outstanding, which `trapWaits` says. A vector command in flight runs on (R219), and
the accesses that follow wait for its end (R251, log entry 59). -/
def State.takeTrap (s : State) (c : Cause) (tval epc : Word) : State :=
  let t := s.cur
  let d := s.domain t.dom
  if t.hm || d.tvec = 0 then s.doubleTrap c tval epc
  else match t.block? t.dom with
    | none => s.saveLost
    | some b =>
      let r := s.recWrite t b.trapFrame (wordsBytes (frameLow t t.depth.toNat 0 epc))
      if r.1 then s.saveLost else
      let s1 := r.2
      let t1 := t.setReg 15 (BitVec.ofNat 64 (d.blockVa b.index + 0x8000)) false
      { s1 with cur := { t1 with
          tcause := BitVec.ofNat 64 c.code, tval := tval, epc := epc, est := t.stWord
          st := putBit t.st stHM true, pc := d.tvec, wait := none, vcmd := t.vcmd.map VCmd.gate
          ports := Vector.replicate 6 {}
          susp := (t.depth.toNat, t.ports) :: t.susp.filter (fun p => p.1 != t.depth.toNat)
          trapOpen := t.trapOpen ||| (1#9 <<< t.depth.toNat) } }

/-- What a transition's frame record waits for beside the thread's own accesses: the descriptors of its vector command, which
are read first (R245), and what its core has sent to the homes of the record (R241, R327). -/
def State.frameWaits (s : State) : Bool :=
  s.cur.owes || (s.cur.block? s.cur.dom).any fun b => s.recBehind s.cur b.trapFrame 0x140

/-- A trap waits until LDO and STO are 0 (R219), and so does the kill of a double trap (R321). -/
def State.trapWaits (s : State) : Bool := s.cur.ldo != 0 || s.cur.sto != 0 || s.frameWaits

/-- The bits of est that a return takes: the sticky flags, FZR, FZS and RM; DEPTH, PORTS, VBUSY and VLIVE stand as they
are and HM is 0 (R221). -/
def returnSt (st est : Word) : Word := (est &&& 0xFF001F#64) ||| (st &&& 0x80#64)

/-- R221: RETURNING FROM A TRAP. -/
def trapReturn (s : State) : Res :=
  let t := s.cur
  if !t.hm then .trap .prot 0x4001A
  else if (t.top.any fun e => e.gate == 0) && !t.trapOpen.getLsbD t.depth.toNat then .trap .prot 0x40019
  else if s.trapWaits then .wait
  else match t.block? t.dom with
    | none => .moved s.saveLost
    | some b =>
      let (bad, s) := s.recRead t b.trapFrame 0x140
      if bad then .moved s.saveLost
      else
        let w := s.recWord b.trapFrame
        let ports := match t.susp.find? (fun p => p.1 == t.depth.toNat) with
          | some p => p.2
          | none => t.ports
        .moved { s with cur := { restoreModes t w with
          x := regFile (fun i => w (8 + i)), taint := (w 4).extractLsb' 8 16
          pw := (w 4).extractLsb' 0 8 ||| 1, cb := w 3, ports := ports
          susp := t.susp.filter (fun p => p.1 != t.depth.toNat), vcmd := t.vcmd.map VCmd.gate
          trapOpen := t.trapOpen &&& ~~~(1#9 <<< t.depth.toNat)
          st := returnSt t.st t.est, pc := t.epc, lastPc := t.pc } }

/-! ### Ending a word -/

/-- A word retires: the program counter moves on, or to a transfer's target. -/
def State.retire (s : State) (target : Option Word) : State :=
  match s.pos with
  | .lone =>
    let s1 := s.commitPops
    { s1 with mark := .retired
              cur := { s1.cur with pc := target.getD (s1.cur.pc + 4), lastPc := s1.cur.pc } }
  | .w0 => { s with mark := .retired, cur := { s.cur with pc := target.getD (s.cur.pc + 8), lastPc := s.cur.pc } }
  | .w1 => { s.commitPops with mark := .retired }

/-- A word does not issue, or has issued and waits. -/
def State.parked (s : State) (w : Wait) : State :=
  { s with mark := .parked, popped := [], cur := { s.cur with wait := some w } }

/-- A word traps, or waits until it can. -/
def State.trapped (s : State) (c : Cause) (tval epc : Word) : State :=
  if s.trapWaits then s.parked .cond
  else { s.takeTrap c tval epc with mark := .trapped c, popped := [] }

/-- The bundle of a thread that has just trapped had retired (R216, R218). -/
def State.retiredAt (s : State) (n : ThreadNo) (pc : Word) : State :=
  if s.mark == .parked then s else s.modThread n fun t => { t with lastPc := pc }

/-- Turns what a word does from a state into the next state. -/
def finish (s : State) : Res → Out1
  | .done t => .next (t.retire none)
  | .jump pc t => .next (t.retire (some pc))
  | .moved t => .next { t with mark := .retired, popped := [] }
  | .wait => .next (s.parked .cond)
  | .hold q => .next (({ s with
      cur := { s.cur with stands := q }
      stamp := s.stamp + (if q.isSome && s.cur.stands.isNone then 1 else 0) } : State).parked .held)
  | .park w t => .next (t.parked w)
  | .trap c v walked => .next ((walked s).trapped c v s.cur.pc)
  | .after c v => .next ((s.trapped c v (s.cur.pc + 4)).retiredAt s.cur.num s.cur.pc)
  | .miss m walked => .next (((walked s).pageRequest s.cur m).parked (.page m.vd m.page (BitVec.ofNat 64 m.at_)))

/-- A guarded word has an effect only when its predicate is 1 (R8, R43). -/
def guarded (s : State) (g : KReg) (r : Res) : Res := if s.rd.pred g then r else .done s

end Sys2Proof.Machine
end

