-- ==== Sys2Proof/Machine/Flags.lean ====
section
/-! DEFINITION. The sticky flags of st (01_state.md R12, R15) and scalar F32 arithmetic with its flags, flushing and the
normaliser (04_control_integer.md R93 to R98). No other computation sets a flag. -/

namespace Sys2Proof.Machine

/-- The bits of st that some flags set. -/
def FFlags.bits (f : FFlags) : Word :=
  (if f.nv then 0x100000#64 else 0) ||| (if f.of then 0x080000#64 else 0) |||
  (if f.uf then 0x040000#64 else 0) ||| (if f.nx then 0x020000#64 else 0)

/-- Sets sticky flags of the thread in hand; a flag never clears one. -/
def State.raise (s : State) (f : FFlags) : State := { s with cur := { s.cur with st := s.cur.st ||| f.bits } }

/-- Bits [31:0] of a register as an encoding. -/
def low32 (v : Word) : Nat := (v.extractLsb' 0 32).toNat
/-- Bits [63:32]: the random word of stochastic rounding (R51). -/
def high32 (v : Word) : Nat := (v.extractLsb' 32 32).toNat

/-- An F32 source, flushed under FZS (R95). -/
def Thread.src32 (t : Thread) (v : Word) : Num := decodeF .f32 (flush .f32 t.fzs (low32 v))

/-- A source that needs the normaliser (R98). -/
def Thread.needsNorm (t : Thread) (v : Word) : Bool := !t.fzs && subnormal .f32 (low32 v)

/-- A result of scalar F32 arithmetic: the register's value, flags, and the normaliser's turns. -/
structure FResult where
  value : Word
  flags : FFlags
  turns : Nat
  deriving DecidableEq, Repr

/-- Rounds with st.RM (R94), and counts the turns of R98: 4 for each source that needs it and 4 for such a result. -/
def Thread.round32 (t : Thread) (rand : Word) (srcs : List Word) (x : Num) : FResult :=
  let r := roundNum .f32 (modeOf t.rm) (high32 rand) t.fzr x
  { value := BitVec.ofNat 64 r.1, flags := r.2
    turns := 4 * (srcs.filter t.needsNorm).length + (if subnormal .f32 r.1 then 4 else 0) }

/-- The sign of an exact zero sum: minus under RD (R94). -/
def Thread.zeroNeg (t : Thread) : Bool := modeOf t.rm == .rd

def Thread.fadd (t : Thread) (a b : Word) : FResult := t.round32 b [a, b] ((t.src32 a).add t.zeroNeg (t.src32 b))
def Thread.fsub (t : Thread) (a b : Word) : FResult :=
  t.round32 b [a, b] ((t.src32 a).add t.zeroNeg (t.src32 b).neg)
def Thread.fmul (t : Thread) (a b : Word) : FResult := t.round32 b [a, b] ((t.src32 a).mul (t.src32 b))
def Thread.ffma (t : Thread) (a b d : Word) : FResult :=
  t.round32 b [a, b, d] ((t.src32 a).fma t.zeroNeg (t.src32 b) (t.src32 d))

/-- R96: the smaller (or larger) of two encodings. A NaN yields to the other source; two give the canonical NaN. -/
def minMax (f : Fmt) (wantMax : Bool) (a b : Nat) : Nat :=
  let x := decodeF f a
  let y := decodeF f b
  if x.isNan then (if y.isNan then f.nan else b)
  else if y.isNan then a
  else if (if wantMax then x.below y else y.below x) then b else a

/-- R96 for scalar F32. -/
def Thread.fminMax (t : Thread) (wantMax : Bool) (a b : Word) : FResult :=
  let x := flush .f32 t.fzs (low32 a)
  let y := flush .f32 t.fzs (low32 b)
  { value := BitVec.ofNat 64 (minMax .f32 wantMax x y)
    flags := { nv := (decodeF .f32 x).signalling || (decodeF .f32 y).signalling }, turns := 0 }

/-- R97: an integer to F32. -/
def Thread.fromInt (t : Thread) (v : Int) (rand : Word) : FResult :=
  t.round32 rand [] (.fin (decide (v < 0)) v.natAbs 1)

/-- R97: F32 to an integer between two bounds. NaN gives 0. -/
def Thread.toInt (t : Thread) (a rand : Word) (lo hi : Int) : Int × FResult :=
  let turns := if t.needsNorm a then 4 else 0
  match t.src32 a with
  | .nan _ => (0, { value := 0, flags := { nv := true }, turns := turns })
  | .inf neg =>
    let v := if neg then lo else hi
    (v, { value := BitVec.ofInt 64 v, flags := { nv := true }, turns := turns })
  | .fin neg n d =>
    let r := roundInt (modeOf t.rm) (high32 rand) neg n d
    let v := clampInt lo hi r.1
    (v, { value := BitVec.ofInt 64 v, turns := turns
          flags := if v = r.1 then { nx := r.2 } else { nv := true } })

/-- R97: B16 to F32, exact. Only an F32 result can need the normaliser, or an F32 source. -/
def Thread.fromB16 (t : Thread) (a : Word) : FResult :=
  let x := decodeF .b16 (flush .b16 t.fzs (a.extractLsb' 0 16).toNat)
  let r := roundNum .f32 .rz 0 t.fzr x
  { value := BitVec.ofNat 64 r.1, flags := r.2, turns := if subnormal .f32 r.1 then 4 else 0 }

/-- R97: F32 to B16. -/
def Thread.toB16 (t : Thread) (a rand : Word) : FResult :=
  let r := roundNum .b16 (modeOf t.rm) (high32 rand) t.fzr (t.src32 a)
  { value := BitVec.ofNat 64 r.1, flags := r.2
    turns := (if t.needsNorm a then 4 else 0) + (if subnormal .b16 r.1 then 4 else 0) }

/-- R78: the conditions of `fcmp` by fn code (0 eq, 1 ne, 2 lt, 3 le, 4 un): the predicate, and NV. -/
def Thread.fcmp (t : Thread) (fn : Nat) (a b : Word) : Bool × FFlags :=
  let x := t.src32 a
  let y := t.src32 b
  let nan := x.isNan || y.isNan
  let snan := x.signalling || y.signalling
  match fn with
  | 0 => (x.eq y, { nv := snan })
  | 1 => (!(x.eq y), { nv := snan })
  | 2 => (!nan && x.lt y, { nv := nan })
  | 3 => (!nan && (x.lt y || x.eq y), { nv := nan })
  | _ => (nan, { nv := snan })

/-- The end of a scalar F32 word (R93, R98): the result is written, its flags are set, and the slot is served by the
normaliser when the word needs it. -/
def putF (s : State) (d : XReg) (r : FResult) (tnt : Bool) : Res :=
  destX s d r.value fun s1 =>
    let s2 := (s1.setX d r.value tnt).raise r.flags
    if r.turns = 0 then .done s2
    else
      let k := s2.core s2.cur.core
      let s3 := (s2.setCore { k with norm := k.norm ++ [s2.cur.num] }).countEv 9 r.turns
      .done { s3 with cur := { s3.cur with norm := true } }

end Sys2Proof.Machine
end

