-- ==== Sys2Proof/Machine/Operands.lean ====
section
/-! DEFINITION. Operand forms (02_encoding.md R42, R47): immediates, branch targets, the address of a CM word, register
runs, and the shapes of words that the families share. -/

namespace Sys2Proof.Machine

/-- A signed word offset as bytes, modulo 2^64 (R71, R73). -/
def byteOffset {n : Nat} (f : BitVec n) : Word := f.signExtend 64 * 4

/-- The address of the bundle that follows (R71). -/
def State.nextPc (s : State) : Word := s.cur.pc + (if s.pos = .w0 then 8 else 4)

/-- R47: the address of a CM word from its base or index value. -/
def cmAddress (t : Thread) (va : Word) (scale : Nat) (bsel : BitVec 1) (off : BitVec 10) : Word :=
  let o := off.signExtend 64 * BitVec.ofNat 64 scale
  if bsel = 1#1 then (t.cb &&& ~~~0x3F#64) + va * BitVec.ofNat 64 scale + o else va + o

/-- Reads x(a) and gives the address of a CM word. -/
def useAddress (s : State) (a : XReg) (scale : Nat) (bsel : BitVec 1) (off : BitVec 10)
    (k : Word → Bool → State → Res) : Res :=
  useX s a fun v t s1 => k (cmAddress s.rd v scale bsel off) t s1

/-- Reads the registers of a run from `r` on, as `m` values. -/
def useRun (s : State) (r : Nat) : Nat → (List Word → State → Res) → Res
  | 0, k => k [] s
  | m + 1, k => useX s (BitVec.ofNat 4 r) fun v _ s1 => useRun s1 (r + 1) m fun vs s2 => k (v :: vs) s2

/-- Checks that the registers of a run can be written with some values, after those pushed to the ports `before`. -/
def destRunAfter (s : State) (before : List Port) (r : Nat) : List Word → (State → Res) → Res
  | [], k => k s
  | v :: vs, k => destAfter s before (BitVec.ofNat 4 r) v fun s1 =>
    destRunAfter s1 (before ++ (s.rd.port? (BitVec.ofNat 4 r)).toList) (r + 1) vs k

/-- Checks that the registers of a run can be written with some values. -/
def destRun (s : State) (r : Nat) (vs : List Word) (k : State → Res) : Res := destRunAfter s [] r vs k

/-- Writes a run of registers, untainted. -/
def State.setRun (s : State) (r : Nat) : List Word → State
  | [] => s
  | v :: vs => (s.setX (BitVec.ofNat 4 r) v false).setRun (r + 1) vs

/-- A word of two x sources and an x destination: AR and AP shapes. -/
def binary (s : State) (g : KReg) (d a b : XReg) (f : Word → Word → Word) : Out1 :=
  finish s (guarded s g (legal s [a, b] [d] (useXX s a b fun x y t s1 => putX s1 d (f x y) t)))

/-- A word of one x source and an x destination, with the immediate inside `f`. -/
def unary (s : State) (g : KReg) (d a : XReg) (f : Word → Word) : Out1 :=
  finish s (guarded s g (legal s [a] [d] (useX s a fun x t s1 => putX s1 d (f x) t)))

/-- A word that reads its destination as well (R73, R88, R89). -/
def update (s : State) (g : KReg) (d : XReg) (f : Word → Word) : Out1 :=
  finish s (guarded s g (legal s [d] [d] (useX s d fun x t s1 => putX s1 d (f x) t)))

/-- A word of two x sources and a predicate destination. -/
def compare (s : State) (g : KReg) (k : KReg) (a b : XReg) (f : Word → Word → Bool) : Out1 :=
  finish s (guarded s g (legal s [a, b] [] (useXX s a b fun x y _ s1 => putK s1 k (f x y))))

/-- A word of predicates (R79). -/
def predicates (s : State) (g : KReg) (k : KReg) (v : Thread → Bool) : Out1 :=
  finish s (guarded s g (putK s k (v s.rd)))

/-- A word of two F32 sources. -/
def binaryF (s : State) (g : KReg) (d a b : XReg) (f : Thread → Word → Word → FResult) : Out1 :=
  finish s (guarded s g (legal s [a, b] [d] (useXX s a b fun x y t s1 => putF s1 d (f s.rd x y) t)))

/-- An `fcvt` that rounds: x(b) is a source only under stochastic rounding (R97). -/
def convertF (s : State) (g : KReg) (d a b : XReg) (f : Thread → Word → Word → FResult) : Out1 :=
  finish s (guarded s g (legal s (if modeOf s.rd.rm = .stoch then [a, b] else [a]) [d] (
    if modeOf s.rd.rm = .stoch then useXX s a b fun x y t s1 => putF s1 d (f s.rd x y) t
    else useX s a fun x t s1 => putF s1 d (f s.rd x 0) t)))

end Sys2Proof.Machine
end

