-- ==== Sys2Proof/Machine/Access.lean ====
section
/-! DEFINITION. Memory words (05_memory_sync.md R99 to R115, R123): loads, stores, relaxed forms, atomics, fences, `wait`,
`wchg`, `hop` and `probe`. -/

namespace Sys2Proof.Machine

/-! ### Moving a thread (R114, R115) -/

/-- The core beside the bank that holds an address of the SRAM window (R114, R300). -/
def hopTarget (va : Word) : Option CoreNo :=
  if windowOf va.toNat = .sram then some (BitVec.ofNat 10 ((va.toNat - sramBase) / 2 ^ 19)) else none

/-- R114: what keeps a thread from moving: bound ports, vector state, a mailbox message. -/
def State.holds (s : State) (t : Thread) : Bool := t.portsBound || t.vlive || decide (0 < (s.core t.core).held t.num)

def State.heldHere (s : State) : Bool := s.holds s.cur

/-- R114, R115: a thread may move to a core after an access with the hop hint. -/
def State.mayMove (s : State) (t : Thread) (c : CoreNo) : Bool := !s.holds t && s.inCoreSet t.chgvd c

/-- R115: after an access with the hop hint, the thread leaves for the core beside the bank, if it may. -/
def State.hopHint (s : State) (h : BitVec 1) (va : Word) : State :=
  match hopTarget va with
  | none => s
  | some c =>
    if h = 1#1 && c != s.cur.core && s.mayMove s.cur c then
      { s with cur := { s.cur with leaving := some (c, true), wait := s.cur.wait <|> some .leaving } }
    else s

/-! ### Loads and stores -/

/-- The value a load writes: sign- or zero-extended from its size (R102). -/
def extendLoad (sgn : Bool) (bytes : Nat) (v : Word) : Word :=
  if sgn then (v.extractLsb' 0 (8 * bytes)).signExtend 64 else (v.extractLsb' 0 (8 * bytes)).setWidth 64

/-- Sends a relaxed request to its home (R105); one that crosses a 64-byte boundary is two (R100). -/
def State.request (s : State) (va : Word) (ps : List Nat) (kind : ReqKind) (dest : XReg) : State :=
  let l := parts va.toNat ps
  let req (p : List Nat × Nat) : Req := {
    home := homeOf (p.1.headD 0), core := s.cur.core, slot := s.cur.slotNo, thread := s.cur.num, dom := s.cur.dom, va := va
    phys := p.1, kind := kind, dest := dest, num := s.stamp, whole := ps, off := p.2 }
  { s with stamp := s.stamp + 1, reqs := s.reqs ++ (l.zip (0 :: l.map List.length)).map req }

/-- R102 to R105: a load of `bytes` bytes from the address of a CM word. -/
def load (s : State) (g : KReg) (d a : XReg) (r h b : BitVec 1) (f : BitVec 10) (bytes : Nat) (sgn ldc : Bool) : Out1 :=
  finish s (guarded s g (legal s [a] [d] (useAddress s a bytes b f fun va _ s1 =>
    if ldc && va.toNat % bytes != 0 then .trap .align va
    else if r = 1#1 then
      if 8 ≤ s1.cur.ldo then .wait
      else accessRelaxed s1 .read va bytes fun ps s2 => destX s2 d 0 fun s3 =>
        let s4 := (s3.request va ps (if ldc then .ldc else .load sgn bytes) d).countEv 3 1
        .done ({ s4 with cur := { s4.cur with ldo := s4.cur.ldo + 1
                                              pend := s4.cur.pend ||| (1#16 <<< d.toNat) } }.hopHint h va)
    else access s1 .read va bytes fun ps s2 =>
      let (v, s3) := s2.readNow va ps
      let x := extendLoad sgn bytes v
      destX s3 d x fun s4 => .done (((s4.setX d x ldc).countEv 2 1).inFlight.hopHint h va))))

/-- R102 to R105: a store of the low `bytes` bytes of x(d). -/
def store (s : State) (g : KReg) (d a : XReg) (r h b : BitVec 1) (f : BitVec 10) (bytes : Nat) : Out1 :=
  finish s (guarded s g (legal s [a, d] [] (useAddress s a bytes b f fun va _ s1 => useX s1 d fun v _ s2 =>
    if r = 1#1 then
      if 8 ≤ s2.cur.sto then .wait
      else accessRelaxed s2 .write va bytes fun ps s3 =>
        let s4 := (s3.request va ps (.store bytes v) d).countEv 4 1
        .done ({ s4 with cur := { s4.cur with sto := s4.cur.sto + 1 } }.hopHint h va)
    else access s2 .write va bytes fun ps s3 =>
      .done (((s3.writeNow va ps v).countEv 4 1).inFlight.hopHint h va))))

/-- R102. -/
def execLdI8 (g : KReg) (d a : XReg) (r h b : BitVec 1) (f : BitVec 10) (s : State) : Out1 := load s g d a r h b f 1 true false
/-- R102. -/
def execLdN8 (g : KReg) (d a : XReg) (r h b : BitVec 1) (f : BitVec 10) (s : State) : Out1 := load s g d a r h b f 1 false false
/-- R102. -/
def execLdI16 (g : KReg) (d a : XReg) (r h b : BitVec 1) (f : BitVec 10) (s : State) : Out1 := load s g d a r h b f 2 true false
/-- R102. -/
def execLdN16 (g : KReg) (d a : XReg) (r h b : BitVec 1) (f : BitVec 10) (s : State) : Out1 := load s g d a r h b f 2 false false
/-- R102. -/
def execLdI32 (g : KReg) (d a : XReg) (r h b : BitVec 1) (f : BitVec 10) (s : State) : Out1 := load s g d a r h b f 4 true false
/-- R102. -/
def execLdN32 (g : KReg) (d a : XReg) (r h b : BitVec 1) (f : BitVec 10) (s : State) : Out1 := load s g d a r h b f 4 false false
/-- R102. -/
def execLdI64 (g : KReg) (d a : XReg) (r h b : BitVec 1) (f : BitVec 10) (s : State) : Out1 := load s g d a r h b f 8 false false
/-- R107: taints its destination. -/
def execLdc (g : KReg) (d a : XReg) (r h b : BitVec 1) (f : BitVec 10) (s : State) : Out1 := load s g d a r h b f 8 false true
/-- R102. -/
def execSt8 (g : KReg) (d a : XReg) (r h b : BitVec 1) (f : BitVec 10) (s : State) : Out1 := store s g d a r h b f 1
/-- R102. -/
def execSt16 (g : KReg) (d a : XReg) (r h b : BitVec 1) (f : BitVec 10) (s : State) : Out1 := store s g d a r h b f 2
/-- R102. -/
def execSt32 (g : KReg) (d a : XReg) (r h b : BitVec 1) (f : BitVec 10) (s : State) : Out1 := store s g d a r h b f 4
/-- R102. -/
def execSt64 (g : KReg) (d a : XReg) (r h b : BitVec 1) (f : BitVec 10) (s : State) : Out1 := store s g d a r h b f 8

/-! ### Fences and counters -/

/-- Homes of a thread's relaxed accesses that have not completed. -/
def State.openHomes (s : State) : List Home :=
  (s.reqs.filter fun q => q.thread == s.cur.num).flatMap (fun q => q.whole.map homeOf) ++
    (s.rets.filter fun q => q.thread == s.cur.num).flatMap (fun q => q.phys.map homeOf)

/-- A home is a bank that satisfies `p` by its core, or the slice of a frame that satisfies `q`. -/
def homeIn (p : CoreNo → Bool) (q : BitVec 5 → Bool) : Home → Bool
  | .bank c => p c
  | .slice f => q f

/-- The thread's copies that are outstanding, on whichever core it issued them (R110, R189). -/
def State.myCopies (s : State) : List Copy := (s.cores.flatMap Core.copies).filter fun c => c.thread == s.cur.num

/-- The kind of a copy's remote side, if it has one: peer or host (R184). -/
def State.remotePeer (s : State) (c : Copy) : Option Bool :=
  if c.rdir = 0#2 then none
  else ((s.vd (s.domain c.dom).vd).remoteEps.find? fun e => e.entry == c.rep).map RemoteEp.peer

/-- R110: the set of earlier operations of a scope has completed. -/
def State.fenceDone (s : State) (scope : BitVec 4) : Bool :=
  let me := s.cur.core
  let all := s.cur.ldo == 0 && s.cur.sto == 0
  let none_ (p : Home → Bool) : Bool := !(s.openHomes.any p)
  let domain := all && !(s.myCopies.any fun c => c.dom == s.cur.dom)
  match scope.toNat with
  | 0 => true
  | 1 => none_ (homeIn (· == me) fun _ => false)
  | 2 => none_ (homeIn (fun c => combOf c == combOf me) fun _ => false)
  | 3 => none_ (homeIn (fun c => frameOf c == frameOf me) fun f => f == frameOf me)
  | 4 => none_ (homeIn (fun c => hiveOf c == hiveOf me) fun f => f.extractLsb' 1 4 == hiveOf me)
  | 5 => all
  | 6 => domain
  | 7 => all && s.myCopies.isEmpty
  | 8 => s.cur.sto == 0 && s.cur.cpo == 0 && s.cur.tlo == 0
  | 9 => domain && !(s.myCopies.any fun c => s.remotePeer c == some false)
  | _ => domain && !(s.myCopies.any fun c => (s.remotePeer c).isSome)

/-- R110. -/
def execFence (g : KReg) (sc : BitVec 4) (s : State) : Out1 :=
  finish s (guarded s g (if s.fenceDone sc then .done s else .hold none))

/-- R112. -/
def execWait (g : KReg) (l st : BitVec 4) (c t : BitVec 5) (s : State) : Out1 :=
  finish s (guarded s g (
    if s.cur.ldo ≤ l.toNat ∧ s.cur.sto ≤ st.toNat ∧ s.cur.cpo ≤ c.toNat ∧ s.cur.tlo ≤ t.toNat then .done s else .hold none))

/-! ### Atomics (R109) -/

/-- Low bytes of a word. -/
def lowBytes (n : Nat) (v : Word) : Word := (v.extractLsb' 0 (8 * n)).setWidth 64

/-- What an atomic writes: none when a `cas` fails. -/
def amoNew (op : BitVec 4) (n : Nat) (old operand expect : Word) : Option Word :=
  let o := lowBytes n old
  let x := lowBytes n operand
  let sg (v : Word) : Int := (v.extractLsb' 0 (8 * n)).toInt
  match op.toNat with
  | 0 => some (lowBytes n (o + x))
  | 1 => some (o &&& x)
  | 2 => some (o ||| x)
  | 3 => some (o ^^^ x)
  | 4 => some (if sg o ≤ sg x then o else x)
  | 5 => some (if sg o ≤ sg x then x else o)
  | 6 => some (if o.toNat ≤ x.toNat then o else x)
  | 7 => some (if o.toNat ≤ x.toNat then x else o)
  | 8 => some x
  | 9 => if o = lowBytes n expect then some x else none
  | _ =>
    let r := (decodeF .f32 (low32 o)).add false (decodeF .f32 (low32 x))
    some (BitVec.ofNat 64 (roundNum .f32 .rne 0 false r).1)

/-- An atomic is performed at its home, indivisibly: the old value, whether a granule was damaged, and corrections. It
counts as a write unless a `cas` fails (R109); one that a damaged granule meets writes nothing and counts as a write all the
same (R104, R109: every atomic does; log entry 73). -/
def State.atomicAt (s : State) (src : Source) (ps : List Nat) (op : BitVec 4) (operand expect : Word) :
    Word × Bool × Nat × State :=
  let (s1, bad, fixed) := s.eccRead ps
  if bad then
    (lowBytes ps.length (BitVec.allOnes 64), true, fixed, (s1.trace src 2 ps false).hitWatches ps)
  else
    let old := leWord (ps.map (memGet s.mem))
    match amoNew op ps.length old operand expect with
    | none => (old, false, fixed, (s1.touch ps).trace src 3 ps false)
    | some v =>
      let s2 := (s1.storeCells ps (wordBytes v ps.length)).2
      (old, false, fixed, ((s2.touch ps).trace src 2 ps false).hitWatches ps)

/-- The bytes an atomic acts on. -/
def amoBytes (w : BitVec 1) : Nat := if w = 1#1 then 8 else 4

/-- Reads an atomic's operands; only `cas` reads x(d). -/
def useAtomic (s : State) (d a b : XReg) (op : BitVec 4) (k : Word → Word → Word → State → Res) : Res :=
  useXX s a b fun va v _ s1 => if op = 9#4 then useX s1 d fun e _ s2 => k va v e s2 else k va v 0 s1

/-- R109, R111: the plain form. -/
def execAmo (g : KReg) (d a b : XReg) (op : BitVec 4) (w : BitVec 1) (sc : BitVec 4) (s : State) : Out1 :=
  finish s (guarded s g (legal s (if op = 9#4 then [a, b, d] else [a, b]) [d] (
    useAtomic s d a b op fun va v e s1 =>
      if va.toNat % amoBytes w ≠ 0 then .trap .align va
      else accessRelaxed s1 .write va (amoBytes w) fun ps s2 =>
      if !s2.fenceDone sc then .hold none
      else if s2.ahead ps then .hold (some (s2.behind, ps))
      else
        let (old, bad, fixed, s3) := (s2.tookTurns s2.cur.core.toNat ps).atomicAt s2.source ps op v e
        let s4 := if bad then s3.memoryError s3.cur.num s3.cur.dom va else s3
        destX s4 d old fun s5 =>
          .done ((((s5.setX d old false).countEv 5 1).countEv 14 fixed).inFlight))))

/-- R105, R109: the relaxed form. -/
def execRxAmo (g : KReg) (d a b : XReg) (op : BitVec 4) (w : BitVec 1) (_sc : BitVec 4) (s : State) : Out1 :=
  finish s (guarded s g (legal s (if op = 9#4 then [a, b, d] else [a, b]) [d] (
    useAtomic s d a b op fun va v e s1 =>
      if 8 ≤ s1.cur.sto then .wait
      else if va.toNat % amoBytes w ≠ 0 then .trap .align va
      else accessRelaxed s1 .write va (amoBytes w) fun ps s2 => destX s2 d 0 fun s3 =>
        let s4 := (s3.request va ps (.atomic op (amoBytes w) v e) d).countEv 5 1
        .done { s4 with cur := { s4.cur with sto := s4.cur.sto + 1
                                             pend := s4.cur.pend ||| (1#16 <<< d.toNat) } })))

/-! ### Waiting on a word, moving, rights -/

/-- R113: the port has read the thread's watched word again and found it changed (R328). A damaged word the thread reads
itself (R104). -/
def State.watchChanged (s : State) : Bool :=
  s.watches.any fun w => w.thread == s.cur.num && w.hit && !s.fatalAt (physRange w.addr 8)

/-- The thread watches nothing any more. -/
def State.unwatch (s : State) : State := { s with watches := s.watches.filter fun w => w.thread != s.cur.num }

/-- R113, R328: waits until the word differs from x(d), watched at its home, or polled when the home's 16 watch entries are
full. -/
def execWchg (g : KReg) (d a : XReg) (b : BitVec 1) (f : BitVec 10) (s : State) : Out1 :=
  finish s (guarded s g (legal s [a, d] [] (useAddress s a 8 b f fun va _ s1 => useX s1 d fun x _ s2 =>
    if s2.watchChanged then .done s2.unwatch
    else accessAligned s2 .read va 8 fun ps s3 =>
      let (v, s4) := s3.unwatch.readNow va ps
      let p := ps.headD 0
      if v ≠ x then .done s4.inFlight
      else if (s4.watches.filter fun w => w.home == homeOf p).length < 16 then
        .park (.watch p) { s4 with watches := s4.watches ++ [{ home := homeOf p, thread := s4.cur.num, addr := p, was := x, hit := false }] }
      else .park (.poll p) s4)))

/-- R114. -/
def execHop (g : KReg) (a : XReg) (b : BitVec 1) (f : BitVec 10) (s : State) : Out1 :=
  finish s (guarded s g (legal s [a] [] (useAddress s a 8 b f fun va _ s1 =>
    match hopTarget va with
    | none => .done s1
    | some c =>
      if c = s1.cur.core then .done s1
      else if !s1.inCoreSet s1.cur.chgvd c then .trap .prot va
      else if s1.heldHere then .trap .portbound va
      else .done { s1 with cur := { s1.cur with leaving := some (c, true), wait := some .leaving } })))

/-- What a domain holds at an address (R123): stage 1 maps it, stage 2 maps it, and the rights. -/
structure Holding where
  s1 : Bool := false
  s2 : Bool := false
  x : Bool := false
  w : Bool := false
  r : Bool := false

/-- R123 in the tables of a domain, at an address of its image, private or SRAM window. Where the walk meets a stage-2
miss on the page of a stage-1 table, S1 reads 0 (DESIGN CHOICE, log entry 60). -/
def holdingTables (s : State) (c : CombNo) (d : DomNo) (va : Nat) : Holding :=
  let image := windowOf va == .image
  match translate s c d va with
  | .s1 => {}
  | .s2 _ _ true _ => {}
  | .s2 _ _ false _ => { s1 := true }
  | .ok _ r _ _ => { s1 := true, s2 := true, x := r.x && image, w := r.w && !image, r := r.r }

/-- R123 with R210: the rights in an argument window are those of the caller, limited by GRANT and GLEN; at or beyond GLEN
S1 and S2 read 0 as well (DESIGN CHOICE, log entry 60). -/
def holdingAt (s : State) (c : CombNo) (t : Thread) : Nat → Nat → DomNo → Nat → Holding
  | fuel, d, dm, va =>
    match windowOf va with
    | .none => {}
    | .image | .priv | .sram => holdingTables s c dm va
    | .arg =>
      match fuel, entryAt s t d with
      | fuel' + 1, some e =>
        let o := va - argBase
        if e.grant = 0#2 || decide (e.glen.toNat ≤ o) then {}
        else
          let h := holdingAt s c t fuel' (d - 1) e.cdom ((e.gbase.toNat + o) % 2 ^ 64)
          { h with x := false, w := h.w && e.grant == 2#2 }
      | _, _ => {}

/-- R123: the word that `probe` writes. -/
def probeWord (s : State) (t : Thread) (va : Word) : Word :=
  let win := match windowOf va.toNat with
    | .none => 0
    | .priv => 1
    | .sram => 2
    | .arg => if t.top.any fun e => e.grant != 0#2 then 3 else 0
    | .image => 4
  let h := holdingAt s (combOf t.core) t 9 t.depth.toNat t.dom va.toNat
  if win = 0 ∨ !h.s1 then BitVec.ofNat 64 (win * 32)
  else BitVec.ofNat 64 (win * 32 + bitsNat [h.r, h.w, h.x, h.s2, h.s1])

/-- R123: writes the window and rights; the slot is out of rotation as for a plain load. -/
def execProbe (g : KReg) (d a : XReg) (b : BitVec 1) (f : BitVec 10) (s : State) : Out1 :=
  finish s (guarded s g (legal s [a] [d] (useAddress s a 1 b f fun va tnt s1 =>
    let v := probeWord s1 s1.cur va
    destX s1 d v fun s2 => .done (s2.setX d v tnt).inFlight)))

end Sys2Proof.Machine
end

