-- ==== Sys2Proof/Machine/Handles.lean ====
section
/-! DEFINITION. Handle tables (15_domains_nesting.md R311) and gate descriptors (R313), as the part reads them. -/

namespace Sys2Proof.Machine

/-- An entry of a handle table (R311). -/
structure HEntry where
  slot : Nat
  kind : Nat
  gen : BitVec 12
  odom : DomNo
  core : CoreNo
  addr : Word
  deriving DecidableEq, Repr

/-- An entry from its two words. -/
def hentryOf (slot : Nat) (w0 w1 : Word) : HEntry :=
  { slot := slot, kind := (w0.extractLsb' 60 4).toNat, gen := w0.extractLsb' 48 12, odom := w0.extractLsb' 20 12
    core := w0.extractLsb' 10 10, addr := w1 }

/-- The entry in a slot of a domain's table. -/
def State.hentry (s : State) (d : Domain) (slot : Nat) : HEntry :=
  hentryOf slot (s.physRead (d.htbase + 16 * slot) 8) (s.physRead (d.htbase + 16 * slot + 8) 8)

/-- R311: an entry is what a handle names, of the kind asked for. -/
def State.names (s : State) (e : HEntry) (h : Word) (kind : Nat) : Bool :=
  e.kind == kind && e.gen == h.extractLsb' 0 12 && (s.domain e.odom).life != .dying && (s.domain e.odom).life != .dead

/-- A read that a word makes at issue at a physical address, as a plain load of the thread without translation (R208, R240):
its dwords, all ones where a granule is damaged. At an absent address the thread is lost (R299). -/
def physLoad (s : State) (a n : Nat) (k : List Word → State → Res) : Res :=
  let ps := physRange a n
  if !(ps.all present) then .moved s.saveLost
  else if s.cur.gated then .wait
  else if s.ahead ps then .hold (some (s.behind, ps))
  else k (s.readDwords (BitVec.ofNat 64 a) ps).1 (s.readDwords (BitVec.ofNat 64 a) ps).2

/-- Writes an entry. -/
def State.setHentry (s : State) (d : Domain) (e : HEntry) : State :=
  let w0 : Word := BitVec.ofNat 4 e.kind ++ e.gen ++ 0#16 ++ e.odom ++ e.core ++ 0#10
  s.partWrite s.cur.num d.num (d.htbase + 16 * e.slot) (wordsBytes [w0, e.addr])

/-- The part reads the entries of some slots of a table for the thread in hand (R305). -/
def State.readEntries (s : State) (d : Domain) (slots : List Nat) : State :=
  slots.foldl (fun (s : State) i => s.partRead s.cur.num d.num (d.htbase + 16 * i) 16) s

/-- R311: the lookup of a handle in a domain's table, for an entry of a kind; none is STALE. A slot at an absent address gives
nothing (R299, DESIGN CHOICE, log entry 74). -/
def State.lookup (s : State) (dn : DomNo) (h : Word) (kind : Nat) : Option HEntry :=
  let d := s.domain dn
  let slot := (h.extractLsb' 12 20).toNat
  if slot = 0 ∨ d.htlen ≤ slot ∨ presentAll (d.htbase + 16 * slot) 16 = false then none
  else
    let e := s.hentry d slot
    if s.names e h kind then some e else none

/-- R311, R240: a word looks a handle up in the table of the current domain; without such an entry it is STALE. A handle is 32
bits: bits [63:32] of the register take no part in the lookup, and tval is the register as a whole (DESIGN CHOICE, log entry
78). -/
def useEntry (s : State) (h : Word) (kind : Nat) (k : HEntry → State → Res) : Res :=
  let d := s.domain s.cur.dom
  let slot := (h.extractLsb' 12 20).toNat
  if slot = 0 ∨ d.htlen ≤ slot then .trap .stale h
  else physLoad s (d.htbase + 16 * slot) 16 fun ws s1 =>
    let e := hentryOf slot (ws.getD 0 0) (ws.getD 1 0)
    if s.names e h kind then k e s1 else .trap .stale h

/-- The handle of an entry. -/
def HEntry.handle (e : HEntry) : BitVec 32 := BitVec.ofNat 20 e.slot ++ e.gen

/-- A gate descriptor (R313). -/
structure GateDesc where
  addr : Nat
  entry : Word
  abandon : Word
  grace : BitVec 32
  gdom : DomNo
  maxd : Nat
  rights : BitVec 2
  nwin : BitVec 3
  pre : Bool
  reent : Bool
  state : BitVec 2
  inside : BitVec 32
  deriving DecidableEq, Repr

/-- A descriptor's fields from its dwords. -/
def gateOf (a : Nat) (w : Nat → Word) : GateDesc :=
  { addr := a, entry := w 0, abandon := w 1, grace := (w 2).extractLsb' 32 32, gdom := (w 3).extractLsb' 52 12
    maxd := ((w 3).extractLsb' 14 4).toNat, rights := (w 3).extractLsb' 12 2, nwin := (w 3).extractLsb' 9 3
    pre := (w 3).getLsbD 8, reent := (w 3).getLsbD 7, state := (w 3).extractLsb' 0 2
    inside := (w 4).extractLsb' 32 32 }

/-- Reads the descriptor at a physical address. -/
def State.gateDesc (s : State) (a : Nat) : GateDesc := gateOf a fun i => s.physRead (a + 8 * i) 8

/-- The descriptor as `gcall` and `gstat` read it: a plain load without translation (R208, R313). -/
def useGate (s : State) (a : Nat) (k : GateDesc → State → Res) : Res :=
  physLoad s a 64 fun ws s1 => k (gateOf a fun i => ws.getD i 0) s1

/-- The stage that a stage entry of a domain's table stands for (R311). -/
def State.stageOf (s : State) (dn : DomNo) (e : HEntry) : Option Stage :=
  (s.stageLinks.find? fun l => l.1 == dn && l.2.1 == e.slot).bind fun l =>
    (s.core e.core).stages.find? fun g => g.id == l.2.2

/-- Links an entry to a stage. -/
def State.linkStage (s : State) (dn : DomNo) (slot id : Nat) : State :=
  { s with stageLinks := (dn, slot, id) :: s.stageLinks.filter fun l => !(l.1 == dn && l.2.1 == slot) }

/-- The number of the stage an entry is linked to. -/
def State.linkOf (s : State) (dn : DomNo) (slot : Nat) : Nat :=
  ((s.stageLinks.find? fun l => l.1 == dn && l.2.1 == slot).map fun l => l.2.2).getD 0

/-! ### Threads that may not go on (R318, R319, R321, R324) -/

/-- A domain that is dying or dead. -/
def State.gone (s : State) (d : DomNo) : Bool := (s.domain d).life == .dying || (s.domain d).life == .dead

/-- The domain of the bottom of the stack. -/
def bottomOf (s : State) (t : Thread) : DomNo := ((entryAt s t 1).map Entry.cdom).getD t.dom

/-- The bottom domain is gone: of an orphan it is for good, whatever its number then stands for (R319). -/
def State.bottomGone (s : State) (t : Thread) : Bool := t.orphan.isSome || s.gone (bottomOf s t)

/-- R318: some entry of depth `d` must be left: its gate is hard-closed, or its callee is dying. -/
def State.mustLeave (s : State) (t : Thread) (d : Nat) : Bool :=
  (entryAt s t d).any (fun e => s.gone e.gdom) ||
    (match t.gates.find? fun g => g.1 == d with
      | some (_, g) => g != 0 && (s.gateDesc g).state == 2#2
      | none => false)

/-- R318, R324: the depth to which the thread must be unwound, if any. -/
def State.unwindTarget (s : State) (t : Thread) : Option Nat :=
  ((List.range t.depth.toNat).find? fun i => s.mustLeave t (i + 1))

/-- R318, R324: the thread is to be killed: its bottom domain is gone and no entry is left to it, the part has lost a record
of it (R358), or a reset or an abort has doomed it. -/
def State.killDue (s : State) (t : Thread) : Bool :=
  t.lost || t.doom.isSome || ((t.depth == 0#4 || s.unwindTarget t == some 0) && s.bottomGone t)

/-- R318: the thread is to be orphaned. -/
def State.orphanDue (s : State) (t : Thread) : Bool := t.orphan.isNone && t.depth != 0#4 && s.gone (bottomOf s t)

/-- R319: the thread is orphaned: its heir is charged. -/
def State.orphanThread (s : State) (n : ThreadNo) : State :=
  match s.thread? n with
  | none => s
  | some t =>
    match entryAt s t 1 with
    | none => s
    | some e =>
      if t.orphan.isSome || !s.gone e.cdom || t.place == .gone then s
      else
        let grace : BitVec 32 := match t.gates.find? fun g => g.1 == 1 with
          | some (_, 0) => 0
          | some (_, g) => (s.gateDesc g).grace
          | none => 0
        s.modThread n fun t => { t with
          orphan := some { budget := grace, since := t.chg, second := false }
          botdom := e.gdom, chgvd := (s.domain e.gdom).vd }

/-- R319, R322: a thread that leaves its slot before it has come to a boundary, on its way to another core or into its save area, is orphaned
then. -/
def State.orphanLeaving (s : State) (n : ThreadNo) : State :=
  if (s.thread? n).any fun t => s.orphanDue t && !s.killDue t then s.orphanThread n else s

/-- R321: threads are killed by the part: one that stands in a slot with accesses outstanding once they are over. `tell`: the
done report says so. -/
def State.doomThread (s : State) (tell : Bool) (t : Thread) : State :=
  if t.inSlot && !(t.ldo == 0 && t.sto == 0) then s.modThread t.num fun t => { t with doom := some tell, norm := false }
  else s.endThread t.num (if tell then .killed else .silent)

/-- The domains in which a thread stands: its current one and those of its stack (R323). -/
def standsIn (s : State) (t : Thread) : List DomNo := t.dom :: domainsBelow s t t.depth.toNat

end Sys2Proof.Machine
end

