-- ==== Sys2Proof/Machine/Engine.lean ====
section
/-! DEFINITION. Accesses that a unit makes for a thread (vector unit, matrix array, copy engine, keyed stages): the checks
of R99 in the domain of the command (05_memory_sync.md), a failure coded as CAUSE of R146 (06_vector_streams.md), a page
that is waited for (R145, R170, R181). -/

namespace Sys2Proof.Machine

/-- R146: the coding of a failure. -/
def causeCode : Cause → Nat
  | .prot => 1 | .faultS1 => 2 | .faultS2 => 3 | .straddle => 4 | .align => 5 | _ => 1

/-- CAUSE 6 is a bad descriptor and 7 an uncorrectable error. -/
def causeDESC : Nat := 6
def causeECC : Nat := 7

/-- What the checks of a unit's access answer. -/
inductive Eng where
  | ok (ps : List Nat)
  | bad (cause : Nat) (va : Word)
  | held (m : Miss)
  deriving DecidableEq, Repr

/-- Pages a command is held for; true: the reply has refused it. -/
abbrev Held := List (VdNo × BitVec 36 × Bool)

def Held.refused (h : Held) (v : VdNo) (p : BitVec 36) : Bool := h.contains (v, p, true)

/-- The pages of a translation that stage 2 maps: those of the stage-1 tables, then the page itself (R363). -/
def trPages (s : State) (c : CombNo) (d : DomNo) (va : Nat) : List (VdNo × BitVec 36) :=
  let v := (s.domain d).vd
  match (s.comb c).tlb.find? fun e => e.dom == d && e.page.toNat == va / 65536 with
  | some e => (e.via ++ [e.ipa]).map fun p => (v, p)
  | none => match translate s c d va with
    | .ok _ _ ipa ts => (ts.map Prod.fst ++ [ipa]).map fun p => (v, BitVec.ofNat 36 p)
    | _ => []

/-- The pages that an access of `n` bytes passes in stage 2 (R99, R210). -/
def pagesAt (s : State) (c : CombNo) (t : Thread) (k : Acc1) (d : Nat) (dm : DomNo) (va n : Nat) : List (VdNo × BitVec 36) :=
  (pagesOf s t k d dm va n).flatMap fun p => trPages s c p.1 p.2

/-- A command waits for a page whose request is pending, or which the full pending table keeps out until an entry frees
(R367). -/
def Held.waits (s : State) (h : Held) : Bool :=
  h.any fun x => !x.2.2 && (((s.vd x.1).pend.any fun p => p.ipa == x.2.1) || decide (64 ≤ (s.vd x.1).pend.length))

/-- A page whose request is pending, as the access that waits for it names it. -/
def awaited (dm : DomNo) (v : VdNo) (va : Word) (p : BitVec 36) : Miss :=
  { dom := dm, vd := v, at_ := va.toNat, va := va.toNat, ipa := p.toNat * 65536, level := 3, kind := 0 }

/-- R145, R367, R369: of the pages that an access passes, one that the reply has refused, or whose reply is still awaited or
still to be asked for: the reply decides, whatever the tables say meanwhile. -/
def Held.undecided (h : Held) (ps : List (VdNo × BitVec 36)) : Option (VdNo × BitVec 36 × Bool) :=
  let mine := h.filter fun x => ps.contains (x.1, x.2.1)
  (mine.find? fun x => x.2.2) <|> mine.head?

/-- The checks of an access of `n` bytes that a unit makes on a core for a thread, in a domain. -/
def engineAccess (s : State) (c : CoreNo) (n : ThreadNo) (dm : DomNo) (h : Held) (k : Acc1) (va : Word) (bytes : Nat) : Eng :=
  let t := (s.thread? n).getD {}
  match checkAs s (combOf c) t dm k va bytes with
  | .trap cause v => .bad (causeCode cause) (BitVec.ofNat 64 v)
  | .miss m => if h.refused m.vd m.page then .bad 3 va else .held m
  | .ok ps =>
    if ps.any (s.barredAs 3 c) then .bad 1 va
    else match if h.isEmpty then none else h.undecided (pagesAt s (combOf c) t k (depthOf s t dm) dm va.toNat bytes) with
      | none => .ok ps
      | some (v, p, refused) => if refused then .bad 3 va else .held (awaited dm v va p)

/-- R284, R327, R302: what the core has sent to one of the homes, a fill of a line, or another source whose turn it is, stands
ahead of an access of its units. -/
def State.engineBehind (s : State) (c : CoreNo) (ps : List Nat) : Bool :=
  s.coreStands c (fun _ => true) (homesOf ps) || s.fillsAt ps || s.outranked c.toNat ps

/-- R365: the pages of a unit's accesses enter the comb's translation cache, or count there as just used; a walk reads its
tables (R305). -/
def State.useTr (s : State) (c : CoreNo) (n : ThreadNo) (dm : DomNo) (k : Acc1) (l : List (Word × Nat)) : State :=
  let t := (s.thread? n).getD {}
  let pages := (l.flatMap fun a => pagesOf s t k (depthOf s t dm) dm a.1.toNat a.2).map fun p => (p.1, p.2 / 65536)
  pages.eraseDups.foldl (fun (s : State) p =>
    let va := p.2 * 65536
    cacheTr (s.noteWalk (combOf c) p.1 va) (combOf c) p.1 va (translate s (combOf c) p.1 va)) s

/-- An access that must be aligned to its size. -/
def engineAligned (s : State) (c : CoreNo) (n : ThreadNo) (dm : DomNo) (h : Held) (k : Acc1) (va : Word) (bytes : Nat) : Eng :=
  if va.toNat % bytes ≠ 0 then .bad 5 va else engineAccess s c n dm h k va bytes

/-- A command of a thread is held on a core for a page: the request is posted or joined. -/
def State.holdPage (s : State) (n : ThreadNo) (c : CoreNo) (m : Miss) : State :=
  s.pageRequest { num := n, place := .cached c } m

/-- Adds a page to those a command is held for. -/
def Held.add (h : Held) (m : Miss) : Held :=
  if h.any fun x => x.1 == m.vd && x.2.1 == m.page then h else h ++ [(m.vd, m.page, false)]

/-- R367: a reply refuses a page that a command is held for. -/
def Held.refuse (h : Held) (v : VdNo) (p : BitVec 36) : Held := h.map fun x => if x.1 = v ∧ x.2.1 = p then (v, p, true) else x

/-- R367: a reply maps a page. -/
def Held.release (h : Held) (v : VdNo) (p : BitVec 36) : Held := h.filter fun x => !(x.1 == v && x.2.1 == p)

end Sys2Proof.Machine
end

