-- ==== Sys2Proof/Machine/Tensors.lean ====
section
/-! DEFINITION. Tensor descriptors (07_matrix_split.md R154 to R156), their elements, scales and capped blocks
(10_formats_arithmetic.md R228 to R233). -/

namespace Sys2Proof.Machine

/-- The role of a tensor, which decides its shadow registers (R155). -/
inductive Role where
  | a | b | source | dest
  deriving DecidableEq, Repr

/-- A signed 32-bit field. -/
def sint32 (w : Word) (lo : Nat) : Int := (w.extractLsb' lo 32).toInt

/-- Reads a descriptor's dwords into a tensor, with the shadow registers it selects; none is TILEFORM (R156). The source of
an `mbload` takes the shadow registers of B, whose columns it loads (DESIGN CHOICE, log entry 63). A reserved FMT of a drain's
destination is not looked at, and SCALE must be 8-byte aligned where the mode is not unity (DESIGN CHOICE, log entry 80). -/
def tensorOf (t : Thread) (role : Role) (handle : BitVec 32) (w : List Word) : Option Tensor :=
  let d (i : Nat) : Word := w.getD i 0
  let w1 := d 1
  let fmt0 := w1.extractLsb' 60 4
  let fmt := if fmt0 = 0xF#4 then (match role with
    | .a => t.fmtA
    | _ => t.fmtB) else fmt0
  let shadow := match role with
    | .a => t.scA
    | .dest => t.scC
    | _ => t.scB
  let scm0 := w1.extractLsb' 57 3
  let scm := if scm0 = 7#3 then shadow.extractLsb' 0 3 else scm0
  let scale := if scm0 = 7#3 then shadow &&& ~~~7#64 else d 2
  let ndim := (w1.extractLsb' 54 2).toNat + 1
  let x : Tensor := { handle := handle, base := d 0, fmt := fmt, scm := scm, sp := w1.getLsbD 56, scale := scale, dir := d 3
                      d0 := ((d 4).extractLsb' 0 32).toNat, d1 := ((d 4).extractLsb' 32 32).toNat
                      d2 := ((d 5).extractLsb' 0 32).toNat, d3 := ((d 5).extractLsb' 32 32).toNat
                      s1 := sint32 (d 6) 0, s2 := sint32 (d 6) 32, s3 := sint32 (d 7) 32 }
  let capped := fmt == 4#4 || fmt == 5#4
  if w1.extractLsb' 0 54 ≠ 0#54 ∨ (d 7).extractLsb' 0 32 ≠ 0#32 then none
  else if decide (5 < fmt.toNat) && role != .dest then none
  else if 5 ≤ scm.toNat then none
  else if scale.extractLsb' 0 3 ≠ 0#3 && scm != 0#3 then none
  else if (decide (ndim < 2) && x.d1 != 1) || (decide (ndim < 3) && x.d2 != 1) || (decide (ndim < 4) && x.d3 != 1) then none
  else if capped && role != .dest && x.d0 % 48 != 0 then none
  else if x.sp && (d 0).extractLsb' 11 53 != 0#53 then none
  else some x

/-- Families of R156: F8, B16 and I8. -/
def family (fmt : BitVec 4) : Nat := if fmt = 2#4 then 1 else if fmt = 3#4 then 2 else 0

/-- Element size in bytes, of an uncapped tensor. -/
def Tensor.size (x : Tensor) : Nat := if x.fmt = 2#4 then 2 else 1

def Tensor.capped (x : Tensor) : Bool := x.fmt == 4#4 || x.fmt == 5#4

/-- Elements in a K step of 48 bytes (R149). -/
def Tensor.perStep (x : Tensor) : Nat := 48 / x.size

/-- The number of K steps, ⌈D0 · e / 48⌉ (R173, R232). -/
def Tensor.steps (x : Tensor) : Nat := (x.d0 * x.size + 47) / 48

/-- The floating format of an element's encoding. -/
def Tensor.format (x : Tensor) : Fmt :=
  if x.fmt = 2#4 then .b16 else if x.fmt = 1#4 ∨ x.fmt = 5#4 then .f8w else .f8n

/-- The address of the first element of row (i1, i2, i3) of an uncapped tensor (R155). -/
def Tensor.rowAddr (x : Tensor) (i1 i2 i3 : Nat) : Word :=
  x.base + BitVec.ofInt 64 (i1 * x.s1 + i2 * x.s2 + i3 * x.s3)

/-- Number of the capped block of step j of a row (R155). -/
def Tensor.blockNo (x : Tensor) (j i1 i2 i3 : Nat) : Nat := j + x.d0 / 48 * (i1 + x.d1 * (i2 + x.d2 * i3))

/-! ### Reads of a unit, one after another -/

/-- Reads that were performed: address and physical addresses of the bytes of each. -/
abbrev Reads := List (Nat × List Nat)

/-- A unit's reads: the value, or an error with its cause and address, and the reads performed; or a page that is waited
for, or the array's turn at a home (R284, R302). -/
inductive Rd (α : Type) where
  | ok (a : α) (log : Reads)
  | bad (cause : Nat) (va : Word) (log : Reads)
  | held (m : Miss)
  | behind
  deriving DecidableEq, Repr

def Rd.bind {α β : Type} (x : Rd α) (f : α → Rd β) : Rd β :=
  match x with
  | .ok a l => (match f a with
    | .ok b k => .ok b (l ++ k)
    | .bad c v k => .bad c v (l ++ k)
    | .held m => .held m
    | .behind => .behind)
  | .bad c v l => .bad c v l
  | .held m => .held m
  | .behind => .behind

def Rd.pure {α : Type} (a : α) : Rd α := .ok a []
def Rd.fail {α : Type} (c : Nat) (va : Word) : Rd α := .bad c va []

/-- Where a unit reads: state, core, thread, domain, pages held. -/
structure Unit1 where
  s : State
  core : CoreNo
  thread : ThreadNo
  dom : DomNo
  held : Held

/-- R284, R302: a fill of a line, or another source whose turn it is, stands ahead of an access of the matrix array. -/
def State.arrayBehind (s : State) (ps : List Nat) : Bool := s.fillsAt ps || s.outranked matrixSource ps

/-- A unit's read of `n` bytes; an uncorrectable error is cause 7. -/
def Unit1.read (u : Unit1) (va : Word) (n : Nat) : Rd (List Byte) :=
  if n = 0 then .ok [] []
  else match engineAccess u.s u.core u.thread u.dom u.held .read va n with
    | .bad c v => .bad c v []
    | .held m => .held m
    | .ok ps => if u.s.arrayBehind ps then .behind
      else if u.s.fatalAt ps then .bad causeECC va [(va.toNat, ps)]
      else .ok (ps.map (memGet u.s.mem)) [(va.toNat, ps)]

/-- The reads of a unit are logged at their ports, with their corrections counted (R257, R305, R388), and the lines they touch
are held (R302). -/
def State.noteReads (s : State) (src : Source) (kind : Nat) (l : Reads) : State :=
  l.foldl (fun (s : State) (r : Nat × List Nat) =>
    let (s1, _, fixed) := s.eccRead r.2
    ((((s1.touch r.2).tookTurns src.number r.2).traceParts src kind r.1 r.2)).modThread src.thread fun t => t.event 14 fixed) s

/-- Reads several things in order. -/
def Rd.all {α β : Type} (f : α → Rd β) : List α → Rd (List β)
  | [] => .ok [] []
  | a :: r => (f a).bind fun b => (Rd.all f r).bind fun bs => .pure (b :: bs)

/-! ### Capped blocks (R228 to R231) -/

/-- A field of a bit stream. -/
def streamBits (bs : List Byte) (i w : Nat) : Nat :=
  ((List.range w).map fun j => if (bs.getD ((i + j) / 8) 0).getLsbD ((i + j) % 8) then 2 ^ j else 0).foldl (· + ·) 0

/-- R229: parameters k and Q of a code. -/
def codeParams (c : Nat) : Nat × Nat :=
  match c with
  | 1 => (0, 2) | 2 => (0, 4) | 3 => (1, 2) | 4 => (1, 4) | 5 => (2, 2) | 6 => (2, 4) | _ => (3, 1)

/-- One codeword of codes 1 to 7: the exponent field, if it is not negative, and the next stream bit. -/
def codeword (bs : List Byte) (e emax k q : Nat) : Nat → Nat → Nat → Option (Nat × Nat)
  | 0, _, i => some (streamBits bs i e, i + e)
  | fuel + 1, n, i =>
    if n = q then some (streamBits bs i e, i + e)
    else if streamBits bs i 1 = 0 then
      let d := n * 2 ^ k + streamBits bs (i + 1) k
      if emax < d then none else some (emax - d, i + 1 + k)
    else codeword bs e emax k q fuel (n + 1) (i + 1)

/-- R230: the 48 elements of a block, from element `j` on; none is error DESC. -/
def cappedFrom (f : Fmt) (bs : List Byte) (code emax units : Nat) : Nat → Nat → Nat → Option (List Nat)
  | 0, _, _ => some []
  | fuel + 1, j, i =>
    let g := streamBits bs (16 + (1 + f.m) * j) (1 + f.m)
    let r := if code = 0 then some (streamBits bs i f.e, i + f.e)
      else codeword bs f.e emax (codeParams code).1 (codeParams code).2 (codeParams code).2 0 i
    match r with
    | none => none
    | some (e, i') =>
      if 128 * units < i' then none
      else
        let x := g / 2 ^ f.m * 2 ^ (f.e + f.m) + e * 2 ^ f.m + g % 2 ^ f.m
        (cappedFrom f bs code emax units fuel (j + 1) i').map (x :: ·)

/-- R230: decodes a block whose directory gives `units`; none is error DESC (R231). -/
def cappedBlock (f : Fmt) (bs : List Byte) (units : Nat) : Option (List Nat) :=
  let h := streamBits bs 0 16
  let emax := h / 2048
  let code := h / 256 % 8
  if h % 64 ≠ 0 ∨ h / 64 % 4 + 1 ≠ units ∨ (code ≠ 0 ∧ 2 ^ f.e - 1 < emax) then none
  else cappedFrom f bs code emax units 48 0 (16 + 48 * (1 + f.m))

/-- R231: reads and decodes block `b` of a capped tensor. -/
def Unit1.block (u : Unit1) (x : Tensor) (b : Nat) : Rd (List Nat) :=
  if x.dir.toNat % 16 ≠ 0 ∨ x.base.toNat % 16 ≠ 0 then .fail causeDESC x.dir
  else (u.read (x.dir + BitVec.ofNat 64 (b / 32 * 16)) 16).bind fun g =>
    let w0 := leWord (g.take 8)
    let w1 := leWord (g.drop 8)
    let len (i : Nat) : Nat := (w1.extractLsb' (2 * i) 2).toNat
    let off := (w0.extractLsb' 0 32).toNat + ((List.range (b % 32)).map fun i => len i + 1).foldl (· + ·) 0
    if w0.extractLsb' 32 32 ≠ 0#32 then .fail causeDESC (x.dir + BitVec.ofNat 64 (b / 32 * 16))
    else
      let va := x.base + BitVec.ofNat 64 (16 * off)
      let n := len (b % 32) + 1
      (u.read va (16 * n)).bind fun bs => match cappedBlock x.format bs n with
        | none => .fail causeDESC va
        | some es => .pure es

/-- Encodings from bytes, `size` bytes each. -/
def encodings (size : Nat) (bs : List Byte) : List Nat := (cut size bs.length bs).map fun b => (leWord b).toNat

/-- The encodings of step j of row (i1, i2, i3): a whole step, the tail padded with zeros (R173). -/
def Unit1.step (u : Unit1) (x : Tensor) (j i1 i2 i3 : Nat) : Rd (List Nat) :=
  if x.capped then u.block x (x.blockNo j i1 i2 i3)
  else
    let n := min x.perStep (x.d0 - j * x.perStep)
    (u.read (x.rowAddr i1 i2 i3 + BitVec.ofNat 64 (48 * j)) (n * x.size)).bind fun bs =>
      .pure (encodings x.size bs ++ List.replicate (x.perStep - n) 0)

/-! ### Scales (R232) -/

/-- The factor of a row at a step, for an A or B tensor. -/
def Unit1.scale (u : Unit1) (x : Tensor) (r j : Nat) : Rd Num :=
  let f32 (va : Word) : Rd Num := (u.read va 4).bind fun bs => .pure (decodeF .f32 (leWord bs).toNat)
  match x.scm.toNat with
  | 0 => .pure (.fin false 1 1)
  | 1 => f32 x.scale
  | 2 => f32 (x.scale + BitVec.ofNat 64 (4 * r))
  | _ => (u.read (x.scale + BitVec.ofNat 64 (r * x.steps + j)) 1).bind fun bs =>
    let b := (bs.headD 0).toNat
    if b = 255 then .pure (.nan false)
    else
      let p := scaled 1 ((b : Int) - 127)
      .pure (.fin false p.1 p.2)

/-- The factor of an output of a destination; `r` is i, extended by the batch, and n the column. -/
def Unit1.destScale (u : Unit1) (x : Tensor) (r n : Nat) : Rd Num :=
  let f32 (va : Word) : Rd Num := (u.read va 4).bind fun bs => .pure (decodeF .f32 (leWord bs).toNat)
  match x.scm.toNat with
  | 0 => .pure (.fin false 1 1)
  | 1 => f32 x.scale
  | 2 => f32 (x.scale + BitVec.ofNat 64 (4 * r))
  | _ => f32 (x.scale + BitVec.ofNat 64 (4 * n))

end Sys2Proof.Machine
end

