-- ==== Sys2Proof/Machine/Matrix.lean ====
section
/-! DEFINITION. The matrix words: leases and their arbiter (07_matrix_split.md R157 to R161), accumulator slots and their
status (R162 to R166), the issue of tile operations (R167), agreement and shadow registers (R175, R176). -/

namespace Sys2Proof.Machine

/-! ### Leases -/

/-- The grant a thread holds on a comb (R160). -/
def Comb.grantOf (k : Comb) (n : ThreadNo) : Option Grant := k.grants.find? fun g => g.thread == n && !g.ending

/-- The quarter of a comb in which a thread owns a slot (R157): of several the lowest-numbered (DESIGN CHOICE, log entry 80). -/
def Comb.quarterOf (k : Comb) (n : ThreadNo) : Option (BitVec 2) :=
  ([0, 1, 2, 3] : List (BitVec 2)).find? fun q => k.accs.any fun a => a.thread == n && a.sub == q

/-- The request for an intent (R157, R160); none when it is already there. -/
def State.requestLease (s : State) (whole : Bool) (cls : BitVec 3) : State :=
  let k := s.comb (combOf s.cur.core)
  if k.requests.any fun r => r.thread == s.cur.num then s
  else s.setComb { k with requests := k.requests ++ [{
    thread := s.cur.num, core := s.cur.core, whole := whole, cls := cls, bypassed := 0
    only := if whole then none else k.quarterOf s.cur.num }] }

/-- The word `mlease` writes for a grant (R157). -/
def Grant.word (g : Grant) : Word := if g.whole then 2 else g.quarter.setWidth 64 <<< 2 ||| 1

/-- R157. The intent is the thread's from the grant on, so that a bundle that waits may run again from the start. -/
def execMlease (g : KReg) (d : XReg) (e : BitVec 2) (p : BitVec 3) (s : State) : Out1 :=
  finish s (guarded s g (legal s [] [d] (
    let whole := e == 0#2
    if s.cur.intent.isSome then putX s d 3 false
    else match (if s.cur.granted then (s.comb (combOf s.cur.core)).grantOf s.cur.num else none) with
      | some gr => destX s d gr.word fun s1 =>
        let s2 : State := { s1 with cur := { s1.cur with intent := some (whole, p), granted := false } }
        .done (s2.setX d gr.word false)
      | none => .park .lease (s.requestLease whole p))))

/-- R161. -/
def execMfree (g : KReg) (s : State) : Out1 :=
  finish s (guarded s g (
    if s.cur.intent.isNone then .done s
    else
      let s1 := s.dropLease s.cur.num
      .done { s1 with cur := { s1.cur with intent := none } }))

/-- The extent of a request is free (R158): the whole array, or a quarter that it may receive. -/
def Comb.freeQuarter (k : Comb) (r : LeaseReq) : Option (BitVec 2) :=
  if r.whole then (if k.grants.isEmpty then some 0 else none)
  else ([0, 1, 2, 3] : List (BitVec 2)).find? fun q =>
    (match r.only with
      | some o => o == q
      | none => true) && !(k.grants.any fun g => g.whole || g.quarter == q)

/-- Distance in core order from the core after the one last granted (R158). -/
def coreDistance (last c : BitVec 3) : Nat := (c - (last + 1)).toNat

/-- R158: the request that the arbiter grants next, by its place among the requests. -/
def Comb.nextGrant (k : Comb) : Option (Nat × LeaseReq) :=
  let bar := ((k.requests.findIdx? fun r => decide (7 ≤ r.bypassed)).getD k.requests.length)
  let free := (k.requests.zipIdx.filter fun r => decide (r.2 ≤ bar) && (k.freeQuarter r.1).isSome)
  let better (a b : LeaseReq × Nat) : Bool :=
    let da := coreDistance k.lastCore (a.1.core.extractLsb' 0 3)
    let db := coreDistance k.lastCore (b.1.core.extractLsb' 0 3)
    if a.1.cls ≠ b.1.cls then decide (b.1.cls.toNat < a.1.cls.toNat)
    else if da ≠ db then decide (da < db) else decide (a.2 ≤ b.2)
  match free with
  | [] => none
  | f :: r => let b := r.foldl (fun a b => if better a b then a else b) f
    some (b.2, b.1)

/-- R158: the arbiter grants a request. -/
def execLeaseGrant (c : CombNo) (s : State) : Out1 :=
  let k := s.comb c
  match k.nextGrant with
  | none => .next s
  | some (i, r) =>
    let gr : Grant := { thread := r.thread, core := r.core, whole := r.whole, quarter := (k.freeQuarter r).getD 0
                        entered := 0, since := s.cyc, ending := false }
    let requests := (k.requests.zipIdx.filter fun x => x.2 != i).map fun x =>
      if x.2 < i then { x.1 with bypassed := x.1.bypassed + 1 } else x.1
    let s1 := s.setComb { k with grants := k.grants ++ [gr], requests := requests, lastCore := r.core.extractLsb' 0 3 }
    .next (s1.modThread r.thread fun t =>
      if t.wait = some .lease then { t with wait := some .held, granted := true } else t)

/-- A request needs a sub-array of a grant. -/
def LeaseReq.needs (r : LeaseReq) (g : Grant) : Bool :=
  r.whole || g.whole || (match r.only with
    | some q => q == g.quarter
    | none => true)

/-- R159: a grant reaches its limit. The holder of a quarter asks for that quarter again, which its queued operations name, also
where it owns no slot in it (DESIGN CHOICE, log entry 80). -/
def execLeaseExpiry (c : CombNo) (n : ThreadNo) (s : State) : Out1 :=
  let k := s.comb c
  match k.grants.find? fun g => g.thread == n with
  | none => .next s
  | some g =>
    if g.entered < 64 ∧ (s.cyc - g.since).toNat < 65536 then .next s
    else if !(k.requests.any fun r => r.needs g) then
      .next (s.setComb { k with grants := k.grants.map fun h => if h = g then { g with entered := 0, since := s.cyc } else h })
    else
      let again : List LeaseReq := match s.thread? n with
        | none => []
        | some t => match t.intent with
          | none => []
          | some i => [{ thread := n, core := g.core, whole := g.whole, cls := i.2, bypassed := 0
                         only := if g.whole then none else some g.quarter }]
      .next (s.setComb { k with
        grants := k.grants.filter (fun h => h != g), requests := k.requests ++ again
        queue := k.queue.map (fun o => if o.thread == n then { o with started := false } else o) })

/-! ### Accumulator slots -/

/-- The slot of a sub-array, if it is not free (R162). -/
def Comb.acc? (k : Comb) (sub : BitVec 2) (n : BitVec 4) : Option Acc := k.accs.find? fun a => a.sub == sub && a.n == n

/-- The owner of a slot is a thread in a domain (R162). -/
def Acc.mine (a : Acc) (t : Thread) : Bool := a.thread == t.num && a.dom == t.dom

/-- Replaces, or adds, a slot. -/
def Comb.putAcc (k : Comb) (a : Acc) : Comb := { k with accs := a :: k.accs.filter fun b => !(b.sub == a.sub && b.n == a.n) }

/-- Frees a slot. -/
def Comb.freeAcc (k : Comb) (sub : BitVec 2) (n : BitVec 4) : Comb :=
  { k with accs := k.accs.filter fun b => !(b.sub == sub && b.n == n) }

/-- A slot as it becomes active (R163). -/
def newAcc (t : Thread) (sub : BitVec 2) (n : BitVec 4) (split : Bool) (i32 : Option Bool) : Acc :=
  { sub := sub, n := n, thread := t.num, dom := t.dom, core := t.core, slot := t.slotNo, parked := false, split := split
    i32 := i32, err := false, ecause := 0, elems := List.replicate 256 0, counts := if split then List.replicate 256 (0, 0) else [] }

/-- The slots that an operation names in each sub-array: one, or an even one and the next (R162). -/
def opSlots (d : BitVec 4) (split : Bool) : List (BitVec 4) := if split then [d, d + 1] else [d]

/-- The accumulator slot and kind of a queued operation. -/
def TileOp.slots (o : TileOp) : List (BitVec 4) :=
  match o.instr with
  | .mma _ d _ _ _ _ => opSlots d false
  | .mmas _ d _ _ _ _ => opSlots d true
  | .mzero _ d _ x => opSlots d (x == 1#1)
  | .mdrain _ d _ _ _ _ x _ => opSlots d (x == 1#1)
  | _ => []

/-- An operation in flight names slot `n` of some sub-array among `subs` (R165). -/
def Comb.busy (k : Comb) (subs : List (BitVec 2)) (n : BitVec 4) : Bool :=
  k.queue.any fun o => o.slots.contains n && o.subs.any fun q => subs.contains q

/-- The four sub-arrays. -/
def allSubs : List (BitVec 2) := [0, 1, 2, 3]

/-- R166: the status word of slot N for the thread. A grant is held until the last operation under it has completed (R161). ECAUSE
is of the last operation that failed on a copy, ORed over the thread's copies (DESIGN CHOICE, log entry 80). -/
def statusWord (s : State) (n : BitVec 4) : Word :=
  let t := s.cur
  let k := s.comb (combOf t.core)
  let own := k.accs.filter fun a => a.n == n && a.mine t
  let mine (b : Bool) (w : Nat) : Nat := if b && !own.isEmpty then w else 0
  let bits (p : Acc → Bool) : Nat := bitsNat (allSubs.map fun q => k.accs.any fun a => a.sub == q && a.n == n && p a)
  let berr := ((k.berr.find? fun b => b.1 == t.num).map Prod.snd)
  let lease : Nat := match k.grants.find? fun g => g.thread == t.num with
    | none => 0
    | some g => if g.whole then 2 else 1 + 4 * g.quarter.toNat
  let pairCounts := (k.accs.filter fun a => a.mine t && a.split && (a.n == n || a.n == n &&& 0xE#4)).flatMap Acc.counts
  let csat := pairCounts.any fun c => c.1 == BitVec.allOnes 16 || c.2 == BitVec.allOnes 16
  BitVec.ofNat 64 (
    bits (fun a => a.mine t && !a.parked) + 2 ^ 4 * bits (fun a => a.mine t && a.parked) + 2 ^ 8 * bits (fun a => !a.mine t) +
    mine (own.any Acc.split) (2 ^ 12) + mine (own.any fun a => a.i32 == some true) (2 ^ 13) +
    mine (k.queue.any fun o => o.thread == t.num && o.slots.contains n && own.any fun a => o.subs.contains a.sub) (2 ^ 14) +
    mine (own.any Acc.err) (2 ^ 15) + 2 ^ 16 * (own.foldl (fun (c : BitVec 3) (a : Acc) => c ||| a.ecause) 0).toNat +
    mine csat (2 ^ 19) + 2 ^ 20 * lease +
    (match berr with
      | none => 0
      | some c => 2 ^ 24 + 2 ^ 25 * c.toNat))

/-- Reading clears BERR and BCAUSE (R166). -/
def State.clearBerr (s : State) : State :=
  let k := s.comb (combOf s.cur.core)
  s.setComb { k with berr := k.berr.filter fun b => b.1 != s.cur.num }

/-- R166. -/
def execMstat (g : KReg) (d : XReg) (n : BitVec 4) (s : State) : Out1 :=
  finish s (guarded s g (legal s [] [d] (
    let v := statusWord s n
    destX s d v fun s1 => .done (s1.clearBerr.setX d v false))))

/-- R165: the thread's parked copies of a slot, or of its pair, become active. -/
def reclaim (t : Thread) (n : BitVec 4) (k : Comb) : Comb :=
  let hit (a : Acc) : Bool := a.parked && a.mine t && (a.n == n || (a.split && a.n &&& 0xE#4 == n &&& 0xE#4))
  { k with accs := k.accs.map fun a => if hit a then { a with parked := false, core := t.core, slot := t.slotNo } else a }

/-- R165. Writing the `mstat` result clears BERR and BCAUSE as `mstat` does (DESIGN CHOICE, log entry 80). -/
def execMreclaim (g : KReg) (d : XReg) (n : BitVec 4) (s : State) : Out1 :=
  finish s (guarded s g (legal s [] [d] (
    let c := combOf s.cur.core
    if (s.comb c).busy allSubs n || (s.comb c).busy allSubs (n ^^^ 1#4) &&
        ((s.comb c).accs.any fun a => a.n == n && a.split) then .wait
    else
      let s1 := s.setComb (reclaim s.cur n (s.comb c))
      let v := statusWord s1 n
      destX s1 d v fun s2 => .done (s2.clearBerr.setX d v false))))

/-! ### Agreement and shadow registers -/

/-- R21: the value that agv takes. -/
def limitAgv (v : Word32) : Word32 :=
  match decodeF .f32 v.toNat with
  | .nan _ => 0x3F800000
  | x => if x.sign || x.isZero then 0 else if Num.lt (.fin false 1 1) x then 0x3F800000 else v

/-- R175. -/
def execMagr (g : KReg) (a : XReg) (t : BitVec 3) (s : State) : Out1 :=
  finish s (guarded s g (legal s [a] [] (useX s a fun v _ s1 =>
    .done { s1 with cur := match t.toNat with
      | 0 => { s1.cur with agv := limitAgv (v.extractLsb' 0 32) }
      | 1 => { s1.cur with agc := v.extractLsb' 0 16 }
      | _ => { s1.cur with cen := v.getLsbD 0 } })))

/-- R176. -/
def execMfmt (g : KReg) (a : XReg) (t : BitVec 3) (s : State) : Out1 :=
  finish s (guarded s g (legal s [a] [] (useX s a fun v _ s1 =>
    .done { s1 with cur := match t.toNat with
      | 0 => { s1.cur with fmtA := v.extractLsb' 0 4 }
      | 1 => { s1.cur with fmtB := v.extractLsb' 0 4 }
      | 2 => { s1.cur with scA := v }
      | 3 => { s1.cur with scB := v }
      | _ => { s1.cur with scC := v } })))

/-! ### Issue of tile operations (R167) -/

/-- tval of a PROT of the matrix words (R167). -/
def matrixProt (reason : Nat) (sub : BitVec 2) (n : BitVec 4) : Res :=
  .trap .prot (BitVec.ofNat 64 (0x10000 + 256 * reason + 16 * sub.toNat + n.toNat))

/-- TILEFORM, whose tval is the bundle (R40). -/
def tileform (s : State) : Res := .trap .tileform s.bundle

/-- Sub-arrays of a shape under a grant (R150). -/
def shapeSubs (shape : BitVec 3) (g : Grant) : List (BitVec 2) :=
  if shape = 0#3 then [if g.whole then 0 else g.quarter] else allSubs

/-- M and N of a shape (R150); the batch of `.quad` apart. -/
def shapeM (shape : BitVec 3) : Nat := if shape = 2#3 then 32 else if shape = 3#3 then 64 else 16
def shapeN (shape : BitVec 3) : Nat := if shape = 1#3 then 64 else if shape = 2#3 then 32 else 16

/-- R167 steps 1 to 3: full counters and a missing grant wait, for which the intent is requested (R160), a bad word is
TILEFORM, no intent is PROT. In its tval N is 0 for `mbload`, which names no slot, and s is 0, as no lease gives a sub-array (DESIGN
CHOICE, log entry 80). -/
def tileIssue (s : State) (wordOk : Bool) (fused : Bool) (n : BitVec 4) (k : Grant → Res) : Res :=
  if 16 ≤ s.cur.tlo then .wait
  else match s.cur.intent with
    | none => if !wordOk then tileform s else matrixProt 3 0 n
    | some i =>
      match (s.comb (combOf s.cur.core)).grantOf s.cur.num with
      | none => .park .cond (s.requestLease i.1 i.2)
      | some g =>
        if 64 ≤ g.entered then .wait
        else if !wordOk || (fused && !g.whole) then tileform s
        else k g

/-- R167: a tile operation with two x operands. It does not issue before they can be read (R24, R105); steps 1 to 3 then
come before the traps that reading them raises (R40). -/
def tileWord (s : State) (a b : XReg) (wordOk fused : Bool) (n : BitVec 4) (k : Grant → Word → Word → State → Res) : Res :=
  legal s [a, b] [] (match useXX s a b fun _ _ _ s1 => .done s1 with
    | .wait => .wait
    | _ => tileIssue s wordOk fused n fun gr => useXX s a b fun va vb _ s1 => k gr va vb s1)

/-- R167 step 5: a descriptor's dwords, read as a plain load. -/
def readDescriptor (s : State) (va : Word) (k : List Word → State → Res) : Res :=
  if va.extractLsb' 0 6 ≠ 0#6 then .trap .align va
  else access s .read va 64 fun ps s1 => k (s1.readDwords va ps).1 (s1.readDwords va ps).2

/-- R163: what a slot that an operation names says: nothing, or the reason of a PROT. -/
def slotReason (a : Option Acc) (t : Thread) : Option Nat :=
  match a with
  | none => none
  | some a => if !a.mine t then some 1 else if a.parked then some 2 else none

/-- R163: owners of the named slots, lowest sub-array first. -/
def checkSlots (s : State) (subs : List (BitVec 2)) (ns : List (BitVec 4)) (k : Res) : Res :=
  let c := s.comb (combOf s.cur.core)
  let bad := subs.findSome? fun q => ns.findSome? fun n => (slotReason (c.acc? q n) s.cur).map fun r => (r, q, n)
  match bad with
  | some (r, q, n) => matrixProt r q n
  | none => k

/-- The named slots that are not free satisfy a condition. -/
def Comb.slotsAre (c : Comb) (subs : List (BitVec 2)) (ns : List (BitVec 4)) (p : Acc → Bool) : Bool :=
  subs.all fun q => ns.all fun n => match c.acc? q n with
    | none => true
    | some a => p a

/-- R167 step 8: the operation enters the queue and TLO rises. -/
def State.enqueueTile (s : State) (o : TileOp) : State :=
  let k := s.comb (combOf s.cur.core)
  let s1 := (s.setComb { k with
    queue := k.queue ++ [{ o with num := s.stamp }]
    grants := k.grants.map (fun g => if g.thread == s.cur.num && !g.ending then { g with entered := g.entered + 1 } else g) }).countEv 7 1
  { s1 with stamp := s.stamp + 1, cur := { s1.cur with tlo := s1.cur.tlo + 1 } }

/-- The operation with everything it latches at issue (R167). -/
def State.tileOp (s : State) (i : Instr) (subs : List (BitVec 2)) (a b : Option Tensor) (pattern random : Word) : TileOp :=
  let t := s.rd
  { instr := i, thread := s.cur.num, core := s.cur.core, dom := s.cur.dom, subs := subs, a := a, b := b, pattern := pattern, random := random
    rm := t.rm, fzs := t.fzs, fzr := t.fzr, agv := t.agv, agc := t.agc, cen := t.cen, started := false }

/-- Claims the slots that an operation names and that are free; sets the type of those of `mma` (R163). -/
def State.claim (s : State) (subs : List (BitVec 2)) (ns : List (BitVec 4)) (split : Bool) (i32 : Option Bool) : State :=
  let k := s.comb (combOf s.cur.core)
  s.setComb (subs.foldl (fun k q => ns.foldl (fun (k : Comb) n => match k.acc? q n with
    | none => k.putAcc (newAcc s.cur q n split i32)
    | some a => if i32.isSome then k.putAcc { a with i32 := i32 } else k) k) k)

/-- A reserved shape code is TILEFORM (R48). -/
def shapeOk (shape : BitVec 3) : Bool := decide (shape.toNat ≤ 4)

/-- R380: split accumulators where the VD has accepted them. -/
def splitAllowed (s : State) (split : Bool) : Bool := !split || s.feature s.cur.vdid 2

/-- The tensor of a descriptor; the capped formats are reserved where the VD has not accepted them (R380). -/
def tensorFor (s : State) (r : Role) (h : BitVec 32) (w : List Word) : Option Tensor :=
  (tensorOf s.rd r h w).filter fun x => !x.capped || s.feature s.cur.vdid 1

/-- R163, R172: `mzero`. A change of kind waits until nothing is in flight on the slots concerned. -/
def execMzero (g : KReg) (d : BitVec 4) (sh : BitVec 3) (x : BitVec 1) (s : State) : Out1 :=
  finish s (guarded s g (
    let split := x == 1#1
    tileIssue s (shapeOk sh && !(split && d.getLsbD 0) && splitAllowed s split) (sh != 0#3) d fun gr =>
      let subs := shapeSubs sh gr
      let c := s.comb (combOf s.cur.core)
      checkSlots s subs (opSlots d split) (
        let pair := [d, d ^^^ 1#4]
        let changes := subs.any fun q => pair.any fun n => match c.acc? q n with
          | none => false
          | some a => a.mine s.cur && a.split != split && (n == d || split || a.split)
        if changes && (c.busy subs d || c.busy subs (d ^^^ 1#4)) then .wait
        else
          let k1 := subs.foldl (fun (k : Comb) q =>
            let wasSplit := (k.acc? q d).any Acc.split
            let k0 := if !split && wasSplit then k.freeAcc q (d ^^^ 1#4) else k
            (opSlots d split).foldl (fun (k : Comb) n => match k.acc? q n with
              | some a => if a.split = split then k.putAcc { a with i32 := none } else k.putAcc (newAcc s.cur q n split none)
              | none => k.putAcc (newAcc s.cur q n split none)) k0) c
          .done ((s.setComb k1).enqueueTile (s.tileOp (.mzero g d sh x) subs none none 0 0)))))

/-- R156, R173: the tensors of a multiply fit each other and the shape. -/
def multiplyFits (a b : Tensor) (sh : BitVec 3) (split : Bool) : Bool :=
  let quad := sh == 4#3
  !a.sp && b.sp && a.d1 == shapeM sh && a.d2 == (if quad then 4 else 1) && a.d3 == 1 &&
  b.d0 == a.d0 && b.d1 == 16 && b.d2 == 1 && b.d3 == 1 && decide (b.base.toNat + b.steps ≤ 2048) &&
  family a.fmt == family b.fmt && !b.capped && a.scm != 3#3 && b.scm != 3#3 &&
  (family a.fmt != 2 || (a.scm == 0#3 && b.scm == 0#3 && !split))

/-- Bytes of an `mbload` after expansion and padding (R153). -/
def loadBytes (x : Tensor) : Nat := x.d1 * x.d2 * x.d3 * x.steps * 48

/-- Blocks of an `mbload` (R153). -/
def loadBlocks (x : Tensor) (p : Pattern) : Nat := if p.blk = 0 then 0 else (loadBytes x + p.blk - 1) / p.blk

/-- The slices that an `mbload` writes (R152, R153); none of any other operation. -/
def loadSlices (o : TileOp) : List Nat :=
  match o.instr, o.a with
  | .mbload _ _ _, some x =>
    let p := pattern o.pattern
    (List.range (min (loadBlocks x p) p.cyc)).map fun i => (p.first + p.stride * i) % 64
  | _, _ => []

/-- The tag that a slice carries: of the last `mbload` that wrote it, domain 0 after a reset (R151). One that is still queued has
not written it (log entry 29). -/
def Comb.tagFor (k : Comb) (slice : Nat) : DomNo :=
  ((k.slices.find? fun z => z.num.toNat == slice).map Slice.tag).getD 0

/-- R167, R173: `mma` and `mmas`. -/
def multiply (s : State) (g : KReg) (d : BitVec 4) (a b : XReg) (sh : BitVec 3) (sp : BitVec 2) (split : Bool) (i : Instr) : Out1 :=
  finish s (guarded s g (
    tileWord s a b (shapeOk sh && sp == 0#2 && !(split && d.getLsbD 0) && splitAllowed s split) (sh != 0#3) d fun gr ha hb s0 =>
      useEntry s0 ha 1 fun ea s1 => useEntry s1 hb 1 fun eb s2 =>
      readDescriptor s2 ea.addr fun wa s3 => readDescriptor s3 eb.addr fun wb s4 =>
      match tensorFor s .a (ha.extractLsb' 0 32) wa, tensorFor s .b (hb.extractLsb' 0 32) wb with
      | some ta, some tb =>
        let subs := shapeSubs sh gr
        let i32 := family ta.fmt == 2
        let c := s4.comb (combOf s4.cur.core)
        let foreign := subs.find? fun q => (List.range 16).any fun n =>
          c.tagFor (16 * q.toNat + n) != s4.cur.dom
        if !multiplyFits ta tb sh split then tileform s
        else match foreign with
          | some q => matrixProt 5 q d
          | none => checkSlots s4 subs (opSlots d split) (
            if !c.slotsAre subs (opSlots d split) (fun a => a.split == split && (a.i32.isNone || a.i32 == some i32)) then tileform s
            else
              let s5 := s4.claim subs (opSlots d split) split (some i32)
              .done ((s5.enqueueTile (s.tileOp i subs (some ta) (some tb) 0 0)).inFlight))
      | _, _ => tileform s))

/-- R173. -/
def execMma (g : KReg) (d : BitVec 4) (a b : XReg) (sh : BitVec 3) (p : BitVec 2) (s : State) : Out1 :=
  multiply s g d a b sh p false (.mma g d a b sh p)
/-- R173. -/
def execMmas (g : KReg) (d : BitVec 4) (a b : XReg) (sh : BitVec 3) (p : BitVec 2) (s : State) : Out1 :=
  multiply s g d a b sh p true (.mmas g d a b sh p)

/-- R156: the destination of a drain fits the shape. -/
def drainFits (x : Tensor) (sh : BitVec 3) (rawSplit : Bool) : Bool :=
  let quad := sh == 4#3
  !x.sp && x.d0 == shapeN sh && x.d1 == shapeM sh && (!quad || x.d2 == 4) && x.scm != 4#3 &&
  (!rawSplit || (if quad then decide (3 ≤ x.d3) else decide (3 ≤ x.d2)))

/-- R167, R174: `mdrain`. -/
def execMdrain (g : KReg) (d : BitVec 4) (a b : XReg) (m c : BitVec 2) (x : BitVec 1) (sh : BitVec 3) (s : State) : Out1 :=
  let split := x == 1#1
  finish s (guarded s g (
    tileWord s a b (shapeOk sh && !(split && d.getLsbD 0) && (split || m == 0#2) && splitAllowed s split) (sh != 0#3) d
      fun gr ha rnd s0 => useEntry s0 ha 1 fun ea s1 => readDescriptor s1 ea.addr fun wa s2 =>
      match tensorFor s .dest (ha.extractLsb' 0 32) wa with
      | none => tileform s
      | some ta =>
        let subs := shapeSubs sh gr
        let k := s2.comb (combOf s2.cur.core)
        if !drainFits ta sh (split && m == 0#2) then tileform s
        else checkSlots s2 subs (opSlots d split) (
          let i32 := subs.filter fun q => !(k.slotsAre [q] (opSlots d split) fun a => a.i32 != some true)
          if !k.slotsAre subs (opSlots d split) (fun a => a.split == split) || (!i32.isEmpty && c != 0#2) then tileform s
          else
            let o := s.tileOp (.mdrain g d a b m c x sh) subs (some ta) none 0 rnd
            .done ((s2.enqueueTile { o with i32 := i32 }).inFlight))))

/-- R153: the pattern is one that `mbload` allows for a number of bytes and some sub-arrays. A STRIDE of 64 to 255 acts
modulo 64, and of the lease only the slices that are written are looked at (DESIGN CHOICE, log entry 63). -/
def loadFits (w : Word) (bytes : Nat) (subs : List (BitVec 2)) : Bool :=
  let p := pattern w
  let n := if p.blk = 0 then 0 else (bytes + p.blk - 1) / p.blk
  let slice (i : Nat) : Nat := (p.first + p.stride * (i % p.cyc)) % 64
  let ring := (List.range p.cyc).map slice
  w.extractLsb' 51 13 == 0#13 && p.blk != 0 && p.blk % 48 == 0 && decide (1 ≤ p.cyc) && decide (p.cyc ≤ 64) &&
  decide (p.first ≤ 63) && ring.Nodup &&
  (n == 0 || decide (p.row0 + ((n - 1) / p.cyc + 1) * (p.blk / 48) ≤ 2048)) &&
  ((List.range (min n p.cyc)).all fun i => subs.any fun q => q.toNat == slice i / 16)

/-- R153, R167: `mbload`. The length of R156 is that of the bytes after expansion and padding (DESIGN CHOICE, log entry 80). -/
def execMbload (g : KReg) (a b : XReg) (s : State) : Out1 :=
  finish s (guarded s g (
    tileWord s a b true false 0 fun gr ha pat s0 => useEntry s0 ha 1 fun ea s1 => readDescriptor s1 ea.addr fun wa s2 =>
      match tensorFor s .source (ha.extractLsb' 0 32) wa with
      | none => tileform s
      | some ta =>
        let subs := if gr.whole then allSubs else [gr.quarter]
        if ta.sp || decide (2 ^ 48 ≤ loadBytes ta) || !loadFits pat (loadBytes ta) subs then tileform s
        else
          let p := pattern pat
          let n := loadBlocks ta p
          let used := subs.filter fun q => (List.range (min n p.cyc)).any fun i =>
            (p.first + p.stride * (i % p.cyc)) % 64 / 16 == q.toNat
          .done ((s2.enqueueTile (s.tileOp (.mbload g a b) (if used.isEmpty then subs else used) (some ta) none pat 0)).inFlight)))

end Sys2Proof.Machine
end

