-- ==== Sys2Proof/Machine/Array.lean ====
section
/-! DEFINITION. What tile operations do in the array: the walk over outputs (07_matrix_split.md R150, R174), sums
(R173 and 10_formats_arithmetic.md R233 to R235), drains (R174, R236), loads of the B-SRAM (R151 to R153), errors (R170),
completion (R164, R168) and the audit (R237 to R239). An operation acts when it completes; one that has to wait goes on later
from the step, element or block at which it stopped. -/

namespace Sys2Proof.Machine

/-- Where output element `e` of a shape lies (R150, R174): the sub-array by its place among those of the shape, row and
column there, tile row, tile column, batch. -/
structure OutPos where
  k : Nat
  i : Nat
  c : Nat
  row : Nat
  n : Nat
  batch : Nat
  deriving DecidableEq, Repr

def spot (sh : BitVec 3) (e : Nat) : OutPos :=
  match sh.toNat with
  | 0 => ⟨0, e / 16, e % 16, e / 16, e % 16, 0⟩
  | 1 => ⟨e % 64 / 16, e / 64, e % 16, e / 64, e % 64, 0⟩
  | 2 => ⟨2 * (e / 512) + e % 32 / 16, e / 32 % 16, e % 16, e / 32, e % 32, 0⟩
  | 3 => ⟨e / 256, e / 16 % 16, e % 16, e / 16, e % 16, 0⟩
  | _ => ⟨e / 256, e / 16 % 16, e % 16, e / 16 % 16, e % 16, e / 256⟩

/-- Output elements of a shape. -/
def shapeSize (sh : BitVec 3) : Nat := if sh = 0#3 then 256 else 1024

/-- The shape field of a tile operation. -/
def TileOp.shape (o : TileOp) : BitVec 3 :=
  match o.instr with
  | .mma _ _ _ _ sh _ => sh
  | .mmas _ _ _ _ sh _ => sh
  | .mzero _ _ sh _ => sh
  | .mdrain _ _ _ _ _ _ _ sh => sh
  | _ => 0

/-- It acts on split slots. -/
def TileOp.split (o : TileOp) : Bool :=
  match o.instr with
  | .mmas _ _ _ _ _ _ => true
  | .mzero _ _ _ x => x == 1#1
  | .mdrain _ _ _ _ _ _ x _ => x == 1#1
  | _ => false

/-- The slot it names. -/
def TileOp.slot (o : TileOp) : BitVec 4 := o.slots.headD 0

/-- The sub-array at a place among those of an operation. -/
def TileOp.sub (o : TileOp) (k : Nat) : BitVec 2 := o.subs.getD k 0

/-- Where the operation reads from. -/
def TileOp.unit (o : TileOp) (s : State) : Unit1 := { s := s, core := o.core, thread := o.thread, dom := o.dom, held := o.held }

/-- The source of its events at ports (R257). -/
def TileOp.source (o : TileOp) : Source := { core := o.core, slot := 17, thread := o.thread }

/-! ### Sums -/

/-- The values of one output: F32 acc or P, N, and the counts; or an I32. -/
structure Cell1 where
  p : Word32
  n : Word32
  cp : Nat
  cn : Nat
  deriving DecidableEq, Repr

/-- The operands of a K step: each row's encodings and scale, each column's. Only the elements below K are here; the tail
of the last step is padded with zeros. -/
structure StepIn where
  rows : List (List Nat × Num)
  cols : List (List Nat × Num)
  padded : Bool

/-- A row of a slice as encodings. -/
def sliceRow (k : Comb) (slice row size : Nat) : List Nat :=
  let bs := match k.slices.find? fun z => z.num.toNat == slice with
    | none => []
    | some z => ((z.rows.find? fun r => r.1 == row).map Prod.snd).getD []
  encodings size (bs ++ List.replicate (48 - bs.length) 0)

/-- The granule lies in some step rows of a slice of the B-SRAM (R151, R305). -/
def Spot.inSlice (sp : Spot) (c : CombNo) (slice : Nat) (row : Nat → Bool) : Bool := match sp with
  | .bsram d n off => d == c && n.toNat == slice && row (off / 48)
  | _ => false

/-- Reads the operands of step j (R150, R155, R232). -/
def readStep (u : Unit1) (k : Comb) (o : TileOp) (a b : Tensor) (j : Nat) : Rd StepIn :=
  let sh := o.shape
  let quad := sh == 4#3
  let batches := if quad then 4 else 1
  let m := shapeM sh
  let n := min a.perStep (a.d0 - j * a.perStep)
  (Rd.all (fun r => (u.step a j (r % m) (r / m) 0).bind fun es => (u.scale a r j).bind fun sc =>
      .pure (es.take n, sc)) (List.range (m * batches))).bind fun rows =>
  (Rd.all (fun c =>
      let p := c / 16
      let e := if quad then 256 * p + c % 16 else if sh = 1#3 then c else if sh = 2#3 then 512 * (p / 2) + 16 * (p % 2) + c % 16
        else 256 * p + c % 16
      let q := spot sh e
      let slice := 16 * (o.sub p).toNat + c % 16
      let es := sliceRow k slice (b.base.toNat + j) b.size
      if u.s.damage.any fun d => d.fatal && d.spot.inSlice k.num slice (· == b.base.toNat + j) then .fail causeECC 0
      else (u.scale b (q.n + 16 * q.batch) j).bind fun sc => .pure (es.take n, sc))
    (List.range (16 * o.subs.length))).bind fun cols =>
  .pure { rows := rows, cols := cols, padded := n != a.perStep }

/-- The row and the column that meet in an output. -/
def StepIn.row (x : StepIn) (q : OutPos) : List Nat × Num := x.rows.getD (q.row + 16 * q.batch) ([], .fin false 0 1)
def StepIn.col (x : StepIn) (q : OutPos) : List Nat × Num := x.cols.getD (16 * q.k + q.c) ([], .fin false 0 1)

/-- R173, R233: the product of an element of the padded tail, where there is one: zeros with the scales of the step. -/
def StepIn.tail (x : StepIn) (q : OutPos) : List Num :=
  let zero : Num := .fin false 0 1
  if x.padded then [(zero.mul (x.row q).2).mul (zero.mul (x.col q).2)] else []

/-- R233: the products of an output in a step. -/
def productsOf (fzs : Bool) (a b : Tensor) (x : StepIn) (q : OutPos) : List Num :=
  let r := x.row q
  let c := x.col q
  let src (t : Tensor) (e : Nat) : Num := decodeF t.format (flush t.format fzs e)
  (List.zipWith (fun y z => ((src a y).mul r.2).mul ((src b z).mul c.2)) r.1 c.1)

/-- An encoding as a value. -/
def numOf (w : Word32) : Num := decodeF .f32 w.toNat

/-- Rounds a sum to F32 by RNE. -/
def roundSum (x : Num) : Word32 := BitVec.ofNat 32 (roundNum .f32 .rne 0 false x).1

/-- Adds values to an F32 exactly and rounds once (R234). -/
def addStep (w : Word32) (ps : List Num) : Word32 := roundSum (ps.foldl (fun (x : Num) p => x.add false p) (numOf w))

def Num.isInf : Num → Bool
  | .inf _ => true
  | _ => false

/-- A product above or below zero. -/
def Num.positive (x : Num) : Bool := !x.isNan && !x.isZero && !x.sign
def Num.negative (x : Num) : Bool := !x.isNan && !x.isZero && x.sign

/-- One K step of one output (R173, R234, R235). -/
def cellStep (o : TileOp) (a b : Tensor) (x : StepIn) (q : OutPos) (w : Cell1) : Cell1 :=
  if family a.fmt = 2 then
    let sum := (List.zipWith (fun y z => toInt true 8 y * toInt true 8 z) (x.row q).1 (x.col q).1).foldl (· + ·) (0 : Int)
    { w with p := w.p + BitVec.ofInt 32 sum }
  else
    let ps := productsOf o.fzs a b x q ++ x.tail q
    if o.split then
      let nan := ps.any Num.isNan
      let pos := ps.filter Num.positive
      let neg := ps.filter Num.negative
      { p := if nan then 0x7FC00000 else addStep w.p pos
        n := if nan then 0x7FC00000 else addStep w.n (neg.map Num.neg)
        cp := min (w.cp + pos.length) 65535
        cn := min (w.cn + neg.length) 65535 }
    else { w with p := addStep w.p ps }

/-- The outputs of an operation as its slots hold them, by element number. -/
def cellsOf (k : Comb) (o : TileOp) : List Cell1 :=
  (List.range (shapeSize o.shape)).map fun e =>
    let q := spot o.shape e
    let at_ := 16 * q.i + q.c
    let a := k.acc? (o.sub q.k) o.slot
    let b := if o.split then k.acc? (o.sub q.k) (o.slot + 1) else none
    let cnt := (a.bind fun a => a.counts[at_]?).getD (0, 0)
    { p := (a.bind fun a => a.elems[at_]?).getD 0, n := (b.bind fun a => a.elems[at_]?).getD 0
      cp := cnt.1.toNat, cn := cnt.2.toNat }

/-- The element number of row i, column c of the sub-array at a place. -/
def elemNo (sh : BitVec 3) (k i c : Nat) : Nat :=
  match sh.toNat with
  | 0 => 16 * i + c
  | 1 => 64 * i + 16 * k + c
  | 2 => 32 * (16 * (k / 2) + i) + 16 * (k % 2) + c
  | _ => 256 * k + 16 * i + c

/-- Writes outputs back to the slots of an operation that are not free. -/
def putCells (k : Comb) (o : TileOp) (cells : List Cell1) : Comb :=
  let cell (a : Acc) (j : Nat) : Cell1 :=
    cells.getD (elemNo o.shape ((o.subs.findIdx? fun q => q == a.sub).getD 0) (j / 16) (j % 16)) ⟨0, 0, 0, 0⟩
  { k with accs := k.accs.map fun a =>
      if !o.subs.contains a.sub then a
      else if a.n = o.slot then
        { a with elems := (List.range 256).map fun j => (cell a j).p
                 counts := if o.split then (List.range 256).map (fun j =>
                   (BitVec.ofNat 16 (cell a j).cp, BitVec.ofNat 16 (cell a j).cn)) else a.counts }
      else if o.split && a.n == o.slot + 1 then { a with elems := (List.range 256).map fun j => (cell a j).n }
      else a }

/-- How far an operation has got: to the end of what it was to do; to an error with its cause; to a page or a turn for which it
waits, at a step, element or block boundary (R170, R284). -/
inductive Went where
  | ok (s : State) (o : TileOp)
  | bad (s : State) (o : TileOp) (cause : Nat)
  | held (s : State) (o : TileOp) (m : Miss)
  | wait (s : State) (o : TileOp)

/-- Reads of an operation: their pages are used (R365), and they are events of the array (R257). -/
def State.noteTile (s : State) (o : TileOp) (l : Reads) : State :=
  (s.useTr o.core o.thread o.dom .read (l.map fun r => (BitVec.ofNat 64 r.1, r.2.length))).noteReads o.source 5 l

/-! ### Audit (R238) -/

/-- R238: the reference of an output after a step: P or acc, and N, rounding once per element; no source is flushed (R227). -/
def auditStep (o : TileOp) (a b : Tensor) (x : StepIn) (q : OutPos) (r : Word32 × Word32) : Word32 × Word32 :=
  let add (w : Word32) (y : Num) : Word32 := roundSum ((numOf w).add false y)
  (productsOf false a b x q).foldl (fun (r : Word32 × Word32) (p : Num) =>
    let v := numOf (roundSum p)
    if !o.split then (add r.1 v, r.2)
    else if v.isNan then (0x7FC00000, 0x7FC00000)
    else if v.positive then (add r.1 v, r.2)
    else if v.negative then (r.1, add r.2 v.neg)
    else r) r

/-- dev of R238, as an F32 encoding. -/
def auditDev (out ref : Num) : Word32 :=
  if (out.isNan && ref.isNan) || (out.isInf && out == ref) then 0
  else if out.isNan || ref.isNan || out.isInf || ref.isInf then 0x7F800000
  else
    let d := out.add false ref.neg
    let floor := scaled 1 (-126)
    let r : Num := match ref with
      | .fin _ n m => if n * floor.2 < floor.1 * m then .fin false floor.1 floor.2 else .fin false n m
      | x => x
    match d, r with
    | .fin _ n m, .fin _ x y => roundSum (.fin false (n * y) (m * x))
    | _, _ => 0

/-- R238: the record of the largest deviation, lowest element and plane first. -/
def auditBody (c : CombNo) (o : TileOp) (a b : Tensor) (seq : BitVec 32) (refs : List (Word32 × Word32)) (after : List Cell1) :
    AuditJob :=
  let one (e : Nat) : List (Nat × Nat × Word32 × Word32 × Word32) :=
    let v := after.getD e ⟨0, 0, 0, 0⟩
    let r := refs.getD e (0, 0)
    (e, 0, auditDev (numOf v.p) (numOf r.1), v.p, roundSum (numOf r.1)) ::
      (if o.split then [(e, 1, auditDev (numOf v.n) (numOf r.2), v.n, roundSum (numOf r.2))] else [])
  let all := (List.range (shapeSize o.shape)).flatMap one
  let best := all.foldl (fun (m : Nat × Nat × Word32 × Word32 × Word32) x =>
    if m.2.2.1.toNat < x.2.2.1.toNat then x else m) (all.headD (0, 0, 0, 0, 0))
  { d2 := BitVec.ofNat 64 (c.toNat * 2 ^ 57 + best.2.1 * 2 ^ 42 + best.1 * 2 ^ 32) ||| seq.setWidth 64
    d3 := a.handle ++ b.handle
    d4 := best.2.2.1 ++ (0#4 ++ BitVec.ofNat 12 o.step ++ 0#16)
    d5 := best.2.2.2.1 ++ best.2.2.2.2 }

/-- R237: every 2^e-th operation is audited; EXP 0 to 3 act as 4, 17 to 31 as 16. -/
def auditDue (k : Comb) (seq : BitVec 32) : Bool :=
  let e := if k.auExp.toNat < 4 then 4 else if 16 < k.auExp.toNat then 16 else k.auExp.toNat
  k.auEn && seq.toNat % 2 ^ e == 0

/-- The audit unit's sums before the next step: those of the slots before the first. -/
def TileOp.refsBefore (o : TileOp) (cells : List Cell1) : List (Word32 × Word32) :=
  if o.step = 0 then cells.map fun w => (w.p, w.n) else o.refs

/-! ### Steps -/

/-- The step rows of B that a step reads have met their granules (R305). -/
def State.meetStep (s : State) (c : CombNo) (o : TileOp) (b : Tensor) : State :=
  (s.meetSpot fun sp => o.subs.any fun q => (List.range 16).any fun n =>
    sp.inSlice c (16 * q.toNat + n) (· == b.base.toNat + o.step)).1

/-- The slots after a step whose operands have been read. -/
def stepDone (k : Comb) (o : TileOp) (a b : Tensor) (x : StepIn) : Comb :=
  putCells k o ((cellsOf k o).zipIdx.map fun w => cellStep o a b x (spot o.shape w.2) w.1)

/-- The K steps that are left, in order (R173): what the slots hold after each. -/
def runSteps (c : CombNo) (a b : Tensor) : Nat → State → TileOp → Went
  | 0, s, o => .ok s o
  | fuel + 1, s, o =>
    match readStep (o.unit s) (s.comb c) o a b o.step with
    | .held m => .held s o m
    | .behind => .wait s o
    | .bad cause _ l => .bad ((s.noteTile o l).meetStep c o b) o cause
    | .ok x l =>
      let s1 := (s.noteTile o l).meetStep c o b
      let refs := (o.refsBefore (cellsOf (s.comb c) o)).zipIdx.map fun w => auditStep o a b x (spot o.shape w.2) w.1
      runSteps c a b fuel (s1.setComb (stepDone (s1.comb c) o a b x)) { o with step := o.step + 1, refs := refs }

/-! ### Drains -/

/-- R174: the random bits of an element. -/
def drainBits (x : Word) (e : Nat) : Nat :=
  let z0 := x + BitVec.ofNat 64 (e + 1) * 0x9E3779B97F4A7C15#64
  let z1 := (z0 ^^^ (z0 >>> 30)) * 0xBF58476D1CE4E5B9#64
  let z2 := (z1 ^^^ (z1 >>> 27)) * 0x94D049BB133111EB#64
  ((z2 ^^^ (z2 >>> 31)).extractLsb' 32 32).toNat

def MFlags.or (a b : MFlags) : MFlags := ⟨a.mz || b.mz, a.mrovf || b.mrovf, a.mcsat || b.mcsat⟩

/-- P - N, exact; +0 where both are zero (R174, R236). -/
def diffOf (rd : Bool) (p n : Num) : Num :=
  if p.isZero && n.isZero then .fin false 0 1 else p.add rd n.neg

/-- Ratio and its flags (R174). -/
def ratioOf (rd : Bool) (p n : Num) : Num × MFlags :=
  if p.isNan || n.isNan then (.nan false, {})
  else if p.isInf && n.isInf then (.fin false 0 1, { mrovf := true })
  else if p.isInf then (.fin false 1 1, {})
  else if n.isInf then (.fin true 1 1, {})
  else if p.isZero && n.isZero then (.fin false 0 1, { mz := true })
  else match diffOf rd p n, p.add false n with
    | .fin b x y, .fin _ z w => (.fin b (x * w) (y * z), {})
    | _, _ => (.nan false, {})

/-- R174: the value agreement meets the threshold, exactly; and the flags. -/
def agreeOf (agv : Num) (p n : Num) : Bool × MFlags :=
  if p.isInf && n.isInf then (agv.isZero, { mrovf := true })
  else if p.isInf || n.isInf then (true, {})
  else if p.isZero && n.isZero then (agv.isZero, { mz := true })
  else
    let l := p.add false n.neg
    let l := if l.sign then l.neg else l
    (!(l.lt (agv.mul (p.add false n))), {})

/-- R174: the count agreement. -/
def cagreeOf (thc cp cn : Nat) : Bool :=
  if cp + cn = 0 then thc == 0 else decide (thc * (cp + cn) ≤ 65535 * (max cp cn - min cp cn))

/-- Output formats (R174): 0 F32, 1 B16, 2 F8N, 3 F8W. -/
def drainFmt (c : BitVec 2) : Fmt := if c = 0#2 then .f32 else if c = 1#2 then .b16 else if c = 2#2 then .f8n else .f8w
def drainSize (c : BitVec 2) : Nat := if c = 0#2 then 4 else if c = 1#2 then 2 else 1

/-- The planes of an element: each an encoding to be written with its size, and the flags. An I32 slot is written unrounded. -/
def drainPlanes (o : TileOp) (mode c : BitVec 2) (sc : Num) (i32 : Bool) (e : Nat) (w : Cell1) : List (Nat × Nat) × MFlags :=
  let rd := modeOf o.rm == .rd
  let out (x : Num) : Nat × Nat :=
    ((roundNum (drainFmt c) (modeOf o.rm) (drainBits o.random e) o.fzr (sc.mul x)).1, drainSize c)
  let p := numOf w.p
  let n := numOf w.n
  let sat : MFlags := { mcsat := o.split && (w.cp == 65535 || w.cn == 65535) }
  match mode.toNat with
  | 0 =>
    if i32 then ([(w.p.toNat, 4)], {})
    else if o.split then ([out p, out n, (w.cn * 65536 + w.cp, 4)], sat)
    else ([out p], {})
  | 1 => ([out (diffOf rd p n)], sat)
  | 2 => let r := ratioOf rd p n
    ([out r.1], r.2.or sat)
  | _ =>
    if p.isNan || n.isNan then ([out (.nan false)], sat)
    else
      let r := agreeOf (numOf o.agv) p n
      let pass := r.1 && (!o.cen || cagreeOf o.agc.toNat w.cp w.cn)
      ([out (if pass then diffOf rd p n else .fin false 0 1)], r.2.or sat)

/-- R174: the address of an element of a plane. -/
def drainAddr (x : Tensor) (sh : BitVec 3) (c : BitVec 2) (q : OutPos) (plane : Nat) : Word :=
  let size := drainSize c
  let quad := sh == 4#3
  if plane = 2 then
    let sp := if quad then x.s3 else x.s2
    let rows : Int := q.row * x.s1 + (if quad then q.batch * x.s2 else 0)
    x.base + BitVec.ofInt 64 (4 * q.n + (4 / size : Nat) * rows + 2 * sp)
  else
    (if quad then x.rowAddr q.row q.batch plane else x.rowAddr q.row plane 0) + BitVec.ofNat 64 (q.n * size)

/-- Writes the planes of an element in order. -/
def drainWrites (x : Tensor) (sh : BitVec 3) (c : BitVec 2) (q : OutPos) : Nat → List (Nat × Nat) → State → TileOp → Went
  | _, [], s, o => .ok s o
  | plane, (v, size) :: r, s, o =>
    let va := drainAddr x sh c q plane
    match engineAccess s o.core o.thread o.dom o.held .write va size with
    | .held m => .held s o m
    | .bad c _ => .bad s o c
    | .ok ps =>
      if s.arrayBehind ps then .wait s o
      else
        let (damaged, s1) := (s.useTr o.core o.thread o.dom .write [(va, size)]).writeBytes o.source 4 va.toNat ps
          (wordBytes (BitVec.ofNat 64 v) size)
        if damaged then .bad s1 o causeECC else drainWrites x sh c q (plane + 1) r s1 o

/-- Drains the elements that are left (R170: in ascending element number, up to the first failing write). One that has to wait
at a plane has not begun. -/
def drainFrom (x : Tensor) (mode c : BitVec 2) (cells : List Cell1) : Nat → State → TileOp → Went
  | 0, s, o => .ok s o
  | fuel + 1, s, o =>
    let q := spot o.shape o.step
    match (o.unit s).destScale x (q.row + 16 * q.batch) q.n with
    | .held m => .held s o m
    | .behind => .wait s o
    | .bad cause _ l => .bad (s.noteTile o l) o cause
    | .ok sc l =>
      let p := drainPlanes o mode c sc (o.i32.contains (o.sub q.k)) o.step (cells.getD o.step ⟨0, 0, 0, 0⟩)
      match drainWrites x o.shape c q 0 p.1 (s.noteTile o l) o with
      | .held _ _ m => .held s o m
      | .wait _ _ => .wait s o
      | .bad s1 o1 cause => .bad s1 o1 cause
      | .ok s1 o1 => drainFrom x mode c cells fuel s1 { o1 with step := o1.step + 1, flags := o1.flags.or p.2 }

/-! ### Loads of the B-SRAM -/

/-- Writes one step row of a slice for a domain; rows of another domain do not stay (R151, R153). -/
def putRow (k : Comb) (slice row : Nat) (dm : DomNo) (bs : List Byte) : Comb :=
  let z : Slice := (k.slices.find? fun z => z.num.toNat == slice).getD { num := BitVec.ofNat 6 slice, tag := 0, rows := [] }
  let old := if z.tag = dm then z.rows.filter (fun r => r.1 != row) else []
  let rows := if bs.all (· == 0) then old else old ++ [(row, bs)]
  { k with slices := { z with tag := dm, rows := rows } :: k.slices.filter fun y => y.num != z.num }

/-- The 48 bytes of unit `i` of the source (R153); zeros beyond its end. -/
def loadUnit (u : Unit1) (x : Tensor) (i : Nat) : Rd (List Byte) :=
  let row := i / x.steps
  if x.d1 * x.d2 * x.d3 ≤ row then .pure (List.replicate 48 0)
  else (u.step x (i % x.steps) (row % x.d1) (row / x.d1 % x.d2) (row / x.d1 / x.d2)).bind fun es =>
    .pure (es.flatMap fun e => wordBytes (BitVec.ofNat 64 e) x.size)

/-- R153: slices whose tag is another domain are zeroed whole, and all are tagged. -/
def Comb.tagSlices (k : Comb) (slices : List Nat) (dm : DomNo) : Comb :=
  { k with slices := (k.slices.filter fun z => !(slices.contains z.num.toNat) || z.tag == dm) ++
      (slices.filter fun n => !(k.slices.any fun z => z.num.toNat == n && z.tag == dm)).map fun n =>
        { num := BitVec.ofNat 6 n, tag := dm, rows := [] } }

/-- What is written to step rows of a slice is fresh code (R305). -/
def State.freshRows (s : State) (c : CombNo) (slice : Nat) (row : Nat → Bool) : State :=
  { s with damage := s.damage.filter fun d => d.lasting || !d.spot.inSlice c slice row }

/-- R153: the slices of a load are zeroed, where they were another domain's, and tagged before its first block: also those that a load which stops on an
error does not reach (DESIGN CHOICE, log entry 63). -/
def State.tagSlices (s : State) (c : CombNo) (o : TileOp) : State :=
  let k := s.comb c
  let zeroed := (loadSlices o).filter fun n => !(k.slices.any fun z => z.num.toNat == n && z.tag == o.dom)
  zeroed.foldl (fun (s : State) n => s.freshRows c n fun _ => true) (s.setComb (k.tagSlices (loadSlices o) o.dom))

/-- The slice of a block, and the step row at which it begins (R152). -/
def Pattern.slice (p : Pattern) (i : Nat) : Nat := (p.first + p.stride * (i % p.cyc)) % 64
def Pattern.row (p : Pattern) (i : Nat) : Nat := p.row0 + i / p.cyc * (p.blk / 48)

/-- A block is written to its slice: units of 48 bytes at consecutive step rows (R152, R153). -/
def State.putBlock (s : State) (c : CombNo) (o : TileOp) (p : Pattern) (i : Nat) (units : List (List Byte)) : State :=
  (s.setComb (units.zipIdx.foldl (fun (k : Comb) b => putRow k (p.slice i) (p.row i + b.2) o.dom b.1) (s.comb c))).freshRows c
    (p.slice i) fun row => decide (p.row i ≤ row) && decide (row < p.row i + units.length)

/-- Loads the blocks that are left. -/
def loadFrom (c : CombNo) (x : Tensor) (p : Pattern) : Nat → State → TileOp → Went
  | 0, s, o => .ok s o
  | fuel + 1, s, o =>
    let n := p.blk / 48
    match Rd.all (fun j => loadUnit (o.unit s) x (o.step * n + j)) (List.range n) with
    | .held m => .held s o m
    | .behind => .wait s o
    | .bad cause _ l => .bad (s.noteTile o l) o cause
    | .ok units l => loadFrom c x p fuel ((s.noteTile o l).putBlock c o p o.step units) { o with step := o.step + 1 }

/-! ### Completion -/

/-- The last operation of a thread on a comb has completed: a grant that was given up ends, and its slots are freed once it
has quit, or parked where it has left (R161, R164). -/
def Comb.settled (k : Comb) (n : ThreadNo) (ended : Bool) : Comb :=
  let k1 : Comb := { k with grants := k.grants.filter fun g => !(g.thread == n && g.ending) }
  if ended then { k1 with accs := k1.accs.filter (fun a => a.thread != n), parking := k1.parking.filter fun m => m != n }
  else if k1.parking.contains n then k1.park n
  else k1

/-- The operation leaves the queue, and TLO falls (R168). -/
def State.tileDone (s : State) (c : CombNo) (o : TileOp) : State :=
  let k := s.comb c
  let k1 : Comb := { k with queue := k.queue.filter fun p => p.num != o.num }
  let ended := match s.thread? o.thread with
    | none => true
    | some t => t.place == .gone
  let s1 := s.setComb (if (k1.tilesOf o.thread).isEmpty then k1.settled o.thread ended else k1)
  if o.counted then s1.modThread o.thread fun t => { t with tlo := t.tlo - 1 } else s1

/-- R170: ERR and ECAUSE of the slots. -/
def Comb.slotError (k : Comb) (o : TileOp) (cause : Nat) : Comb :=
  { k with accs := k.accs.map fun a =>
      if o.subs.contains a.sub && o.slots.contains a.n then { a with err := true, ecause := BitVec.ofNat 3 cause } else a }

/-- R166: BERR and BCAUSE of the thread. -/
def Comb.loadError (k : Comb) (n : ThreadNo) (cause : Nat) : Comb :=
  { k with berr := (n, BitVec.ofNat 3 cause) :: k.berr.filter fun b => b.1 != n }

/-- R174: the flags of a drain in st of the issuing thread; one that stands in no slot takes them with its next slot (R15). -/
def State.matrixFlags (s : State) (n : ThreadNo) (f : MFlags) : State :=
  s.modThread n fun t =>
    let up (w : Word) (i : Nat) (b : Bool) : Word := if b then putBit w i true else w
    let set (w : Word) : Word := up (up (up w stMZ f.mz) stMROVF f.mrovf) stMCSAT f.mcsat
    { t with lateFlags := set t.lateFlags }

/-- The operation stays in the queue as it stands. -/
def State.keepTile (s : State) (c : CombNo) (o : TileOp) : State :=
  let k := s.comb c
  s.setComb { k with queue := k.queue.map (fun p => if p.num = o.num then o else p) }

/-- The operation is held for a page (R170). -/
def State.tileHeld (s : State) (c : CombNo) (o : TileOp) (m : Miss) : State :=
  (s.holdPage o.thread o.core m).keepTile c { o with held := Held.add o.held m }

/-- What becomes of an operation that has got so far: `done` ends it, with the cause of an error if there is one. -/
def Went.finish (c : CombNo) (x : Went) (done : State → TileOp → Option Nat → State) : State := match x with
  | .ok s o => done s o none
  | .bad s o cause => done s o (some cause)
  | .held s o m => s.tileHeld c o m
  | .wait s o => s.keepTile c o

/-- R237, R238: the end of a multiply: SEQ rises, and the audit is begun where it is due. -/
def Comb.audited (k : Comb) (o : TileOp) (a b : Tensor) : Comb :=
  let seq := k.seq + 1
  if !(auditDue k seq && family a.fmt != 2) then { k with seq := seq }
  else if k.audit.isSome then { k with seq := seq, skipped := k.skipped + 1 }
  else { k with seq := seq, audit := some (auditBody k.num o a b seq (o.refsBefore (cellsOf k o)) (cellsOf k o)) }

/-- The end of an operation on slots: ERR and ECAUSE where it stopped on an error (R170). -/
def Comb.slotsEnd (k : Comb) (o : TileOp) : Option Nat → Comb
  | none => k
  | some e => k.slotError o e

/-- `mma` and `mmas` (R173, R237). -/
def multiplyDone (s : State) (c : CombNo) (o : TileOp) (a b : Tensor) : State :=
  (runSteps c a b (a.steps - o.step) s o).finish c fun s1 o1 e =>
    (s1.setComb (((s1.comb c).audited o1 a b).slotsEnd o1 e)).tileDone c o1

/-- `mdrain` (R174). -/
def drainDone (s : State) (c : CombNo) (o : TileOp) (x : Tensor) (mode fc : BitVec 2) : State :=
  (drainFrom x mode fc (cellsOf (s.comb c) o) (shapeSize o.shape - o.step) s o).finish c fun s1 o1 e =>
    ((s1.setComb ((s1.comb c).slotsEnd o1 e)).matrixFlags o1.thread o1.flags).tileDone c o1

/-- `mbload` (R153). -/
def loadDone (s : State) (c : CombNo) (o : TileOp) (x : Tensor) : State :=
  let p := pattern o.pattern
  (loadFrom c x p (loadBlocks x p - o.step) (s.tagSlices c o) o).finish c fun s1 o1 e =>
    (match e with
      | none => s1
      | some cause => s1.setComb ((s1.comb c).loadError o1.thread cause)).tileDone c o1

/-- `mzero` (R172). -/
def zeroDone (s : State) (c : CombNo) (o : TileOp) : State :=
  let k := s.comb c
  let clear (a : Acc) : Acc :=
    if o.subs.contains a.sub && o.slots.contains a.n then
      { a with elems := List.replicate 256 0, counts := if a.counts.isEmpty then [] else List.replicate 256 (0, 0), err := false
               ecause := 0 }
    else a
  (s.setComb { k with accs := k.accs.map clear }).tileDone c o

/-- R168: a tile operation completes. -/
def State.completeTile (s : State) (c : CombNo) (o : TileOp) : State :=
  match o.instr, o.a, o.b with
  | .mma _ _ _ _ _ _, some a, some b => multiplyDone s c o a b
  | .mmas _ _ _ _ _ _, some a, some b => multiplyDone s c o a b
  | .mdrain _ _ _ _ m f _ _, some x, _ => drainDone s c o x m f
  | .mbload _ _ _, some x, _ => loadDone s c o x
  | _, _, _ => zeroDone s c o

/-! ### The events -/

/-- R159, R160, R168, R169: the operation may start: earlier operations of its sub-arrays and earlier accesses of its
thread are over, and its thread holds the sub-arrays, or has given them up with the operation in flight (R161). -/
def Comb.mayStart (k : Comb) (reqs : List Req) (before : List TileOp) (o : TileOp) : Bool :=
  !o.started && !(reqs.any fun r => r.thread == o.thread) && !(before.any fun p => p.subs.any fun q => o.subs.contains q) &&
    ((k.grants.any fun g => g.thread == o.thread && (g.whole || o.subs == [g.quarter])) ||
      !(k.requests.any fun r => r.thread == o.thread))

/-- The first operation of a queue that may start. -/
def Comb.startFrom (k : Comb) (reqs : List Req) : List TileOp → List TileOp → Option TileOp
  | _, [] => none
  | before, o :: r => if k.mayStart reqs before o then some o else k.startFrom reqs (before ++ [o]) r

/-- R168: a tile operation starts once all its sub-arrays are free. -/
def execTileOperationStart (c : CombNo) (s : State) : Out1 :=
  let k := s.comb c
  match k.startFrom s.reqs [] k.queue with
  | none => .next s
  | some o => .next (s.setComb { k with queue := k.queue.map fun p => if p.num = o.num then { o with started := true } else p })

/-- R168, R170: a tile operation that has started completes, unless it is held for a page. -/
def execTileOperationComplete (c : CombNo) (s : State) : Out1 :=
  match (s.comb c).queue.find? fun o => o.started && !Held.waits s o.held with
  | none => .next s
  | some o => .next (s.completeTile c o)

/-- R238, R239: the audit unit posts its record. -/
def execAudit (c : CombNo) (s : State) : Out1 :=
  let k := s.comb c
  match k.audit with
  | none => .next s
  | some j =>
    let s1 := s.setComb { k with audit := none, skipped := 0 }
    .next (s1.telemetry 1 [j.d2, j.d3, j.d4 ||| BitVec.ofNat 64 (min k.skipped 65535), j.d5])

end Sys2Proof.Machine
end

