-- ==== Sys2Proof/Machine/Bank.lean ====
section
/-! DEFINITION. What happens to accesses after their words have retired: service at a bank port or slice
(13_execution.md R284, 14_memory_hierarchy.md R302, 11_memory_model.md R257), completion and return
(05_memory_sync.md R102 to R105), the scrubber (14 R307), and the ends of waits on a word, on time and on the
normaliser (05 R113, R122, 04_control_integer.md R98). -/

namespace Sys2Proof.Machine

/-! ### Acting for another thread -/

/-- Does something as the thread with a number, then takes the thread in hand up again. -/
def State.asThread (s : State) (n : ThreadNo) (f : State → State) : State :=
  (f (s.focus n)).focus s.cur.num

/-! ### Plain accesses -/

/-- The thread's wait ends in a cycle: its slot is ready from the next one on (R281). -/
def Thread.rejoins (t : Thread) (now : Word) : Thread := { t with wait := none, rejoin := some now }

/-- R103: a plain access completes and its bundle retires: the slot rejoins, or its thread leaves, unless what has happened
meanwhile refuses the move (R115). -/
def execPlainAccessComplete (n : ThreadNo) (s : State) : Out1 :=
  .next (s.modThread n fun t =>
    if t.wait = some .access then
      (if t.leaving.any fun l => s.mayMove t l.1 then { t with wait := some .leaving }
       else { t.rejoins s.cyc with leaving := none })
    else t)

/-! ### Service at a home -/

/-- The source of a request's events (R257). -/
def Req.source (q : Req) : Source := { core := q.core, slot := q.slot.toNat, thread := q.thread }

/-- Logs a request: its own bytes, as one part where the access has two (R257). -/
def State.traceReq (s : State) (q : Req) (kind : Nat) : State :=
  s.trace q.source kind q.phys (q.phys.length != q.whole.length)

/-- R100: what the other part of an access, still to be performed, will find of this one. -/
def Req.join (q : Req) (got : List (Nat × Byte)) (bad : Bool) (fixed : Nat) : Req :=
  { q with got := q.got ++ got, bad := q.bad || bad, fixed := q.fixed + fixed }

/-- The bytes of an access from those of its parts, all ones where a granule is damaged (R104). -/
def Req.value (q : Req) : Word :=
  leWord ((List.range q.whole.length).map fun i => if q.bad then 0xFF else (q.got.lookup i).getD 0)

/-- A whole access has been performed: its answer is on the way, an uncorrectable error is reported (R104). -/
def State.answer (s : State) (q : Req) (isLoad : Bool) (w : Option (XReg × Word × Bool)) : State :=
  let s1 : State := { s with rets := s.rets ++ [{ thread := q.thread, isLoad := isLoad, write := w, phys := q.whole }] }
  let s2 := if q.bad then s1.memoryError q.thread q.dom q.va else s1
  s2.modThread q.thread fun t => t.event 14 q.fixed

/-- A part of a load or store has been performed: the other part is told, or the access is complete (R100). -/
def State.partDone (s : State) (q : Req) (isLoad : Bool) (w : Req → Option (XReg × Word × Bool)) : State :=
  match s.reqs.find? fun r => r.num == q.num && r.thread == q.thread with
  | some r => { s with reqs := s.reqs.map fun u => if u = r then r.join q.got q.bad q.fixed else u }
  | none => s.answer q isLoad (w q)

/-- A request's bytes are read (R241, R104). -/
def State.readReq (s : State) (q : Req) : Req × State :=
  let (s1, bad, fixed) := s.eccRead q.phys
  (q.join ((List.range q.phys.length).map (q.off + ·) |>.zip (q.phys.map (memGet s.mem))) bad fixed, (s1.touch q.phys).traceReq q 0)

/-- What a request gives back (R102, R104, R109). -/
def State.perform (s : State) (q : Req) : State :=
  let s0 : State := { s with reqs := s.reqs.erase q }
  match q.kind with
  | .load sgn bytes =>
    let (r, s1) := s0.readReq q
    s1.partDone r true fun r => some (r.dest, extendLoad sgn bytes r.value, false)
  | .ldc =>
    let (r, s1) := s0.readReq q
    s1.partDone r true fun r => some (r.dest, r.value, true)
  | .store bytes data =>
    let (bad, s1) := s0.storeCells q.phys (((wordBytes data bytes).drop q.off).take q.phys.length)
    let s2 := if bad then s1 else ((s1.touch q.phys).traceReq q 1).hitWatches q.phys
    s2.partDone (q.join [] bad 0) false fun _ => none
  | .atomic op _ operand expect =>
    let (old, bad, fixed, s1) := s0.atomicAt q.source q.phys op operand expect
    s1.answer (q.join [] bad fixed) false (some (q.dest, old, false))

/-- R284, R302: a home serves a request. At a slice, a request for a line that is absent starts a fill and waits. Where the
source that is next has a plain access first, its bundle performs it (`State.retest`). -/
def execBankPortService (h : Home) (s : State) : Out1 :=
  match s.nextSource h with
  | none => .next s
  | some (c, n) =>
    let s1 : State := { s with served := (h, c, n) :: s.served.filter fun v => v.1 != h }
    match (s.servable h).find? fun q => q.core.toNat == c with
    | none => .next s
    | some q =>
      match h with
      | .bank _ => .next (s1.perform q)
      | .slice f =>
        if s1.lines.contains (f, q.line) then .next (s1.perform q)
        else .next { s with fills := s.fills ++ [(f, q.line)] }

/-- What has waited for a line is performed in order of arrival, up to the first plain access of a bundle in hand. -/
def State.performFirst (s : State) (f : BitVec 5) : Nat → State
  | 0 => s
  | fuel + 1 =>
    match s.servedFirst (.slice f) with
    | none => s
    | some (n, c) =>
      match (s.servable (.slice f)).find? fun q => q.core == c && q.num == n with
      | none => s
      | some q => ((s.perform q).tookTurn c.toNat (.slice f)).performFirst f fuel

/-- A number above those of everything that has been sent. -/
def State.nextNumber (s : State) : Nat := (s.reqs.map Req.num).foldl (fun m n => max m (n + 1)) s.stamp

/-- R302: a fill completes: the requests that wait for the line are served first, in their order of arrival. -/
def execSliceFill (f : BitVec 5) (line : Nat) (s : State) : Out1 :=
  if s.fills.contains (f, line) then
    let s1 : State := { s with
      fills := s.fills.erase (f, line), lines := touchLine s.lines f line
      firsts := (f, line, s.nextNumber) :: s.firsts.filter fun l => !(l.1 == f && l.2.1 == line) }
    .next (s1.performFirst f s1.reqs.length)
  else .next s

/-- R305, R307: the scrubber reads a granule in a port cycle in which no source has a request: a single-bit error is
repaired, an uncorrectable one logged. -/
def execScrub (granule : Nat) (s : State) : Out1 :=
  if present granule && (s.queueAt (homeOf granule)).isEmpty then
    let seen (d : Damage) : Damage := if d.spot.holds granule then { d with scrubbed := s.cyc } else d
    .next (({ s with damage := s.damage.map seen } : State).eccRead [granule]).1
  else .next s

/-! ### Returns -/

/-- R105: data of a relaxed load return to the thread: register, taint, pending mark, LDO. -/
def State.deliver (s : State) (r : Ret) : State :=
  let s1 : State := { s with rets := s.rets.erase r }
  let s2 := match r.write with
    | none => s1
    | some (d, v, t) => (s1.modThread r.thread fun u => { u with pend := u.pend &&& ~~~(1#16 <<< d.toNat) }).asThread
        r.thread fun s => s.setX d v t
  s2.modThread r.thread fun t => if r.isLoad then { t with ldo := t.ldo - 1 } else { t with sto := t.sto - 1 }

/-- R105: a relaxed load returns. -/
def execRelaxedLoadReturn (n : ThreadNo) (s : State) : Out1 :=
  match s.rets.find? fun r => r.thread == n && r.isLoad with
  | none => .next s
  | some r => .next (s.deliver r)

/-- R105: a relaxed store or atomic is acknowledged. -/
def execRelaxedStorePerformed (n : ThreadNo) (s : State) : Out1 :=
  match s.rets.find? fun r => r.thread == n && !r.isLoad with
  | none => .next s
  | some r => .next (s.deliver r)

/-! ### Ends of waits -/

/-- R98: the normaliser has served the first request of a core. -/
def execNormaliserServiceEnd (c : CoreNo) (s : State) : Out1 :=
  let k := s.core c
  match k.norm with
  | [] => .next s
  | n :: r => .next ((s.setCore { k with norm := r }).modThread n fun t =>
      if t.norm then { t with norm := false, rejoin := some s.cyc } else t)

/-- R113, R328: a write has changed the watched word: the bundle of the thread retires. -/
def execWchgWake (n : ThreadNo) (s : State) : Out1 :=
  if s.watches.any fun w => w.thread == n && w.hit then
    .next (s.modThread n fun t =>
      match t.wait with
      | some (.watch _) => t.retests
      | _ => t)
  else .next s

/-- R113: without a watch entry, the thread reads the word again. -/
def execWchgPoll (n : ThreadNo) (s : State) : Out1 :=
  .next (s.modThread n fun t =>
    match t.wait with
    | some (.poll _) => t.retests
    | _ => t)

/-- R122: the promised cycle has come. -/
def execNapWake (n : ThreadNo) (s : State) : Out1 :=
  .next (s.modThread n fun t =>
    match t.wait with
    | some (.sleep u) => if u.toNat ≤ s.cyc.toNat then t.retests else t
    | _ => t)

end Sys2Proof.Machine
end

