-- ==== Sys2Proof/Machine/Control.lean ====
section
/-! DEFINITION. Control flow, compares and predicates (04_control_integer.md R70 to R79), waiting for time (05_memory_sync.md
R121, R122), `yield`, `trap`, `brk` and `tret` (09_gates_system.md R215, R218, R221). -/

namespace Sys2Proof.Machine

/-- R74: changes nothing, whatever its guard. -/
def execNop (_g : KReg) (s : State) : Out1 := finish s (.done s)

/-- R72: a transfer to a register value, `link` for `callx`. -/
def transfer (s : State) (t : Word) (link : Bool) : Res :=
  if t.extractLsb' 0 2 ≠ 0#2 then .trap .align t
  else if link then destX s 15 s.nextPc fun s1 => .jump t (s1.setX 15 s.nextPc false)
  else .jump t s

/-- R72: returns to the address in x15. -/
def execRet (g : KReg) (s : State) : Out1 := finish s (guarded s g (useX s 15 fun t _ s1 => transfer s1 t false))

/-- R72: transfers to x(a). -/
def execJx (g : KReg) (a : XReg) (s : State) : Out1 :=
  finish s (guarded s g (useX s a fun t _ s1 => transfer s1 t false))

/-- R72: transfers to x(a), the link in x15. -/
def execCallx (g : KReg) (a : XReg) (s : State) : Out1 :=
  finish s (guarded s g (useX s a fun t _ s1 => transfer s1 t true))

/-- R71: whether a CB word is taken. -/
def taken (s : State) (g : KReg) (n : BitVec 1) : Bool := s.rd.pred g != (n == 1#1)

/-- R71: branches when k(g) XOR n. -/
def execB (g : KReg) (n : BitVec 1) (f : BitVec 20) (s : State) : Out1 :=
  finish s (if taken s g n then .jump (s.cur.pc + byteOffset f) s else .done s)

/-- R71: as `b`, with the link in x15 when taken. -/
def execCall (g : KReg) (n : BitVec 1) (f : BitVec 20) (s : State) : Out1 :=
  finish s (if taken s g n then
      destX s 15 s.nextPc fun s1 => .jump (s.cur.pc + byteOffset f) (s1.setX 15 s.nextPc false)
    else .done s)

/-- R73: decrements x(d) and branches while it is not 0; the taint is kept. -/
def execLoop (g : KReg) (d : XReg) (i : BitVec 13) (s : State) : Out1 :=
  finish s (guarded s g (legal s [d] [d] (useX s d fun x t s1 => destX s1 d (x - 1) fun s2 =>
    let s3 := s2.setX d (x - 1) t
    if x - 1 ≠ 0 then .jump (s.cur.pc + byteOffset i) s3 else .done s3)))

/-- R122: sleeps to the promised cycle, then traps while a copy with the tag is outstanding. -/
def execNap (g : KReg) (a : XReg) (s : State) : Out1 :=
  finish s (guarded s g (useX s a fun w _ s1 =>
    let until_ := w &&& ~~~0xFF#64
    if s1.cyc.toNat < until_.toNat then .park (.sleep until_) s1
    else if s1.myCopies.any (fun c => c.tag == w.extractLsb' 0 8) then
      .trap .promise w
    else .done s1))

/-- R121: the apiary cycle counter, untainted. -/
def execRdcyc (g : KReg) (d : XReg) (s : State) : Out1 := finish s (guarded s g (putX s d s.cyc false))

/-- R221: leaves the trap handler. -/
def execTret (g : KReg) (s : State) : Out1 := finish s (guarded s g (trapReturn s))

/-- Compute slots of a core that are in rotation (R215): they hold a thread that waits under no rule
of R281's list. -/
def State.rotation (s : State) (c : CoreNo) : BitVec 16 :=
  s.threads.foldl (fun m t =>
    if t.inSlot && t.core == c && t.wait.isNone && !t.norm then m ||| (1#16 <<< t.slotNo.toNat) else m) 0

/-- R215: retires; the slot does not issue again until every other slot in rotation has issued or left rotation. With a
handover pending, the slot is handed over at once, unless its thread's gate defers that (R315). -/
def execYield (g : KReg) (s : State) : Out1 :=
  finish s (guarded s g (
    let k := s.core s.cur.core
    let n := s.cur.slotNo
    let others := s.rotation s.cur.core &&& ~~~(1#16 <<< n.toNat)
    let k1 := { k with yields := (n, others) :: k.yields.filter (fun y => y.1 != n) }
    .done (s.setCore (match k.nextVd with
      | some v => if s.deferred s.cur then k1 else k1.handOver v n s.cyc
      | none => k1))))

/-- R218: retires and then raises SOFT. -/
def execTrap (g : KReg) (i : BitVec 13) (s : State) : Out1 :=
  finish s (guarded s g (.after .soft (i.setWidth 64)))

/-- R218: raises BRK without retiring. -/
def execBrk (g : KReg) (i : BitVec 13) (s : State) : Out1 := finish s (guarded s g (.trap .brk (i.setWidth 64)))

/-! ### Compares (R76 to R78) and predicates (R79) -/

/-- R76: the conditions of `cmp` by fn code. -/
def condition (fn : Nat) (a b : Word) : Bool :=
  match fn with
  | 0 => a == b
  | 1 => a != b
  | 2 => decide (a.toInt < b.toInt)
  | 3 => decide (a.toInt ≤ b.toInt)
  | 4 => decide (b.toInt < a.toInt)
  | 5 => decide (b.toInt ≤ a.toInt)
  | 6 => decide (a.toNat < b.toNat)
  | 7 => decide (a.toNat ≤ b.toNat)
  | 8 => decide (b.toNat < a.toNat)
  | 9 => decide (b.toNat ≤ a.toNat)
  | _ => a &&& b != 0

/-- R76: compares two registers. -/
def execCmp (g : KReg) (k : KReg) (a b : XReg) (f : BitVec 10) (s : State) : Out1 :=
  compare s g k a b (condition f.toNat)

/-- R78: compares two F32 values; NV may be set. -/
def execFcmp (g : KReg) (k : KReg) (a b : XReg) (f : BitVec 10) (s : State) : Out1 :=
  finish s (guarded s g (legal s [a, b] [] (useXX s a b fun x y _ s1 =>
    let r := s.rd.fcmp f.toNat x y
    putK (s1.raise r.2) k r.1)))

/-- R77: compares with an immediate, by the fn code of the condition in R76. -/
def compareImm (s : State) (g : KReg) (k : KReg) (a : XReg) (i : BitVec 10) (fn : Nat) : Out1 :=
  finish s (guarded s g (useX s a fun x _ s1 => putK s1 k (condition fn x (i.signExtend 64))))

/-- R77: equal. -/
def execCmpiEq (g : KReg) (k : KReg) (a : XReg) (i : BitVec 10) (s : State) : Out1 := compareImm s g k a i 0
/-- R77: not equal. -/
def execCmpiNe (g : KReg) (k : KReg) (a : XReg) (i : BitVec 10) (s : State) : Out1 := compareImm s g k a i 1
/-- R77: signed less. -/
def execCmpiLt (g : KReg) (k : KReg) (a : XReg) (i : BitVec 10) (s : State) : Out1 := compareImm s g k a i 2
/-- R77: signed less or equal. -/
def execCmpiLe (g : KReg) (k : KReg) (a : XReg) (i : BitVec 10) (s : State) : Out1 := compareImm s g k a i 3
/-- R77: signed greater. -/
def execCmpiGt (g : KReg) (k : KReg) (a : XReg) (i : BitVec 10) (s : State) : Out1 := compareImm s g k a i 4
/-- R77: signed greater or equal. -/
def execCmpiGe (g : KReg) (k : KReg) (a : XReg) (i : BitVec 10) (s : State) : Out1 := compareImm s g k a i 5
/-- R77: natural less. -/
def execCmpiLtN (g : KReg) (k : KReg) (a : XReg) (i : BitVec 10) (s : State) : Out1 := compareImm s g k a i 6
/-- R77: natural greater or equal. -/
def execCmpiGeN (g : KReg) (k : KReg) (a : XReg) (i : BitVec 10) (s : State) : Out1 := compareImm s g k a i 9

/-- R79: AND. -/
def execPand (g k a b : KReg) (s : State) : Out1 := predicates s g k fun t => t.pred a && t.pred b
/-- R79: OR. -/
def execPor (g k a b : KReg) (s : State) : Out1 := predicates s g k fun t => t.pred a || t.pred b
/-- R79: XOR. -/
def execPxor (g k a b : KReg) (s : State) : Out1 := predicates s g k fun t => t.pred a != t.pred b
/-- R79: NOT. -/
def execPnot (g k a : KReg) (s : State) : Out1 := predicates s g k fun t => !t.pred a
/-- R79: copy. -/
def execPmov (g k a : KReg) (s : State) : Out1 := predicates s g k fun t => t.pred a
/-- R79: selects by kc. -/
def execPsel (g k a b c : KReg) (s : State) : Out1 :=
  predicates s g k fun t => if t.pred c then t.pred a else t.pred b

end Sys2Proof.Machine
end

