-- ==== Sys2Proof/Machine/Copy.lean ====
section
/-! DEFINITION. Copies (08_engines_keyed.md R177 to R189): the copy words, their acceptance by the forager slot and what
the engine does when a command completes. A command moves its chunks when it completes; one that has to wait goes on later from the
chunk at which it stopped. -/

namespace Sys2Proof.Machine

/-! ### The words -/

/-- The promise word of an end (R185). -/
def promiseWord (e : Word) (tag : BitVec 8) : Word := (((e + 255) &&& ~~~0xFF#64)) ||| tag.setWidth 64

/-- R180: a copy word of operation `op`. -/
def copyWord (op : BitVec 3) (g : KReg) (d a b : XReg) (p m c : BitVec 1) (s : State) : Out1 :=
  finish s (guarded s g (legal s (if c = 1#1 then [a, b] else [a]) (if p = 1#1 then [d] else []) (
    useX s a fun va ta s1 =>
    (fun (k : Option Word → Bool → State → Res) =>
      if c = 1#1 then useX s1 b fun v tb s2 => k (some v) (ta || tb) s2 else k none ta s1) fun bar tnt s2 =>
    if copyWaits (s2.core s2.cur.core) s2.cur (m == 1#1) then .wait
    else if va.extractLsb' 0 6 ≠ 0#6 then .trap .align va
    else access s2 .read va 64 fun ps s3 =>
      let (block, s4) := s3.readDwords va ps
      let enter (s5 : State) : Res :=
        let cmd : Copy := { op := op, thread := s5.cur.num, dom := s5.cur.dom, block := block, post := m == 1#1
                            barrier := bar, estimate := 0 }
        let at_ := s5.cyc + BitVec.ofNat 64 (4 + latencyMax s5.cur.core ps)
        let (e, s6) := match cmd.estimateFrom s5 (s5.core s5.cur.core) s5.cur at_ with
          | some e => (e, s5)
          | none => s5.freeVal
        let go (s7 : State) : State := ((s7.enterCopy { cmd with estimate := e }).countEv 8 1).inFlight
        if p = 1#1 then
          let w := promiseWord e cmd.tag
          destX s6 d w fun s7 => .done (go (s7.setX d w tnt))
        else .done (go s6)
      match bar with
      | none => enter s4
      | some w => if w.toNat % 8 ≠ 0 then .trap .align w else checked s4 .write w 8 fun _ s5 => enter s5)))

/-- R178, R182. -/
def execXcopy (g : KReg) (d a b : XReg) (p m c : BitVec 1) (s : State) : Out1 := copyWord 0 g d a b p m c s
/-- R178, R182. -/
def execXcopyv (g : KReg) (d a b : XReg) (p m c : BitVec 1) (s : State) : Out1 := copyWord 1 g d a b p m c s
/-- R178, R182. -/
def execXgather (g : KReg) (d a b : XReg) (p m c : BitVec 1) (s : State) : Out1 := copyWord 2 g d a b p m c s
/-- R178, R182. -/
def execXscatter (g : KReg) (d a b : XReg) (p m c : BitVec 1) (s : State) : Out1 := copyWord 3 g d a b p m c s
/-- R178, R182. -/
def execXfill (g : KReg) (d a b : XReg) (p m c : BitVec 1) (s : State) : Out1 := copyWord 4 g d a b p m c s
/-- R178, R182. -/
def execXdeal (g : KReg) (d a b : XReg) (p m c : BitVec 1) (s : State) : Out1 := copyWord 5 g d a b p m c s

/-! ### Acceptance (R181, R188) -/

/-- R181, R282: the forager slot takes a turn and accepts the head command once the engine is free. DESC is found here,
before any access (R183); a command that meets an uncorrectable error in the input FIFO ends with STATUS 7 (R183, R305; DESIGN
CHOICE, log entry 81). -/
def execForagerAccept (c : CoreNo) (s : State) : Out1 :=
  let k := s.core c
  match k.engine, k.fifo with
  | none, h :: r =>
    let (s1, bad, fixed) := s.meetEntry (.fifo c)
    let s2 := s1.modThread h.thread fun t => t.event 14 fixed
    .next (s2.setCore { s2.core c with
      engine := some { h with desc := h.bad s, ending := if bad then some (causeECC, 0) else none }
      fifo := r, lastForager := some s.cyc, lastTurn := some s.cyc })
  | _, _ => .next s

/-! ### What a command does

A command moves its chunks in order. What it has done stands in its record, so that one that must wait goes on from the chunk
at which it stopped (R181). -/

/-- Where a command stands: it has got this far; its end by an error; what it waits for: a page, or its turn at a home (R284)
or room at its port (R192). -/
inductive Moved where
  | ok (s : State) (c : Copy)
  | bad (s : State) (c : Copy) (status : Nat) (info : Word)
  | held (s : State) (c : Copy) (m : Miss)
  | wait (s : State) (c : Copy)

/-- What follows where a command has got this far. -/
def Moved.andThen (x : Moved) (f : State → Copy → Moved) : Moved := match x with
  | .ok s c => f s c
  | e => e

/-- A chunk as a whole: one that has to wait has not begun (R181). -/
def Moved.whole (s : State) (c : Copy) : Moved → Moved
  | .held _ _ m => .held s c m
  | .wait _ _ => .wait s c
  | x => x

/-- Splits bytes into runs of consecutive addresses. -/
def runs {α : Type} (l : List (Word × α)) : List (Word × List α) :=
  l.foldr (fun (x : Word × α) (acc : List (Word × List α)) => match acc with
    | (a, ps) :: r => if x.1 + 1 = a then (x.1, x.2 :: ps) :: r else (x.1, [x.2]) :: (a, ps) :: r
    | [] => [(x.1, [x.2])]) []

/-- The lowest failing address of some checks, with its cause; or a page that is waited for; or all addresses. -/
def checkBytes (f : Word → Eng) : List Word → Eng
  | [] => .ok []
  | a :: r =>
    match f a, checkBytes f r with
    | .held m, _ => .held m
    | .bad c v, .bad c' v' => if v.toNat ≤ v'.toNat then .bad c v else .bad c' v'
    | .bad c v, _ => .bad c v
    | .ok _, .bad c v => .bad c v
    | .ok _, .held m => .held m
    | .ok p, .ok ps => .ok (p ++ ps)

/-- The source of a command's events at ports (R257). -/
def Copy.source (k : CoreNo) (c : Copy) : Source := { core := k, slot := 16, thread := c.thread }

/-- An access of `n` bytes in the domain of the command. -/
def Copy.check (s : State) (k : CoreNo) (c : Copy) (acc : Acc1) (a : Word) (n : Nat) : Eng :=
  engineAccess s k c.thread c.dom c.held acc a n

/-- One byte's checks in the domain of the command. -/
def Copy.byteCheck (s : State) (k : CoreNo) (c : Copy) (acc : Acc1) (a : Word) : Eng :=
  match c.check s k acc a 1 with
  | .ok ps => if acc == .read && s.fatalAt ps then .bad causeECC a else .ok ps
  | e => e

/-- An access goes on once its checks have passed and nothing stands ahead of it (R284, R327); its pages are used (R365). -/
def Copy.access (s : State) (k : CoreNo) (c : Copy) (acc : Acc1) (vas : List Word) (x : Eng)
    (go : List Nat → State → Moved) : Moved :=
  match x with
  | .held m => .held s c m
  | .bad cause v => .bad s c cause v
  | .ok ps => if s.engineBehind k ps then .wait s c
    else go ps (s.useTr k c.thread c.dom acc (vas.map fun a => (a, 1)))

/-- Reads the source bytes of a chunk, one event at each home (R240). -/
def Copy.readChunk (s : State) (k : CoreNo) (c : Copy) (vas : List Word) (cont : List Byte → State → Moved) : Moved :=
  c.access s k .read vas (checkBytes (c.byteCheck s k .read) vas) fun ps s1 =>
    cont (ps.map (memGet s.mem)) (s1.noteReads (c.source k) 5 [((vas.headD 0).toNat, ps)])

/-- The lowest of some addresses. -/
def lowestVa : List Word → Word
  | [] => 0
  | [a] => a
  | a :: r => let b := lowestVa r
    if a.toNat ≤ b.toNat then a else b

/-- The addresses of a write that damaged granules hold back (R306). -/
def State.heldBack (s : State) (vas : List Word) (ps : List Nat) : List Word :=
  ((vas.zip ps).filter fun x => !s.writable ps x.2).map Prod.fst

/-- Writes the bytes of a chunk, all or none: one event at each home (R240). -/
def Copy.writeChunk (s : State) (k : CoreNo) (c : Copy) (bytes : List (Word × Byte)) : Moved :=
  let vas := bytes.map Prod.fst
  c.access s k .write vas (checkBytes (c.byteCheck s k .write) vas) fun ps s1 =>
    let (damaged, s2) := s1.writeBytes (c.source k) 4 (vas.headD 0).toNat ps (bytes.map Prod.snd)
    if damaged then .bad s2 c causeECC (lowestVa (s.heldBack vas ps))
    else .ok s2 { c with chunk := c.chunk + 1, bytes := c.bytes + bytes.length }

/-- Addresses and bytes of a chunk from its moves, `src` the bytes read for those with a source. -/
def chunkBytes (fill : Nat → Byte) : List ((Option Word × Word) × Nat) → List Byte → List (Word × Byte)
  | [], _ => []
  | ((none, d), i) :: r, bs => (d, fill i) :: chunkBytes fill r bs
  | ((some _, d), _) :: r, bs => (d, bs.headD 0) :: chunkBytes fill r (bs.drop 1)

/-- The byte that a move without a source writes: of a fill, or a zero. -/
def Copy.fillByte (c : Copy) (i : Nat) : Byte := if c.op = 4 then c.aux.extractLsb' (8 * (i % 8)) 8 else 0

/-- Moves chunks in order, each read before it is written (R181). -/
def moveChunks (k : CoreNo) : List (List ((Option Word × Word) × Nat)) → State → Copy → Moved
  | [], s, c => .ok s c
  | ch :: r, s, c =>
    ((c.readChunk s k (ch.filterMap fun m => m.1.1) fun bs s1 => c.writeChunk s1 k (chunkBytes c.fillByte ch bs)).whole s c).andThen
      (moveChunks k r)

/-- Reads chunks into the command's buffer. -/
def readAll (k : CoreNo) : List (List Word) → State → Copy → Moved
  | [], s, c => .ok s c
  | ch :: r, s, c => c.readChunk s k ch fun bs s1 => readAll k r s1 { c with buffer := c.buffer ++ bs }

/-- Consecutive addresses. -/
def wordRange (a : Word) (n : Nat) : List Word := (List.range n).map fun i => a + BitVec.ofNat 64 i

/-- Reads what is left of some bytes into the buffer. -/
def fillBuffer (k : CoreNo) (vas : List Word) (s : State) (c : Copy) : Moved :=
  readAll k (chunks (vas.drop c.buffer.length)) s c

/-- R182: `xcopyv`, its source read: at the bank and as one step the version is read, the tile is written and the version
rises. Where a damaged granule holds a write back nothing is written. -/
def Copy.versioned (k : CoreNo) (s : State) (c : Copy) : Moved :=
  let vas := wordRange (c.dw 1 - 8) (8 + c.n0)
  c.access s k .write vas (c.check s k .write (c.dw 1 - 8) (8 + c.n0)) fun ps s1 =>
    if s1.fatalAt (ps.take 8) then .bad (s1.eccRead (ps.take 8)).1 c causeECC (c.dw 1 - 8)
    else
      let s2 := s1.noteReads (c.source k) 5 [((c.dw 1 - 8).toNat, ps.take 8)]
      let v := leWord ((ps.take 8).map (memGet s1.mem))
      if v ≠ c.aux then .bad s2 c 8 v
      else if !(s2.stuck ps).isEmpty then .bad (s2.meet (s2.stuck ps)).1 c causeECC (lowestVa (s2.heldBack vas ps))
      else
        let put (s : State) (x : List Nat × List Byte) : State := (s.writeBytes (c.source k) 4 0 x.1 x.2).2
        let s3 := ((chunks (ps.drop 8)).zip (chunks c.buffer)).foldl put s2
        .ok (put s3 (ps.take 8, wordBytes (c.aux + 1) 8)) { c with bytes := c.n0 }

/-- R184: the transport takes one more chunk, or has failed. -/
def Copy.transport (s : State) (c : Copy) (off : Word) (go : Copy → Moved) : Moved :=
  match c.left with
  | 0 => .bad s c 9 off
  | n + 1 => go { c with left := n }

/-- R184: a remote destination: chunks are sent as long as the transport takes them. -/
def toRemote (k : CoreNo) (e : RemoteEp) : List (List (Word × Word)) → State → Copy → Moved
  | [], s, c => .ok s c
  | ch :: r, s, c =>
    c.transport s ((ch.map Prod.snd).headD 0) fun c1 =>
      ((c1.readChunk s k (ch.map Prod.fst) fun bs s1 =>
        let sent := runs ((ch.map Prod.snd).zip bs)
        .ok { s1 with out := s1.out ++ sent.map fun y => .chunk e.fabric e.endpoint (e.base + y.1) y.2 }
          { c1 with chunk := c1.chunk + 1, bytes := c1.bytes + ch.length }).whole s c).andThen (toRemote k e r)

/-- Bytes that a remote read returns: free values (log entry 2). -/
def remoteBytes (s : State) : Nat → List Byte × State
  | 0 => ([], s)
  | n + 1 =>
    let (v, s1) := s.freeVal
    let (bs, s2) := remoteBytes s1 n
    (v.extractLsb' 0 8 :: bs, s2)

/-- R184: a remote source. -/
def fromRemote (k : CoreNo) : List (List (Word × Word)) → State → Copy → Moved
  | [], s, c => .ok s c
  | ch :: r, s, c =>
    c.transport s ((ch.map Prod.fst).headD 0) fun c1 =>
      let (bs, s1) := remoteBytes s ch.length
      ((c1.writeChunk s1 k ((ch.map Prod.snd).zip bs)).whole s c).andThen (fromRemote k r)

/-- R184: a command with a remote side. How many chunks the transport takes is a free value (log entry 2). An entry that has been
removed or changed since the command was accepted ends it with STATUS 0 and nothing more moved (DESIGN CHOICE, log entry
79). -/
def Copy.remote (k : CoreNo) (s : State) (c : Copy) : Moved :=
  let start : Moved := if c.sending then .ok s c else
    let (v, s1) := s.freeVal
    .ok s1 { c with left := v.toNat, sending := true }
  start.andThen fun s1 c1 =>
    let ch := (chunks (c1.bytesOf c1.rows)).drop c1.chunk
    match c1.remote? s1 with
    | none => .ok s1 c1
    | some e => if c1.rdir = 1 then toRemote k e ch s1 c1 else fromRemote k ch s1 c1

/-- The mask of `xgather` and `xscatter`, once it has been read. -/
def Copy.selects (c : Copy) (r : Nat) : Bool := (c.buffer.getD (r / 8) 0).getLsbD (r % 8)

/-- The operation takes a mask. -/
def Copy.masked (c : Copy) : Bool := c.op == 2#3 || c.op == 3#3

/-- Rows that the mask selects: none of a command that moves nothing, whose mask is not read (DESIGN CHOICE, log entry 79). -/
def Copy.selected (c : Copy) : Nat := if c.count = 0 then 0 else ((List.range c.n1).filter c.selects).length

/-- Elements that the result FIFO can take (R192); no limit once the port is no longer bound, when they are discarded. -/
def State.resultRoom (s : State) (n : ThreadNo) : Option Nat :=
  if s.hasResult n then (s.thread? n).map fun t => 16 - t.result.length else none

/-- R192: as many elements of the chunk in hand as there is room for go to the result port. -/
def Copy.pushElems (s : State) (c : Copy) : State × Copy :=
  let elems := cut 8 c.buffer.length c.buffer
  let n := match s.resultRoom c.thread with
    | none => elems.length
    | some r => min r elems.length
  let put (t : Thread) : Thread := { t with result := t.result ++ (elems.take n).map leWord }
  (if s.hasResult c.thread then s.modThread c.thread put else s, { c with buffer := c.buffer.drop (8 * n), bytes := c.bytes + 8 * n })

/-- R182, R192: a copy to a result port reads a chunk once the elements of the one before have gone. -/
def pushChunks (k : CoreNo) : List (List Word) → State → Copy → Moved
  | l, s, c =>
    let (s1, c1) := c.pushElems s
    if !c1.buffer.isEmpty then .wait s1 c1
    else match l with
      | [] => .ok s1 c1
      | ch :: r => c1.readChunk s1 k ch fun bs s2 => pushChunks k r s2 { c1 with buffer := bs, chunk := c1.chunk + 1 }

/-- R182, R184: what a command whose block is good does, from where it stands, until its data has been moved. -/
def Copy.perform (k : CoreNo) (s : State) (c : Copy) : Moved :=
  if c.count = 0 then .ok s c
  else if c.toPort then pushChunks k ((chunks ((c.bytesOf c.rows).map Prod.fst)).drop c.chunk) s c
  else if c.op = 1 then (fillBuffer k (wordRange (c.dw 0) c.n0) s c).andThen (Copy.versioned k)
  else if c.rdir ≠ 0 then Copy.remote k s c
  else if c.masked then (fillBuffer k (wordRange c.aux ((c.n1 + 7) / 8)) s c).andThen fun s1 c1 =>
    moveChunks k ((chunks (c1.moves c1.selects).zipIdx).drop c1.chunk) s1 c1
  else moveChunks k ((chunks (c.moves fun _ => true).zipIdx).drop c.chunk) s c

/-- R182: the count word of `xgather` and `xscatter`, at x(b) + 8. -/
def Copy.countWord (k : CoreNo) (s : State) (c : Copy) : Moved :=
  match c.masked, c.barrier with
  | true, some b =>
    c.access s k .write (wordRange (b + 8) 8) (c.check s k .write (b + 8) 8) fun ps s1 =>
      let (damaged, s2) := s1.writeBytes (c.source k) 4 (b + 8).toNat ps (wordBytes (BitVec.ofNat 64 c.selected) 8)
      if damaged then .bad s2 c causeECC (b + 8) else .ok s2 c
  | _, _ => .ok s c

/-- R187: the barrier decrement of a command that ends with a status and INFO. -/
def Copy.decrement (k : CoreNo) (s : State) (c : Copy) (status : Nat) (info : Word) : Moved :=
  match c.barrier with
  | none => .bad s c status info
  | some b =>
    let fail (cause : Nat) (s : State) : Moved := if status = 0 then .bad s c cause b else .bad s c status info
    match c.access s k .write (wordRange b 8) (c.check s k .write b 8) fun ps s1 =>
      let (_, damaged, fixed, s2) := (s1.tookTurns k.toNat ps).atomicAt (c.source k) ps 0 (BitVec.allOnes 64) 0
      let s3 := s2.modThread c.thread fun t => t.event 14 fixed
      if damaged then .bad s3 c causeECC b else .ok s3 c with
    | .bad s1 _ cause _ => fail cause s1
    | .ok s1 c1 => .bad s1 c1 status info
    | x => x

/-- R181, R186: the command leaves the engine: CPO falls and its message is posted. -/
def State.copyEnds (s : State) (k : CoreNo) (c : Copy) (status : Nat) (info : Word) : State :=
  let core := s.core k
  let msg : Mail := {
    thread := c.thread, dom := c.dom, header := mailHeader 0 c.dom 1 2 (c.tag.setWidth 12)
    payload := [BitVec.ofNat 64 (status * 2 ^ 56 + c.op.toNat * 2 ^ 53 + c.bytes % 2 ^ 48), info] }
  let s1 := s.setCore { core with
    engine := none, engineFree := some s.cyc, mailbox := if c.post then core.mailbox ++ [msg] else core.mailbox }
  s1.modThread c.thread fun t => { t with cpo := t.cpo - 1 }

/-- The command stays in the engine as it stands. -/
def State.keepCopy (s : State) (k : CoreNo) (c : Copy) : State := s.setCore { s.core k with engine := some c }

/-- The command is held for a page (R181). -/
def State.copyHeld (s : State) (k : CoreNo) (c : Copy) (m : Miss) : State :=
  (s.holdPage c.thread k m).keepCopy k { c with held := Held.add c.held m }

/-- R187: the end of a command with a status: its data and its count word are written, and the decrement alone is left. -/
def State.copyFinish (s : State) (k : CoreNo) (c : Copy) (status : Nat) (info : Word) : State :=
  let c1 := { c with ending := some (status, info) }
  match c1.decrement k s status info with
  | .held s1 c2 m => s1.copyHeld k c2 m
  | .wait s1 c2 | .ok s1 c2 => s1.keepCopy k c2
  | .bad s1 c2 st inf => s1.copyEnds k c2 st inf

/-- R181 to R187: the command in the engine of a core goes on, to its end if nothing holds it. -/
def State.completeCopy (s : State) (k : CoreNo) (c : Copy) : State :=
  match c.ending with
  | some (status, info) => s.copyFinish k c status info
  | none =>
    if c.desc then s.copyFinish k c causeDESC 0
    else match (c.perform k s).andThen (Copy.countWord k) with
      | .held s1 c1 m => s1.copyHeld k c1 m
      | .wait s1 c1 => s1.keepCopy k c1
      | .bad s1 c1 status info => s1.copyFinish k c1 status info
      | .ok s1 c1 => s1.copyFinish k c1 0 (if c1.masked then BitVec.ofNat 64 c1.selected else 0)

/-- The command makes an access. -/
def Copy.accesses (c : Copy) : Bool := c.barrier.isSome || (!c.desc && c.count != 0)

/-- R181: the command in the engine completes, unless it waits for a page, for its turn or for room in the result FIFO. Its first
access comes after every earlier access of its thread (R188). -/
def execCopyComplete (c : CoreNo) (s : State) : Out1 :=
  match (s.core c).engine with
  | none => .next s
  | some e =>
    if Held.waits s e.held then .next s
    else if e.accesses && s.reqs.any fun q => q.thread == e.thread && decide (q.num < e.num) then .next s
    else .next (s.completeCopy c e)

end Sys2Proof.Machine
end

