-- ==== Sys2Proof/Machine/Moves.lean ====
section
/-! DEFINITION. How threads leave and take slots: saving and resuming contexts (22_traps_translation.md R356 to R361), migration
(13_execution.md R286 to R289), the order in which a free slot is filled (R290), thermal displacement (R294, R295) and the
handing over of a shared core (21_launch_queues.md R353). -/

namespace Sys2Proof.Machine

/-! ### Saving a context (R360) -/

/-- R358: an access by the part to a record of a thread has failed: it is killed and NOSAVE is set. -/
def State.lose (s : State) (t : Thread) : State := (s.endThread t.num .killed).vdSticky (s.domain t.dom).vd flagNOSAVE

/-- R360 step 1: what the engine waits for. A request for a spawn or the close of a stage is answered first. -/
def Thread.savable (t : Thread) : Bool :=
  t.inSlot && t.ldo == 0 && t.sto == 0 && !t.vbusy && t.leaving.isNone && !t.norm && t.stands.isNone && !t.halfway &&
  (match t.wait with
    | some .access | some .spawn | some .closing => false
    | _ => true)

/-- The running frame of a context: 24 chunks, or 5 without vector state (R30, R360). -/
def runningFrame (t : Thread) : List Word :=
  frameLow t t.depth.toNat 0 t.pc ++ (if t.vlive then frameHigh t else [])

/-- Bytes of the running frame that are saved and fetched. -/
def Thread.frameBytes (t : Thread) : Nat := if t.vlive then 0x600 else 0x140

/-- A spill-ring position that is not in use (R359). -/
def Vd.freeSpill (v : Vd) : Option Nat := (List.range 4096).find? fun i => !(v.spills.any fun p => p.1 == i)

/-- R359, R360: a context goes from the cache to its save area, and the spill ring gets an entry. None: the ring is
full. A thread without its context block, or whose record cannot be written, is lost (R358). -/
def State.spill (s : State) (c : CoreNo) (n : ThreadNo) : Option State :=
  match s.thread? n with
  | none => some s
  | some t =>
    let v := s.vd t.chgvd
    match v.freeSpill with
    | none => none
    | some i =>
      match t.block? t.dom with
      | none => some (s.lose t)
      | some b =>
        let (bad1, s1) := s.recWrite t b.running (wordsBytes (runningFrame t))
        let (bad2, s2) := s1.recWrite t (v.splbase.toNat + 16 * i) (wordsBytes [n ++ c ++ t.dom ++ 0#10, BitVec.ofNat 64 b.running])
        if bad1 || bad2 then some (s2.lose t)
        else
          let v2 := s2.vd t.chgvd
          let s3 := s2.setVd { v2 with spills := v2.spills ++ [(i, n)] }
          let k := s3.core c
          some ((s3.setCore { k with cache := k.cache.filter (fun m => m != n), spills := k.spills ++ [n] }).modThread n fun t =>
            { t with place := .spilled c })

/-- Puts a thread into the cache of a core, spilling the one that came first when it is full. None: it has no room. -/
def State.intoCache (s : State) (c : CoreNo) (n : ThreadNo) : Option State :=
  let k := s.core c
  let room := if k.cache.length < 32 then some s else s.spill c (k.cache.headD 0)
  room.map fun s1 =>
    let k1 := s1.core c
    (s1.setCore { k1 with cache := k1.cache ++ [n] }).modThread n fun t => { t with place := .cached c }

/-- R164, R168: the thread's operations in flight no longer count, and its slots park. -/
def State.parkAll (s : State) (n : ThreadNo) : State :=
  let s1 := (s.parkAllAccs n).dropLease n
  let quiet (o : TileOp) : TileOp := if o.thread == n then { o with counted := false } else o
  let combs := s1.combs.map fun k => { k with queue := k.queue.map quiet }
  ({ s1 with combs := combs } : State).modThread n fun t => { t with tlo := 0 }

/-- R353, R360, R370: what is left of a wait when its bundle is dropped: it runs again, and an `mlease` gives its intent
anew. A worker without a record waits on (R295), and a refused page raises its fault (R369). -/
def Thread.rerun (t : Thread) : Thread :=
  { t with
    wait := (match t.wait with
      | some .record => some .record
      | some (.refused va) => some (.refused va)
      | _ => none)
    intent := if t.wait = some .lease ∧ t.inHand.isSome then none else t.intent
    inHand := none, stands := none, granted := false }

/-- What the rest of the machine holds for the wait of a bundle that is dropped. -/
def State.dropWait (s : State) (n : ThreadNo) : State :=
  { s with
    watches := s.watches.filter fun w => w.thread != n
    combs := s.combs.map fun k => { k with requests := k.requests.filter fun r => r.thread != n } }

/-! ### Safe points (R273) -/

/-- The mask of the first entry of a safe-point table that names an offset, from entry `i` on. -/
def safeMask (s : State) (c : CombNo) (d : DomNo) (table : Nat) (key : Nat) : Nat → Nat → Option (BitVec 16)
  | 0, _ => none
  | fuel + 1, i =>
    match checkTables s c d (table + 8 * i) 8 .read with
    | .ok ps =>
      let w := leWord (ps.map (memGet s.mem))
      if (w.extractLsb' 32 32).toNat = key then some (w.extractLsb' 16 16) else safeMask s c d table key fuel (i + 1)
    | _ => none

/-- R273: the live mask of the thread's last retired bundle, if its image marks it as a safe point. -/
def State.safePoint (s : State) (t : Thread) : Option (BitVec 16) :=
  (s.domain t.dom).image.bind fun im =>
    safeMask s (combOf t.core) t.dom im.safe.toNat (t.lastPc - im.text).toNat im.safeLen 0

/-- R273, R288: a thread that leaves its slot carries the registers of a live mask; the others are 0. -/
def Thread.carry (t : Thread) (live : BitVec 16) : Thread :=
  { t with x := regFile (fun i => if live.getLsbD i then t.x.toList.getD i 0 else 0), taint := t.taint &&& live }

/-- R32: a thread that leaves its slot keeps its top entry in the hardware page alone. Answers whether it could not be
written (R358). -/
def State.shelveTop (s : State) (t : Thread) : Bool × State :=
  let (bad, s1) := writeHwPage s t
  (bad || (t.depth != 0#4 && t.hwPage.isNone), s1.modThread t.num fun t => { t with top := none })

/-- R360: the engine takes a thread out of its slot into the cache, with the registers of its safe point (R273, log entry
61). None: there is no room for it. -/
def State.saveContext (s : State) (n : ThreadNo) : Option State :=
  match s.thread? n with
  | none => some s
  | some t =>
    let (bad, s1) := s.shelveTop t
    if bad then some (s1.lose t)
    else
      let quietNorm (k : Core) : Core := { k with norm := k.norm.filter fun m => m != n }
      let s2 := (({ s1 with cores := s1.cores.map quietNorm } : State).dropWait n).parkAll n
      ((s2.modThread n fun u => u.rerun.carry ((s.safePoint t).getD 0xFFFF)).intoCache t.core n).map fun s3 => s3.orphanLeaving n

/-- R284, R327: the records that a save writes lie behind what the core has queued: those of the thread, and the frame of the context
that makes room for it. -/
def State.saveBehind (s : State) (c : CoreNo) (t : Thread) : Bool :=
  s.anyBehind t (t.pageRecords t.depth.toNat) || (decide (32 ≤ (s.core c).cache.length) &&
    ((s.thread? ((s.core c).cache.headD 0)).any fun u => s.anyBehind u u.runningRecord))

/-- R353, R295: the thread is to be saved: its slot serves another VD, or is disabled. -/
def State.saveDue (s : State) (t : Thread) : Bool :=
  s.slotVd t.core t.slotNo != some t.chgvd || (s.core t.core).disabled.getLsbD t.slotNo.toNat

/-- What the pre-emption engine of a core has been asked to save and has not yet saved, in the order of request (R360). -/
def State.saveQueue (s : State) (c : CoreNo) : List ThreadNo :=
  (s.core c).saves.filter fun n => (s.thread? n).any fun t => t.inSlot && t.core == c && s.saveDue t && !s.deferred t

/-- R360: a thread joins the queue of its core's engine. -/
def State.askSave (s : State) (c : CoreNo) (n : ThreadNo) : State :=
  s.setCore { s.core c with saves := s.saveQueue c ++ [n] }

/-- R360: the engine's turn at a thread that is to be saved: it asks first; the engine saves one context at a time, in the order of
request, each once its waits are over. None: nothing can happen yet. `saved` is what follows a save. -/
def State.engineTurn (s : State) (c : CoreNo) (t : Thread) (saved : State → State) : State :=
  if !(s.saveQueue c).contains t.num then s.askSave c t.num
  else if (s.saveQueue c).head? != some t.num || !t.savable || s.saveBehind c t then s
  else match s.saveContext t.num with
    | some s1 => saved (s1.setCore { s1.core c with saves := (s1.core c).saves.filter fun n => n != t.num })
    | none => s.saveExhausted t.chgvd c

/-! ### Taking a slot (R288 to R290, R361) -/

/-- R189: the thread's messages move to the core where it resumes. -/
def State.moveMail (s : State) (n : ThreadNo) (c : CoreNo) : State :=
  let mine (k : Core) : List Mail := if k.num = c then [] else k.mailbox.filter fun m => m.thread == n
  let moved := s.cores.flatMap mine
  let strip (k : Core) : Core := if k.num = c then k else { k with mailbox := k.mailbox.filter fun m => m.thread != n }
  let s1 : State := { s with cores := s.cores.map strip }
  let k := s1.core c
  s1.setCore { k with mailbox := k.mailbox ++ moved }

/-- R288: what a migrated thread reads back from the record written when it left. -/
def Thread.landed (t : Thread) (w : Nat → Word) : Thread :=
  { restoreModes t w with st := stDefined (w 2), cb := w 3 }

/-- R361: what a spilled context reads back from its block. -/
def Thread.resumed (t : Thread) (w : Nat → Word) : Thread :=
  let t1 := restoreModes t w
  { (if t.vlive then restoreVector t1 w else t1) with
    pc := w 1 &&& ~~~3#64, st := stDefined (w 2), cb := w 3, pw := (w 4).extractLsb' 0 8 ||| 1, taint := (w 4).extractLsb' 8 16
    x := regFile (fun i => w (8 + i)), ports := framePorts w }

/-- The part reads back the record of R286 step 4, or the running frame of a spilled context, whose entry leaves the spill
ring (R361). Answers whether the access has failed, and what the record gives the thread. -/
def State.readBack (s : State) (t : Thread) : Bool × State × (Thread → Thread) :=
  match t.block? t.dom with
  | none => (true, s, id)
  | some b =>
    match t.place with
    | .arrival _ | .travelling _ =>
      let (bad1, s1) := s.recRead t b.running 0x40
      let (bad2, s2) := s1.recRead t (b.running + 0xC0) 0x80
      (bad1 || bad2, s2, fun u => u.landed (s2.recWord b.running))
    | .spilled _ =>
      let (bad, s1) := s.recRead t b.running t.frameBytes
      let v := s1.vd t.chgvd
      (bad, s1.setVd (v.unspill t.num), fun u => u.resumed (s1.recWord b.running))
    | _ => (false, s, id)

/-- R324: of a thread that must be unwound before its first issue the running frame is not read; the spill ring's entry of
one goes all the same. -/
def State.readBackDue (s : State) (t : Thread) : Bool × State × (Thread → Thread) :=
  if (s.unwindTarget t).isSome then (false, { s with vds := s.vds.map (Vd.unspill t.num) }, id) else s.readBack t

/-- A thread stands in a slot: flags of tile operations that completed meanwhile are set (R15), its messages have moved
(R189), and it issues from the next cycle on. -/
def Thread.seated (t : Thread) (c : CoreNo) (n : SlotNo) (now : Word) : Thread :=
  { t with place := .slot c n, st := t.st ||| t.lateFlags, lateFlags := 0, rejoin := some now }

/-- A thread that stands in no slot takes one: its top entry is read back from the hardware page, then its record. What is
read must be sound (R305, R358). -/
def State.occupy (s : State) (c : CoreNo) (n : SlotNo) (t : Thread) : State :=
  match t.place with
  | .cached _ | .arrival _ | .travelling _ | .spilled _ =>
    let (bad1, s1) := readEntry s t t.depth.toNat
    let (bad2, s2, f) := s1.readBackDue t
    if bad1 || bad2 then s2.lose t
    else
      let top := entryAt s2 t t.depth.toNat
      (s2.modThread t.num fun u => ({ f u with top := top } : Thread).seated c n s.cyc).moveMail t.num c
  | _ => s

/-! ### Starting a thread (R11, R291, R193, R356, R358) -/

/-- What came of starting a thread. -/
inductive Started where
  | ok (s : State)
  /-- It waits for a block, a hardware page or a page reply. -/
  | later (s : State)
  /-- The allocation failed, and the thread was killed before its first issue. -/
  | dead (s : State)

/-- R356: allocation by the part for a thread on a core: the pages that miss are requested, and waited for. -/
def State.allocMiss (s : State) (c : CoreNo) (n : ThreadNo) (ms : List Miss) : State :=
  let s1 := ms.foldl (fun (s : State) m => s.holdPage n c m) s
  { s1 with allocHeld := ms.foldl Held.add s1.allocHeld }

/-- R356: the thread takes a block in a domain; `ok` continues, `full`, `failed` and `later` say what else came of it. -/
inductive Alloc2 where
  | ok (s : State) (t : Thread)
  | full
  | failed (s : State)
  | later (ms : List Miss)

/-- The pages of the block that a thread would take in a domain, in stage 2. -/
def State.blockPages (s : State) (c : CombNo) (t : Thread) (dn : DomNo) : List (VdNo × BitVec 36) :=
  let d := s.domain dn
  if (t.block? dn).isSome then []
  else match lowestFree s d 0 d.svn 0 with
    | none => []
    | some k => trPages s c dn (d.blockVa k) ++ trPages s c dn (d.blockVa k + 65536)

/-- R356: a page of the block has been refused, and the allocation fails. -/
def State.blockRefused (s : State) (l : List (VdNo × BitVec 36)) : State :=
  { s with allocHeld := s.allocHeld.filter fun h => !(h.2.2 && l.contains (h.1, h.2.1)) }

/-- `allocBlock` with page requests answered. -/
def State.takeBlock (s : State) (c : CoreNo) (t : Thread) (dn : DomNo) : Alloc2 :=
  match allocBlock s (combOf c) t dn with
  | .full => .full
  | .failed => .failed s
  | .ok s1 t1 =>
    let ps := if s.allocHeld.isEmpty then [] else s.blockPages (combOf c) t dn
    match Held.undecided s.allocHeld ps with
    | none => .ok s1 t1
    | some (v, p, refused) => if refused then .failed (s.blockRefused ps) else .later [awaited dn v 0 p]
  | .miss ms =>
    let ps := s.blockPages (combOf c) t dn ++ ms.map fun m => (m.vd, m.page)
    match Held.undecided s.allocHeld ps with
    | some (_, _, true) => .failed (s.blockRefused ps)
    | _ => .later ms

/-- R30: a thread number that no thread of the machine has; 0 names none. -/
def State.freshNumber (s : State) : ThreadNo :=
  let used := s.cur.num :: s.others.map Thread.num
  (((List.range (used.length + 2)).map fun i => s.nextThread + BitVec.ofNat 32 i).find? fun n =>
    n != 0 && !used.contains n).getD s.nextThread

/-- A thread starts in a free slot with a state, a number of its own, a hardware page and a context block. -/
def State.startThread (s : State) (c : CoreNo) (n : SlotNo) (t0 : Thread) : Started :=
  let t : Thread := { t0 with num := s.freshNumber, place := .slot c n }
  let dead (s : State) : Started := .dead (({ s with nextThread := t.num + 1 } : State).vdSticky t.vdid flagNOSAVE)
  match allocPage s t t.dom with
  | .full => .later (s.saveExhausted t.vdid c)
  | .failed | .miss _ => dead s
  | .ok s1 t1 =>
    match s1.takeBlock c t1 t.dom with
    | .full => .later (s.saveExhausted t.vdid c)
    | .later ms => .later (s.allocMiss c t.num ms)
    | .failed s2 => dead { s with allocHeld := s2.allocHeld }
    | .ok s2 t2 => .ok { s2 with others := s2.others ++ [t2], nextThread := t.num + 1 }

/-- R11: a thread as a launch request starts it. -/
def LaunchReq.thread (s : State) (c : CoreNo) (r : LaunchReq) : Thread :=
  let d := s.domain r.dom
  { x := regFile (fun i => r.seeds.getD i 0), pc := r.entry &&& ~~~3#64, cb := d.dcb, fmtA := r.fmtA, fmtB := r.fmtB, scA := r.scA
    scB := r.scB, scC := r.scC, dom := r.dom, botdom := r.dom, vdid := d.vd, chgvd := d.vd, pkt := r.pkt, lcore := c
    pvd := r.vd }

/-- R11: a thread as a `spawn` starts it. -/
def SpawnReq.thread (s : State) (r : SpawnReq) : Thread :=
  let d := s.domain r.dom
  { x := regFile (fun i => r.seeds.getD i 0), pc := r.pc, cb := r.cb, st := r.st &&& 0x1F#64, fmtA := r.shadow.1
    fmtB := r.shadow.2.1, scA := r.shadow.2.2.1, scB := r.shadow.2.2.2.1, scC := r.shadow.2.2.2.2, agv := r.agree.1
    agc := r.agree.2.1, cen := r.agree.2.2, dom := r.dom, botdom := r.dom, vdid := d.vd, chgvd := d.vd }

/-- R291: starts one thread of the launch request at a place in a core's table. -/
def State.startLaunch (s : State) (c : CoreNo) (n : SlotNo) (r : LaunchReq) : State :=
  let used (s : State) : State :=
    let k := s.core c
    s.setCore { k with launchTable := (k.launchTable.map fun q => if q = r then { q with left := q.left - 1 } else q).filter fun q =>
      q.left != 0 }
  match s.startThread c n (r.thread s c) with
  | .ok s1 => used s1
  | .later s1 => s1
  | .dead s1 => (used s1).countThread c r.vd r.pkt errKILLED s.cyc

/-- R193: starts the thread of a stored `spawn` request. -/
def State.startSpawn (s : State) (c : CoreNo) (n : SlotNo) (r : SpawnReq) : State :=
  let used (s : State) : State :=
    let k := s.core c
    s.setCore { k with spawnStore := k.spawnStore.erase r }
  match s.startThread c n (r.thread s) with
  | .ok s1 => used s1
  | .later s1 => s1
  | .dead s1 => used s1

/-! ### The order of R290 -/

/-- What a slot takes next. -/
inductive Next1 where
  | arrival (t : Thread)
  | context (t : Thread)
  | launch (r : LaunchReq)
  | spawn (r : SpawnReq)

/-- The first thread of a list of numbers that belongs to a VD. -/
def State.firstOf (s : State) (v : VdNo) (l : List ThreadNo) : Option Thread :=
  l.findSome? fun n => (s.thread? n).filter fun t => t.chgvd == v && t.place != .gone

/-- R290: what a free slot of a core takes. -/
def State.nextFor (s : State) (c : CoreNo) (n : SlotNo) : Option Next1 :=
  let k := s.core c
  if (s.occupant c n).isSome || k.disabled.getLsbD n.toNat then none
  else match s.slotVd c n with
    | none => none
    | some v =>
      match s.firstOf v k.arrivals with
      | some t => some (.arrival t)
      | none => match s.firstOf v k.cache with
        | some t => some (.context t)
        | none => match s.firstOf v k.spills with
          | some t => some (.context t)
          | none =>
            match k.launchTable.find? (fun r => r.vd == v), k.spawnStore.find? (fun r => r.vd == v) with
            | some l, some p => if l.came.toNat ≤ p.came.toNat then some (.launch l) else some (.spawn p)
            | some l, none => some (.launch l)
            | none, some p => some (.spawn p)
            | none, none => none

/-- R289, R290: the free slots that newcomers of a VD may take: those for which nothing waits. -/
def State.openSlots (s : State) (c : CoreNo) (v : VdNo) : List SlotNo :=
  (s.freeSlots c v).filter fun n => (s.nextFor c n).isNone

def State.openSlot (s : State) (c : CoreNo) (v : VdNo) : Option SlotNo := (s.openSlots c v).head?

/-- R284, R327: what is read back for a thread lies behind what its core has queued. -/
def State.resumeBehind (s : State) (t : Thread) : Bool := s.anyBehind t (t.pageRecords t.depth.toNat ++ t.runningRecord)

/-- A thread leaves the lists of a core and takes a slot. -/
def State.takeFrom (s : State) (c : CoreNo) (n : SlotNo) (t : Thread) : State :=
  let k := s.core c
  if s.resumeBehind t then s
  else (s.setCore { k with
    arrivals := k.arrivals.filter (fun m => m != t.num), cache := k.cache.filter (fun m => m != t.num)
    spills := k.spills.filter (fun m => m != t.num) }).occupy c n t

/-- R290: a slot that is free takes the first of what waits for it. -/
def execSlotFill (c : CoreNo) (n : SlotNo) (s : State) : Out1 :=
  match s.nextFor c n with
  | none => .next s
  | some (.arrival t) => .next (s.takeFrom c n t)
  | some (.context t) => .next (s.takeFrom c n t)
  | some (.launch r) => .next (s.startLaunch c n r)
  | some (.spawn r) => .next (s.startSpawn c n r)

/-- R361: a context resumes when it is the first of what waits for the slot. -/
def execContextResume (c : CoreNo) (n : SlotNo) (s : State) : Out1 :=
  match s.nextFor c n with
  | some (.context t) => .next (s.takeFrom c n t)
  | _ => .next s

/-! ### Migration (R286 to R289) -/

/-- R286: the thread leaves its slot for another core: the record of its modes is written, the registers that are not
live are gone, and the message travels. -/
def State.depart (s : State) (t : Thread) (target : CoreNo) : State :=
  match t.block? t.dom with
  | none => s.lose t
  | some b =>
    let live := (s.safePoint t).getD 0xFFFF
    let (bad0, s1) := s.shelveTop t
    let fr := frameLow t t.depth.toNat 0 t.pc
    let (bad1, s2) := s1.recWrite t b.running (wordsBytes (fr.take 8))
    let (bad2, s3) := s2.recWrite t (b.running + 0xC0) (wordsBytes (fr.drop 24))
    if bad0 || bad1 || bad2 then s3.lose t
    else
      let s4 := s3.dropWait t.num
      let s5 := if combOf target = combOf t.core then s4 else s4.parkAll t.num
      (s5.modThread t.num fun u => ({ (u.rerun.carry live) with
        place := .travelling target, trip := { from_ := t.core }, leaving := none } : Thread).event 12 1).orphanLeaving t.num

/-- R108, R286, R371: the thread has drained and leaves, unless the retry buffer of its core is full. -/
def execMigrationDeparture (n : ThreadNo) (s : State) : Out1 :=
  match s.thread? n with
  | none => .next s
  | some t =>
    match t.leaving with
    | none => .next s
    | some (target, full) =>
      let drained := t.ldo == 0 && t.sto == 0 && (!full || (t.cpo == 0 && t.tlo == 0)) && !t.norm && (match t.wait with
        | some .leaving | some .record | some (.refused _) => true
        | _ => false)
      if t.inSlot && drained && s.canStage t.core &&
          !s.anyBehind t (t.pageRecords t.depth.toNat ++ t.runningRecord) then .next (s.depart t target) else .next s

/-- R289: an arriving thread takes the first place that has room; with none, it is refused and comes again. One that is to
be killed takes none (R322). -/
def execMigrationArrival (n : ThreadNo) (s : State) : Out1 :=
  match s.thread? n with
  | none => .next s
  | some t =>
    match t.place with
    | .travelling c =>
      if t.trip.refused || decide (s.cyc.toNat < t.trip.due.toNat) then .next s
      else if t.lost then .next (s.lose t)
      else if s.killDue t then .next (s.endThread n t.killKind)
      else match s.openSlot c t.chgvd with
      | some m => .next (if s.resumeBehind t then s else s.occupy c m t)
      | none =>
        let k := s.core c
        if k.arrivals.length < 8 then
          .next ((s.setCore { k with arrivals := k.arrivals ++ [n] }).modThread n fun t => { t with place := .arrival c })
        else
          let (bad, s1, f) := s.readBackDue t
          if bad then .next (s1.lose t)
          else match (s1.modThread n f).intoCache c n with
            | some s2 => .next s2
            | none => .next ((s.modThread n fun t => { t with trip := { t.trip with refused := true } }).saveExhausted t.chgvd c)
    | _ => .next s

/-! ### Heat (R294, R295, R389) -/

/-- The cool threshold in force (R389). -/
def Core.coolAt (k : Core) : Nat := if k.hot.toNat ≤ k.cool.toNat then k.hot.toNat - 1 else k.cool.toNat

/-- R294: a temperature sample disables or enables one slot. -/
def execThermalSample (c : CoreNo) (temp : BitVec 8) (s : State) : Out1 :=
  let k := s.core c
  let slots := (List.range 16)
  let high := (slots.reverse.find? fun n => !k.disabled.getLsbD n)
  let low := (slots.find? fun n => k.disabled.getLsbD n)
  let disabled :=
    if k.hot.toNat ≤ temp.toNat then (match high with
      | some n => k.disabled ||| (1#16 <<< n)
      | none => k.disabled)
    else if temp.toNat < k.coolAt then (match low with
      | some n => k.disabled &&& ~~~(1#16 <<< n)
      | none => k.disabled)
    else k.disabled
  .next (s.setCore { k with temp := temp, disabled := disabled })

/-- R295, R389: the core to which a thread in a disabled slot goes. -/
def State.coolCore (s : State) (t : Thread) : Option CoreNo :=
  let h := s.hive (hiveOf t.core)
  (List.range 64).findSome? fun i =>
    ((h.rank.find? fun r => r.1.toNat == i).map Prod.snd).bind fun w =>
      let c := w.extractLsb' 0 10
      let k := s.core c
      if w.getLsbD 15 && hiveOf c == hiveOf t.core && c != t.core && k.disabled == 0 && s.inCoreSet t.chgvd c &&
          (!(s.freeSlots c t.chgvd).isEmpty || decide (k.arrivals.length < 8)) then some c else none

/-- The record and the count of a displacement (R387, R388). -/
def State.displaced (s : State) (t : Thread) (dest : CoreNo) (saved : Bool) : State :=
  let h := s.hive (hiveOf t.core)
  let s1 := s.setHive { h with displaced := h.displaced + 1 }
  let s2 := s1.modThread t.num fun t => if saved then t.event 12 1 else t
  s2.telemetry 4 [BitVec.ofNat 64 (t.core.toNat * 2 ^ 54 + t.slotNo.toNat * 2 ^ 49 + dest.toNat * 2 ^ 39 +
    (if saved then 2 ^ 38 else 0)) ||| t.num.setWidth 64]

/-- R315: the part defers what it would do to a thread; the deferral begins. -/
def State.defers (s : State) (n : ThreadNo) : State :=
  s.modThread n fun t => { t with deferSince := t.deferSince <|> some s.cyc }

/-- A thread that will leave its slot: what it waits for is dropped, but for a record, a refused page (R295, R369) and an
access in flight. -/
def Thread.leavesFor (t : Thread) (target : CoreNo) : Thread :=
  { t.rerun with
    leaving := some (target, false)
    wait := if t.wait = some Wait.access then t.wait else some (t.rerun.wait.getD .leaving) }

/-- R295: the thread of a disabled slot is displaced: it migrates, or is saved where it is. -/
def execThermalDisplacement (c : CoreNo) (n : SlotNo) (s : State) : Out1 :=
  match s.occupant c n with
  | none => .next s
  | some t =>
    if !(s.core c).disabled.getLsbD n.toNat || t.leaving.isSome then .next s
    else if s.deferred t then .next (s.defers t.num)
    else
      match (if t.portsBound || t.vlive then none else s.coolCore t) with
      | some target =>
        if t.norm ∨ t.stands.isSome ∨ t.wait = some .closing ∨ t.wait = some .spawn then .next s
        else .next (((s.displaced t target false).dropWait t.num).modThread t.num fun t => t.leavesFor target)
      | none => .next (s.engineTurn c t fun s1 => s1.displaced t c true)

/-! ### Handing over a shared core (R353) -/

/-- R360: the engine saves the thread of a slot that serves another VD, unless its gate defers that (R315). -/
def execPreemptSave (c : CoreNo) (n : SlotNo) (s : State) : Out1 :=
  match s.occupant c n with
  | none => .next s
  | some t =>
    if s.slotVd c n == some t.chgvd then .next s
    else if s.deferred t then .next (s.defers t.num)
    else .next (s.engineTurn c t id)

/-- R315, R353: the thread of a slot whose gate defers a handover. -/
def State.deferredIn (s : State) (c : CoreNo) (n : SlotNo) : Option Thread := (s.occupant c n).filter s.deferred

/-- R353: a visited slot is handed over: it is empty or parked, or has nothing in flight. -/
def State.mayHand (s : State) (c : CoreNo) (n : SlotNo) : Bool := (s.occupant c n).all Thread.savable

/-- R353: the slot that the pointer visits next: the first not yet handed over, those that are deferred being passed over. -/
def State.visited (s : State) (k : Core) : Option SlotNo :=
  ((List.range 16).map fun i => k.pointer + BitVec.ofNat 4 i).find? fun n =>
    !k.handed.getLsbD n.toNat && (s.deferredIn k.num n).isNone

/-- R353, R360: the thread of a slot that is handed over is to be saved. -/
def State.askHanded (s : State) (c : CoreNo) (n : SlotNo) : State := match s.occupant c n with
  | none => s
  | some t => s.askSave c t.num

/-- R353: the pointer of the barrel-slot rotation hands over the slot that it visits, once it can. A slot that it has passed over is
visited again after the others. -/
def execSlotHandover (c : CoreNo) (s : State) : Out1 :=
  let k := s.core c
  match k.nextVd with
  | none => .next s
  | some v =>
    let put := ((List.range 16).map (BitVec.ofNat 4)).filter fun n => !k.handed.getLsbD n.toNat
    let s1 := (put.filterMap (s.deferredIn c)).foldl (fun (s : State) t => s.defers t.num) s
    match s.visited k with
    | none => .next s1
    | some n =>
      if s.mayHand c n then .next ((s1.setCore { (k.handOver v n s.cyc) with pointer := n + 1 }).askHanded c n)
      else .next (s1.setCore { s1.core c with pointer := n })

/-- R315: the deferral of a thread's gate has lasted its 65,536 cycles. -/
def execDeferralExpiry (n : ThreadNo) (s : State) : Out1 :=
  .next (s.modThread n fun t =>
    if t.deferSince.any fun u => 65536 ≤ (s.cyc - u).toNat then { t with deferOver := true, deferSince := none } else t)

end Sys2Proof.Machine
end

