-- ==== Sys2Proof/Machine/Gates.lean ====
section
/-! DEFINITION. Calls through gates and into hypervisors, and returns (09_gates_system.md R206 to R213, R216), the handle
service (15_domains_nesting.md R312, R314), and what happens to threads when parties stop (R309, R310, R317 to R326). -/

namespace Sys2Proof.Machine

/-! ### Entering a domain (R208, R216) -/

/-- What an entry carries over (R208). -/
structure Call where
  gdom : DomNo
  pc : Word
  n : Nat
  grant : BitVec 2 := 0
  gbase : Word := 0
  glen : Word := 0
  gate : BitVec 32
  /-- Physical address of the gate descriptor; 0 for `hcall`. -/
  addr : Nat

/-- R208: the caller's frame is written, an entry pushed, and the callee's state set as R11 gives. q.scA, q.scB and q.scC are
set to 0 as a whole, though R11 names only their scale modes (DESIGN CHOICE, log entry 62). A record that cannot be written
loses the thread (R358). -/
def State.enterDomain (s : State) (c : Call) : State :=
  let t := s.cur
  match t.block? t.dom, t.hwPage with
  | some b, some page =>
    let d := t.depth.toNat
    let dm := s.domain c.gdom
    let (bad1, s1) := s.recWrite t (b.caller d) (wordsBytes (frameLow t d 1 (t.pc + 4) ++ frameHigh t))
    let (bad2, s2) := match t.top with
      | none => (false, s1)
      | some e => s1.recWrite t (pageEntry page d) (wordsBytes e.words)
    let (bad3, s3) := s2.recWrite t page (wordsBytes [t.num ++ 0#28 ++ (t.depth + 1), t.chg])
    if bad1 || bad2 || bad3 then s3.saveLost
    else
      let e : Entry := {
        cdom := t.dom, gdom := c.gdom, depth := t.depth + 1, nwin := BitVec.ofNat 3 c.n, grant := c.grant
        retpc := t.pc + 4, gbase := c.gbase, glen := c.glen, ecyc := t.chg, gate := c.gate
        cframe := BitVec.ofNat 64 (b.caller d) }
      let s4 := if c.addr = 0 || t.gates.any (fun g => g.2 == c.addr) then s3 else s3.addInside t c.addr true
      let fresh : Thread := {}
      { s4 with cur := { s4.cur with
          x := regFile (fun i => if i < c.n then t.x.toList.getD i 0 else 0)
          taint := t.taint &&& BitVec.ofNat 16 (2 ^ c.n - 1), pw := 1, cb := dm.dcb, st := 0
          fmtA := 0, fmtB := 0, scA := 0, scB := 0, scC := 0, agv := fresh.agv, agc := fresh.agc, cen := false
          v := fresh.v, streams := fresh.streams, ports := fresh.ports
          dom := c.gdom, vdid := dm.vd, depth := t.depth + 1, top := some e
          gates := ((d + 1, c.addr) :: t.gates), deferOver := false, deferSince := none
          pc := c.pc &&& ~~~3#64, lastPc := BitVec.allOnes 64, wait := none } }
  | _, _ => s.saveLost

/-- A call waits until LDO and STO are 0 (R208, R251), for the descriptors of a vector command (R245), and for what its core has
sent to the homes of the caller's frame and of the hardware page (R241, R327). -/
def State.callWaits (s : State) : Bool :=
  let t := s.cur
  t.ldo != 0 || t.sto != 0 || t.owes || s.anyBehind t (t.pageRecords t.depth.toNat) ||
    (t.block? t.dom).any fun b => s.recBehind t (b.caller t.depth.toNat) 0x600

/-- R358: a call whose callee domain has no free block, or whose allocation failed, raises PROT; one that waits for a page
tests again. The base state carries what the part did meanwhile. -/
def callWith (s : State) (gdom : DomNo) (go : State → Res) : State × Res :=
  if s.callWaits then (s, .wait)
  else match s.takeBlock s.cur.core s.cur gdom with
    | .full => (s.saveExhausted (s.domain gdom).vd s.cur.core, .trap .prot 0x40012)
    | .failed s1 => (s1.vdSticky (s.domain gdom).vd flagNOSAVE, .trap .prot 0x4001E)
    | .later ms => (s.allocMiss s.cur.core s.cur.num ms, .wait)
    | .ok s1 t1 =>
      if s.cur.ldo ≠ 0 ∨ s.cur.sto ≠ 0 ∨ s.cur.vbusy then (s, .wait) else (s, go { s1 with cur := t1 })

/-- Ends a word whose base state may have changed. -/
def finishOn (p : State × Res) : Out1 := finish p.1 p.2

/-- The grant that x(d) and x(b) give (R208), or the reason of its refusal. -/
def grantOf (d : XReg) (w base : Word) (rights : BitVec 2) : Sum (BitVec 2 × Word × Word) Word :=
  let r := w.extractLsb' 62 2
  let len := (w.extractLsb' 0 62).setWidth 64
  if d = 0#4 then .inl (0, 0, 0)
  else if r = 3#2 then .inr 0x40014
  else if r ≠ 0#2 ∧ len ≠ 0 then (if rights.toNat < r.toNat then .inr 0x40015 else .inl (r, base, len))
  else .inl (0, 0, 0)

/-- Reads the grant's registers, if there is one. -/
def useGrant (s : State) (d b : XReg) (k : Word → Word → State → Res) : Res :=
  if d = 0#4 then k 0 0 s else useXX s d b fun w v _ s1 => k w v s1

/-- R208: what stops a call before its callee's block is looked at: a trap; or the descriptor and grant it goes on
with. -/
def gateChecks (s : State) (g : GateDesc) (h : Word) (d : XReg) (w base : Word) :
    Sum (BitVec 2 × Word × Word) (Cause × Word) :=
  if (s.domain g.gdom).life ≠ .live then .inr (.stale, h)
  else if g.state ≠ 0#2 then .inr (.gateclosed, h)
  else if s.cur.depth.toNat = 8 ∨ g.maxd < s.cur.depth.toNat + 1 then .inr (.prot, 0x40011)
  else if !g.reent && s.cur.gates.any (fun x => x.2 == g.addr) then .inr (.prot, 0x40013)
  else match grantOf d w base g.rights with
    | .inr v => .inr (.prot, v)
    | .inl x => .inl x

/-- The entry of a gate handle, its descriptor and the call's grant, once every check has passed. -/
def gateFor (s : State) (d a b : XReg) (k : GateDesc → Word → BitVec 2 × Word × Word → State → Res) : Res :=
  legal s (if d = 0#4 then [a] else [a, d, b]) [] (useX s a fun h _ s1 => useGrant s1 d b fun w base s2 =>
    useEntry s2 h 2 fun e s3 => useGate s3 e.addr.toNat fun g s4 =>
      match gateChecks s4 g h d w base with
      | .inr (c, v) => .trap c v
      | .inl x => k g h x s4)

/-- R208: the domain that a `gcall` enters, if its checks pass. -/
def gateTarget (s : State) (d a b : XReg) : Option DomNo :=
  match gateFor s d a b fun g _ _ s1 => .park .access { s1 with cur := { s1.cur with dom := g.gdom } } with
  | .park _ t => some t.cur.dom
  | _ => none

/-- R208. -/
def execGcall (g : KReg) (d a b : XReg) (s : State) : Out1 :=
  if !s.rd.pred g then finish s (.done s)
  else match gateTarget s d a b with
    | none => finish s (gateFor s d a b fun _ _ _ s1 => .done s1)
    | some dn => finishOn (callWith s dn fun s0 => gateFor s0 d a b fun desc h x s1 =>
        .moved ((s1.commitPops).enterDomain {
          gdom := desc.gdom, pc := desc.entry, n := desc.nwin.toNat, grant := x.1, gbase := x.2.1, glen := x.2.2
          gate := h.extractLsb' 0 32, addr := desc.addr }))

/-- The hypervisor domain of a VD (R216). -/
def State.hypervisor (s : State) (v : VdNo) : Option Domain := s.domains.find? fun d => d.hyp && d.vd == v && d.life == .live

/-- R216: enters the hypervisor domain, or raises HCALL where there is none. -/
def execHcall (g : KReg) (i : BitVec 13) (s : State) : Out1 :=
  if !s.rd.pred g then finish s (.done s)
  else match s.hypervisor s.cur.vdid with
    | none => finish s (.after .hcall (i.setWidth 64))
    | some h =>
      if s.cur.depth.toNat = 8 then finish s (.trap .prot 0x40011)
      else finishOn (callWith s h.num fun s1 =>
        let st := s1.cur.stWord
        let ret := s1.cur.pc + 4
        let s2 := s1.enterDomain { gdom := h.num, pc := h.tvec, n := 6, gate := 0, addr := 0 }
        if s2.cur.place = .gone then .moved s2
        else .moved { s2 with cur := { s2.cur with
          st := putBit 0 stHM true, tcause := BitVec.ofNat 64 Cause.hcall.code, tval := i.setWidth 64, epc := ret, est := st } })

/-! ### Returning (R211) -/

/-- R211, R319: returns x0 to x(n-1) to the caller; at depth 1 of an orphan, retires the thread. -/
def gretRes (s : State) (n : Nat) : Res :=
  let t := s.cur
  match t.top with
  | none => .trap .prot 0x40017
  | some e =>
    if t.hm && e.gate != 0#32 then .trap .prot 0x40018
    else if t.ldo ≠ 0 ∨ t.sto ≠ 0 ∨ t.vbusy ∨ s.anyBehind t (t.pageRecords (t.depth.toNat - 1)) ∨
      s.recBehind t e.cframe.toNat 1536 then .wait
    else if t.depth.toNat = 1 ∧ t.orphan.isSome then .moved (s.endThread t.num .retired)
    else
      let d := t.depth.toNat - 1
      let frame := e.cframe.toNat
      let (bad0, s0) := readEntry s t d
      let (bad1, s1) := s0.recRead t frame 1536
      if bad0 || bad1 then .moved s1.saveLost
      else
        let below := if d = 0 then none else entryAt s t d
        let w := s.recWord frame
        let s2 := s1.leaveLevel t false t.depth.toNat
        let u := s2.cur.backTo d e below (s.domain e.cdom).vd w
        let win := e.nwin.toNat
        .moved { s2 with cur := { u with
          x := regFile (fun i => if i < n then t.x.toList.getD i 0 else if win ≤ i then w (8 + i) else 0)
          taint := ((w 4).extractLsb' 8 16) &&& ~~~(BitVec.ofNat 16 (2 ^ (max n win) - 1))
          pw := u.pw ||| 2, lastPc := BitVec.allOnes 64 } }

/-- R211. -/
def execGret (g : KReg) (n : BitVec 3) (s : State) : Out1 := finish s (guarded s g (gretRes s n.toNat))

/-! ### Views and statistics (R207, R212) -/

/-- The window of an address in the current domain: the argument window only under a grant (R210). -/
def windowHere (t : Thread) (va : Word) : Window :=
  match windowOf va.toNat with
  | .arg => if t.top.any fun e => e.grant != 0#2 then .arg else .none
  | w => w

/-- R207: checks a buffer and packs a grant word. -/
def execAwin (g : KReg) (d a b : XReg) (e : BitVec 2) (s : State) : Out1 :=
  finish s (guarded s g (legal s [a, b] [d] (useXX s a b fun base len _ s1 =>
    if len = 0 then putX s1 d 0 false
    else if 2 ^ 62 ≤ len.toNat ∨ 2 ^ 64 ≤ base.toNat + len.toNat - 1 then .trap .prot 0x40016
    else if windowHere s1.cur base ≠ windowHere s1.cur (base + len - 1) then .trap .straddle base
    else if windowHere s1.cur base = .none then .trap .prot base
    else if windowHere s1.cur base = .image ∧ e = 2#2 then .trap .prot base
    else putX s1 d (e.setWidth 64 <<< 62 ||| len) false)))

/-- Grace cycles left (R319, R320). -/
def Thread.grace (t : Thread) : Option Word :=
  t.orphan.map fun o => BitVec.ofNat 64 (o.budget.toNat - (t.chg - o.since).toNat)

/-- R212: the word of a gate for `gstat.gate`. -/
def gateWord (s : State) (g : GateDesc) : Word :=
  (if g.gdom = s.cur.dom then g.inside.setWidth 64 <<< 32 else 0) |||
    BitVec.ofNat 64 (g.maxd * 2 ^ 9 + g.rights.toNat * 2 ^ 7 + g.nwin.toNat * 2 ^ 4 + (if g.pre then 8 else 0) +
      (if g.reent then 4 else 0) + g.state.toNat)

/-- R212: the values of the selectors other than 2. -/
def gstatWord (t : Thread) (n : Nat) : Word :=
  match t.top with
  | none => if n = 4 then BitVec.allOnes 64 else 0
  | some e =>
    match n with
    | 0 => e.gate.setWidth 64 <<< 32 |||
        BitVec.ofNat 64 (e.cdom.toNat * 2 ^ 9 + e.grant.toNat * 2 ^ 7 + e.nwin.toNat * 2 ^ 4 + t.depth.toNat)
    | 1 => e.glen
    | 3 => t.chg - e.ecyc
    | _ => t.grace.getD (BitVec.allOnes 64)

/-- R212. -/
def execGstat (g : KReg) (d a : XReg) (n : BitVec 3) (s : State) : Out1 :=
  finish s (guarded s g (legal s (if n = 2#3 then [a] else []) [d] (
    if n = 2#3 then
      useX s a fun h _ s1 => useEntry s1 h 2 fun e s2 => useGate s2 e.addr.toNat fun desc s3 =>
        let v := gateWord s3 desc
        destX s3 d v fun s4 => .done (s4.setX d v false).inFlight
    else putX s d (gstatWord s.cur n.toNat) false)))

/-! ### The handle service (R312, R314) -/

/-- The thread in hand serves a caller: it stands in domain 0, entered through a gate (R312). -/
def State.serving (s : State) : Option DomNo := if s.cur.dom = 0 then s.cur.top.map Entry.cdom else none

/-- The service's answer: x0 the result, x1 the status. -/
def State.serve (s : State) (result : Word) (status : Nat) : State :=
  { s with cur := (s.cur.setReg 0 result false).setReg 1 (BitVec.ofNat 64 status) false }

/-- The domain an operation is for: the caller, or, for the hypervisor domain of a VD, the domain of that VD that it names;
none is no right. -/
def State.serviceDom (s : State) (caller : DomNo) (named : Word) : Option DomNo :=
  let c := s.domain caller
  if c.hyp && named != 0 then
    let d := s.domain (named.extractLsb' 0 12)
    if named.extractLsb' 12 52 = 0#52 ∧ d.vd = c.vd ∧ d.life = .live then some d.num else none
  else some caller

/-- The lowest free slot of a table. -/
def State.freeSlot (s : State) (d : Domain) : Option Nat :=
  (List.range d.htlen).find? fun i => i != 0 && (s.hentry d i).kind == 0

/-- The slots of a table that are read to find a free one. -/
def State.scanned (s : State) (d : Domain) : List Nat := match s.freeSlot d with
  | some i => (List.range (i + 1)).drop 1
  | none => (List.range d.htlen).drop 1

/-- The slot of a domain's table that a handle names. -/
def handleSlot (d : Domain) (h : Word) : List Nat := ((List.range d.htlen).drop 1).filter fun i => i == (h.extractLsb' 12 20).toNat

/-- R312: domain 0 serves the request of the thread in hand: x0 names the operation, x1 to x3 its arguments, which the row
gives as the part read them; it reads some slots of a domain's table. An operation that is not one of the five changes
nothing. -/
def State.service (s : State) (op : Nat) (args : List (XReg × Word)) (dom : Word) (slots : Domain → List Nat)
    (act : State → DomNo → State) : Out1 :=
  match s.serving with
  | none => .next s
  | some c =>
    if s.cur.reg 0 = 0 ∨ 5 < (s.cur.reg 0).toNat then .next (s.serve 0 5)
    else if (s.cur.reg 0).toNat = op && args.all (fun a => s.cur.reg a.1 == a.2) then
      let d := s.domain ((s.serviceDom c dom).getD c)
      .next (act (s.readEntries d (slots d)) c)
    else .next s

/-- R312 operation 1. -/
def execInstallTensor (slot desc : Word) (s : State) : Out1 :=
  s.service 1 [(1, slot), (2, desc)] 0 (fun d => if slot = 0 then s.scanned d else (List.range d.htlen).filter (· == slot.toNat)) fun s c =>
    let d := s.domain c
    let mapped := match checkTables s (combOf s.cur.core) c desc.toNat 64 .read with
      | .ok _ => true
      | _ => false
    let put (i : Nat) : State :=
      let e := s.hentry d i
      let e1 : HEntry := { e with kind := 1, odom := c, core := 0, addr := desc }
      (s.setHentry d e1).serve (e1.handle.setWidth 64) 0
    if desc.extractLsb' 0 6 ≠ 0#6 || !mapped then s.serve 0 2
    else if slot = 0 then
      match s.freeSlot d with
      | none => s.serve 0 4
      | some i => put i
    else if d.htlen ≤ slot.toNat || (s.hentry d slot.toNat).kind != 0 then s.serve 0 1
    else put slot.toNat

/-- The valid entry that a handle names in a domain's table, of any kind. -/
def State.entryOf (s : State) (dn : DomNo) (h : Word) : Option HEntry :=
  ([1, 2, 3, 4] : List Nat).findSome? fun k => s.lookup dn h k

/-- R312 operation 2. -/
def execDropHandle (handle dom : Word) (s : State) : Out1 :=
  s.service 2 [(1, handle), (3, dom)] dom (handleSlot · handle) fun s c =>
    match s.serviceDom c dom with
    | none => s.serve 0 2
    | some dn =>
      match s.entryOf dn handle with
      | none => s.serve 0 1
      | some e => (s.dropEntry (s.domain dn) e.slot s.cur.num).serve 0 0

/-- The name under which a domain exports what an entry stands for (R271). -/
def Domain.exportName (d : Domain) (e : HEntry) : List Byte :=
  ((d.exports.find? fun x => x.w1 == e.addr && (x.w0.extractLsb' 60 4).toNat == e.kind).map Export.name).getD []

/-- R312 operation 3. -/
def execOffer (handle target dom : Word) (s : State) : Out1 :=
  s.service 3 [(1, handle), (2, target), (3, dom)] dom (handleSlot · handle) fun s c =>
    match s.serviceDom c dom with
    | none => s.serve 0 2
    | some dn =>
      match (s.lookup dn handle 2) <|> (s.lookup dn handle 3) with
      | none => s.serve 0 1
      | some e =>
        if e.odom ≠ dn then s.serve 0 2
        else
          let o : Offer := {
            odom := dn, target := target.extractLsb' 0 12, name := (s.domain dn).exportName e
            w0 := BitVec.ofNat 4 e.kind ++ 0#28 ++ e.odom ++ e.core ++ 0#10, w1 := e.addr, stage := s.linkOf dn e.slot }
          { s with offers := s.offers ++ [o] }.serve 0 0

/-- A name in the granted buffer, up to its 0 byte (R312). -/
def nameFrom (s : State) : Nat → Nat → List Byte
  | 0, _ => []
  | fuel + 1, i =>
    match checkAccess s s.cur .read (BitVec.ofNat 64 (argBase + i)) 1 with
    | .ok ps =>
      let b := memGet s.mem (ps.headD 0)
      if b = 0 then [] else b :: nameFrom s fuel (i + 1)
    | _ => []

/-- R314: consumes an offer and installs its entry in the caller's table. -/
def execImportHandle (dom : Word) (s : State) : Out1 :=
  s.service 4 [(1, dom)] 0 s.scanned fun s c =>
    let d := s.domain c
    let name := nameFrom s 4096 0
    match s.offers.find? fun o => o.odom.setWidth 64 == dom && o.target == c && o.name == name with
    | none => s.serve 0 3
    | some o =>
      match s.freeSlot d with
      | none => s.serve 0 4
      | some i =>
        let old := s.hentry d i
        let kind := (o.w0.extractLsb' 60 4).toNat
        let e : HEntry := { old with kind := kind, odom := o.odom, core := o.w0.extractLsb' 10 10, addr := o.w1 }
        let s1 := ({ s with offers := s.offers.erase o } : State).setHentry d e
        let s2 := if kind = 3 then s1.linkStage c i o.stage else s1
        s2.serve (e.handle.setWidth 64) 0

/-- Writes STATE of a gate descriptor. -/
def State.setGateState (s : State) (g : GateDesc) (v : Nat) : State :=
  let w := s.physRead (g.addr + 0x18) 8
  s.partWrite s.cur.num s.cur.dom (g.addr + 0x18) (wordBytes ((w &&& ~~~3#64) ||| BitVec.ofNat 64 v) 8)

/-- R312 operation 5, R314: a gate reopens only from soft-closed, and a hard-closed one never. -/
def execCloseGate (handle mode dom : Word) (s : State) : Out1 :=
  s.service 5 [(1, handle), (2, mode), (3, dom)] dom (handleSlot · handle) fun s c =>
    match s.serviceDom c dom with
    | none => s.serve 0 2
    | some dn =>
      match s.lookup dn handle 2 with
      | none => s.serve 0 1
      | some e =>
        let g := s.gateDesc e.addr.toNat
        if e.odom ≠ dn then s.serve 0 2
        else if 2 < mode.toNat then s.serve 0 5
        else if g.state = 2#2 then s.serve 0 (if mode.toNat = 2 then 0 else 2)
        else if mode = 0 ∧ g.state = 0#2 then s.serve 0 2
        else
          let s1 := s.setGateState g mode.toNat
          (if mode.toNat = 2 ∧ g.inside = 0#32 then s1.dropGate g.addr else s1).serve 0 0

/-! ### When parties stop (R310, R317 to R324) -/

/-- R321, R322: the thread stands between bundles and its accesses are over; one that drains for a hop meets its fate at
landing. -/
def Thread.between (t : Thread) : Bool :=
  t.ldo == 0 && t.sto == 0 && !t.norm && t.leaving.isNone && t.stands.isNone && !t.halfway && t.wait != some .access

/-- R317: the thread stands at a boundary and its vector command is over. A bundle that has asked for a thread, the close of
a stage or a lease has issued (R193, R204, R157). -/
def Thread.boundary (t : Thread) : Bool :=
  t.between && !t.vbusy && t.wait != some .spawn && t.wait != some .closing && !(t.wait == some .lease && t.inHand.isSome)

/-- R317, R324: a kill; or an unwind, and then orphaning. -/
def State.unwindThread (s : State) (t : Thread) : State :=
  if s.killDue t then s.endThread t.num t.killKind
  else match s.unwindTarget t with
    | none => s.orphanThread t.num
    | some d =>
      let status : Word := if (entryAt s t (d + 1)).any fun e => s.gone e.gdom then 11 else 10
      ((s.dropWait t.num).unwindTo t d status).orphanThread t.num

/-- R317, R319: a thread is unwound out of a revoked or dead callee, or orphaned, at a boundary of its bundles; one that
stands in no slot, before its first issue. -/
def execThreadUnwind (n : ThreadNo) (s : State) : Out1 :=
  match s.thread? n with
  | none => .next s
  | some t =>
    if !t.inSlot || t.lost || !((s.unwindTarget t).isSome || s.orphanDue t) || !t.boundary ||
        (s.unwindTarget t).any (s.levelsBehind t) then .next s
    else .next (s.unwindThread t)

/-- The budget of an orphan is spent. -/
def Thread.graceSpent (t : Thread) (second : Bool) : Bool :=
  t.orphan.any fun o => o.second == second && decide (o.budget.toNat ≤ (t.chg - o.since).toNat)

/-- R319: the abandon handler of the gate through which the thread's entry at depth 1 was pushed; 0 where it has none. -/
def State.abandonOf (s : State) (t : Thread) : Word :=
  match t.gates.find? fun g => g.1 == 1 with
  | some (_, g) => if g = 0 then 0 else (s.gateDesc g).abandon
  | none => 0

/-- R319, R320: the grace is spent: the thread is unwound to depth 1, and retired or put into the abandon handler. -/
def execGraceExpiry (n : ThreadNo) (s : State) : Out1 :=
  match s.thread? n with
  | none => .next s
  | some t =>
    if !t.inSlot || !t.graceSpent false || !t.boundary || t.depth = 0#4 || s.levelsBehind t 1 then .next s
    else
      let abandon := s.abandonOf t
      if abandon = 0 then .next (s.endThread n .retired)
      else
        let (bad, s0) := s.readLevels t 1
        if bad then .next (s0.lose t)
        else
          let s1 := (s0.dropWait n).leaveTo t 1
          let s2 := match entryAt s t 2 with
            | none => s1.modThread n fun u => u.setReg 15 t.pc false
            | some e =>
              let w := s1.recWord e.cframe.toNat
              s1.modThread n fun u =>
                let u1 := u.backTo 1 e (entryAt s t 1) (s.domain e.cdom).vd w
                { u1 with x := regFile (fun i => w (8 + i)), taint := (w 4).extractLsb' 8 16 }.setReg 15 e.retpc false
          .next (s2.modThread n fun u => { u with
            pw := u.pw &&& 0xFD, pc := abandon &&& ~~~3#64, wait := none, inHand := none, stands := none, granted := false
            orphan := u.orphan.map fun o => { o with second := true, since := u.chg } })

/-- R320: the second budget runs out. -/
def execAbandonBudgetExpiry (n : ThreadNo) (s : State) : Out1 :=
  match s.thread? n with
  | none => .next s
  | some t => if t.inSlot && t.graceSpent true && t.between then .next (s.endThread n .killed) else .next s

/-- R318, R321, R358: a thread whose bottom domain is gone, with no entry left to it, or whose records are lost, is killed;
one that travels, at landing (R322). -/
def execThreadKill (n : ThreadNo) (s : State) : Out1 :=
  match s.thread? n with
  | none => .next s
  | some t =>
    match t.place with
    | .gone | .travelling _ => .next s
    | _ =>
      if !t.between || !s.killDue t then .next s
      else .next (if t.lost then s.lose t else s.endThread n t.killKind)

/-- R310, R314: the gates of a dying domain count as hard-closed: those with no thread inside are freed at once. -/
def State.shutGates (s : State) (d : Domain) : State :=
  (List.range d.htlen).foldl (fun (s : State) i =>
    let e := s.hentry d i
    if e.kind = 2 ∧ e.odom = d.num ∧ (s.gateDesc e.addr.toNat).inside = 0#32 then s.dropGate e.addr.toNat else s) s

/-- R310: a domain is killed: it is dying from now on, its stages close without RETIRE, and its gates count as hard-closed.
Threads called from it that stand in no slot are orphaned at once; the others at a boundary (R325). -/
def State.killDomain (s : State) (dn : DomNo) : State :=
  let d := s.domain dn
  if d.life ≠ .live then s
  else
    let s1 := (s.setDomain { d with life := .dying }).shutGates d
    let s2 := (s1.cores.map Core.num).foldl (fun (s : State) c => s.shutStages c fun g => g.dom == dn) s1
    s2.threads.foldl (fun (s : State) (t : Thread) => if t.inSlot || s.killDue t then s else s.orphanThread t.num) s2

/-- R310. -/
def execDomainKill (d : DomNo) (s : State) : Out1 := .next (s.killDomain d)

/-- R310: no thread has an entry in the domain, and what was issued in it has completed. -/
def State.emptied (s : State) (d : DomNo) : Bool :=
  !(s.threads.any fun t => t.dom == d || (List.range t.depth.toNat).any fun i =>
      (entryAt s t (i + 1)).any fun e => e.gdom == d || (e.cdom == d && t.orphan.isNone)) &&
  !(s.combs.any fun k => k.queue.any fun o => o.dom == d) && !(s.cores.any fun k => k.copies.any fun c => c.dom == d)

/-- A handle-table entry names a domain as its owner: of a gate or a stage (R311). -/
def namesDomain (dn : DomNo) (w0 _w1 : Word) : Bool :=
  (w0.extractLsb' 60 4 == 2#4 || w0.extractLsb' 60 4 == 3#4) && w0.extractLsb' 20 12 == dn

/-- R310, R322: teardown: the slots owned in the domain are freed, its handle table is cleared and its save area released.
Entries that name it are dropped from every table, so that none works again once its number is given anew. -/
def State.teardown (s : State) (dn : DomNo) : State :=
  let d := s.domain dn
  let s0 := s.dropNaming (namesDomain dn)
  let table (a : Nat) : Bool := decide (d.htbase ≤ a) && decide (a < d.htbase + 16 * d.htlen)
  let map (a : Nat) : Bool := decide (d.bmap ≤ a) && decide (a < d.bmap + (d.svn + d.hwn + 7) / 8)
  let left (t : Thread) : Thread := { t with blocks := t.blocks.filter fun b => b.dom != dn }
  let s1 : State := { s0 with
    cur := left s0.cur, others := s0.others.map left
    mem := s0.mem.filter fun c => !(table c.1) && !(map c.1)
    combs := s0.combs.map fun k => { k with accs := k.accs.filter fun a => a.dom != dn }
    offers := s0.offers.filter fun o => o.odom != dn && o.target != dn
    stageLinks := s0.stageLinks.filter fun l => l.1 != dn }
  s1.setDomain { d with
    life := .dead, svbase := 0, svn := 0, hwbase := 0, hwn := 0, bmap := 0, htbase := 0, htlen := 0, hyp := false, launch := false, image := none, exports := [] }

/-- R310: a dying domain becomes dead once nothing is left in it. -/
def execDomainTeardown (d : DomNo) (s : State) : Out1 :=
  if (s.domain d).life = .dying && s.emptied d then .next (s.teardown d) else .next s

end Sys2Proof.Machine
end

