-- ==== Sys2Proof/Machine/Messages.lean ====
section
/-! DEFINITION. Messages (05_memory_sync.md R116 to R120), their refusal and retry (22_traps_translation.md R371), their
failure (15_domains_nesting.md R323), and pending reports (R118). -/

namespace Sys2Proof.Machine

/-! ### The words -/

/-- R116: DOM of a destination word, its thread, slot and core. -/
def destDom (w : Word) : DomNo := w.extractLsb' 20 12
def destThread (w : Word) : ThreadNo := w.extractLsb' 32 32

/-- R117: stages a message, under the next number. -/
def State.stage (s : State) (m : Msg) : State :=
  let k := s.core s.cur.core
  { s.setCore { k with retry := k.retry ++ [{ m with num := s.stamp }] } with stamp := s.stamp + 1 }

/-- R116, R117: sends x(b) to x(b + m). -/
def execMsend (g : KReg) (a b : XReg) (m : BitVec 3) (s : State) : Out1 :=
  finish s (guarded s g (legal s (a :: (List.range (m.toNat + 1)).map fun i => b + BitVec.ofNat 4 i) [] (
    useX s a fun w _ s1 => useRun s1 b.toNat (m.toNat + 1) fun vs s2 =>
      if destDom w ≠ s2.cur.dom ∨ w.extractLsb' 14 6 ≠ 0#6 then .trap .prot w
      else if !s2.canStage s2.cur.core then .hold none
      else .done (s2.stage { sender := s2.cur.num, dom := s2.cur.dom, dest := w, stage := none, payload := vs
                             nacks := 0, due := s2.cyc, refused := false }))))

/-- The oldest message for the current domain (R119, R209). -/
def State.oldestMail (s : State) : Option Mail :=
  (s.core s.cur.core).mailbox.find? fun m => m.thread == s.cur.num && m.dom == s.cur.dom

/-- Removes the oldest message for the current domain. -/
def State.dropMail (s : State) : State :=
  let k := s.core s.cur.core
  s.setCore { k with mailbox := k.mailbox.eraseP fun m => m.thread == s.cur.num && m.dom == s.cur.dom }

/-- R119: removes the oldest message into x(d) to x(d + m). -/
def execMrecv (g : KReg) (d : XReg) (m : BitVec 3) (s : State) : Out1 :=
  finish s (guarded s g (legal s [] ((List.range (m.toNat + 1)).map fun i => d + BitVec.ofNat 4 i) (
    match s.oldestMail with
    | none => .hold none
    | some e =>
      let r := s.takeEntry (.mailbox s.cur.core)
      let vs := (e.header :: (List.range m.toNat).map fun i => e.payload.getD i 0).map (onesIf r.1)
      destRun r.2 d.toNat vs fun s1 => .done (s1.dropMail.setRun d.toNat vs))))

/-- R120. -/
def execWaitm (g : KReg) (s : State) : Out1 :=
  finish s (guarded s g (if s.oldestMail.isSome then .done s else .hold none))

/-! ### Delivery -/

/-- The thread that a destination word names (R117). -/
def State.addressee (s : State) (w : Word) : Option Thread :=
  if destThread w ≠ 0 then (s.thread? (destThread w)).filter fun t => t.place != .gone
  else s.occupant (w.extractLsb' 0 10) (w.extractLsb' 10 4)

/-- R323: the message is for no thread that could take it, or the domain that it names is dying or dead; R354: the firewall
refuses it. One for a core that restarts is refused and retried (R394). -/
def State.messageFails (s : State) (from_ : CoreNo) (m : Msg) : Bool :=
  let disabled := destThread m.dest == 0 &&
    (s.core (m.dest.extractLsb' 0 10)).disabled.getLsbD (m.dest.extractLsb' 10 4).toNat
  s.gone (destDom m.dest) || disabled || (match s.addressee m.dest with
    | none => s.restarting.isNone || s.restarting != some (m.dest.extractLsb' 0 10)
    | some t => !(standsIn s t).contains (destDom m.dest) || s.refuses t.core from_ 2)

/-- R322: a message that a domain sent before it died is still delivered: it fails in place of being retried (R323). -/
def State.firstOfDead (s : State) (from_ : CoreNo) (m : Msg) (t : Thread) : Bool :=
  m.nacks == 0 && s.gone (destDom m.dest) && !s.refuses t.core from_ 2

/-- R117: the conditions of delivery. -/
def State.accepts (s : State) (m : Msg) : Option Thread :=
  (s.addressee m.dest).filter fun t =>
    t.inSlot && !t.hm && t.dom == destDom m.dest && (s.restarting.isNone || s.restarting != some t.core) && (s.core t.core).mailFree t.num

/-- A message is not sent while an earlier one of its sender to the same destination is still staged, on whichever core
(R117, R199, R371). -/
def State.inOrder (s : State) (m : Msg) : Bool :=
  !(s.cores.any fun k => k.retry.any fun n =>
    n.sender == m.sender && n.stage == m.stage && (m.stage.isSome || n.dest == m.dest) && decide (n.num < m.num))

/-- Replaces, or removes, the first staged message that equals `m`. -/
def Core.putMsg (k : Core) (m : Msg) (r : Option Msg) : Core :=
  { k with retry := match r with
      | none => k.retry.erase m
      | some n => k.retry.map (fun x => if x = m then n else x) }

/-- An `msend` message reaches its destination: delivered, failed, or refused. -/
def State.sendOne (s : State) (c : CoreNo) (m : Msg) : State :=
  let k := s.core c
  if s.messageFails c m && !((s.accepts m).any (s.firstOfDead c m)) then (s.setCore (k.putMsg m none)).postReport m.sender 2 m.dom m.dest 1
  else match s.accepts m with
    | none => s.setCore (k.putMsg m (some { m with refused := true }))
    | some t =>
      let s1 := s.setCore (k.putMsg m none)
      let k1 := s1.core t.core
      s1.setCore { k1 with mailbox := k1.mailbox ++ [{
        thread := t.num, dom := t.dom, payload := m.payload
        header := mailHeader m.sender m.dom 0 (BitVec.ofNat 4 m.payload.length) 0 }] }

/-- R201: whatever of a core's stages waits after a failure on a spill area is tried again. -/
def Core.retryAll (k : Core) : Core :=
  { k with stages := k.stages.map fun g => { g with failed := [], held := g.held.filter fun h => !h.2.2 } }

/-- A record reaches its stage (R199, R200, R204): queued, failed, or refused when the queue holds 128. -/
def State.sendRecord (s : State) (c : CoreNo) (m : Msg) (at_ : CoreNo × Nat) : State :=
  let k := s.core c
  let fail := (s.setCore (k.putMsg m none)).postReport m.sender 2 m.dom m.dest 1
  if s.restarting == some at_.1 then s.setCore (k.putMsg m (some { m with refused := true }))
  else match (s.core at_.1).stages.find? fun g => g.id == at_.2 with
  | none => fail
  | some g =>
    let dead := match (s.domain g.dom).life with
      | .dying | .dead => true
      | _ => false
    if g.closing.isSome || dead || s.refuses at_.1 c 2 then fail
    else
      let put (s : State) (g : Stage) : State :=
        let k := s.core at_.1
        s.setCore { k with stages := k.stages.map fun h => if h.id == g.id then g else h }
      let retry (s : State) : State := s.setCore (s.core at_.1).retryAll
      let up (i : Nat) : List Word := g.counts.zipIdx.map fun x => if x.2 = i then x.1 + 1 else x.1
      if 128 ≤ g.queue.length then
        put (s.setCore (k.putMsg m (some { m with refused := true }))) { g with refusedFlag := true, counts := up 5 }
      else retry (put (s.setCore (k.putMsg m none)) { g with queue := g.queue ++ [m.payload], counts := up 0 })

/-- R335: records staged on a core for a stage of that core enter its queue, in the order in which their words retired. -/
def State.arriveHere (s : State) (c : CoreNo) : Nat → State
  | 0 => s
  | fuel + 1 =>
    match (s.core c).retry.find? fun m => m.stage.any (fun p => p.1 == c) && !m.refused && m.nacks == 0 && s.inOrder m with
    | none => s
    | some m => match m.stage with
      | none => s
      | some p => (s.sendRecord c m p).arriveHere c fuel

/-- R371: the delay after a number of NACKs. -/
def backoff (nacks : Nat) : Nat := 32 * 2 ^ min nacks 7

/-! ### The events -/

/-- R117: a staged message reaches its destination for the first time. -/
def execMessageDelivery (c : CoreNo) (s : State) : Out1 :=
  let k := s.core c
  match k.retry.find? fun m => m.stage.isNone && !m.refused && m.nacks == 0 && s.inOrder m with
  | none => .next s
  | some m => .next (s.sendOne c m)

/-- R200: a staged record reaches its stage for the first time. -/
def execKeyedRecordArrival (c : CoreNo) (s : State) : Out1 :=
  let k := s.core c
  match k.retry.find? fun m => m.stage.isSome && !m.refused && m.nacks == 0 && s.inOrder m with
  | none => .next s
  | some m => match m.stage with
    | none => .next s
    | some g => .next (s.sendRecord c m g)

/-- A NACK comes back to a thread (R388, event 13). -/
def State.nackSeen (s : State) (n : ThreadNo) : State :=
  s.modThread n fun t => t.event 13 1

/-- R371: a refused message, `spawn.w` request or migration is answered with a NACK and held for its backoff. -/
def execNack (c : CoreNo) (s : State) : Out1 :=
  let k := s.core c
  match k.retry.find? fun m => m.refused with
  | some m =>
    let n := m.nacks + 1
    .next ((s.setCore (k.putMsg m (some { m with refused := false, nacks := n, due := s.cyc + BitVec.ofNat 64 (backoff n) }))).nackSeen
      m.sender)
  | none =>
    match s.spawns.find? fun p => p.2.refused && p.2.from_ == c with
    | none => match s.threads.find? fun t => t.leftFrom c && t.trip.refused with
      | none => .next s
      | some t =>
        let n := t.trip.nacks + 1
        let trip : Trip := { t.trip with refused := false, nacks := n, due := s.cyc + BitVec.ofNat 64 (backoff n) }
        .next ((s.modThread t.num fun t => { t with trip := trip }).nackSeen t.num)
    | some p =>
      let n := p.2.nacks + 1
      let q := { p.2 with refused := false, nacks := n, due := s.cyc + BitVec.ofNat 64 (backoff n) }
      .next ({ s with spawns := s.spawns.map (fun r => if r = p then (p.1, q) else r) }.nackSeen p.2.spawner)

/-- R371: the backoff of a message ends and it is sent again; a `spawn.w` request is again on its way. -/
def execMessageRetry (c : CoreNo) (s : State) : Out1 :=
  let k := s.core c
  match k.retry.find? fun m => !m.refused && m.nacks != 0 && decide (m.due.toNat ≤ s.cyc.toNat) && s.inOrder m with
  | some m => match m.stage with
    | none => .next (s.sendOne c m)
    | some g => .next (s.sendRecord c m g)
  | none => .next { s with spawns := s.spawns.map (fun r =>
      if r.2.from_ == c && !r.2.refused && decide (r.2.due.toNat ≤ s.cyc.toNat) then (r.1, { r.2 with due := 0 }) else r) }

/-- R118: the order in which pending reports are posted. -/
def nextReport (t : Thread) : Option Report :=
  (t.reports.find? fun r => r.kind == 2#4) <|> (t.reports.find? fun r => r.kind == 3#4) <|>
    (t.reports.find? fun r => r.kind == 4#4)

/-- R118: a pending report is posted once an entry is free for the slot. -/
def execPendingReportPost (n : ThreadNo) (s : State) : Out1 :=
  match s.thread? n with
  | none => .next s
  | some t =>
    if !(t.inSlot && (s.core t.core).mailFree n) then .next s
    else match nextReport t with
      | none => .next s
      | some r =>
        let s1 := s.modThread n fun t => { t with reports := t.reports.erase r }
        let (v, s2) := s1.freeVal
        let k := s2.core t.core
        let s3 := s2.setCore { k with mailbox := k.mailbox ++ [{
          thread := n, dom := r.dom, payload := [r.w0, r.w1]
          header := mailHeader 0 (v.extractLsb' 0 12) r.kind 2 0 }] }
        .next (if r.kind = 4 then s3.modThread n fun t => { t with eccSeen := true } else s3)

end Sys2Proof.Machine
end

