-- ==== Sys2Proof/Machine/Keyed.lean ====
section
/-! DEFINITION. Keyed stages (08_engines_keyed.md R195 to R205, 19_program_keyed_aggregation.md R334 to R337): the six
words, the brood store's decisions, idle retirement and closing. -/

namespace Sys2Proof.Machine

/-! ### The stage descriptor and the template (R195) -/

/-- The number of a mask's bits that are 1. -/
def popCount (m : BitVec 16) : Nat := ((List.range 16).filter fun i => m.getLsbD i).length

def powerOfTwo (n : Nat) : Bool := n != 0 && n &&& (n - 1) == 0

/-- R195, R197: the fields of a stage descriptor pass. -/
def stageFieldsOk (d : Domain) (w : Nat → Word) : Bool :=
  let spn := ((w 2).extractLsb' 0 32).toNat
  windowOf (w 0).toNat == .image && (w 0).extractLsb' 0 7 == 0#7 && (w 1).extractLsb' 0 12 == 0#12 &&
  (w 2).extractLsb' 32 32 == 0#32 && powerOfTwo spn && decide (16 ≤ spn) && decide (spn ≤ 2 ^ 20) &&
  (w 3).extractLsb' 14 18 == 0#18 && (w 3).extractLsb' 3 5 == 0#5 && (w 4).extractLsb' 20 44 == 0#44 &&
  (w 4).extractLsb' 0 20 != 0#20 && decide (((w 4).extractLsb' 0 20).toNat < d.htlen) &&
  w 5 == 0 && w 6 == 0 && w 7 == 0

/-- R195: the fields of a template record pass. -/
def templateOk (w : Nat → Word) : Bool :=
  let mask := (w 2).extractLsb' 0 16
  (w 2).extractLsb' 16 48 == 0#48 && mask.extractLsb' 0 2 == 0#2 && decide (popCount mask ≤ 8) &&
  (List.range 5).all fun i => w (11 + i) == 0

/-- The registers of a mask, given the saved values in ascending order; the others are 0. -/
def maskedRegs (mask : BitVec 16) (vals : List Word) (i : Nat) : Word :=
  if mask.getLsbD i then vals.getD ((List.range i).filter fun j => mask.getLsbD j).length 0 else 0

/-! ### Counts and entries -/

/-- Adds one to a count of R205: 0 received, 1 instantiations, 2 spills, 3 fetches, 4 retirements, 5 refusals. -/
def Stage.count (g : Stage) (i : Nat) : Stage :=
  { g with counts := g.counts.zipIdx.map fun x => if x.2 = i then x.1 + 1 else x.1 }

/-- Changes a stage of a core. -/
def State.modStage (s : State) (c : CoreNo) (id : Nat) (f : Stage → Stage) : State :=
  let k := s.core c
  s.setCore { k with stages := k.stages.map fun g => if g.id = id then f g else g }

/-- Takes the entry of a key out of the brood store. -/
def State.dropBrood (s : State) (c : CoreNo) (id : Nat) (key : Word) : State :=
  let k := s.core c
  s.setCore { k with brood := k.brood.filter fun b => !(b.stage == id && b.key == key) }

/-- The entry of a key of a stage in the brood store. -/
def Core.broodOf (k : Core) (id : Nat) (key : Word) : Option Brood := k.brood.find? fun b => b.stage == id && b.key == key

/-- R337: an entry is freed. When the stage closes, an entry that was retiring counts for `kclose` (R204). -/
def State.retireEntry (s : State) (c : CoreNo) (id : Nat) (key : Word) : State :=
  let retiring := ((s.core c).broodOf id key).any fun b => b.life == .retiring
  (s.dropBrood c id key).modStage c id fun g =>
    let g1 := g.count 4
    if g.closing.isSome && retiring then { g1 with retiredByClose := g1.retiredByClose + 1 } else g1

/-! ### The spill area (R201) -/

/-- R201: the mixer of a key. -/
def mixKey (key : Word) : Word :=
  let z0 := key + 0x9E3779B97F4A7C15#64
  let z1 := (z0 ^^^ (z0 >>> 30)) * 0xBF58476D1CE4E5B9#64
  let z2 := (z1 ^^^ (z1 >>> 27)) * 0x94D049BB133111EB#64
  z2 ^^^ (z2 >>> 31)

/-- The record where a key's probe path begins. -/
def Stage.home (g : Stage) (key : Word) : Nat := (mixKey key).toNat % g.spn

/-- Address of a spill record. -/
def Stage.recordAt (g : Stage) (i : Nat) : Word := g.spill + BitVec.ofNat 64 (128 * i)

/-- What an access to a spill area answers: what it gives; that it has failed or found the area full, of which stage and
whether an access has failed; a page of a stage's area that is waited for; or that something stands ahead of it (R284). -/
inductive Spl (α : Type) where
  | ok (a : α) (s : State)
  | full (s : State) (stage : Nat) (failed : Bool)
  | held (stage : Nat) (m : Miss)
  | wait

def Spl.bind {α β : Type} (a : Spl α) (f : α → State → Spl β) : Spl β :=
  match a with
  | .ok x s => f x s
  | .full s g b => .full s g b
  | .held g m => .held g m
  | .wait => .wait

/-- Who makes an access to a stage's spill area: the core and the worker's thread. -/
def spillSource (s : State) (c : CoreNo) (n : ThreadNo) : Source :=
  { core := c, slot := ((s.thread? n).getD {}).slotNo.toNat, thread := n }

/-- An access to a stage's spill area, in the owning domain (R201). -/
def spillAccess {α : Type} (s : State) (c : CoreNo) (n : ThreadNo) (g : Stage) (kind : Acc1) (va : Word) (len : Nat)
    (go : List Nat → State → Spl α) : Spl α :=
  match engineAccess s c n g.dom g.held kind va len with
  | .bad _ _ => .full s g.id true
  | .held m => .held g.id m
  | .ok ps => if s.engineBehind c ps then .wait else go ps (s.useTr c n g.dom kind [(va, len)])

/-- Reads a spill record. -/
def spillRead (s : State) (c : CoreNo) (n : ThreadNo) (g : Stage) (i : Nat) : Spl (Nat → Word) :=
  spillAccess s c n g .read (g.recordAt i) 128 fun ps s1 =>
    let (bs, bad, fixed, s2) := s1.readBytes (spillSource s c n) 0 (g.recordAt i).toNat ps
    let s3 := s2.modThread n fun t => t.event 14 fixed
    if bad then .full s3 g.id true else .ok (fun j => leWord ((bs.drop (8 * j)).take 8)) s3

/-- Writes bytes of a spill record; a write that a damaged granule holds back is one that fails (R306). -/
def spillWrite (s : State) (c : CoreNo) (n : ThreadNo) (g : Stage) (va : Word) (bs : List Byte) : Spl Unit :=
  spillAccess s c n g .write va bs.length fun ps s1 =>
    let (bad, s2) := s1.writeBytes (spillSource s c n) 1 va.toNat ps bs
    if bad then .full s2 g.id true else .ok () s2

/-- ST of a record: 0 empty, 1 live, 2 vacated; above 2 reads as 2. -/
def recordSt (w : Nat → Word) : Nat := min 2 ((w 2).extractLsb' 56 8).toNat

/-- The 16 dwords of the spill record of an entry. -/
def Brood.record (b : Brood) : List Word :=
  [b.key, b.pc, (1#8 ++ b.pw ++ b.mask ++ b.age.extractLsb' 0 32 : Word)] ++
    (List.range 8).map (fun i => b.regs.getD i 0) ++ [0, 0, 0, 0, 0]

/-- The entry with the smallest age among idle ones (R336). -/
def oldestIdle (l : List Brood) : Option Brood :=
  (l.filter fun b => b.life == .idle).foldl (fun o b => match o with
    | none => some b
    | some a => if b.age.toNat < a.age.toNat then some b else some a) none

/-- R200, R201, R336: the victim of a decision that brings one more entry into the store: of a stage at LIMIT its least recently used
idle entry, of a full store the least recently used of all. None: no entry can make room, and the item waits. -/
def Core.room (k : Core) (g : Stage) : Option (Option Brood) :=
  let here := k.brood.filter fun b => b.life != .spilling
  let mine := here.filter fun b => b.stage == g.id
  let from_ (l : List Brood) : Option (Option Brood) := (oldestIdle l).map some
  if g.limit ≤ mine.length then from_ mine else if 64 ≤ here.length then from_ here else some none

/-! ### Running a coroutine (R198) -/

/-- A worker starts or resumes the coroutine of an entry. -/
def State.runEntry (s : State) (c : CoreNo) (n : ThreadNo) (g : Stage) (b : Brood) (x0 x1 : Word) (retire : Bool) : State :=
  let s1 := s.dropBrood c g.id b.key
  let k := (s1.core c).retryAll
  let s2 := s1.setCore { k with brood := k.brood ++ [{ b with life := if retire then .retiring else .running }] }
  s2.modThread n fun t => { t with
    x := regFile (fun i => if i = 0 then x0 else if i = 1 then x1 else maskedRegs b.mask b.regs i)
    pw := b.pw ||| 1, pc := (if retire then g.retire else b.pc) &&& ~~~3#64
    cb := (s.domain g.dom).dcb, st := g.stBits, taint := 0, pend := 0
    fmtA := g.shadow.1, fmtB := g.shadow.2.1, scA := g.shadow.2.2.1, scB := g.shadow.2.2.2.1, scC := g.shadow.2.2.2.2
    agv := 0x3F000000, agc := 0x8000, cen := false
    v := Vector.replicate 8 (Vector.replicate 32 0), streams := Vector.replicate 8 {}
    ports := Vector.replicate 6 {}, wait := none, granted := false, rejoin := some s.cyc
    worker := some { core := c, stage := g.id, key := some b.key } }

/-- R356, R358: a worker that got no context block at `kopen` takes one now; whether it has one. -/
def State.workerBlock (s : State) (c : CoreNo) (t : Thread) : State × Bool :=
  if (t.block? t.botdom).isSome then (s, true)
  else match allocPage s t t.botdom with
    | .full => (s, false)
    | .failed | .miss _ => (s.vdSticky t.vdid flagNOSAVE, false)
    | .ok s1 t1 => match s1.takeBlock c t1 t.botdom with
      | .ok s2 t2 => (s2.modThread t.num fun _ => t2, true)
      | .later ms => (s.allocMiss c t.num ms, false)
      | .failed s2 => (({ s with allocHeld := s2.allocHeld } : State).vdSticky t.vdid flagNOSAVE, false)
      | .full => (s, false)

/-- The workers of a stage that wait for a record, for which no decision is in progress. -/
def State.freeWorkers (s : State) (c : CoreNo) (g : Stage) : List Thread :=
  s.threads.filter fun t => t.inSlot && t.wait == some Wait.record &&
    t.worker == some { core := c, stage := g.id, key := none } && !((s.core c).decisions.any fun d => d.worker == t.num)

/-- The free workers of a stage that have their block, once those without one have tried to take it. -/
def State.readyWorkers (s : State) (c : CoreNo) (g : Stage) : State × List Thread :=
  (s.freeWorkers c g).foldl (fun p t =>
    let r := p.1.workerBlock c t
    (r.1, if r.2 then p.2 ++ [t] else p.2)) (s, [])

/-- An item that a stage may start: a record, or the key of an entry that is due, with payload words of 0. -/
abbrev Work := List Word

def Work.key (r : Work) : Word := r.getD 0 0

/-! ### Decisions (R200, R201, R336)

The store decides an item for a free worker: in that event the victim is chosen and the entry has its place. The spill-area traffic
follows, one access after another; a decision that waits for a page or its turn goes on at that access. -/

/-- The stage of a number on a core. -/
def Core.stage? (k : Core) (id : Nat) : Option Stage := k.stages.find? fun g => g.id == id

/-- The traffic of a fetch begins at the record of the key. -/
def Decision.lookFrom (d : Decision) (g : Stage) : SpillStep := .look (g.home d.key) g.spn

/-- The traffic of the victim's spill, if one is still to be spilled and its stage has not gone. -/
def Decision.spillFrom (d : Decision) (k : Core) : Option SpillStep :=
  d.victim.bind fun v => (k.stage? v.1).map fun h => .room (h.home v.2) h.spn

/-- The first access: the fetch's, but for a retirement that must spill first (R200, R336). -/
def Decision.start (d : Decision) (k : Core) (g : Stage) : Decision :=
  { d with next := (if d.retire then d.spillFrom k else none) <|> some (d.lookFrom g) }

/-- What follows the fetch: for a record the spill. -/
def Decision.fetched (d : Decision) (k : Core) (b : Option Brood) : Decision :=
  { d with entry := b, next := if d.retire then none else d.spillFrom k }

/-- What follows the spill: for a retirement the fetch. -/
def Decision.spilled (d : Decision) (g : Stage) : Decision :=
  { d with victim := none, next := if d.retire then some (d.lookFrom g) else none }

/-- A new coroutine, with the cycle of its decision as its age (R336). -/
def Decision.fresh (d : Decision) (g : Stage) : Brood :=
  { stage := g.id, key := d.key, pc := g.entry, pw := 1, mask := g.initMask, regs := g.initVals, age := d.at_, life := .idle }

/-- The entry of a spill record (R201). -/
def recordEntry (g : Stage) (ws : List Word) : Brood :=
  let w (j : Nat) : Word := ws.getD j 0
  { stage := g.id, key := w 0, pc := w 1, pw := (w 2).extractLsb' 48 8, mask := (w 2).extractLsb' 32 16
    regs := (List.range 8).map fun j => w (3 + j), age := ((w 2).extractLsb' 0 32).setWidth 64, life := .idle }

/-- One access of a decision's traffic. -/
def Decision.access (c : CoreNo) (g : Stage) (s : State) (d : Decision) : Spl Decision :=
  let k := s.core c
  match d.next with
  | none => .ok d s
  | some (.look _ 0) => .ok (d.fetched k (if d.retire then none else some (d.fresh g))) s
  | some (.look i (n + 1)) => (spillRead s c d.worker g i).bind fun w s1 =>
    if recordSt w = 0 then .ok (d.fetched k (if d.retire then none else some (d.fresh g))) s1
    else if recordSt w = 1 ∧ w 0 = d.key then .ok { d with next := some (.vacate i ((List.range 16).map w)) } s1
    else .ok { d with next := some (.look ((i + 1) % g.spn) n) } s1
  | some (.vacate i ws) => (spillWrite s c d.worker g (g.recordAt i + 0x17) [2]).bind fun _ s1 =>
    .ok { d.fetched k (some (recordEntry g ws)) with vacated := some i } s1
  | some (.room i left) => match d.victim.bind fun v => k.stage? v.1, left with
    | none, _ => .ok (d.spilled g) s
    | some h, 0 => .full s h.id false
    | some h, n + 1 => (spillRead s c d.worker h i).bind fun w s1 =>
      .ok { d with next := some (if recordSt w = 1 then .room ((i + 1) % h.spn) n else .put i) } s1
  | some (.put i) => match d.victim.bind fun v => (k.stage? v.1).bind fun h => (k.broodOf v.1 v.2).map fun b => (h, b) with
    | none => .ok (d.spilled g) s
    | some (h, b) =>
      let (s1, bad, _) := s.meetSpot (· == .brood c b.stage b.key)
      if bad then .full s1 h.id true
      else (spillWrite s1 c d.worker h (h.recordAt i) (wordsBytes b.record)).bind fun _ s2 =>
        .ok (d.spilled g) ((s2.dropBrood c h.id b.key).modStage c h.id fun h =>
          { h.count 2 with spilled := h.spilled ++ [(b.key, b.age.extractLsb' 0 32)] })

/-- A decision is over: the entry that it has brought runs. A key that was due and has gone brings none (R203). -/
def State.endDecision (s : State) (c : CoreNo) (g : Stage) (d : Decision) : State :=
  let s1 := s.setCore ((s.core c).cancel d)
  let s2 := s1.modStage c g.id fun g => { g with spilled := g.spilled.filter fun p => p.1 != d.key }
  match d.entry with
  | none => s2
  | some b =>
    let s3 := s2.modStage c g.id fun g =>
      let g1 := g.count (if d.vacated.isSome then 3 else 1)
      if d.retire then g1 else { g1 with queue := g1.queue.erase d.item }
    s3.runEntry c d.worker g b (d.item.getD 1 0) (d.item.getD 2 0) d.retire

/-- R201: an access of a decision has failed, or the area is full: the victim stays resident, the entry stays spilled, for which ST
of its record is made 1 again (DESIGN CHOICE, log entry 81), SPFULL is set, and the item waits until a later record or retirement
needs the access. -/
def State.failDecision (s : State) (c : CoreNo) (g : Stage) (d : Decision) (stage : Nat) (failed : Bool) : State :=
  let s1 := match d.vacated with
    | none => s
    | some i => match spillWrite s c d.worker g (g.recordAt i + 0x17) [1] with
      | .ok _ t => t
      | _ => s
  ((s1.setCore ((s1.core c).cancel d)).modStage c stage fun g => { g with spfull := true, failFlag := g.failFlag || failed }).modStage
    c g.id fun g => { g with failed := g.failed ++ [(d.key, d.retire)] }

/-- A decision stands as it is. -/
def State.putDecision (s : State) (c : CoreNo) (d : Decision) : State :=
  let k := s.core c
  s.setCore { k with decisions := putBy Decision.worker d k.decisions }

/-- A decision's traffic goes on as far as it can. -/
def State.runDecision (c : CoreNo) (g : Stage) : Nat → State → Decision → State
  | 0, s, d => s.putDecision c d
  | fuel + 1, s, d =>
    if d.next.isNone then s.endDecision c g d
    else match d.access c g s with
      | .ok d1 s1 => runDecision c g fuel s1 d1
      | .full s1 stage failed => s1.failDecision c g d stage failed
      | .held stage m => ((s.holdPage d.worker c m).modStage c stage fun g => { g with held := Held.add g.held m }).putDecision c d
      | .wait => s.putDecision c d

/-- More accesses than a decision's traffic has. -/
def State.traffic (s : State) (c : CoreNo) (g : Stage) (d : Decision) : Nat :=
  g.spn + ((d.victim.bind fun v => (s.core c).stage? v.1).map Stage.spn).getD 0 + 8

/-- The stage whose area the next access of a decision uses. -/
def Decision.area (d : Decision) : Nat := match d.next with
  | some (.room _ _) | some (.put _) => (d.victim.map Prod.fst).getD d.stage
  | _ => d.stage

/-- A decision may go on: its worker stands in its slot, and the area's pages are not waited for. -/
def State.mayGoOn (s : State) (c : CoreNo) (d : Decision) : Bool :=
  ((s.thread? d.worker).any Thread.inSlot) && !(((s.core c).stage? d.area).any fun g => Held.waits s g.held)

/-- R200: a worker takes an item. A key that is resident and idle resumes at once; an uncorrectable error in its entry is one of the
worker's registers (R305; DESIGN CHOICE, log entry 81). For another the victim is chosen and the traffic begins. None: its
key is busy, or no entry can make room. -/
def State.decideItem (s : State) (c : CoreNo) (n : ThreadNo) (g : Stage) (item : Work) (retire : Bool) : Option State :=
  let k := s.core c
  let taken (s : State) : State := if retire then s else s.modStage c g.id fun g => { g with queue := g.queue.erase item }
  match k.broodOf g.id item.key with
  | some b =>
    if b.life ≠ .idle then none
    else
      let (s1, bad, fixed) := s.meetEntry (.brood c g.id item.key)
      let s2 := (taken s1).runEntry c n g b (item.getD 1 0) (item.getD 2 0) retire
      some (s2.modThread n fun t => { t.event 14 fixed with doom := if bad then some true else t.doom })
  | none => (k.room g).map fun v =>
    let d : Decision := { stage := g.id, worker := n, item := item, retire := retire, at_ := s.cyc
                          victim := v.map fun b => (b.stage, b.key) }
    let spill (b : Brood) : Brood := if d.victim = some (b.stage, b.key) then { b with life := .spilling } else b
    let s1 := s.setCore { k with brood := k.brood.map spill ++ [{ d.fresh g with life := .fetching }] }
    s1.runDecision c g (s1.traffic c g d) (d.start (s1.core c) g)

/-- R200: the first item of a stage that the store may start, for a free worker. One whose key is busy, or for which no room can be
made, lets the next pass. -/
def State.takeItem (s : State) (c : CoreNo) (g : Stage) (retire : Bool) (t : Thread) : List Work → Option State
  | [] => none
  | r :: rs => (s.decideItem c t.num g r retire) <|> s.takeItem c g retire t rs

/-- The first record of each key. -/
def firstPerKey : List Work → List Work
  | [] => []
  | r :: rs => r :: (firstPerKey rs).filter fun q => q.key != r.key

/-- The records of a stage that may be started: the first of each key that is not busy and not waiting after a failure. -/
def State.startable (s : State) (c : CoreNo) (g : Stage) : List Work :=
  (firstPerKey g.queue).filter fun r => !g.failed.contains (r.key, false) &&
    match (s.core c).broodOf g.id r.key with
    | none => true
    | some b => b.life == .idle

/-- One stage's turn: its first free worker takes the first item that it may. True: something has been decided. -/
def State.stageTurn (c : CoreNo) (retire : Bool) (items : State → CoreNo → Stage → List Work) (g : Stage) (s : State) :
    State × Bool :=
  match items s c g with
  | [] => (s, false)
  | l => let r := s.readyWorkers c g
    match r.2 with
    | [] => (r.1, false)
    | t :: _ => match r.1.takeItem c g retire t l with
      | none => (r.1, false)
      | some s1 => (s1, true)

/-- The stages of a core in turn, until one has started something. -/
def State.stageTurns (c : CoreNo) (retire : Bool) (items : State → CoreNo → Stage → List Work) : List Stage → State → State
  | [], s => s
  | g :: gs, s =>
    let r := s.stageTurn c retire items g
    if r.2 then r.1 else r.1.stageTurns c retire items gs

/-- R200: a decision in progress goes on; else the store decides the next record. -/
def execBroodDecision (c : CoreNo) (s : State) : Out1 :=
  match (s.core c).decisions.find? (s.mayGoOn c) with
  | some d => match (s.core c).stage? d.stage with
    | none => .next (s.setCore ((s.core c).cancel d))
    | some g => .next (s.runDecision c g (s.traffic c g d) d)
  | none => .next (s.stageTurns c false State.startable (s.core c).stages)

/-! ### Idle retirement and closing (R203, R204) -/

/-- The idle entries of a stage, resident and spilled, with the cycles for which each has been idle. -/
def State.idleEntries (s : State) (c : CoreNo) (g : Stage) : List (Word × Nat) :=
  let here := (s.core c).brood.filter fun b => b.stage == g.id && b.life == .idle
  here.map (fun b => (b.key, (s.cyc - b.age).toNat)) ++
    g.spilled.map fun p => (p.1, (s.cyc.extractLsb' 0 32 - p.2).toNat)

/-- Closing retires whatever is left, once the queue is empty. -/
def Stage.closingNow (g : Stage) : Bool := g.closing.isSome && g.queue.isEmpty

/-- A key with its idle time, put before those that have been idle for less. -/
def insertIdle (p : Word × Nat) : List (Word × Nat) → List (Word × Nat)
  | [] => [p]
  | q :: r => if q.2 ≤ p.2 then p :: q :: r else q :: insertIdle p r

/-- The entries of a stage that are due to retire, the longest idle first: those idle beyond IDLE, or all when a close
retires what is left; but for those that wait after a failure. -/
def State.dueItems (s : State) (c : CoreNo) (g : Stage) : List Work :=
  let due := (s.idleEntries c g).filter fun p => !g.failed.contains (p.1, true) &&
    (g.closingNow || (g.idle != 0#32 && decide (g.idle.toNat < p.2)))
  (due.foldr insertIdle []).map fun p => [p.1, 0, 0]

/-- R204: nothing is left of a closing stage. -/
def State.stageDone (s : State) (c : CoreNo) (g : Stage) : Bool :=
  g.closingNow && g.spilled.isEmpty && !((s.core c).brood.any fun b => b.stage == g.id) &&
  s.threads.all fun t => t.worker.all fun w => !(w.core == c && w.stage == g.id) || w.key.isNone

/-- R204 step 5: the workers are freed, and `kclose` gets its count. -/
def State.finishClose (s : State) (c : CoreNo) (g : Stage) : State :=
  let mine := (s.threads.filter fun t => t.worker.any fun w => w.core == c && w.stage == g.id).map Thread.num
  let s1 := mine.foldl (fun (s : State) n => s.endThread n .quit) s
  let k := s1.core c
  let s2 := s1.setCore { k with stages := k.stages.filter fun h => h.id != g.id }
  match g.closing with
  | none => s2
  | some n => s2.modThread n fun t => { t.retests with closed := some g.retiredByClose }

/-- R203, R204: an entry that has been idle for longer than IDLE, or that a close retires, resumes at RETIRE; a stage that
has nothing left is closed. -/
def execIdleRetirement (c : CoreNo) (s : State) : Out1 :=
  match (s.core c).stages.find? (s.stageDone c) with
  | some g => .next (s.finishClose c g)
  | none => .next (s.stageTurns c true State.dueItems (s.core c).stages)

/-! ### The words -/

/-- R380: the keyed group is ILLEGAL where the VD has not accepted keyed stages. -/
def keyed (s : State) (g : KReg) (r : Res) : Res :=
  guarded s g (if s.feature s.cur.vdid 3 then r else .trap .illegal s.bundle)


/-- A worker of a stage, before its first coroutine. -/
def Stage.worker (g : Stage) (c : CoreNo) (n : SlotNo) (num : ThreadNo) : Thread :=
  { num := num, place := .slot c n, dom := g.dom, botdom := g.dom, vdid := g.vd, chgvd := g.vd, wait := some .record
    worker := some { core := c, stage := g.id, key := none } }

/-- What came of starting a worker: the state; an allocation that has failed, with the pages still waited for; or, for a
thread of that number, pages that stage 2 does not map. -/
inductive WorkerStart where
  | ok (s : State)
  | failed (held : Held)
  | later (n : ThreadNo) (ms : List Miss)

/-- R197, R356, R358: a worker takes its slot, hardware page and context block; without a free one it takes the slot, and
the block later. -/
def State.startWorker (s : State) (c : CoreNo) (g : Stage) (n : SlotNo) : WorkerStart :=
  let t := g.worker c n s.freshNumber
  let bare : WorkerStart := .ok (({ s with others := s.others ++ [t], nextThread := t.num + 1 }).saveExhausted g.vd c)
  match allocPage s t t.dom with
  | .full => bare
  | .failed | .miss _ => .failed s.allocHeld
  | .ok s1 t1 =>
    match s1.takeBlock c t1 t.dom with
    | .full => bare
    | .failed s2 => .failed s2.allocHeld
    | .later ms => .later t.num ms
    | .ok s2 t2 => .ok { s2 with others := s2.others ++ [t2], nextThread := t.num + 1 }

/-- The workers of a new stage, in ascending slots. -/
def State.startWorkers (s : State) (c : CoreNo) (g : Stage) : List SlotNo → WorkerStart
  | [] => .ok s
  | n :: ns => match s.startWorker c g n with
    | .ok s1 => s1.startWorkers c g ns
    | r => r

/-- The stage that a descriptor and a template describe. -/
def stageFrom (s : State) (k : Core) (d : Domain) (w v : Nat → Word) : Stage :=
  let t := s.cur
  let e := s.hentry d ((w 4).extractLsb' 0 20).toNat
  { id := k.nextStage, dom := d.num, vd := d.vd, hslot := (w 4).extractLsb' 0 20, gen := e.gen + 1, entry := v 0
    retire := v 1, initMask := (v 2).extractLsb' 0 16, initVals := (List.range 8).map fun i => v (3 + i)
    spill := w 1, spn := ((w 2).extractLsb' 0 32).toNat, idle := (w 3).extractLsb' 32 32
    limit := ((w 3).extractLsb' 8 6).toNat + 1, workers := [], stBits := t.st &&& 0x1F#64
    shadow := (t.fmtA, t.fmtB, t.scA, t.scB, t.scC) }

/-- R197: installs the stage and its handle, with the workers that run it. -/
def State.openStage (s : State) (g : Stage) (slots : List SlotNo) : WorkerStart :=
  let c := s.cur.core
  let k := s.core c
  match (s.setCore { k with stages := k.stages ++ [g], nextStage := k.nextStage + 1 }).startWorkers c g slots with
  | .ok s1 =>
    let mine := s1.threads.filter fun t => t.worker.any fun w => w.core == c && w.stage == g.id
    let s2 := s1.modStage c g.id fun g => { g with workers := mine.map Thread.num }
    let d := s2.domain g.dom
    .ok ((s2.setHentry d { slot := g.hslot.toNat, kind := 3, gen := g.gen, odom := g.dom, core := c, addr := 0 }).linkStage
      g.dom g.hslot.toNat g.id)
  | r => r

/-- The end of `kopen` that opens nothing. -/
def kopenStatus (s : State) (d : XReg) (tnt : Bool) (status : Nat) : Res :=
  let v := BitVec.ofNat 64 (status * 2 ^ 32)
  destX s d v fun s1 => .done ((s1.setX d v tnt).inFlight)

/-- The dwords of a list by number. -/
def wordAt (ws : List Word) (i : Nat) : Word := ws.getD i 0

/-- R197: what a stage descriptor and its template, read by the thread, open. A slot that waits for the pages of a
worker's block has opened nothing yet (R358). -/
def openFrom (s : State) (d : XReg) (tnt : Bool) (w v : Nat → Word) (asked : State) : Res :=
  let c := s.cur.core
  let dom := s.domain s.cur.dom
  let nw := ((w 3).extractLsb' 0 3).toNat + 1
  let free := s.freeSlots c dom.vd
  let slot := ((w 4).extractLsb' 0 20).toNat
  if !templateOk v then kopenStatus s d tnt 3
  else if !presentAll (dom.htbase + 16 * slot) 16 then .moved s.saveLost
  else if (s.hentry dom ((w 4).extractLsb' 0 20).toNat).kind ≠ 0 then kopenStatus s d tnt 4
  else if 4 ≤ (s.core c).stages.length then kopenStatus s d tnt 2
  else if free.length < nw then kopenStatus s d tnt 1
  else
    let st := stageFrom s (s.core c) dom w v
    let h : Word := 0#32 ++ st.hslot ++ st.gen
    match (s.readEntries dom [slot]).openStage st (free.take nw) with
    | .later n ms => .park .held (asked.allocMiss c n ms)
    | .failed held => kopenStatus (({ s with allocHeld := held } : State).vdSticky dom.vd flagNOSAVE) d tnt 5
    | .ok s1 => destX s1 d h fun s2 => .done ((s2.setX d h tnt).inFlight)

/-- R197. -/
def execKopen (g : KReg) (d a : XReg) (s : State) : Out1 :=
  finish s (keyed s g (legal s [a] [d] (useX s a fun desc tnt s0 => accessAligned s0 .read desc 64 fun ps s1 =>
    let (ws, s2) := s1.readDwords desc ps
    let w := wordAt ws
    if !stageFieldsOk (s2.domain s2.cur.dom) w then kopenStatus s2 d tnt 3
    else access s2 .read (w 0) 128 fun qs s3 =>
      let (vs, s4) := s3.readDwords (w 0) qs
      openFrom s4 d tnt w (wordAt vs) s)))

/-- R199. -/
def execKput (g : KReg) (a b : XReg) (s : State) : Out1 :=
  finish s (keyed s g (if 13 < b.toNat then .trap .illegal s.bundle else
    legal s (a :: (List.range 3).map fun i => b + BitVec.ofNat 4 i) [] (
      useX s a fun h _ s1 => useRun s1 b.toNat 3 fun vs s2 => useEntry s2 h 3 fun e s3 =>
        if !s3.canStage s3.cur.core then .hold none
        else .done (s3.stage {
          sender := s3.cur.num, dom := s3.cur.dom, dest := h, stage := some (e.core, s3.linkOf s3.cur.dom e.slot)
          payload := vs, nacks := 0, due := s3.cyc, refused := false }))))

/-- oc is 0 (R16): nothing of the thread is outstanding. -/
def Thread.quiet (t : Thread) : Bool := t.ldo == 0 && t.sto == 0 && t.cpo == 0 && t.tlo == 0

/-- R273: the mask of the safe point at the bundle in hand. -/
def State.safeHere (s : State) : Option (BitVec 16) :=
  let t := s.cur
  (s.domain t.dom).image.bind fun im => safeMask s (combOf t.core) t.dom im.safe.toNat (t.pc - im.text).toNat im.safeLen 0

/-- The registers of a mask, in ascending order. -/
def Thread.masked (t : Thread) (m : BitVec 16) : List Word :=
  ((List.range 16).filter fun i => m.getLsbD i).map fun i => t.x.toList.getD i 0

/-- The worker is free for its next record. What waits after a failure on the spill area is tried again. -/
def State.freeWorker (s : State) : State :=
  let s1 := s.setCore (s.core s.cur.core).retryAll
  { s1 with cur := { s.cur with
      wait := some .record, worker := s.cur.worker.map fun w => { w with key := none }
      pc := s.cur.pc + 4, lastPc := s.cur.pc } }

/-- R202: what keeps a worker from suspending; the mask of its safe point otherwise. -/
def kwaitCheck (s : State) (w : Worker) : Except (Cause × Word) (BitVec 16) :=
  let t := s.cur
  if t.depth ≠ 0#4 then .error (.prot, 0x40002)
  else if t.intent.isSome then .error (.prot, 0x40003)
  else match s.safeHere with
    | none => .error (.prot, 0x40004)
    | some m =>
      let m2 := m &&& 0xFFFC#16
      if 8 < popCount m2 then .error (.prot, 0x40004)
      else if s.heldHere then .error (.portbound, w.key.getD 0)
      else .ok m2

/-- R202: the coroutine is suspended with the registers of a mask. An entry that its stage's close has resumed at RETIRE is
released instead (R204). -/
def State.suspend (s : State) (w : Worker) (m : BitVec 16) : State :=
  let t := s.cur
  let key := w.key.getD 0
  let ending := ((s.core w.core).broodOf w.stage key).any fun b => b.life == .retiring
  let closing := ((s.core w.core).stages.find? fun g => g.id == w.stage).any fun g => g.closing.isSome
  if ending && closing then s.retireEntry w.core w.stage key
  else
    let k := s.core w.core
    let save (b : Brood) : Brood :=
      if b.stage = w.stage ∧ b.key = key then
        { b with pc := t.pc + 4, pw := t.pw, mask := m, regs := t.masked m, age := s.cyc, life := .idle }
      else b
    s.setCore { k with brood := k.brood.map save }

/-- R202. -/
def execKwait (g : KReg) (s : State) : Out1 :=
  finish s (keyed s g (match s.cur.worker with
    | none => .trap .prot 0x40001
    | some w => match kwaitCheck s w with
      | .error e => .trap e.1 e.2
      | .ok m => if !s.cur.quiet then .wait else .moved (s.suspend w m).freeWorker))

/-- R203. The levels and ports that the coroutine leaves are released (log entry 21). -/
def execKend (g : KReg) (s : State) : Out1 :=
  finish s (keyed s g (match s.cur.worker with
    | none => .trap .prot 0x40001
    | some w =>
      if !s.cur.quiet || s.cur.vbusy then .wait
      else
        let s1 := s.leaveTo s.cur 0
        let s2 := s1.releasePorts s1.cur (if s.cur.depth = 0#4 then s.cur.ports.toList else [])
        let t := s2.cur
        let d := s2.domain t.botdom
        let s3 := { s2 with cur := { t with
          dom := t.botdom, vdid := d.vd, depth := 0, top := none, gates := [], susp := [], trapOpen := 0, deferOver := false
          ports := Vector.replicate 6 {}, vcmd := none } }
        .moved (s3.retireEntry w.core w.stage (w.key.getD 0)).freeWorker))

/-- A stage handle of the current domain (R204, R205). -/
def ownStage (s : State) (h : Word) (k : HEntry → State → Res) : Res :=
  useEntry s h 3 fun e s1 => if e.odom ≠ s1.cur.dom then .trap .prot 0x40007 else k e s1

/-- R204. -/
def execKclose (g : KReg) (d a : XReg) (s : State) : Out1 :=
  finish s (keyed s g (legal s [a] [d] (match s.cur.closed with
    | some n => useX s a fun _ tnt s1 => destX s1 d n fun s2 =>
        let s3 := s2.setX d n tnt
        .done { s3 with cur := { s3.cur with closed := none } }
    | none => useX s a fun h tnt s1 => ownStage s1 h fun e s2 => destX s2 d 0 fun s3 =>
        let dn := s3.cur.dom
        let id := s3.linkOf dn e.slot
        if s3.cur.worker.any fun w => w.core == e.core && w.stage == id then .trap .prot 0x40006
        else
          let s4 := s3.dropEntry (s3.domain dn) e.slot
          match s3.stageOf dn e with
          | none => .done ((s4.setX d 0 tnt).inFlight)
          | some g => .park .closing
              ({ s4 with popped := [] }.modStage e.core g.id fun g => { g with closing := some s3.cur.num, failed := [] }))))

/-- R205: selector 1. From its decision on a victim counts as spilled and the entry that is fetched as resident (R200). -/
def Stage.summary (k : Core) (g : Stage) : Word :=
  let mine := k.brood.filter fun b => b.stage == g.id && b.life != .spilling
  let out := (g.spilled.filter fun p => !(mine.any fun b => b.key == p.1)).length +
    (k.brood.filter fun b => b.stage == g.id && b.life == .spilling).length
  let flags := BitVec.ofBool g.failFlag ++ BitVec.ofBool g.refusedFlag ++ BitVec.ofBool g.spfull ++ BitVec.ofBool g.closing.isSome
  BitVec.ofNat 8 mine.length ++ BitVec.ofNat 8 (mine.filter fun b => b.life == .running || b.life == .retiring).length ++
    BitVec.ofNat 8 g.queue.length ++ (flags.setWidth 8) ++ BitVec.ofNat 32 out

/-- R205. -/
def execKstat (g : KReg) (d a b : BitVec 4) (s : State) : Out1 :=
  finish s (keyed s g (
    if 7 < b.toNat then .trap .illegal s.bundle
    else if b = 0#4 then legal s [] [d] (putX s d ((s.cur.worker.bind Worker.key).getD 0) false)
    else legal s [a] [d] (useX s a fun h tnt s0 => ownStage s0 h fun e s1 =>
      let g := s1.stageOf s1.cur.dom e
      let v := match g with
        | none => 0
        | some g => if b = 1#4 then Stage.summary (s1.core e.core) g else g.counts.getD (b.toNat - 2) 0
      destX s1 d v fun s2 =>
        let s3 := match g with
          | some g => if b = 1#4 then s2.modStage e.core g.id fun g => { g with refusedFlag := false, failFlag := false } else s2
          | none => s2
        .done ((s3.setX d v tnt).inFlight))))

end Sys2Proof.Machine
end

