-- ==== Sys2Proof/Machine/Vector.lean ====
section
/-! DEFINITION. The vector unit (06_vector_streams.md): AV words, streams, lane arithmetic, beats, gathers and scatters,
errors; and how it waits for walks (20_program_guest_gather.md R339 to R342). A beat acts as a whole. -/

namespace Sys2Proof.Machine

/-! ### Roles of operands (R127, R133) -/

/-- Stochastic rounding for `vcvt` with mode field `m` (R137): 4, or 7 with RM = 4. -/
def cvtStoch (m rm : BitVec 3) : Bool := m == 4#3 || (m == 7#3 && rm == 4#3)

/-- What a command does with its vector registers: those it reads as va and vb, vd if it writes one, whether it also
reads vd, and whether va and vb, and vd, may be bound. -/
structure Roles where
  srcs : List VReg
  dst : Option VReg
  readsDst : Bool := false
  srcBound : Bool := true
  dstBound : Bool := true
  deriving DecidableEq, Repr

/-- R127: the roles of a command's registers; none for a word that is no command with beats. `rm` is st.RM. -/
def vectorRoles (rm : BitVec 3) : Instr → Option Roles
  | .vadd v a b _ | .vsub v a b _ | .vmul v a b _ | .vmin v a b _ | .vmax v a b _ => some { srcs := [a, b], dst := some v }
  | .vand v a b | .vor v a b | .vxor v a b => some { srcs := [a, b], dst := some v }
  | .vshl v a b _ | .vshr v a b _ | .vsar v a b _ => some { srcs := [a, b], dst := some v }
  | .vcmp v a b _ _ => some { srcs := [a, b], dst := some v }
  | .vfma v a b _ => some { srcs := [a, b], dst := some v, readsDst := true, dstBound := false }
  | .vsel v a b => some { srcs := [a, b], dst := some v, readsDst := true, dstBound := false }
  | .vabs v a _ | .vneg v a _ => some { srcs := [a], dst := some v }
  | .vcvtFromF32 v a b _ m => some { srcs := if cvtStoch m rm then [a, b] else [a], dst := some v }
  | .vcvtToF32 v a b _ m => some { srcs := if cvtStoch m rm then [a, b] else [a], dst := some v }
  | .vex2 v a b _ => some { srcs := [a, b], dst := some v }
  | .vrcp v a | .vrsq v a => some { srcs := [a], dst := some v }
  | .vredSum v a _ | .vredMax v a _ | .vredMin v a _ => some { srcs := [a], dst := some v, dstBound := false }
  | .vbcast v _ _ => some { srcs := [], dst := some v }
  | .vget a _ _ _ => some { srcs := [a], dst := none, srcBound := false }
  | .vperm v a b => some { srcs := [a, b], dst := some v, srcBound := false, dstBound := false }
  | .vpack v a _ | .vunpack v a _ => some { srcs := [a], dst := some v, srcBound := false, dstBound := false }
  | .vgath v a _ _ _ => some { srcs := [a], dst := some v, srcBound := false, dstBound := false }
  | .vscat a b _ _ _ => some { srcs := [a, b], dst := none, srcBound := false }
  | _ => none

/-- A register's binding. -/
def Thread.stream (t : Thread) (r : VReg) : Stream := t.streams[r.toNat]'r.isLt
def Thread.setStream (t : Thread) (r : VReg) (b : Stream) : Thread := { t with streams := t.streams.set r.toNat b r.isLt }
def Thread.lanes (t : Thread) (r : VReg) : Lanes := t.v[r.toNat]'r.isLt
def Thread.setLanes (t : Thread) (r : VReg) (l : Lanes) : Thread := { t with v := t.v.set r.toNat l r.isLt }

/-- R133: the word uses a bound register as it must not. -/
def Roles.illegal (t : Thread) (o : Roles) : Bool :=
  (o.srcs.any fun r => (t.stream r).bound && (!o.srcBound || (t.stream r).push)) ||
  (o.dst.any fun r => (t.stream r).bound && (o.readsDst || !o.dstBound || !(t.stream r).push))

/-- The bound registers that a command names, each once. -/
def Roles.bound (t : Thread) (o : Roles) : List VReg := ((o.srcs ++ o.dst.toList).dedup).filter fun r => (t.stream r).bound

/-! ### AV words (R126) -/

/-- R126: an AV word waits for VBUSY = 0, is checked, and sets VLIVE at retirement. -/
def avWord (s : State) (r : Res) : Out1 := finish s (if s.cur.vbusy then .wait else r)

/-- The thread with VLIVE set. -/
def State.live (s : State) : State := { s with cur := { s.cur with st := putBit s.cur.st stVLIVE true } }

/-- R126: hands a command to the unit with the values of xs and xt, and with the modes as the bundle found them (R15, R36).
Where word 0 of the pair has cleared the v registers, the command computes with them as the bundle found them; the bindings
that it has cleared are gone (DESIGN CHOICE, log entry 66). -/
def State.hand (s : State) (i : Instr) (xs xt : Word) : State :=
  let s1 := s.live
  let t := s1.cur
  let r := s.rd
  let c : VCmd := { instr := i, xs := xs, xt := xt, rm := r.rm, fzs := r.fzs, fzr := r.fzr, dom := t.dom
                    unread := (vectorRoles r.rm i).any fun o => !(o.bound t).isEmpty
                    old := if r.v = t.v then none else some r.v }
  { s1 with cur := { t with vcmd := some c } }

/-- R126, R133: a command with no x operand. -/
def command (s : State) (i : Instr) : Out1 :=
  avWord s (if ((vectorRoles s.rd.rm i).any fun o => o.illegal s.rd) then .trap .illegal s.bundle
    else .done (s.hand i 0 0))

/-- R126, R133: a command that reads x(xs). -/
def commandX (s : State) (i : Instr) (xs : XReg) : Out1 :=
  avWord s (legal s [xs] [] (if ((vectorRoles s.rd.rm i).any fun o => o.illegal s.rd) then .trap .illegal s.bundle
    else useX s xs fun a _ s1 => .done (s1.hand i a 0)))

/-- R126, R133: a command that reads x(xs) and x(xt). -/
def commandXX (s : State) (i : Instr) (xs xt : XReg) : Out1 :=
  avWord s (legal s [xs, xt] [] (if ((vectorRoles s.rd.rm i).any fun o => o.illegal s.rd) then .trap .illegal s.bundle
    else useXX s xs xt fun a b _ s1 => .done (s1.hand i a b)))

/-- R134. -/
def execVadd (v a b : VReg) (y : BitVec 4) (s : State) : Out1 := command s (.vadd v a b y)
/-- R134. -/
def execVsub (v a b : VReg) (y : BitVec 4) (s : State) : Out1 := command s (.vsub v a b y)
/-- R134. -/
def execVmul (v a b : VReg) (y : BitVec 4) (s : State) : Out1 := command s (.vmul v a b y)
/-- R134. -/
def execVfma (v a b : VReg) (y : BitVec 4) (s : State) : Out1 := command s (.vfma v a b y)
/-- R134. -/
def execVmin (v a b : VReg) (y : BitVec 4) (s : State) : Out1 := command s (.vmin v a b y)
/-- R134. -/
def execVmax (v a b : VReg) (y : BitVec 4) (s : State) : Out1 := command s (.vmax v a b y)
/-- R134. -/
def execVabs (v a : VReg) (y : BitVec 4) (s : State) : Out1 := command s (.vabs v a y)
/-- R134. -/
def execVneg (v a : VReg) (y : BitVec 4) (s : State) : Out1 := command s (.vneg v a y)
/-- R135. -/
def execVand (v a b : VReg) (s : State) : Out1 := command s (.vand v a b)
/-- R135. -/
def execVor (v a b : VReg) (s : State) : Out1 := command s (.vor v a b)
/-- R135. -/
def execVxor (v a b : VReg) (s : State) : Out1 := command s (.vxor v a b)
/-- R135. -/
def execVshl (v a b : VReg) (y : BitVec 4) (s : State) : Out1 := command s (.vshl v a b y)
/-- R135. -/
def execVshr (v a b : VReg) (y : BitVec 4) (s : State) : Out1 := command s (.vshr v a b y)
/-- R135. -/
def execVsar (v a b : VReg) (y : BitVec 4) (s : State) : Out1 := command s (.vsar v a b y)
/-- R135. -/
def execVsel (v a b : VReg) (s : State) : Out1 := command s (.vsel v a b)
/-- R136. -/
def execVcmp (v a b : VReg) (c : BitVec 3) (y : BitVec 4) (s : State) : Out1 := command s (.vcmp v a b c y)
/-- R137. -/
def execVcvtFromF32 (v a b : VReg) (y : BitVec 4) (m : BitVec 3) (s : State) : Out1 := command s (.vcvtFromF32 v a b y m)
/-- R137. -/
def execVcvtToF32 (v a b : VReg) (y : BitVec 4) (m : BitVec 3) (s : State) : Out1 := command s (.vcvtToF32 v a b y m)
/-- R139. -/
def execVex2 (v a b : VReg) (x : XReg) (s : State) : Out1 := commandX s (.vex2 v a b x) x
/-- R140. -/
def execVrcp (v a : VReg) (s : State) : Out1 := command s (.vrcp v a)
/-- R140. -/
def execVrsq (v a : VReg) (s : State) : Out1 := command s (.vrsq v a)
/-- R141. -/
def execVredSum (v a : VReg) (y : BitVec 4) (s : State) : Out1 := command s (.vredSum v a y)
/-- R141. -/
def execVredMax (v a : VReg) (y : BitVec 4) (s : State) : Out1 := command s (.vredMax v a y)
/-- R141. -/
def execVredMin (v a : VReg) (y : BitVec 4) (s : State) : Out1 := command s (.vredMin v a y)
/-- R142. -/
def execVbcast (v : VReg) (x : XReg) (y : BitVec 4) (s : State) : Out1 := commandX s (.vbcast v x y) x
/-- R142: x(xt) is pending from handoff until the lane is written. -/
def execVget (a : VReg) (x d : XReg) (y : BitVec 4) (s : State) : Out1 :=
  avWord s (legal s [x] [d] (if ((vectorRoles s.rd.rm (.vget a x d y)).any fun o => o.illegal s.rd) then .trap .illegal s.bundle
    else useX s x fun v _ s1 => destX s1 d 0 fun s2 =>
      let s3 := s2.hand (.vget a x d y) v 0
      .done { s3 with cur := { s3.cur with pend := s3.cur.pend ||| (1#16 <<< d.toNat) } }))
/-- R142. -/
def execVperm (v a b : VReg) (s : State) : Out1 := command s (.vperm v a b)
/-- R143. -/
def execVpack (v a : VReg) (y : BitVec 4) (s : State) : Out1 := command s (.vpack v a y)
/-- R143. -/
def execVunpack (v a : VReg) (y : BitVec 4) (s : State) : Out1 := command s (.vunpack v a y)
/-- R144. -/
def execVgath (v a : VReg) (x z : XReg) (y : BitVec 4) (s : State) : Out1 := commandXX s (.vgath v a x z y) x z
/-- R144. -/
def execVscat (a b : VReg) (x z : XReg) (y : BitVec 4) (s : State) : Out1 := commandXX s (.vscat a b x z y) x z

/-- R131: `vbind` records the descriptor's address and position 0, and writes 0 to all lanes. -/
def bindStream (s : State) (v : VReg) (x : XReg) (push : Bool) : Out1 :=
  avWord s (legal s [x] [] (useX s x fun a _ s1 =>
    if a.extractLsb' 0 6 ≠ 0#6 then .trap .align a
    else
      let s2 := s1.live
      let t := (s2.cur.setStream v { bound := true, push := push, desc := a, pos := 0 }).setLanes v (Vector.replicate 32 0)
      .done { s2 with cur := t }))

/-- R131. -/
def execVbindPop (v : VReg) (x : XReg) (s : State) : Out1 := bindStream s v x false
/-- R131. -/
def execVbindPush (v : VReg) (x : XReg) (s : State) : Out1 := bindStream s v x true
/-- R131: the register keeps the last lanes that passed. -/
def execVunbind (v : VReg) (s : State) : Out1 :=
  let s1 := s.live
  avWord s (.done { s1 with cur := s1.cur.setStream v {} })
/-- R147: `vfence` issues only when VBUSY = 0, and that is all. -/
def execVfence (s : State) : Out1 := avWord s (.done s.live)

/-! ### Lanes (R134 to R140) -/

/-- What a command computes with: the modes that it latched (R126, R15). -/
structure Modes where
  rm : BitVec 3
  fzs : Bool
  fzr : Bool

/-- The mode in which arithmetic rounds: stochastic counts as RNE (R134, R141). -/
def Modes.mode (m : Modes) : Mode := match modeOf m.rm with
  | .stoch => .rne
  | x => x

/-- A float source, flushed under FZS (R134). -/
def Modes.src (m : Modes) (f : Fmt) (v : Nat) : Num := decodeF f (flush f m.fzs (v % 2 ^ f.width))

/-- A value rounded into a format, with FZR (R134). -/
def Modes.round (m : Modes) (f : Fmt) (mode : Mode) (rand : Nat) (x : Num) : Nat := (roundNum f mode rand m.fzr x).1

/-- The arithmetic group (R134): 0 add, 1 sub, 2 mul, 3 fma, 4 min, 5 max, 6 abs, 7 neg. `d` is vd's lane. -/
def arithLane (m : Modes) (op : Nat) (y : BitVec 4) (a b d : Word32) : Word32 :=
  let w := typeWidth y
  let x := a.toNat % 2 ^ w
  let z := b.toNat % 2 ^ w
  match typeFloat y with
  | some f =>
    let rd := m.mode == .rd
    let r (n : Num) : Nat := m.round f m.mode 0 n
    extendLane y (match op with
      | 0 => r ((m.src f x).add rd (m.src f z))
      | 1 => r ((m.src f x).add rd (m.src f z).neg)
      | 2 => r ((m.src f x).mul (m.src f z))
      | 3 => r ((m.src f x).fma rd (m.src f z) (m.src f d.toNat))
      | 4 => minMax f false (flush f m.fzs x) (flush f m.fzs z)
      | 5 => minMax f true (flush f m.fzs x) (flush f m.fzs z)
      | 6 => x % 2 ^ (w - 1)
      | _ => (x + 2 ^ (w - 1)) % 2 ^ w)
  | none =>
    let sg := typeSigned y
    let i := toInt sg w x
    let j := toInt sg w z
    extendLane y (match op with
      | 0 => (x + z) % 2 ^ w
      | 1 => (x + 2 ^ w - z) % 2 ^ w
      | 2 => x * z % 2 ^ w
      | 3 => (x * z + d.toNat) % 2 ^ w
      | 4 => if j < i then z else x
      | 5 => if i < j then z else x
      | 6 => ofInt w (i.natAbs : Int)
      | _ => (2 ^ w - x) % 2 ^ w)

/-- R135: shifts by the natural amount in bits [7:0] of vb's lane: 0 left, 1 logical right, 2 arithmetic right. -/
def shiftLane (op : Nat) (y : BitVec 4) (a b : Word32) : Word32 :=
  let w := typeWidth y
  let n := b.toNat % 256
  let x := a.toNat % 2 ^ w
  extendLane y (match op with
    | 0 => shlAt w x n
    | 1 => shrAt w x n
    | _ => sarAt w x n)

/-- R136: conditions by code: 0 eq, 1 ne, 2 lt, 3 le, 4 gt, 5 ge, 6 un. -/
def compareLane (m : Modes) (c : BitVec 3) (y : BitVec 4) (a b : Word32) : Word32 :=
  let w := typeWidth y
  let r := match typeFloat y with
    | some f =>
      let p := m.src f a.toNat
      let q := m.src f b.toNat
      let nan := p.isNan || q.isNan
      match c.toNat with
      | 0 => p.eq q
      | 1 => !(p.eq q)
      | 2 => !nan && p.lt q
      | 3 => !nan && (p.lt q || p.eq q)
      | 4 => !nan && q.lt p
      | 5 => !nan && (q.lt p || p.eq q)
      | _ => nan
    | none =>
      let i := toInt (typeSigned y) w a.toNat
      let j := toInt (typeSigned y) w b.toNat
      match c.toNat with
      | 0 => decide (i = j)
      | 1 => decide (i ≠ j)
      | 2 => decide (i < j)
      | 3 => decide (i ≤ j)
      | 4 => decide (j < i)
      | 5 => decide (j ≤ i)
      | _ => false
  if r then 0xFFFFFFFF else 0

/-- The mode of `vcvt` (R137). -/
def Modes.cvt (m : Modes) (f : BitVec 3) : Mode := modeOf (if f = 7#3 then m.rm else f)

/-- R137: F32 to a type. -/
def fromF32Lane (m : Modes) (y : BitVec 4) (f : BitVec 3) (a b : Word32) : Word32 :=
  let x := m.src .f32 a.toNat
  match typeFloat y with
  | some g => extendLane y (m.round g (m.cvt f) b.toNat x)
  | none =>
    let w := typeWidth y
    let lo : Int := if typeSigned y then -(2 ^ (w - 1) : Nat) else 0
    let hi : Int := if typeSigned y then (2 ^ (w - 1) : Nat) - 1 else (2 ^ w : Nat) - 1
    extendLane y (ofInt w (match x with
      | .nan _ => 0
      | .inf neg => if neg then lo else hi
      | .fin neg n d => clampInt lo hi (roundInt (m.cvt f) b.toNat neg n d).1))

/-- R137: a type to F32. -/
def toF32Lane (m : Modes) (y : BitVec 4) (f : BitVec 3) (a b : Word32) : Word32 :=
  BitVec.ofNat 32 (match typeFloat y with
    | some g => m.round .f32 (m.cvt f) b.toNat (m.src g a.toNat)
    | none =>
      let i := toInt (typeSigned y) (typeWidth y) a.toNat
      m.round .f32 (m.cvt f) b.toNat (.fin (decide (i < 0)) i.natAbs 1))

/-- R139. -/
def ex2Lane (m : Modes) (xs : Word) (a b : Word32) : Word32 :=
  let y := ((m.src .f32 a.toNat).add false (m.src .f32 b.toNat).neg).mul (m.src .f32 (low32 xs))
  BitVec.ofNat 32 (flush .f32 m.fzr (exp2 y))

/-- R140. -/
def specialLane (m : Modes) (root : Bool) (a : Word32) : Word32 :=
  let x := m.src .f32 a.toNat
  BitVec.ofNat 32 (m.round .f32 .rne 0 (if root then rsqrt x else recip x))

/-- The lane of a command that computes each lane by itself, from va's lane, vb's lane and vd's lane. -/
def laneOf (m : Modes) (xs : Word) : Instr → Word32 → Word32 → Word32 → Word32
  | .vadd _ _ _ y, a, b, d => arithLane m 0 y a b d
  | .vsub _ _ _ y, a, b, d => arithLane m 1 y a b d
  | .vmul _ _ _ y, a, b, d => arithLane m 2 y a b d
  | .vfma _ _ _ y, a, b, d => arithLane m 3 y a b d
  | .vmin _ _ _ y, a, b, d => arithLane m 4 y a b d
  | .vmax _ _ _ y, a, b, d => arithLane m 5 y a b d
  | .vabs _ _ y, a, b, d => arithLane m 6 y a b d
  | .vneg _ _ y, a, b, d => arithLane m 7 y a b d
  | .vand _ _ _, a, b, _ => a &&& b
  | .vor _ _ _, a, b, _ => a ||| b
  | .vxor _ _ _, a, b, _ => a ^^^ b
  | .vshl _ _ _ y, a, b, _ => shiftLane 0 y a b
  | .vshr _ _ _ y, a, b, _ => shiftLane 1 y a b
  | .vsar _ _ _ y, a, b, _ => shiftLane 2 y a b
  | .vsel _ _ _, a, b, d => (d &&& a) ||| (~~~d &&& b)
  | .vcmp _ _ _ c y, a, b, _ => compareLane m c y a b
  | .vcvtFromF32 _ _ _ y f, a, b, _ => fromF32Lane m y f a b
  | .vcvtToF32 _ _ _ y f, a, b, _ => toF32Lane m y f a b
  | .vex2 _ _ _ _, a, b, _ => ex2Lane m xs a b
  | .vrcp _ _, a, _, _ => specialLane m false a
  | .vrsq _ _, a, _, _ => specialLane m true a
  | .vbcast _ _ y, _, _, _ => extendLane y (xs.extractLsb' 0 32).toNat
  | _, _, _, d => d

/-- R142: `vperm`. -/
def permLanes (a b : List Word32) : List Word32 := b.map fun i => a.getD (i.toNat % 32) 0

/-- R143: `vpack`. -/
def packLanes (y : BitVec 4) (a : List Word32) : List Word32 :=
  let w := typeWidth y
  let e := 32 / w
  (List.range (32 / e)).map (fun j => BitVec.ofNat 32
    (((List.range e).map fun i => (a.getD (e * j + i) 0).toNat % 2 ^ w * 2 ^ (w * i)).foldl (· + ·) 0))
  ++ List.replicate (32 - 32 / e) 0

/-- R143: `vunpack`. -/
def unpackLanes (y : BitVec 4) (a : List Word32) : List Word32 :=
  let w := typeWidth y
  let e := 32 / w
  (List.range 32).map fun i => extendLane y ((a.getD (i / e) 0).toNat / 2 ^ (w * (i % e)) % 2 ^ w)

/-! ### Reductions (R141) -/

/-- The exact sum of F32 elements, rounded once. -/
def sumF32 (m : Modes) (l : List Word32) : Word32 :=
  let xs := l.map fun v => m.src .f32 v.toNat
  let allNegZero := !xs.isEmpty && xs.all fun x => x.isZero && x.sign
  if xs.any Num.isNan || (xs.contains (.inf true) && xs.contains (.inf false)) then BitVec.ofNat 32 Fmt.f32.nan
  else if xs.contains (.inf true) then BitVec.ofNat 32 (signed .f32 true Fmt.f32.inf)
  else if xs.contains (.inf false) then BitVec.ofNat 32 Fmt.f32.inf
  else match xs.foldl (Num.add false) (.fin false 0 1) with
    | .fin neg n d =>
      if n = 0 then
        BitVec.ofNat 32 (signed .f32 (allNegZero || (m.mode == .rd && !xs.isEmpty)) 0)
      else BitVec.ofNat 32 (m.round .f32 m.mode 0 (.fin neg n d))
    | _ => BitVec.ofNat 32 Fmt.f32.nan

/-- The sum of elements of a type. -/
def reduceSum (m : Modes) (y : BitVec 4) (l : List Word32) : Word32 :=
  if y = 7#4 then sumF32 m l else l.foldl (· + ·) 0

/-- The largest or smallest element of a type. NaNs are ignored; of nothing else, the canonical NaN. -/
def reduceMax (m : Modes) (y : BitVec 4) (wantMax : Bool) (l : List Word32) : Word32 :=
  match typeFloat y with
  | some f =>
    match l.map fun v => flush f m.fzs (v.toNat % 2 ^ f.width) with
    | [] => extendLane y (signed f wantMax f.inf)
    | a :: r => extendLane y ((a :: r).foldl (minMax f wantMax) f.nan)
  | none =>
    let w := typeWidth y
    let sg := typeSigned y
    let lo : Int := if sg then -(2 ^ (w - 1) : Nat) else 0
    let hi : Int := if sg then (2 ^ (w - 1) : Nat) - 1 else (2 ^ w : Nat) - 1
    extendLane y (ofInt w ((l.map fun v => toInt sg w v.toNat).foldl (fun p q => if wantMax then max p q else min p q)
      (if wantMax then lo else hi)))

/-- What a reduction gives; none for other commands. -/
def reduction (m : Modes) : Instr → List Word32 → Option Word32
  | .vredSum _ _ y, l => some (reduceSum m y l)
  | .vredMax _ _ y, l => some (reduceMax m y true l)
  | .vredMin _ _ y, l => some (reduceMax m y false l)
  | _, _ => none

/-! ### Streams (R130) -/

/-- A stream as its descriptor gives it. -/
structure StreamView where
  ws : List Word

def StreamView.dw (v : StreamView) (i : Nat) : Word := v.ws.getD i 0
def StreamView.n0 (v : StreamView) : Nat := ((v.dw 1).extractLsb' 0 32).toNat
def StreamView.n1 (v : StreamView) : Nat := ((v.dw 1).extractLsb' 32 32).toNat
def StreamView.n2 (v : StreamView) : Nat := ((v.dw 2).extractLsb' 0 32).toNat
def StreamView.type (v : StreamView) : BitVec 4 := (v.dw 2).extractLsb' 32 4
def StreamView.length (v : StreamView) : Nat := v.n0 * v.n1 * v.n2
/-- Bytes of an element. -/
def StreamView.bytes (v : StreamView) : Nat := typeWidth v.type / 8

/-- A bad descriptor. -/
def StreamView.bad (v : StreamView) : Bool :=
  (v.dw 2).extractLsb' 36 28 != 0#28 || v.dw 6 != 0#64 || v.dw 7 != 0#64 || decide (9 < v.type.toNat) ||
  decide (2 ^ 48 ≤ v.length)

/-- The address of element `e`. -/
def StreamView.addr (v : StreamView) (e : Nat) : Word :=
  let i0 := e % v.n0
  let r := e / v.n0
  v.dw 0 + BitVec.ofNat 64 i0 * v.dw 3 + BitVec.ofNat 64 (r % v.n1) * v.dw 4 + BitVec.ofNat 64 (r / v.n1) * v.dw 5

/-! ### Errors (R146) -/

/-- OPC: bits [29:24] of the AV word. -/
def opcOf (i : Instr) : Nat := (((i.encode 1).getD 0).extractLsb' 24 6).toNat

/-- An error of a command is reported: cause, failing lanes, address. -/
def State.vectorError (s : State) (n : ThreadNo) (c : VCmd) (cause lanes : Nat) (a : Word) : State :=
  s.postReport n 3 c.dom (BitVec.ofNat 64 (2 ^ 48 + cause * 2 ^ 40 + opcOf c.instr * 2 ^ 32 + lanes)) a

/-- The thread with a command in progress. -/
def Thread.withVcmd (t : Thread) (c : VCmd) : Thread := { t with vcmd := some c }

/-- Changes the command in progress. -/
def State.setVcmd (s : State) (n : ThreadNo) (c : VCmd) : State := s.modThread n fun t => t.withVcmd c

/-- The command stops with an error. -/
def State.vectorStop (s : State) (n : ThreadNo) (c : VCmd) (cause lanes : Nat) (a : Word) : State :=
  (s.vectorError n c cause lanes a).setVcmd n { c with finished := true, waits := [] }

/-- The lanes of a register as the command reads them. -/
def VCmd.lanes (c : VCmd) (t : Thread) (r : VReg) : Lanes := (c.old.getD t.v)[r.toNat]'r.isLt

/-- A register's last 32 lanes that passed: those it holds of `was`, then the new ones (R131). -/
def passed (old : List Word32) (was : Nat) (new : List Word32) : List Word32 :=
  let all := old.take (min was 32) ++ new
  let l := all.drop (all.length - 32)
  l ++ List.replicate (32 - l.length) 0

/-- 32 lanes of a list. -/
def lanesOf (l : List Word32) : Lanes := vecOf fun i => l.getD i 0

/-! ### Checks and walks (R99, R145, R339) -/

/-- What the checks of an element or lane answer. -/
inductive VChk where
  | ok (ps : List Nat)
  | bad (cause : Nat) (va : Word)
  /-- It needs pages that the comb's translation cache does not hold: the domain and the address of each. -/
  | walk (pages : List (DomNo × Nat))
  deriving DecidableEq, Repr

/-- A page that a walk is for. -/
abbrev WalkPage := DomNo × BitVec 36

def walkPageOf (p : DomNo × Nat) : WalkPage := (p.1, BitVec.ofNat 36 (p.2 / 65536))

/-- The pages in which an access of a command lies, with an address in each (R146). -/
def elementPages (s : State) (t : Thread) (dm : DomNo) (acc : Acc1) (a : Word) (bytes : Nat) : List (DomNo × Nat) :=
  pagesOf s t acc (depthOf s t dm) dm a.toNat bytes

/-- One element's checks: its alignment, R99, and an uncorrectable error, which stops a read, and a write that does not
cover the granule (R104, R306). A page that the comb's cache does not hold needs a walk (R339). -/
def elementCheck (s : State) (t : Thread) (dm : DomNo) (acc : Acc1) (a : Word) (bytes : Nat) : VChk :=
  let c := combOf t.core
  let miss := (elementPages s t dm acc a bytes).filter fun p => (s.tlbAt c p.1 (p.2 / 65536)).isNone
  if a.toNat % bytes ≠ 0 then .bad 5 a
  else if !miss.isEmpty then .walk miss
  else match checkAs s c t dm acc a bytes with
    | .trap cause v => .bad (causeCode cause) (BitVec.ofNat 64 v)
    | .miss m => .walk [(m.dom, m.va)]
    | .ok ps =>
      if ps.any (s.barredAs 3 t.core) then .bad 1 a
      else if (if acc == .read then s.fatalAt ps else !(ps.all (s.writable ps))) then .bad causeECC a
      else .ok ps

/-- An uncorrectable error that a command's access meets is counted and recorded (R305). -/
def State.meetElement (s : State) (t : Thread) (dm : DomNo) (acc : Acc1) (a : Word) (bytes : Nat) : State :=
  match checkAs s (combOf t.core) t dm acc a bytes with
  | .ok ps => (s.meet (s.damage.filter fun d => d.fatal && ps.any d.spot.holds)).1
  | _ => s

/-- Pages among checks that need walks. -/
def VChk.pages : VChk → List (DomNo × Nat)
  | .walk ps => ps
  | _ => []

/-- Failures among checks. -/
def VChk.fail? : VChk → Option (Nat × Word)
  | .bad c a => some (c, a)
  | _ => none

def VChk.phys : VChk → List Nat
  | .ok ps => ps
  | _ => []

def VChk.isWalk (c : VChk) : Bool := !c.pages.isEmpty

/-- R339, R365: a walk is asked for. All misses of a hive for a page of a domain share one; `va` is the lowest address of
those that miss now. -/
def State.askWalk (s : State) (t : Thread) (acc : Acc1) (d : DomNo) (va : Nat) : State :=
  let page := BitVec.ofNat 36 (va / 65536)
  let mine (w : Walk) : Bool := w.hive == hiveOf t.core && w.dom == d && w.page == page
  if s.walks.any mine then
    let join (w : Walk) : Walk := if mine w then { w with combs := (w.combs ++ [combOf t.core]).eraseDups } else w
    { s with walks := s.walks.map join }
  else
    let w : Walk := { hive := hiveOf t.core, combs := [combOf t.core], dom := d, page := page, thread := t.num, core := t.core
                      va := BitVec.ofNat 64 va, kind := reqKind false acc }
    { s with walks := s.walks ++ [w] }

/-- The least of some numbers. -/
def leastNat : List Nat → Nat
  | [] => 0
  | a :: r => r.foldl min a

/-- A command waits for the walks of some pages, each asked for once, for the lowest address in it. -/
def State.vectorWait (s : State) (n : ThreadNo) (t : Thread) (c : VCmd) (l : List (Acc1 × DomNo × Nat)) : State :=
  let pages := (l.map fun p => walkPageOf p.2).eraseDups
  let new := pages.filter fun p => !c.waits.contains p
  let ask (s : State) (p : WalkPage) : State :=
    let here := l.filter fun q => walkPageOf q.2 == p
    s.askWalk t ((here.map Prod.fst).headD .read) p.1 (leastNat (here.map fun q => q.2.2))
  (new.foldl ask s).modThread n fun u => (u.event 10 new.length : Thread).withVcmd { c with waits := c.waits ++ new }

/-! ### Beats (R129, R132) -/

/-- Elements of a beat: the register, the lane, whether it is pushed, the address and the width in bytes. -/
structure Element where
  reg : VReg
  lane : Nat
  push : Bool
  addr : Word
  bytes : Nat

/-- The elements of the next `cnt` lanes of the bound registers. -/
def beatElements (t : Thread) (c : VCmd) (cnt : Nat) : List Element :=
  c.descs.flatMap fun d =>
    let v : StreamView := ⟨d.2⟩
    let b := t.stream d.1
    (List.range cnt).map fun j =>
      { reg := d.1, lane := j, push := b.push, addr := v.addr (b.pos.toNat + j), bytes := v.bytes }

/-- The failure with the lowest address: where lanes or elements of one beat fail with several causes, its cause is reported
(DESIGN CHOICE, log entry 67). -/
def lowest (l : List (Nat × Word)) : Nat × Word :=
  match l with
  | [] => (0, 0)
  | a :: r => r.foldl (fun p q => if q.2.toNat < p.2.toNat then q else p) a

/-- Lanes as a number, each once. -/
def laneMask (l : List Nat) : Nat := (l.dedup.map fun j => 2 ^ j).foldl (· + ·) 0

/-- A byte as the pops of a thread's command see it: not what the command has pushed itself (R132), unless another party has
written it since (R241). -/
def State.popByte (s : State) (n : ThreadNo) (p : Nat) : Byte :=
  ((s.pushed.find? fun e => e.1 == n && e.2.1 == p).map fun e => e.2.2).getD (memGet s.mem p)

/-- The bytes that a command pushes to, with what its pops see there from now on (R132). -/
def State.keepPushed (s : State) (n : ThreadNo) (ps : List Nat) : List (ThreadNo × Nat × Byte) :=
  ps.eraseDups.map fun p => (n, p, s.popByte n p)

/-- A thread's command is over: what it has pushed counts as any write does. -/
def State.endPushes (s : State) (n : ThreadNo) : State := { s with pushed := s.pushed.filter fun e => e.1 != n }

/-- A command's modes. -/
def VCmd.modes (c : VCmd) : Modes := ⟨c.rm, c.fzs, c.fzr⟩

/-- The lanes that a beat takes from a register: the popped elements, or what it holds. -/
def beatSource (c : VCmd) (t : Thread) (pops : List (VReg × List Word32)) (r : VReg) : List Word32 :=
  (pops.lookup r).getD (c.lanes t r).toList

/-- A beat's results for its first `cnt` lanes, from the lanes of its operands. -/
def beatLanes (c : VCmd) (t : Thread) (pops : List (VReg × List Word32)) (o : Roles) (cnt : Nat) : List Word32 :=
  let a := beatSource c t pops (o.srcs.getD 0 0)
  let b := beatSource c t pops (o.srcs.getD 1 0)
  let d := (c.lanes t (o.dst.getD 0)).toList
  match c.instr with
  | .vperm _ _ _ => permLanes a b
  | .vpack _ _ y => packLanes y a
  | .vunpack _ _ y => unpackLanes y a
  | i => (List.range cnt).map fun j => laneOf c.modes c.xs i (a.getD j 0) (b.getD j 0) (d.getD j 0)

/-- R142: the lane that `vget` gives. -/
def getLane (c : VCmd) (y : BitVec 4) (l : Lanes) : Word :=
  let v := l.toList.getD (c.xs.toNat % 32) 0
  if y = 4#4 then v.signExtend 64 else v.setWidth 64

/-- A beat of a command whose checks have passed: pops are read, lanes are computed, pushes are written. -/
def State.performBeat (s : State) (n : ThreadNo) (t : Thread) (c : VCmd) (o : Roles) (cnt : Nat)
    (es : List (Element × List Nat)) : State :=
  let src : Source := { core := t.core, slot := t.slotNo.toNat, thread := n }
  let value (e : Element) (ps : List Nat) : Word32 :=
    let y := ((c.descs.lookup e.reg).map fun ws => (StreamView.mk ws).type).getD 0
    extendLane y (leWord (ps.map (s.popByte n))).toNat
  let pops : List (VReg × List Word32) := (c.descs.map Prod.fst).filterMap fun r =>
    if (t.stream r).push then none
    else some (r, (es.filter fun e => e.1.reg == r).map fun e => value e.1 e.2)
  let s1 := s.noteReads src 6 ((es.filter fun e => !e.1.push).map fun e => (e.1.addr.toNat, e.2))
  let out := beatLanes c t pops o cnt
  let pushes := es.filter fun e => e.1.push
  let w := pushes.foldl (fun (s : State) (e : Element × List Nat) =>
    (s.writeBytes src 7 e.1.addr.toNat e.2 (wordBytes ((out.getD e.1.lane 0).setWidth 64) e.1.bytes)).2) s1
  let s2 : State := { w with pushed := w.pushed ++ s.keepPushed n (pushes.flatMap Prod.snd) }
  let acc := match reduction c.modes c.instr [] with
    | none => []
    | some _ => c.elems ++ (beatSource c t pops (o.srcs.getD 0 0)).take cnt
  let done := c.done + cnt
  let last := decide (c.len ≤ done)
  let c1 : VCmd := { c with done := done, elems := acc, finished := last }
  let advance (t : Thread) : Thread := c.descs.foldl (fun (t : Thread) d =>
    let b := t.stream d.1
    let l := if b.push then out else (pops.lookup d.1).getD []
    (t.setLanes d.1 (lanesOf (passed (t.lanes d.1).toList b.pos.toNat (l.take cnt)))).setStream d.1
      { b with pos := b.pos + BitVec.ofNat 64 cnt }) t
  let write (t : Thread) : Thread := match reduction c.modes c.instr acc, o.dst with
    | some r, some d => if last then t.setLanes d (Vector.replicate 32 r) else t
    | none, some d => if (t.stream d).bound then t else t.setLanes d (lanesOf out)
    | _, none => t
  let s3 := s2.modThread n fun t => { (write (advance t)).event 6 1 with vcmd := some c1 }
  match c.instr with
  | .vget a _ d y =>
    (s3.modThread n fun u => { u with pend := u.pend &&& ~~~(1#16 <<< d.toNat) }).asThread n fun u =>
      u.setX d (getLane c y (c.lanes t a)) false
  | _ => s3

/-- R146: popped elements that met an uncorrectable error are all ones before extension: the bound register's lane takes that,
though the beat stops (DEDUCED, log entry 75). -/
def State.onesElements (s : State) (n : ThreadNo) (es : List Element) (c : VCmd) : State :=
  s.modThread n fun t => es.foldl (fun (t : Thread) e =>
    let y := ((c.descs.lookup e.reg).map fun ws => (StreamView.mk ws).type).getD 0
    t.setLanes e.reg (lanesOf ((t.lanes e.reg).toList.set e.lane (extendLane y (2 ^ (8 * e.bytes) - 1))))) t

/-- R132, R145, R146: the next beat of a command: it waits for the walks of pages that the cache does not hold, also where
another element is sure to fail (DESIGN CHOICE, log entry 67); it stops on a failure, or is performed. It comes after what
its core has queued at its homes (R327). -/
def State.nextBeat (s : State) (n : ThreadNo) (t : Thread) (c : VCmd) (o : Roles) : State :=
  let cnt := min 32 (c.len - c.done)
  let es := beatElements t c cnt
  let acc (e : Element) : Acc1 := if e.push then .write else .read
  let chk := es.map fun e => (e, elementCheck s t c.dom (acc e) e.addr e.bytes)
  let bad := chk.filterMap fun x => x.2.fail?.map fun f => (x.1.lane, f)
  if chk.any fun x => x.2.isWalk then s.vectorWait n t c (chk.flatMap fun x => x.2.pages.map fun p => (acc x.1, p))
  else if !bad.isEmpty then
    let f := lowest (bad.map Prod.snd)
    let met := (chk.filter fun x => x.2.fail?.map Prod.fst == some causeECC).map Prod.fst
    let s1 := met.foldl (fun (s : State) e => s.meetElement t c.dom (acc e) e.addr e.bytes) s
    (s1.onesElements n (met.filter fun e => !e.push) c).vectorStop n c f.1 (laneMask (bad.map Prod.fst)) f.2
  else if s.engineBehind t.core (chk.flatMap fun x => x.2.phys) then s
  else (es.foldl (fun (s : State) e => s.useTr t.core n c.dom (acc e) [(e.addr, e.bytes)]) s).performBeat n t c o cnt
    (chk.map fun x => (x.1, x.2.phys))

/-- R129 to R132, R146: the command starts: the descriptors of its bound registers are read, as plain loads of the thread, for
which its later accesses wait (R240, R245), and the command's length is known.
Of two that fail, the first in the order va, vb, vd is reported (DESIGN CHOICE, log entry 67). -/
def State.startCommand (s : State) (n : ThreadNo) (t : Thread) (c : VCmd) (o : Roles) : State :=
  let ds := (o.bound t).map fun r => (r, elementCheck s t c.dom .read (t.stream r).desc 64)
  let views := ds.map fun d => (d.1, (cut 8 8 (d.2.phys.map (memGet s.mem))).map leWord)
  let src : Source := t.recSource
  let seen := (s.useTr t.core n c.dom .read (ds.map fun d => ((t.stream d.1).desc, 64))).noteReads src 0
    ((ds.filter fun d => d.2.fail?.isNone).map fun d => ((t.stream d.1).desc.toNat, d.2.phys))
  if ds.any fun d => d.2.isWalk then s.vectorWait n t c (ds.flatMap fun d => d.2.pages.map fun p => (.read, p))
  else if s.engineBehind t.core (ds.flatMap fun d => d.2.phys) then s
  else match (ds.zip views).find? fun x => x.1.2.fail?.isSome || (StreamView.mk x.2.2).bad with
    | some x =>
      let cause := match x.1.2.fail? with
        | some f => f.1
        | none => causeDESC
      let met := if cause = causeECC then seen.meetElement t c.dom .read (t.stream x.1.1).desc 64 else seen
      met.vectorStop n c cause 0 (t.stream x.1.1).desc
    | none =>
      let len := match views with
        | [] => 32
        | a :: r =>
          let left (v : VReg × List Word) : Nat := (StreamView.mk v.2).length - (t.stream v.1).pos.toNat
          r.foldl (fun m v => min m (left v)) (left a)
      let s1 := seen
      let c1 : VCmd := { c with started := true, descs := views, len := len, waits := [], unread := false }
      if len = 0 then
        let empty (u : Thread) : Thread := match reduction c.modes c.instr [], o.dst with
          | some r, some d => u.setLanes d (Vector.replicate 32 r)
          | _, _ => u
        s1.modThread n fun u => (empty u).withVcmd { c1 with finished := true }
      else s1.nextBeat n t c1 o

/-! ### Gathers and scatters (R144, R145, R341) -/

/-- The lanes that a gather or scatter performs, with their addresses; `idx` the lanes of the index register. -/
def gatherLanes (c : VCmd) (scat : Bool) (idx : List Word32) : List (Nat × Word) :=
  let cnt := min 32 c.xt.toNat
  let all := (List.range cnt).map fun j => (j, c.xs + (idx.getD j 0).signExtend 64 * 4#64)
  if scat then all.filter fun x => !(all.any fun y => x.1 < y.1 && x.2 == y.2) else all

/-- A gather's or scatter's access, and its index register. -/
def gatherForm : Instr → Option (Acc1 × VReg)
  | .vgath _ a _ _ _ => some (.read, a)
  | .vscat _ b _ _ _ => some (.write, b)
  | _ => none

/-- The lanes still to be performed, with their addresses. -/
def VCmd.lanesLeft (c : VCmd) (t : Thread) (acc : Acc1) (idx : VReg) : List (Nat × Word) :=
  (gatherLanes c (acc == .write) (c.lanes t idx).toList).filter fun x => c.todo.getLsbD x.1

/-- One lane is performed. -/
def State.lane (s : State) (n : ThreadNo) (t : Thread) (c : VCmd) (j : Nat) (a : Word) (ps : List Nat) : State :=
  let src : Source := { core := t.core, slot := t.slotNo.toNat, thread := n }
  match c.instr with
  | .vgath v _ _ _ _ =>
    let x := BitVec.ofNat 32 (leWord (ps.map (memGet s.mem))).toNat
    (s.noteReads src 6 [(a.toNat, ps)]).modThread n fun u => u.setLanes v (lanesOf ((u.lanes v).toList.set j x))
  | .vscat d _ _ _ _ => (s.writeBytes src 7 a.toNat ps (wordBytes (((c.lanes t d).toList.getD j 0).setWidth 64) 4)).2
  | _ => s

/-- R341: lanes in the order in which they issue: page by page in the order of the lowest lane, ascending within a page; the
lanes come in ascending order. -/
def pageMajor (l : List (Nat × Word × List Nat)) : List (Nat × Word × List Nat) :=
  let page (x : Nat × Word × List Nat) : Nat := x.2.1.toNat / 65536
  ((l.map page).eraseDups.map fun p => l.filter fun x => page x == p).flatten

/-- R146: lanes of a gather or scatter fail together: those of `vgath` read 0. -/
def State.failLanes (s : State) (n : ThreadNo) (c : VCmd) (bad : List (Nat × Nat × Word)) : State :=
  if bad.isEmpty then s
  else
    let zero (u : Thread) (j : Nat) : Thread := match c.instr with
      | .vgath v _ _ _ _ => u.setLanes v (lanesOf ((u.lanes v).toList.set j 0))
      | _ => u
    let f := lowest (bad.map Prod.snd)
    (s.modThread n fun u => (bad.map Prod.fst).foldl zero u).vectorError n c f.1 (laneMask (bad.map Prod.fst)) f.2

/-- R144, R145, R341: of the lanes still to be performed, but for those on pages that the command waits for (R340, R370), those
whose pages the comb's cache holds are performed or fail, and walks are asked for the others. None: something stands ahead of
them (R327). -/
def State.gatherRound (s : State) (n : ThreadNo) (t : Thread) (c : VCmd) (acc : Acc1) (idx : VReg) : Option State :=
  let all := c.lanesLeft t acc idx
  let awaits (x : Nat × Word) : Bool := (elementPages s t c.dom acc x.2 4).any fun p => c.waits.contains (walkPageOf p)
  let chk := (all.filter fun x => !awaits x).map fun x => (x, elementCheck s t c.dom acc x.2 4)
  let ready := chk.filter fun x => !x.2.isWalk && x.2.fail?.isNone
  let walks := chk.filter fun x => x.2.isWalk
  let left := (all.filter awaits).map Prod.fst ++ walks.map fun x => x.1.1
  if s.engineBehind t.core (ready.flatMap fun x => x.2.phys) then none
  else
    let s0 := s.useTr t.core n c.dom acc (ready.map fun x => (x.1.2, 4))
    let s1 := (pageMajor (ready.map fun x => (x.1.1, x.1.2, x.2.phys))).foldl (fun (s : State) x => s.lane n t c x.1 x.2.1 x.2.2) s0
    let met := chk.filter fun x => x.2.fail?.map Prod.fst == some causeECC
    let s1 := met.foldl (fun (s : State) x => s.meetElement t c.dom acc x.1.2 4) s1
    let s2 := s1.failLanes n c (chk.filterMap fun x => x.2.fail?.map fun f => (x.1.1, f))
    let c1 : VCmd := { c with
      started := true, todo := BitVec.ofNat 32 (laneMask left), finished := left.isEmpty }
    some ((s2.modThread n fun u => if c.started then u else u.event 6 1).vectorWait n t c1
      (walks.flatMap fun x => x.2.pages.map fun p => (acc, p)))

/-! ### What becomes of a walk (R145, R146, R340) -/

/-- The command of a thread waits for the walk of a page. -/
def Thread.awaits (t : Thread) (p : WalkPage) : Bool := t.vcmd.any fun c => c.waits.contains p

/-- The command no longer waits for a page. -/
def VCmd.drop (c : VCmd) (p : WalkPage) : VCmd := { c with waits := c.waits.filter fun q => q != p }

/-- R145, R340: a page that a command waits for is mapped: the lanes on it are performed. Of a stream's beat, the unit grants
it once it waits for nothing more. None: something stands ahead (R327). -/
def State.vectorMapped (s : State) (n : ThreadNo) (p : WalkPage) : Option State :=
  match s.thread? n with
  | none => some s
  | some t => match t.vcmd with
    | none => some s
    | some c => match gatherForm c.instr with
      | some (acc, idx) => s.gatherRound n t (c.drop p) acc idx
      | none => some (s.setVcmd n (c.drop p))

/-- R145, R146, R369: a walk or a reply refuses a page: the lanes on it fail with the cause, or the beat or the descriptor
read does, at once. -/
def State.vectorFail (s : State) (n : ThreadNo) (p : WalkPage) (cause : Nat) : State :=
  match s.thread? n with
  | none => s
  | some t => match t.vcmd with
    | none => s
    | some c =>
      if !c.waits.contains p then s
      else
        let on (acc : Acc1) (a : Word) (bytes : Nat) : Bool :=
          (elementPages s t c.dom acc a bytes).any fun q => walkPageOf q == p
        -- R99, R210: what the caller's tables refuse is PROT in the argument window.
        let as_ (a : Word) : Nat := if cause = causeCode .faultS1 ∧ windowOf a.toNat = .arg then causeCode .prot else cause
        match gatherForm c.instr with
        | some (acc, idx) =>
          let bad := (c.lanesLeft t acc idx).filter fun x => on acc x.2 4
          let todo := c.todo &&& ~~~(BitVec.ofNat 32 (laneMask (bad.map Prod.fst)))
          let c1 : VCmd := { c.drop p with todo := todo }
          (s.failLanes n c (bad.map fun x => (x.1, as_ x.2, x.2))).setVcmd n
            { c1 with finished := (c1.lanesLeft t acc idx).isEmpty }
        | none =>
          if c.started then
            let es := (beatElements t c (min 32 (c.len - c.done))).filter fun e => on (if e.push then .write else .read) e.addr e.bytes
            let f := lowest (es.map fun e => (as_ e.addr, e.addr))
            s.vectorStop n c f.1 (laneMask (es.map Element.lane)) f.2
          else match (vectorRoles c.rm c.instr).bind fun o => (o.bound t).find? fun r => on .read (t.stream r).desc 64 with
            | none => s
            | some r => s.vectorStop n c (as_ (t.stream r).desc) 0 (t.stream r).desc

/-! ### The steps -/

/-- R129: the unit grants a beat of a thread's command. Its first access comes after every earlier access of the thread
(R147). A command that waits for walks goes on when they end (R145). -/
def execVectorBeat (n : ThreadNo) (s : State) : Out1 :=
  match s.thread? n with
  | none => .next s
  | some t =>
    match t.vcmd with
    | none => .next s
    | some c =>
      if c.finished || !c.waits.isEmpty || (!c.started && s.reqs.any fun q => q.thread == n) then .next s
      else match vectorRoles c.rm c.instr, gatherForm c.instr with
        | none, _ => .next s
        | some _, some (acc, idx) => .next ((s.gatherRound n t c acc idx).getD s)
        | some o, none => .next (if c.started then s.nextBeat n t c o else s.startCommand n t c o)

/-- R129: a command completes, and VBUSY falls. -/
def execVectorCommandComplete (n : ThreadNo) (s : State) : Out1 :=
  if (s.thread? n).any fun t => t.vcmd.any VCmd.finished then
    .next ((s.endPushes n).modThread n fun t => { t with vcmd := none })
  else .next s

end Sys2Proof.Machine
end

