-- ==== Sys2Proof/Machine/Pages.lean ====
section
/-! DEFINITION. Page requests from the miss to the reply (22_traps_translation.md R367 to R370): replies, what they do to those
that wait, and the walks of a hive's pool (20_program_guest_gather.md R339, R340; 22 R365). -/

namespace Sys2Proof.Machine

/-! ### Those who wait for a page -/

/-- Applies a change to the lists of pages that commands are held for. -/
def State.mapHeld (s : State) (f : Held → Held) : State :=
  let copy (c : Copy) : Copy := { c with held := f c.held }
  let stage (g : Stage) : Stage := { g with held := f g.held }
  let core (k : Core) : Core := { k with fifo := k.fifo.map copy, engine := k.engine.map copy, stages := k.stages.map stage }
  let op (o : TileOp) : TileOp := { o with held := f o.held }
  let comb (m : Comb) : Comb := { m with queue := m.queue.map op }
  { s with
    cores := s.cores.map core, combs := s.combs.map comb
    allocHeld := f s.allocHeld, dataHeld := f s.dataHeld }

/-- Changes every thread. -/
def State.mapThreads (s : State) (f : Thread → Thread) : State := { s with cur := f s.cur, others := s.others.map f }

/-- The thread waits for the reply to a page request of a VD, for a page that satisfies `p`; `f` is what becomes of its wait,
from the address that missed. -/
def Thread.onPage (t : Thread) (v : VdNo) (p : BitVec 36 → Bool) (f : Word → Thread → Thread) : Thread :=
  match t.wait with
  | some (.page n q a) => if n = v ∧ p q then f a t else t
  | _ => t

/-- A pending entry is freed: the threads whose miss the full table kept out try again (R367). -/
def State.freePend (s : State) (v : VdNo) (req : BitVec 32) : State :=
  let d := s.vd v
  let kept (q : BitVec 36) : Bool := d.pend.any fun p => p.ipa == q
  (s.setVd { d with pend := d.pend.filter fun p => p.req != req }).mapThreads fun t =>
    t.onPage v (fun q => !kept q) fun _ u => u.rejoins s.cyc

/-- The walk waits for the reply to a page request. -/
def Walk.heldFor (w : Walk) (v : VdNo) (page : BitVec 36) : Bool := w.held == some (v, page)

/-- The page that a walk is for. -/
def Walk.key (w : Walk) : WalkPage := (w.dom, w.page)

/-- The threads whose command waits for a walk, by number. -/
def State.walkers (s : State) (w : Walk) : List ThreadNo :=
  (s.threads.filter fun t => hiveOf t.core == w.hive && t.awaits w.key).map Thread.num

/-- A walk ends with a failure: what waits for it fails with the cause (R146, R369). -/
def State.failWalk (s : State) (w : Walk) (cause : Nat) : State :=
  (s.walkers w).foldl (fun (s : State) n => s.vectorFail n w.key cause) { s with walks := s.walks.erase w }

/-! ### Replies (R368, R369) -/

/-- R368, R369: an answer to a page request. A reply that maps leaves the entry to the walks that follow (R340), behind those
that were answered before; one that refuses lets every waiter fail at once. None is ILLEGAL. -/
def State.pageReply (s : State) (w : Word) : Option State :=
  let act := w.extractLsb' 0 2
  let v := w.extractLsb' 8 6
  let req := w.extractLsb' 32 32
  if w.extractLsb' 14 18 ≠ 0#18 ∨ w.extractLsb' 2 6 ≠ 0#6 ∨ act = 0#2 ∨ act = 3#2 then none
  else
    let d := s.vd v
    match d.pend.find? fun p => p.req == req && !p.mapped with
    | none => some s
    | some p =>
      if act = 1#2 then
        some (s.setVd { d with pend := d.pend.filter (fun q => q.req != req) ++ [{ p with mapped := true }] })
      else
        let s1 := ((s.freePend v req).mapHeld fun h => h.refuse v p.ipa).mapThreads fun t =>
          t.onPage v (· == p.ipa) fun a u => { u with wait := some (.refused a) }
        some ((s1.walks.filter fun w => w.heldFor v p.ipa).foldl (fun (s : State) w => s.failWalk w 3) s1)

/-- R370: at a reset of a VD what waits for its emptied requests waits no more: bundles issue anew, operations that are held fail as
for a refused page, and so do walks for the VD's domains (DEDUCED, log entry 76). -/
def State.dropPages (s : State) (v : VdNo) : State :=
  let s1 := (s.mapHeld fun h => h.map fun x => if x.1 = v then (v, x.2.1, true) else x).mapThreads fun t =>
    t.onPage v (fun _ => true) fun _ u => u.rejoins s.cyc
  (s1.walks.filter fun w => (s1.domain w.dom).vd == v || w.held.any fun h => h.1 == v).foldl (fun (s : State) w => s.failWalk w 3) s1

/-! ### Walks (R339, R340, R365) -/

/-- R339, R365, R367: a walk has one of the hive's 64 walkers, in order of arrival, and does not wait for a reply, nor for an
entry of a full pending table. -/
def State.mayWalk (s : State) (w : Walk) : Bool :=
  ((s.walks.filter fun u => u.hive == w.hive).take 64).contains w &&
  w.held.all fun h => !((s.vd h.1).pend.any fun p => p.ipa == h.2) && decide ((s.vd h.1).pend.length < 64)

/-- What the walk finds: a fresh one from the roots; one that stage 2 has stopped, from where it stood (R340, R369). -/
def State.walk (s : State) (w : Walk) : Tr :=
  let c := w.combs.headD (combOf w.core)
  match w.at_ with
  | none => walkPage s c w.dom w.va.toNat
  | some p => p.resume s c w.dom w.va.toNat

/-- The access that a KIND stands for. -/
def accOf (kind : BitVec 2) : Acc1 := if kind = 1#2 then .write else if kind = 2#2 then .fetch else .read

/-- The miss of a walk for an address of a domain that stage 2 has stopped (R367). -/
def missOf (s : State) (d : DomNo) (va : Word) (kind : BitVec 2) (ipa level : Nat) (table : Bool) : Miss :=
  { dom := d, vd := (s.domain d).vd, at_ := va.toNat, va := if table then ipa else va.toNat, ipa := ipa
    level := level, kind := reqKind table (accOf kind) }

/-- What a walk reads now (R305). -/
def State.walkReads (s : State) (w : Walk) : State :=
  let c := w.combs.headD (combOf w.core)
  match w.at_ with
  | none => s.noteWalk c w.dom w.va.toNat
  | some p => s.noteTables (p.reads s c w.dom w.va.toNat)

/-- A walk that has stopped at stage 2 posts or joins a page request (R340, R367). -/
def State.postWalk (s : State) (w : Walk) (ipa level : Nat) (table : Bool) : State :=
  let m := missOf s w.dom w.va w.kind ipa level table
  let joins := if (s.vd m.vd).pend.any (fun p => p.ipa == m.page) || decide ((s.vd m.vd).pend.length < 64) then s.walkers w else []
  ((joins.filter (· != w.thread)).foldl (fun (s : State) n => s.modThread n fun t => t.event 11 1) s).holdPage w.thread w.core m

/-- A walk ends. One that maps is cached in the combs that missed, and what waits for it goes on; one that stops at stage 2
posts or joins a page request and keeps its place (R340). One that the full pending table has kept out posts its request now
(R367). -/
def State.endWalk (s : State) (w : Walk) : State :=
  match w.held, w.missed with
  | some _, some (ipa, level, table) => s.postWalk w ipa level table
  | _, _ =>
    let s0 := s.walkReads w
    match s.walk w with
    | .s1 => s0.failWalk w 2
    | .s2 ipa level table at_ =>
      let m := missOf s w.dom w.va w.kind ipa level table
      let kept : Walk := { w with held := some (m.vd, m.page), at_ := some at_, missed := some (ipa, level, table) }
      ({ s0 with walks := s0.walks.map fun u => if u = w then kept else u } : State).postWalk w ipa level table
    | tr =>
      let s1 := w.combs.foldl (fun (s : State) c => cacheTr s c w.dom w.va.toNat tr) { s0 with walks := s0.walks.erase w }
      ((s.walkers w).foldlM (fun (s : State) n => s.vectorMapped n w.key) s1).getD s

/-- R339: a walk for a page that a thread's comb does not hold. One of the hive's pool ends; without one, it is a walk for an
access of the thread itself: what it finds is cached, and one that stops at stage 2 posts a page request. `kind` is 0 read,
1 write, 2 fetch. -/
def execTranslationWalk (n : ThreadNo) (va : Word) (kind : BitVec 2) (s : State) : Out1 :=
  let mine (w : Walk) : Bool := w.page.toNat == va.toNat / 65536 &&
    (w.thread == n || (s.thread? n).any fun t => hiveOf t.core == w.hive && t.awaits w.key)
  match s.walks.any mine, s.thread? n with
  | true, _ => .next (match s.walks.find? fun w => mine w && s.mayWalk w with
    | some w => s.endWalk w
    | none => s)
  | false, none => .next s
  | false, some t =>
    let k := combOf t.core
    match windowOf va.toNat with
    | .image | .priv | .sram =>
      match translate s k t.dom va.toNat with
      | .s2 ipa level tb _ => .next ((s.noteWalk k t.dom va.toNat).pageRequest t (missOf s t.dom va kind ipa level tb))
      | tr => .next (cacheTr (s.noteWalk k t.dom va.toNat) k t.dom va.toNat tr)
    | _ => .next s

/-- R340, R368, R369: the reply that mapped a page acts, the oldest of its VD first: its entry is free, waiting bundles issue
again, held operations go on, and the walks it stopped are repeated from the stage-2 root; one that stops again posts or
joins a new request. -/
def execRewalk (v : VdNo) (page : BitVec 36) (s : State) : Out1 :=
  match (s.vd v).pend.find? PageReq.mapped with
  | none => .next s
  | some p =>
    if p.ipa ≠ page then .next s
    else
      let s1 := ((s.freePend v p.req).mapHeld fun h => h.release v page).mapThreads fun t =>
        t.onPage v (· == page) fun _ u => u.rejoins s.cyc
      let wanted (w : Walk) : Bool := !w.heldFor v page || !(s1.walkers w).isEmpty
      let free (w : Walk) : Walk := if w.heldFor v page then { w with held := none, missed := none } else w
      .next { s1 with walks := (s1.walks.filter wanted).map free }

end Sys2Proof.Machine
end

