-- ==== Sys2Proof/Machine/Ports.lean ====
section
/-! DEFINITION. Port words (08_engines_keyed.md R190 to R192), spawning and quitting (R193, R194), and how requests, answers,
launches, notices and done messages arrive (13_execution.md R291 to R293). -/

namespace Sys2Proof.Machine

/-! ### Ports -/

/-- Binds x(d) as a port, whatever it is (R190). -/
def State.bind (s : State) (d : XReg) (p : Port) : State :=
  { s with cur := { s.cur with ports := Vector.mk ((List.range 6).map fun i =>
      if i + 8 = d.toNat then p else s.cur.ports.toList.getD i {}).toArray (by simp) } }

/-- R192: the fields of a ring descriptor are valid. -/
def ringOk (w : List Word) : Bool :=
  let cap := w.getD 1 0
  (w.getD 0 0).extractLsb' 0 3 == 0#3 && cap.extractLsb' 32 32 == 0#32 && decide (2 ≤ cap.toNat) &&
    decide (cap.toNat ≤ 2 ^ 24) && (cap &&& (cap - 1)) == 0#64 && (w.drop 4).all (· == 0#64)

/-- R190 to R192. -/
def execPbind (g : KReg) (d a : XReg) (k : BitVec 2) (e : BitVec 1) (s : State) : Out1 :=
  finish s (guarded s g (legal s [a] [] (useX s a fun v _ s1 =>
    let port : Port := { bound := true, push := e == 1#1, kind := k, target := v }
    if s1.cur.pend.getLsbD d.toNat then .wait
    else if (s1.cur.port? d).isSome then .trap .prot 0x4000A
    else if k = 0#2 then
      let c := s1.core s1.cur.core
      let i := (v.extractLsb' 0 3).toNat
      let q := c.queues.toList.getD i {}
      let taken := if e = 1#1 then q.pusher.isSome else q.popper.isSome
      if v.extractLsb' 3 61 ≠ 0#61 || taken then .trap .prot 0x40009
      else
        let f (j : Nat) (q : SlotQueue) : SlotQueue :=
          if j = i then (if e = 1#1 then { q with pusher := some s1.cur.num } else { q with popper := some s1.cur.num }) else q
        .done ((s1.setCore { c with queues := c.queues.mapIdx f }).bind d port)
    else if k = 1#2 then
      if v.extractLsb' 0 6 ≠ 0#6 then .trap .align v
      else access s1 .read v 64 fun ps s2 =>
        let (ws, s3) := s2.readDwords v ps
        if ringOk ws then .done (s3.inFlight.bind d port) else .trap .prot 0x4000C
    else if v ≠ 0 then .trap .prot 0x4000C
    else .done (s1.bind d port))))

/-- R190: releases the binding of x(d), if it has one. -/
def execPunbind (g : KReg) (d : XReg) (s : State) : Out1 :=
  finish s (guarded s g (
    match s.cur.port? d with
    | none => .done s
    | some p => .done ((s.releasePorts s.cur [p]).bind d {})))

/-! ### Spawning (R193) -/

/-- A request or an answer of the thread is on its way. -/
def State.spawning (s : State) : Bool :=
  s.spawns.any (fun p => p.2.spawner == s.cur.num) || s.answers.any (fun a => a.1 == s.cur.num)

/-- R193: `spawn`, and `spawn.w` with `retry`. -/
def spawnWord (retry : Bool) (g : KReg) (k : KReg) (a b : XReg) (s : State) : Out1 :=
  finish s (guarded s g (legal s [a, b] [] (useXX s a b fun va vb _ s1 =>
    useRun s1 0 4 fun seeds s2 =>
    match s2.cur.answer with
    | some yes => .done { s2 with cur := { s2.cur.setPred k yes with answer := none } }
    | none =>
      let core := va.extractLsb' 0 10
      if va.extractLsb' 10 54 ≠ 0#54 || !s2.inCoreSet s2.cur.vdid core then .trap .prot 0x40008
      else if vb.extractLsb' 0 2 ≠ 0#2 then .trap .align vb
      else if s2.spawning then .park .spawn s
      else
        let t := s.rd
        let r : SpawnReq := {
          spawner := t.num, from_ := t.core, seeds := seeds, pc := vb, cb := t.cb, st := t.st
          shadow := (t.fmtA, t.fmtB, t.scA, t.scB, t.scC), agree := (t.agv, t.agc, t.cen), dom := t.dom, vd := t.vdid
          retry := retry }
        .park .spawn { s with spawns := s.spawns ++ [(core, r)] })))

/-- R193. -/
def execSpawn (g : KReg) (k : KReg) (a b : XReg) (s : State) : Out1 := spawnWord false g k a b s
/-- R193: the request is sent again until it is accepted. -/
def execSpawnW (g : KReg) (k : KReg) (a b : XReg) (s : State) : Out1 := spawnWord true g k a b s

/-- R194: ends the thread, once its accesses and vector command are over. -/
def execQuit (g : KReg) (s : State) : Out1 :=
  finish s (guarded s g (
    if s.cur.depth ≠ 0 then .trap .prot 0x4000B
    else if s.cur.worker.isSome then .trap .prot 0x40005
    else if s.cur.ldo ≠ 0 ∨ s.cur.sto ≠ 0 ∨ s.cur.vbusy then .wait
    else .moved (s.endThread s.cur.num .quit)))

/-! ### Arrivals -/

/-- A request is answered (R193). -/
def State.answerSpawn (s : State) (r : SpawnReq) (yes : Bool) : State :=
  { s with answers := s.answers ++ [(r.spawner, yes)] }

/-- R193: a `spawn` request arrives: a free slot of the VD for which nothing waits (R290), else the pending-spawn store,
else it is refused. So it is at the column's edge, where control messages from outside are not admitted (R354). One for a
core that restarts comes again (R394). -/
def execSpawnRequest (c : CoreNo) (s : State) : Out1 :=
  if s.restarting == some c then .next s
  else match s.spawns.find? fun p => p.1 == c && !p.2.refused && (p.2.nacks == 0 || p.2.due == 0) with
  | none => .next s
  | some (_, r) =>
    let s1 : State := { s with spawns := s.spawns.erase (c, r) }
    let k := s1.core c
    let store (s : State) : State :=
      let k := s.core c
      s.setCore { k with spawnStore := k.spawnStore ++ [{ r with came := s.cyc }] }
    let refuse : Out1 :=
      if r.retry then .next { s with spawns := s.spawns.map fun p => if p = (c, r) then (c, { r with refused := true }) else p }
      else .next (s1.answerSpawn r false)
    if s.refuses c r.from_ 0 then refuse else
    match s1.openSlot c r.vd with
    | none => if k.spawnStore.length < 32 then .next ((store s1).answerSpawn r true) else refuse
    | some n =>
      match s1.startThread c n (r.thread s1) with
      | .ok s2 => .next (s2.answerSpawn r true)
      | .dead s2 => .next (s2.answerSpawn r true)
      | .later s2 => if k.spawnStore.length < 32 then .next ((store s2).answerSpawn r true) else refuse

/-- R193: the answer reaches the spawner, whose word issues again and writes it. -/
def execSpawnAnswer (n : ThreadNo) (s : State) : Out1 :=
  match s.answers.find? fun a => a.1 == n with
  | none => .next s
  | some a => .next ({ s with answers := s.answers.erase a }.modThread n fun t =>
      if t.wait = some Wait.spawn then { t.retests with answer := some a.2 } else t)

/-- R293: place of a core in a done tree: its parent, and the number of its children. -/
def treePlace (cores : List CoreNo) (c : CoreNo) : Option CoreNo × Nat :=
  let i := (cores.findIdx? (· == c)).getD 0
  (if i = 0 then none else cores[(i - 1) / 4]?,
   ((List.range cores.length).filter fun j => j != 0 && (j - 1) / 4 == i).length)

/-- R291: a launch request arrives: it takes an entry of the launch table, and threads start in the free slots for which
nothing else waits (R290). A request that finds the table full comes again. -/
def execLaunchRequest (c : CoreNo) (s : State) : Out1 :=
  match s.launches.find? fun p => p.1 == c with
  | none => .next s
  | some (_, r) =>
    let k := s.core c
    if 4 ≤ k.launchTable.length then .next s
    else
      let cores := (((s.vd r.vd).active.find? fun a => a.pkt == r.pkt).map Active.allCores).getD [c]
      let (parent, children) := treePlace cores c
      let part : PktPart := {
        vd := r.vd, pkt := r.pkt, quota := r.left, counted := 0, err := 0, fin := 0, count := 0, children := children
        parent := parent }
      let r1 := { r with came := s.cyc }
      let slots := s.openSlots c r.vd
      let s1 : State := { s with launches := s.launches.erase (c, r) }
      let s2 := s1.setCore { k with launchTable := k.launchTable ++ [r1], parts := k.parts ++ [part] }
      .next ((slots.take r.left).foldl (fun (s : State) (n : SlotNo) =>
        match (s.core c).launchTable.find? fun q => q.vd == r.vd && q.pkt == r.pkt with
        | none => s
        | some q => s.startLaunch c n q) s2)

/-- R292: a quit notice reaches its launch core. -/
def execQuitNotice (c : CoreNo) (s : State) : Out1 :=
  match s.quits.find? fun q => q.dest == c with
  | none => .next s
  | some q => .next ({ s with quits := s.quits.erase q }.countThread c q.vd q.pkt q.err q.fin)

/-- R293: a done message reaches the parent core, which combines it with its own values. Before the core has its part of
the packet, whose request waits for its launch table, the message waits. -/
def execDoneMessage (c : CoreNo) (s : State) : Out1 :=
  let k := s.core c
  match s.dones.find? fun d => d.dest == some c && k.parts.any (PktPart.ofPkt d.vd d.pkt) with
  | none => .next s
  | some d =>
    let s1 : State := { s with dones := s.dones.erase d }
    let up (q : PktPart) : PktPart :=
      if q.ofPkt d.vd d.pkt then
        { q with children := q.children - 1, err := q.err ||| d.err, count := q.count + d.count, fin := wordMax q.fin d.fin }
      else q
    .next ((s1.setCore { k with parts := k.parts.map up }).settlePart c d.vd d.pkt)

end Sys2Proof.Machine
end

