-- ==== Sys2Proof/Machine/Launch.lean ====
section
/-! DEFINITION. Packets and queues (21_launch_queues.md R343 to R351, R355): work packets, dispatch, graphs, completion
records, control operations, the host event ring; the sharing of cores between VDs (R352). -/

namespace Sys2Proof.Machine

/-- A work packet: its 16 dwords. -/
abbrev Packet := List Word

/-- A dword of a packet, by byte offset / 8. -/
def pkw (p : Packet) (i : Nat) : Word := p.getD i 0
def pkVer (p : Packet) : BitVec 8 := (pkw p 0).extractLsb' 56 8
def pkKind (p : Packet) : BitVec 8 := (pkw p 0).extractLsb' 48 8
def pkQueue (p : Packet) : BitVec 4 := (pkw p 0).extractLsb' 32 4
def pkNum (p : Packet) : BitVec 32 := (pkw p 0).extractLsb' 0 32
def pkImage (p : Packet) : BitVec 32 := (pkw p 1).extractLsb' 32 32
def pkEntry (p : Packet) : BitVec 32 := (pkw p 1).extractLsb' 0 32
def pkOp (p : Packet) : BitVec 8 := (pkw p 1).extractLsb' 0 8
def pkGraph (p : Packet) : BitVec 16 := (pkw p 1).extractLsb' 32 16
/-- The operand at 0x10. -/
def pkArg (p : Packet) : Word := pkw p 2

/-! ### Errors, records and events (R347, R355) -/

/-- An error of a queue: its sticky word, and an event of TYPE 2 with the new flags. -/
def State.queueError (s : State) (v : VdNo) (q : BitVec 4) (pkt : BitVec 32) (flag : Nat) : State :=
  (s.queueSticky v q flag).hostEvent v 2 q pkt [BitVec.ofNat 64 (2 ^ flag), 0, 0] (some flag)

/-- STATUS of a completion record (R347). -/
def statusDone : Nat := 0
def statusPartial : Nat := 1
def statusCancelled : Nat := 2
def statusRejected : Nat := 3

/-- R346: a packet of the VD has been sent: the highest PKT. -/
def Vd.sent (d : Vd) (pkt : BitVec 32) : Vd := { d with highPkt := if d.highPkt.toNat < pkt.toNat then pkt else d.highPkt }

/-- R346, R380: a packet of the VD has been accepted. -/
def State.packetSent (s : State) (v : VdNo) (pkt : BitVec 32) : State := s.setVd { (s.vd v).sent pkt with firstPkt := true }

/-- R346: a packet is complete. Packets more than 2,048 below the highest are so without being kept. -/
def State.packetDone (s : State) (v : VdNo) (pkt : BitVec 32) : State :=
  let d := s.vd v
  s.setVd { d with donePkts := (pkt :: d.donePkts).filter fun p => decide (d.highPkt.toNat ≤ p.toNat + 2048) }

/-- R347: writes a completion record, or posts a done event where CADDR is 0. The packet is complete (R346). -/
def State.complete (s : State) (v : VdNo) (a : Active) (status : Nat) : State :=
  let w0 : Word := BitVec.ofNat 32 status ++ a.pkt
  let w1 : Word := 0#16 ++ a.err ++ a.count
  let s1 := s.packetDone v a.pkt
  if a.caddr = 0 then s1.hostEvent v 1 a.queue a.pkt [w1, a.fin, 0] none (some a.cep)
  else s1.post (.record v a.cep a.caddr [w0, w1, a.fin, a.queue.setWidth 64])

/-- A packet that never ran, as it stands in a completion record. -/
def idleActive (p : Packet) : Active :=
  { pkt := pkNum p, queue := pkQueue p, caddr := pkw p 12, cep := (pkw p 13).extractLsb' 0 16, launch := p, cores := []
    allCores := [], chain := [], graph := none, err := 0, count := 0, fin := 0, partial_ := false, waiting := false }

/-- R355: the entries of the event ring that the host has read are free again; after an overflow a summary follows. -/
def State.acknowledge (s : State) (v : VdNo) (cons : Nat) : State :=
  let d := s.vd v
  let s1 := s.setVd { d with ringCons := cons }
  if d.ringOver = 0 ∨ d.ringSize ≤ d.ringProd - cons then s1
  else
    let s2 := s1.setVd { s1.vd v with ringOver := 0, ringMask := 0 }
    s2.hostEvent v 5 0 0 [d.ringMask.setWidth 64, d.ringOver.setWidth 64, 0] none

/-! ### Checks of a launch packet (R344) -/

/-- The VD's launch domain (R379). -/
def State.launchDomain (s : State) (v : VdNo) : Option Domain :=
  s.domains.find? fun d => d.launch && d.vd == v && d.life == .live

/-- The fields of a launch packet that must be 0, and its version. -/
def launchFieldsOk (p : Packet) : Bool :=
  pkVer p == 1#8 && pkKind p == 0#8 && (pkw p 0).extractLsb' 36 12 == 0#12 && pkNum p != 0#32 && (pkEntry p).extractLsb' 0 3 == 0#3 &&
  (pkw p 2).extractLsb' 34 30 == 0#30 && (pkw p 7).extractLsb' 8 56 == 0#56 && (pkw p 13).extractLsb' 16 48 == 0#48 &&
  pkw p 14 == 0 && pkw p 15 == 0

/-- The core set of a packet names only cores of the VD's core set, in ascending order, none of the firmware column. -/
def State.coreSetOk (s : State) (v : VdNo) (p : Packet) : Bool :=
  let w := pkArg p
  let first := (w.extractLsb' 0 10).toNat
  let stride := (w.extractLsb' 20 10).toNat
  stride != 0 && (List.range ((w.extractLsb' 10 10).toNat + 1)).all fun k =>
    decide (first + k * stride ≤ 1023) && s.inCoreSet v (BitVec.ofNat 10 (first + k * stride)) &&
    !s.inColumn (BitVec.ofNat 10 (first + k * stride))

/-- The image entry that a packet names in the launch domain. -/
def State.imageEntry (s : State) (v : VdNo) (p : Packet) : Option HEntry :=
  (s.launchDomain v).bind fun d => s.lookup d.num ((pkImage p).setWidth 64) 4

/-- ENTRY lies beyond the image's `.text`. -/
def State.beyondText (s : State) (v : VdNo) (p : Packet) : Bool :=
  (s.imageEntry v p).any fun e => ((s.launchDomain v).bind Domain.image).any fun im =>
    im.text == e.addr && decide (im.size.toNat ≤ (pkEntry p).toNat)

/-- R344: the flag with which a launch packet is rejected. -/
def State.launchFault (s : State) (v : VdNo) (p : Packet) : Option Nat :=
  if !launchFieldsOk p || s.beyondText v p then some flagBADPKT
  else if !s.coreSetOk v p then some flagBADSET
  else if (s.imageEntry v p).isNone then some flagSTALEIMG
  else none

/-- R343: the fields of a replay packet. What the table gives to launches alone at 0x08 must be 0 (DEDUCED, log entry 64). -/
def replayFieldsOk (p : Packet) : Bool :=
  pkVer p == 1#8 && (pkw p 0).extractLsb' 36 12 == 0#12 && pkNum p != 0#32 && (pkw p 1).extractLsb' 38 26 == 0#26 &&
  pkEntry p == 0#32 && (pkw p 13).extractLsb' 16 48 == 0#48 && pkw p 14 == 0 && pkw p 15 == 0

/-- R345, R348, R380: the flag with which the head of a queue is rejected. -/
def State.headFault (s : State) (v : VdNo) (p : Packet) : Option Nat :=
  if pkKind p = 1#8 then
    let d := s.vd v
    if !replayFieldsOk p || !s.feature v 0 then some flagBADPKT
    else match d.graphs.find? fun g => g.num.toNat == (pkGraph p).toNat with
      | none => some flagBADPKT
      | some _ => none
  else s.launchFault v p

/-- Changes a queue of a VD. -/
def State.modQueue (s : State) (v : VdNo) (q : BitVec 4) (f : PktQueue → PktQueue) : State :=
  let d := s.vd v
  s.setVd { d with queues := d.queues.map fun x => if x.num = q then f x else x }

/-- R344: packets that reach the head of a queue are checked; a rejected one gets its record and the next one stands
there. -/
def State.settleQueue (v : VdNo) (q : BitVec 4) : Nat → State → State
  | 0, s => s
  | fuel + 1, s =>
    match ((s.vd v).queues.find? fun x => x.num == q).bind fun x => x.packets.head? with
    | none => s
    | some p => match s.headFault v p with
      | none => s
      | some flag =>
        let s1 := s.modQueue v q fun x => { x with packets := x.packets.drop 1 }
        let s2 := s1.queueError v q (pkNum p) flag
        State.settleQueue v q fuel (s2.complete v (idleActive p) statusRejected)

/-! ### Endpoints and arrival (R345, R373, R374) -/

/-- What the part exposes behind each of its addresses (R374). -/
inductive Endpoint where
  | management
  | command (v : VdNo)
  | data (v : VdNo) (i : BitVec 6)
  deriving DecidableEq, Repr

/-- The number of an endpoint (R374). -/
def Endpoint.number : Endpoint → BitVec 16
  | .management => 0
  | .command v => 0x100 + v.setWidth 16
  | .data v i => 0x1000 + 64 * v.setWidth 16 + i.setWidth 16

/-- The endpoint of a number, if it is one's. -/
def endpointOf (n : BitVec 16) : Option Endpoint :=
  if n = 0 then some .management
  else if n.extractLsb' 6 10 = 4#10 then some (.command (n.extractLsb' 0 6))
  else if n.extractLsb' 12 4 = 1#4 then some (.data (n.extractLsb' 6 6) (n.extractLsb' 0 6))
  else none

/-- The VD of a command endpoint. -/
def commandVd (n : BitVec 16) : Option VdNo := match endpointOf n with
  | some (.command v) => some v
  | _ => none

/-- R373: the part refuses an operation with the status for unsupported ones. -/
def unsupported (mode : Delivery) (op : RemoteOp) : Bool :=
  mode == .idempotent || mode == .unreliable || (match op with
    | .read n => decide (2 ^ 32 < n)
    | .write bs => decide (2 ^ 32 < bs.length)
    | .send bs => decide (bs.length < 1) || decide (16384 < bs.length)
    | .atomic | .rendezvous | .deferredSend => true)

/-- A packet's bytes, as a send in the part's ordered mode. -/
def sendOf (p : Packet) : RemoteOp := .send (wordsBytes p)

/-- R373: an operation is answered with that status. -/
def State.refuse (s : State) : State := { s with out := s.out ++ [.unsupported] }

/-- R384: while the firmware column is reset, packets are refused and sent again. -/
def State.frontDown (s : State) : Bool := s.mgmt.reset.any fun r => r.kind == 6#4

/-- The controlling host (R381). -/
def State.controls (s : State) (host : BitVec 4) : Bool := s.mgmt.state == 2#8 && s.mgmt.chost == host

/-- R343, R345, R374: a launch or replay packet arrives at a VD's command endpoint. -/
def execLaunchPacket (host : BitVec 4) (endpoint : BitVec 16) (p : Packet) (s : State) : Out1 :=
  match commandVd endpoint with
  | none => .next s
  | some v =>
  let d := s.vd v
  if d.st = 0#2 || !s.controls host || s.frontDown then .next s
  else if unsupported .ordered (sendOf p) then .next s.refuse
  else if p.length ≠ 16 then .next (s.vdSticky v flagBADPKT)
  else if pkKind p = 2#8 then
    .next (if 1 ≤ (pkOp p).toNat ∧ (pkOp p).toNat ≤ 7 then s else s.vdSticky v flagBADPKT)
  else match d.queues.find? fun x => x.num == pkQueue p with
    | none => .next ((s.setVd (d.sent (pkNum p))).vdSticky v flagNOQUEUE)
    | some q =>
      if 256 ≤ q.packets.length then .next s
      else
        let s2 := (s.packetSent v (pkNum p)).modQueue v q.num fun x => { x with packets := x.packets ++ [p] }
        .next (if q.packets.isEmpty then State.settleQueue v q.num 256 s2 else s2)

/-! ### Dispatch (R346, R349) -/

/-- R346: a packet number counts as complete. -/
def Vd.depDone (d : Vd) (n : BitVec 32) : Bool :=
  n == 0#32 || d.donePkts.contains n || decide (n.toNat + 2048 < d.highPkt.toNat)

/-- The free patch set of lowest number (R349). -/
def Graph.freeSet (g : Graph) : Option Nat := [0, 1].find? fun i => !(g.sets.any fun x => x.1 == i)

/-- The head of a queue may be dispatched. -/
def Vd.headReady (d : Vd) (q : PktQueue) : Bool :=
  q.packets.head?.any fun p =>
    d.depDone ((pkw p 11).extractLsb' 32 32) && d.depDone ((pkw p 11).extractLsb' 0 32) &&
    (pkKind p != 1#8 || ((d.graphs.find? fun g => g.num.toNat == (pkGraph p).toNat).bind Graph.freeSet).isSome)

/-- R346, R352: the VD may dispatch: it runs, and its budget is not spent. -/
def Vd.mayDispatch (d : Vd) : Bool := d.st == 1#2 && (d.budget == 0 || decide (d.spent < d.budget * 3000))

/-- Highest priority of the queues whose heads can be dispatched. -/
def Vd.topPrio (d : Vd) : Nat := ((d.queues.filter d.headReady).map fun q => q.prio.toNat).foldl max 0

/-- R346: the queue that is taken next: highest priority, then round-robin. -/
def Vd.nextQueue (d : Vd) : Option PktQueue :=
  ((List.range 16).map fun i => d.lastQueue + 1 + BitVec.ofNat 4 i).findSome? fun n =>
    d.queues.find? fun q => q.num == n && d.headReady q && q.prio.toNat == d.topPrio

/-- R291, R346: the launch request of a packet for one of its cores. -/
def launchReqOf (v : VdNo) (dom : DomNo) (text : Word) (p : Packet) (pkt : BitVec 32) : LaunchReq :=
  { vd := v, dom := dom, pkt := pkt, entry := text + (pkEntry p).setWidth 64
    seeds := [pkw p 3, pkw p 4, pkw p 5, pkw p 6], fmtA := (pkw p 7).extractLsb' 0 4, fmtB := (pkw p 7).extractLsb' 4 4
    scA := pkw p 8, scB := pkw p 9, scC := pkw p 10, left := ((pkArg p).extractLsb' 30 4).toNat + 1 }

/-- Changes the running packet of a number. -/
def State.modActive (s : State) (v : VdNo) (pkt : BitVec 32) (f : Active → Active) : State :=
  let d := s.vd v
  s.setVd { d with active := d.active.map fun a => if a.pkt = pkt then f a else a }

/-! ### Cutting a packet short (R351) -/

/-- A core's part of a packet. -/
def Core.partOf (k : Core) (v : VdNo) (pkt : BitVec 32) : Option PktPart := k.parts.find? (PktPart.ofPkt v pkt)

/-- R351 steps 1 to 3: a packet stops: requests not arrived and entries whose threads have not started are removed, its
threads are killed in abort mode, and the done tree is that of the cores already reached: a core whose request has not
arrived has nothing to count, and one that has reported stays as it is. -/
def State.cutPacket (s : State) (v : VdNo) (a : Active) (kill : Bool) : State :=
  let sent := a.allCores.filter fun c => !a.cores.contains c
  let kids (c : CoreNo) : Nat := (treePlace a.allCores c).2 - (treePlace sent c).2
  let s1 : State := { s with launches := s.launches.filter fun r => !(r.2.vd == v && r.2.pkt == a.pkt) }
  let s2 := sent.foldl (fun (s' : State) (c : CoreNo) =>
    let k := s'.core c
    let left := ((k.launchTable.find? fun r => r.vd == v && r.pkt == a.pkt).map LaunchReq.left).getD 0
    let table := k.launchTable.filter fun r => !(r.vd == v && r.pkt == a.pkt)
    match k.partOf v a.pkt with
    | some q =>
      let q1 : PktPart := { q with quota := q.quota - left, children := q.children - kids c }
      s'.setCore { k with launchTable := table, parts := k.parts.map fun x => if x = q then q1 else x }
    | none =>
      if s.launches.any fun r => r.1 == c && r.2.vd == v && r.2.pkt == a.pkt then
        let (parent, children) := treePlace sent c
        s'.setCore { k with parts := k.parts ++ [{
          vd := v, pkt := a.pkt, quota := 0, counted := 0, err := 0, fin := 0, count := 0, children := children, parent := parent }] }
      else s') s1
  let s3 := s2.modActive v a.pkt fun x => { x with
    cores := [], allCores := sent, rest := x.rest || !x.chain.isEmpty, chain := [], partial_ := true, waiting := false }
  let mine := if kill then s3.threads.filter fun t => t.pkt == a.pkt && t.pvd == v else []
  let s4 := mine.foldl (fun (s : State) t => s.doomThread false t) s3
  sent.reverse.foldl (fun (s : State) (c : CoreNo) => s.settlePart c v a.pkt) s4

/-- R350 operation 4: a graph none of whose sets is in use is freed; heads of queues that name it are checked again. -/
def State.dropGraph (s : State) (v : VdNo) (g : Graph) : State :=
  let d := s.vd v
  let s1 := s.setVd { d with graphs := d.graphs.filter fun x => x.num != g.num }
  let s2 := g.freeing.foldl (fun (s : State) n => s.packetDone v n) s1
  d.queues.foldl (fun (s : State) q => State.settleQueue v q.num 256 s) s2

/-- R349: the patch set of a replay is free again, and with the last one a graph that is to be freed goes (R350). -/
def State.freePatch (s : State) (v : VdNo) (g : Option (BitVec 6 × Nat)) : State :=
  match g with
  | none => s
  | some (n, i) =>
    let d := s.vd v
    let free (x : Graph) : Graph := if x.num = n then { x with sets := x.sets.filter fun y => y.1 != i } else x
    let s1 := s.setVd { d with graphs := d.graphs.map free }
    match (s1.vd v).graphs.find? fun x => x.num == n && x.sets.isEmpty && !x.freeing.isEmpty with
    | none => s1
    | some x => s1.dropGraph v x

/-- A packet that never runs is cancelled (R351 step 4). -/
def State.cancel (s : State) (v : VdNo) (a : Active) : State :=
  (s.queueError v a.queue a.pkt flagCANCEL).complete v a statusCancelled

/-- R351 steps 4 and 5: what follows the end of the last packet that a destroyed queue ran. -/
def State.flushDestroyed (s : State) (v : VdNo) : State :=
  let d := s.vd v
  match d.destroying.find? fun x => !(d.active.any fun a => x.awaits.contains a.pkt) with
  | none => s
  | some x =>
    let s1 := s.setVd { d with destroying := d.destroying.erase x }
    let s2 := x.rest.foldl (fun (s : State) (p : Packet) => s.cancel v { idleActive p with queue := x.queue }) s1
    s2.hostEvent v 6 x.queue 0 [if x.abort then 1 else 0, 0, 0] none

/-- R347, R349: a packet has ended with a status, and with the flag of an error, if any. Where the rest of its chain has been
cut off, one record with STATUS 2 covers that rest (DESIGN CHOICE, log entry 64). The replay that waits for it starts. -/
def State.endActive (s : State) (v : VdNo) (a : Active) (status : Nat) (flag : Option Nat) : State :=
  let d := s.vd v
  let s1 := s.setVd { d with active := d.active.filter fun x => x.pkt != a.pkt }
  let s2 := match flag with
    | none => s1
    | some f => s1.queueError v a.queue a.pkt f
  let s3 := s2.complete v a status
  let s4 := if a.rest then s3.cancel v { a with err := 0, count := 0, fin := 0 } else s3
  let s5 := s4.freePatch v a.graph
  let next := a.graph.bind fun g => (s5.vd v).active.find? fun x => x.waiting && x.graph.any fun h => h.1 == g.1
  let s6 := match next with
    | none => s5
    | some x => s5.modActive v x.pkt fun y => { y with waiting := false }
  s6.flushDestroyed v

/-- A running packet has ended. -/
def State.finishActive (s : State) (v : VdNo) (a : Active) : State :=
  if a.partial_ then s.endActive v a statusPartial (some flagCANCEL) else s.endActive v a statusDone none

/-- The core set of a launch packet (R343). -/
def packetCores (p : Packet) : List CoreNo :=
  let w := pkArg p
  (List.range ((w.extractLsb' 10 10).toNat + 1)).map fun k =>
    BitVec.ofNat 10 ((w.extractLsb' 0 10).toNat + k * (w.extractLsb' 20 10).toNat)

/-- A packet of a chain, whose core set is known when it starts (R348). -/
def Active.start (a : Active) (p : Packet) (chain : List Packet) : Active :=
  { a with launch := p, chain := chain, cores := packetCores p, allCores := packetCores p }

/-- R346: the front end sends the next launch request of a packet that is being dispatched, or takes a new packet from
its queues and sends the first. -/
def State.sendNext (s : State) (v : VdNo) (a : Active) : State :=
  match a.cores, s.launchDomain v, s.imageEntry v a.launch with
  | c :: cs, some d, some e =>
    let s1 := s.modActive v a.pkt fun x => { x with cores := cs }
    { s1 with launches := s1.launches ++ [(c, launchReqOf v d.num e.addr a.launch a.pkt)] }
  | _ :: _, _, _ =>
    let s1 := s.cutPacket v a false
    if a.cores = a.allCores then
      match (s1.vd v).active.find? fun x => x.pkt == a.pkt with
      | none => s1
      | some b => s1.finishActive v b
    else s1
  | [], _, _ => s

/-- R346. A VD whose budget is spent, or that does not run, dispatches nothing (R352, R379). -/
def execDispatch (v : VdNo) (s : State) : Out1 :=
  let d := s.vd v
  if !d.mayDispatch then .next s
  else match d.active.find? fun a => !a.cores.isEmpty && !a.waiting with
  | some a => .next (s.sendNext v a)
  | none => match d.nextQueue with
    | none => .next s
    | some q => match q.packets with
      | [] => .next s
      | p :: _ =>
        if pkKind p = 1#8 then .next s
        else
          let a := (idleActive p).start p []
          let s1 := s.setVd { d with lastQueue := q.num, active := d.active ++ [a] }
          let s2 := s1.modQueue v q.num fun x => { x with packets := x.packets.drop 1 }
          .next ((State.settleQueue v q.num 256 s2).sendNext v a)

/-- Replaces the dwords of a packet of a graph by their patch values (R348). -/
def patched (g : Graph) (values : List Word) (i : Nat) (p : Packet) : Packet :=
  g.patches.foldl (fun (p : Packet) (e : Word) =>
    if (e.extractLsb' 48 8).toNat = i then p.set (e.extractLsb' 32 16).toNat (values.getD (e.extractLsb' 56 8).toNat 0) else p) p

/-- P0 to P7 of a replay packet (R343). -/
def patchValues (p : Packet) : List Word := [pkw p 3, pkw p 4, pkw p 5, pkw p 6, pkw p 7, pkw p 8, pkw p 9, pkw p 10]

/-- R349: the first packet of a chain starts, or the next one; one that its check refuses ends the replay. -/
def State.startChain (s : State) (v : VdNo) (a : Active) (chain : List Packet) : State :=
  match chain with
  | [] => s.finishActive v a
  | p :: ps =>
    match s.launchFault v p with
    | none => s.modActive v a.pkt fun x => x.start p ps
    | some flag => s.endActive v a statusRejected (some flag)

/-- R349: a replay packet at the head of a queue takes the free patch set of lowest number and its chain begins. -/
def execGraphReplay (v : VdNo) (qn : BitVec 4) (s : State) : Out1 :=
  let d := s.vd v
  match d.nextQueue with
  | none => .next s
  | some q =>
    if q.num ≠ qn ∨ !d.mayDispatch then .next s
    else match q.packets with
      | [] => .next s
      | p :: _ =>
        if pkKind p ≠ 1#8 then .next s
        else match d.graphs.find? fun g => g.num.toNat == (pkGraph p).toNat with
          | none => .next s
          | some g => match g.freeSet with
            | none => .next s
            | some i =>
              let values := patchValues p
              let busy := d.active.any fun a => a.graph.any fun h => h.1 == g.num
              let chain := g.packets.zipIdx.map fun x => patched g values x.2 x.1
              let a : Active := { idleActive p with graph := some (g.num, i), waiting := busy }
              let graphs := d.graphs.map fun x => if x.num = g.num then { x with sets := x.sets ++ [(i, values)] } else x
              let s1 := s.setVd { d with lastQueue := q.num, active := d.active ++ [a], graphs := graphs }
              let s2 := s1.modQueue v q.num fun x => { x with packets := x.packets.drop 1 }
              .next ((State.settleQueue v q.num 256 s2).startChain v a chain)

/-- R293, R347: the root's done message reaches the front end: the next packet of a chain starts, or the completion
record is written. -/
def execCompletionRecord (v : VdNo) (pkt : BitVec 32) (s : State) : Out1 :=
  match s.dones.find? fun m => m.dest.isNone && m.vd == v && m.pkt == pkt with
  | none => .next s
  | some m =>
    let s1 : State := { s with dones := s.dones.erase m }
    match (s1.vd v).active.find? fun a => a.pkt == pkt with
    | none => .next s1
    | some a =>
      let b : Active := { a with err := a.err ||| m.err ||| (if a.partial_ then errPARTIAL else 0), count := a.count + m.count
                                 fin := wordMax a.fin m.fin }
      let s2 := s1.modActive v pkt fun _ => b
      .next (if b.partial_ then s2.finishActive v b else s2.startChain v b b.chain)

/-! ### Control operations (R350, R351) -/

/-- R343: the fields of a control packet with an operation. -/
def controlFieldsOk (p : Packet) (op : Nat) : Bool :=
  p.length == 16 && pkVer p == 1#8 && pkKind p == 2#8 && (pkw p 0).extractLsb' 36 12 == 0#12 && pkNum p != 0#32 &&
  (pkOp p).toNat == op && (pkw p 1).extractLsb' 8 56 == 0#56 && (pkw p 13).extractLsb' 16 48 == 0#48 && pkw p 14 == 0 && pkw p 15 == 0

/-- A control packet that arrives at a VD's endpoint with an operation: one from another host, or for a VD that does not
exist, has no effect, and a malformed one sets BADPKT. It acts on arrival and is then complete (R345, R346), unless it
waits to free a graph (R350). -/
def control (s : State) (host : BitVec 4) (endpoint : BitVec 16) (p : Packet) (op : Nat) (f : VdNo → State → State) : Out1 :=
  match commandVd endpoint with
  | none => .next s
  | some v =>
  if (s.vd v).st = 0#2 || !s.controls host || s.frontDown then .next s
  else if !controlFieldsOk p op then .next (s.vdSticky v flagBADPKT)
  else
    let s1 := f v (s.packetSent v (pkNum p))
    .next (if (s1.vd v).graphs.any fun g => g.freeing.contains (pkNum p) then s1 else s1.packetDone v (pkNum p))

/-- R350 operation 1. -/
def execCreateQueue (host : BitVec 4) (endpoint : BitVec 16) (p : Packet) (s : State) : Out1 :=
  control s host endpoint p 1 fun v s =>
    let d := s.vd v
    let w := pkArg p
    let q := w.extractLsb' 0 4
    if w.extractLsb' 4 4 ≠ 0#4 ∨ w.extractLsb' 11 53 ≠ 0#53 ∨ d.queues.any (fun x => x.num == q) then s.vdSticky v flagBADPKT
    else s.setVd { d with queues := d.queues ++ [{ num := q, prio := w.extractLsb' 8 3 }] }

/-- R351: what the destruction of its queue does to a packet that is being dispatched or runs. One of which nothing has
run is cancelled; one whose root has reported, or that is drained with all its requests sent, finishes; of a replay only
the rest of its chain is then cut off. Any other is cut short. -/
def State.stopActive (s : State) (v : VdNo) (abort : Bool) (a : Active) : State :=
  let reported := s.dones.any fun m => m.dest.isNone && m.vd == v && m.pkt == a.pkt
  if a.waiting ∨ a.allCores = a.cores then
    (if a.count = 0 ∧ a.fin = 0 then s.endActive v a statusCancelled (some flagCANCEL)
     else s.endActive v { a with rest := true } statusDone none)
  else if reported || (!abort && a.cores.isEmpty) then s.modActive v a.pkt fun y => { y with chain := [], rest := y.rest || !y.chain.isEmpty }
  else s.cutPacket v a abort

/-- R351: destroys a queue. -/
def State.destroyQueue (s : State) (v : VdNo) (q : BitVec 4) (abort : Bool) : State :=
  let d := s.vd v
  match d.queues.find? fun x => x.num == q with
  | none => s.vdSticky v flagNOQUEUE
  | some x =>
    let runs := d.active.filter fun a => a.queue == q && !(d.destroying.any fun y => y.awaits.contains a.pkt)
    let s1 := s.setVd { d with
      queues := d.queues.filter fun y => y.num != q
      destroying := d.destroying ++ [{ queue := q, abort := abort, rest := x.packets, awaits := runs.map Active.pkt }] }
    (runs.foldl (fun s a => s.stopActive v abort a) s1).flushDestroyed v

/-- R350 operation 2. -/
def execDestroyQueue (host : BitVec 4) (endpoint : BitVec 16) (p : Packet) (s : State) : Out1 :=
  control s host endpoint p 2 fun v s =>
    let w := pkArg p
    if w.extractLsb' 4 4 ≠ 0#4 ∨ w.extractLsb' 9 55 ≠ 0#55 then s.vdSticky v flagBADPKT
    else s.destroyQueue v (w.extractLsb' 0 4) (w.getLsbD 8)

/-- A dword of VD memory: an intermediate physical address, which stage 2 translates (log entry 23). -/
def State.vdDword (s : State) (v : VdNo) (ipa : Nat) : Option Word :=
  if ipa % 8 ≠ 0 then none
  else match s2walk s v ipa with
    | .ok page _ _ => if present page then some (s.physRead (page + ipa % 65536) 8) else none
    | .miss _ => none

/-- `n` dwords of VD memory; none where one is not mapped. -/
def State.vdDwords (s : State) (v : VdNo) (ipa : Nat) : Nat → Option (List Word)
  | 0 => some []
  | n + 1 => (s.vdDword v ipa).bind fun w => (s.vdDwords v (ipa + 8) n).map fun ws => w :: ws

/-- R348: a patch entry's fields are in range. -/
def patchOk (packets : Nat) (e : Word) : Bool :=
  e.extractLsb' 0 32 == 0#32 && decide ((e.extractLsb' 56 8).toNat ≤ 7) && decide ((e.extractLsb' 48 8).toNat < packets) &&
  decide (1 ≤ (e.extractLsb' 32 16).toNat) && decide ((e.extractLsb' 32 16).toNat ≤ 15)

/-- R350 operation 3, R348. -/
def execCreateGraph (host : BitVec 4) (endpoint : BitVec 16) (p : Packet) (s : State) : Out1 :=
  control s host endpoint p 3 fun v s =>
    let d := s.vd v
    let bad := s.vdSticky v flagBADPKT
    let n := (pkw p 4).toNat
    let m := (pkw p 6).toNat
    if !s.feature v 0 || decide (63 < (pkArg p).toNat) || decide (n < 1) || decide (256 < n) || decide (64 < m) ||
        d.graphs.any (fun g => g.num.toNat == (pkArg p).toNat) then bad
    else match s.vdDwords v (pkw p 3).toNat (16 * n), s.vdDwords v (pkw p 5).toNat m with
      | some ws, some es =>
        if !(es.all (patchOk n)) then bad
        else s.setVd { d with graphs := d.graphs ++ [{ num := (pkArg p).extractLsb' 0 6, packets := cut 16 n ws, patches := es, sets := [] }] }
      | _, _ => bad

/-- R350 operation 4: it waits while a patch set is in use. -/
def execFreeGraph (host : BitVec 4) (endpoint : BitVec 16) (p : Packet) (s : State) : Out1 :=
  control s host endpoint p 4 fun v s =>
    let d := s.vd v
    if !s.feature v 0 then s.vdSticky v flagBADPKT
    else match d.graphs.find? fun g => g.num.toNat == (pkArg p).toNat with
      | none => s.vdSticky v flagBADPKT
      | some g =>
        if g.sets.isEmpty then s.dropGraph v g
        else s.setVd { d with graphs := d.graphs.map fun x =>
          if x.num = g.num then { x with freeing := x.freeing ++ [pkNum p] } else x }

/-- R350 operation 5. -/
def execSetEventRing (host : BitVec 4) (endpoint : BitVec 16) (p : Packet) (s : State) : Out1 :=
  control s host endpoint p 5 fun v s =>
    let n := (pkw p 3).toNat
    if n < 4 ∨ 16 < n then s.vdSticky v flagBADPKT
    else s.setVd { s.vd v with
      ringBase := pkArg p, ringLog := BitVec.ofNat 5 n, ringCep := (pkw p 13).extractLsb' 0 16, ringProd := 0, ringCons := 0 }

/-- R350 operation 6, R355. -/
def execAcknowledgeEvents (host : BitVec 4) (endpoint : BitVec 16) (p : Packet) (s : State) : Out1 :=
  control s host endpoint p 6 fun v s =>
    let d := s.vd v
    let n := (pkArg p).toNat
    if n < d.ringCons ∨ d.ringProd < n then s.vdSticky v flagBADPKT else s.acknowledge v n

/-- R350 operation 7: only on VD 0's endpoint. -/
def execSetVdSchedule (host : BitVec 4) (endpoint : BitVec 16) (p : Packet) (s : State) : Out1 :=
  control s host endpoint p 7 fun v s =>
    let w := pkArg p
    let d := s.vd (w.extractLsb' 0 6)
    if v ≠ 0#6 ∨ w.extractLsb' 6 2 ≠ 0#2 ∨ w.extractLsb' 24 40 ≠ 0#40 ∨ w.extractLsb' 8 8 = 0#8 ∨ d.st = 0#2 then s.vdSticky v flagBADPKT
    else s.setVd { d with
      weight := (w.extractLsb' 8 8).toNat, cap := (w.extractLsb' 16 8).toNat + 1, budget := (pkw p 3).toNat }


/-! ### Sharing the cores (R352) -/

/-- The launch packet that a queued packet starts with: itself, or the first of its graph (R348). -/
def Vd.firstLaunch (v : Vd) (p : Packet) : Packet :=
  if pkKind p = 1#8 then ((v.graphs.find? fun g => g.num.toNat == (pkGraph p).toNat).bind fun g => g.packets.head?).getD [] else p

/-- A thread that could issue, or resume. -/
def Thread.ready (t : Thread) : Bool := !t.norm && (match t.wait with
  | none | some (.refused _) => true
  | _ => false)

/-- R352: the VD has work on some of the cores: a ready thread, a thread still to start, or a dispatchable packet. -/
def State.workOn (s : State) (p : CoreNo → Bool) (v : Vd) : Bool :=
  (s.threads.any fun t => t.chgvd == v.num && p t.core && t.ready) ||
    s.cores.any (fun k => p k.num && (k.launchTable.any (fun r => r.vd == v.num) || k.spawnStore.any (fun r => r.vd == v.num))) ||
    s.launches.any (fun r => p r.1 && r.2.vd == v.num) ||
    (v.mayDispatch && (v.active.any (fun a => !a.waiting && a.cores.any p) ||
      v.queues.any fun q => v.headReady q && q.packets.head?.any fun x => (packetCores (v.firstLaunch x)).any p))

/-- R352: the VD may hold a slice of a core. -/
def State.eligible (s : State) (c : CoreNo) (v : Vd) : Bool :=
  let used := (((s.core c).share.find? fun p => p.1 == v.num).map Prod.snd).getD 0
  v.st == 1#2 && v.num != 0#6 && s.workOn (· == c) v && (v.budget == 0 || decide (v.spent < v.budget * 3000)) &&
    decide (used * 256 < v.cap * 300000000)

/-- R352: the VD that a core picks at a slice's end: least vt, ties to the lower number. -/
def State.pickVd (s : State) (c : CoreNo) : Option VdNo :=
  let l := s.vds.filter (s.eligible c)
  (l.foldl (fun (b : Option Vd) v => match b with
    | none => some v
    | some w => if v.vt < w.vt || (v.vt == w.vt && decide (v.num.toNat < w.num.toNat)) then some v else b) none).map Vd.num

/-- R352: the VD has work on the shared cores. -/
def State.sharedWork (s : State) (v : Vd) : Bool := v.st == 1#2 && s.workOn s.isShared v

/-- R352: a VD that wakes takes the least vt of the others with work, and a boost. -/
def State.wakeVd (s : State) (v : Vd) : State :=
  let others := (s.vds.filter fun w => w.num != v.num && s.sharedWork w).map Vd.vt
  let least := others.foldl (fun (m : Option Nat) x => some (match m with
    | none => x
    | some y => min x y)) none
  s.setVd { v with vt := max v.vt (least.getD 0), boost := true, woke := s.cyc, idleSince := none }

/-- R352: a slice. -/
def sliceLength : Nat := 3000000

/-- R352: what the state of a VD's work means for it: one that gains work after a whole slice with none wakes. -/
def State.noteWork (s : State) (v : Vd) : State :=
  match v.idleSince, s.sharedWork v with
  | none, true => s
  | none, false => s.setVd { v with idleSince := some s.cyc }
  | some _, false => s
  | some t, true => if sliceLength ≤ (s.cyc - t).toNat then s.wakeVd v else s.setVd { v with idleSince := none }

/-- R352 for every VD. -/
def State.noteWorks (s : State) : State := s.vds.foldl State.noteWork s

/-- R352, R353: the end of a slice of a core: the next VD is picked; the pointer of a handover starts after
LastCompute. -/
def execSliceEnd (c : CoreNo) (s : State) : Out1 :=
  if !s.isShared c then .next s
  else
    let s1 := s.noteWorks
    let k := s1.core c
    match s1.pickVd c with
    | none => .next (s1.setCore { k with sliceStart := s1.cyc })
    | some v =>
      if k.sliceVd = some v then .next (s1.setCore { k with sliceStart := s1.cyc })
      else if k.nextVd.isSome then .next s1
      else .next (s1.setCore { k with nextVd := some v, handed := 0, pointer := k.lastCompute + 1, sliceStart := s1.cyc })

/-- R352: the boost of a VD ends after 2 ms. -/
def execBoostEnd (v : VdNo) (s : State) : Out1 := .next (s.setVd { s.vd v with boost := false })

/-- R352: budgets and shares renew. -/
def execBudgetRenewal (s : State) : Out1 :=
  .next { s with
    period := s.cyc
    vds := s.vds.map fun v => { v with spent := 0 }
    cores := s.cores.map fun k => { k with share := [] } }

end Sys2Proof.Machine
end

