-- ==== Sys2Proof/Machine/Resets.lean ====
section
/-! DEFINITION. Resets and boot (23_host_virtualisation.md R383, R384). -/

namespace Sys2Proof.Machine

/-! ### What a reset clears -/

/-- The trace ring and its registers (R255). -/
def Core.clearTrace (k : Core) : Core :=
  { k with trEn := false, trStop := false, trLost := 0, trHead := 0, trWins := Vector.replicate 4 0, trSel := 0, trRing := [] }

/-- The thread stands in a slot, the arrival queue or the context cache of a core. -/
def Thread.standsOn (t : Thread) (c : CoreNo) : Bool := match t.place with
  | .slot k _ | .arrival k | .cached k => k == c
  | _ => false

/-- R384, core: the threads in its slots, its arrival queue and its context cache are killed, and its queues, stages and
tables are cleared. Launch-table entries that go cut their packets short (log entry 24). -/
def State.clearCore (s : State) (c : CoreNo) : State :=
  let s1 := (s.threads.filter fun t => t.standsOn c).foldl (fun (s : State) t => s.doomThread true t) s
  let s2 := s1.shutStages c fun _ => true
  let k := s2.core c
  let cut (q : PktPart) : PktPart := match k.launchTable.find? fun r => q.ofPkt r.vd r.pkt with
    | none => q
    | some r => { q with quota := q.quota - r.left, err := q.err ||| errPARTIAL }
  let s3 := s2.setCore { k.clearTrace with
    mailbox := [], queues := Vector.replicate 8 {}, launchTable := [], spawnStore := [], parts := k.parts.map cut, arrivals := []
    cache := [], norm := [], lastCompute := 15, slotIssue := [], yields := [] }
  k.launchTable.foldl (fun (s : State) (r : LaunchReq) => s.settlePart c r.vd r.pkt) s3

/-- The cores of a comb. -/
def combCores (m : CombNo) : List CoreNo := (List.range 8).map fun i => BitVec.ofNat 10 (8 * m.toNat + i)

/-- R384, comb: its cores, accumulator slots, B-SRAM, translations and audit SEQ. -/
def State.clearComb (s : State) (m : CombNo) : State :=
  let s1 := (combCores m).foldl State.clearCore s
  let kept (d : Damage) : Bool := d.lasting || (match d.spot with
    | .bsram k _ _ => k != m
    | _ => true)
  ({ s1 with damage := s1.damage.filter kept } : State).setComb { s1.comb m with
    parking := [], grants := [], requests := [], lastCore := 7, accs := [], slices := [], queue := [], berr := [], seq := 0, audit := none
    skipped := 0, tlb := [], tlb2 := [] }

/-- R384, hive: its combs, its walkers, and the lines of its slices. -/
def State.clearHive (s : State) (h : BitVec 4) : State :=
  let s1 := ((List.range 8).map fun i => BitVec.ofNat 7 (8 * h.toNat + i)).foldl State.clearComb s
  let mine (f : BitVec 5) : Bool := f.extractLsb' 1 4 == h
  let kept (d : Damage) : Bool := d.lasting || (match d.spot with
    | .slice g => homeOf g != .slice (BitVec.ofNat 5 (2 * h.toNat)) && homeOf g != .slice (BitVec.ofNat 5 (2 * h.toNat + 1))
    | _ => true)
  { s1 with
    walks := s1.walks.filter fun w => w.hive != h, damage := s1.damage.filter kept
    fills := s1.fills.filter fun x => !mine x.1, lines := s1.lines.filter fun x => !mine x.1 }

/-- A thread of a VD that its reset does not end: it stands in another VD's domain, and is orphaned there (R318, R319). -/
def State.survives (s : State) (t : Thread) : Bool := t.depth != 0#4 && s.unwindTarget t != some 0

/-- The domains of a VD. -/
def State.domainsOf (s : State) (v : VdNo) : List Domain := s.domains.filter fun d => d.vd == v && d.life != .absent

/-- R384, R310, R318, R351, R370: a VD reset begins. -/
def State.beginVdReset (s : State) (v : VdNo) : State :=
  let s0 := s.setVd { s.vd v with st := 3 }
  let s1 := (s0.domainsOf v).foldl (fun (s : State) (d : Domain) => s.killDomain d.num) s0
  let spared := s1.threads.filter fun t => t.pvd == v && t.pkt != 0#32 && s1.survives t
  let s2 := spared.foldl (fun (s : State) (t : Thread) =>
    let s1 := s.modThread t.num fun t => { t with pkt := 0 }
    if t.core = t.lcore then s1.countThread t.lcore v t.pkt 0 s.cyc
    else { s1 with quits := s1.quits ++ [{ dest := t.lcore, vd := v, pkt := t.pkt, err := 0, fin := s.cyc }] }) s1
  let s3 := ((s2.vd v).queues.map PktQueue.num).foldl (fun (s : State) q => s.destroyQueue v q true) s2
  let s4 := (s3.threads.filter fun t => t.chgvd == v && !s3.survives t).foldl (fun (s : State) t => s.doomThread false t) s3
  let clear (k : Core) : Core :=
    { k with launchTable := k.launchTable.filter fun r => r.vd != v, spawnStore := k.spawnStore.filter fun r => r.vd != v }
  let s5 := s4.dropPages v
  let d := s5.vd v
  ({ s5 with cores := s5.cores.map clear, launches := s5.launches.filter fun r => r.2.vd != v } : State).setVd { d with
    pend := [], pqhead := d.pqtail, spills := [], feat0 := 0, feat1 := 0, firstPkt := false }

/-- The firmware column's cores restart from the active bank (R384, R395). What runs on them then is firmware, which is
placed from outside (log entry 25). -/
def State.restartColumn (s : State) : State := s.column.foldl State.clearCore s

/-- R395: an update that rotates is rolled back by a firmware-column reset, and posts its record. -/
def State.rollBack (s : State) : State :=
  if s.fleet.updst = 3#8 then
    let s1 : State := { s with fleet := { s.fleet with updst := 6, switched := [] } }
    s1.telemetry 6 [s1.fleet.updst ++ 0#24 ++ s1.fleet.svn]
  else s

/-- A granule of HBM (R305). -/
def Damage.inHbm (d : Damage) : Bool := match d.spot with
  | .mem g => decide (g < scratchBase)
  | _ => false

/-- R384: a cold reset clears everything but the firmware banks, from which the part boots; cells that have failed for good
stay so (R308). -/
def State.cold (s : State) : State :=
  { State.reset with
    damage := s.damage.filter Damage.lasting
    fleet := { active := s.fleet.active, inactive := s.fleet.inactive }, out := s.out, free := s.free }

/-- R384: a warm package reset keeps HBM contents as well. -/
def State.warm (s : State) : State :=
  { s.cold with
    mem := s.mem.filter (fun c => decide (c.1 < scratchBase)), damage := s.damage.filter fun d => d.lasting || d.inHbm }

/-! ### Requests (R384) -/

/-- RSTSTAT: the KIND of the last request and how it stands: 1 running, 2 done, 3 refused; bit 0 says "reset during save"
(R362). -/
def rstStat (kind : BitVec 4) (state : BitVec 2) (duringSave : Bool) : Word := kind ++ state ++ 0#57 ++ bit1 duringSave

/-- R362: a context of a VD is being saved: it is the one that a pre-emption engine saves now. -/
def State.saving (s : State) (v : VdNo → Bool) : Bool :=
  s.cores.any fun k => ((s.saveQueue k.num).head?.bind s.thread?).any fun t => v t.chgvd

/-- A reset of a VD, or one that contains every VD, meets a save (R362). -/
def State.resetMeetsSave (s : State) (kind : BitVec 4) (target : BitVec 16) : Bool :=
  if kind = 5#4 then s.saving (· == target.extractLsb' 0 6) else (kind == 7#4 || kind == 8#4) && s.saving fun _ => true

/-- A target in range; the slot of a slot reset stands above its core. -/
def resetTarget (kind slot : BitVec 4) (target : BitVec 16) : Option (BitVec 16) :=
  let n := target.toNat
  match kind.toNat with
  | 1 => if n < 1024 then some (BitVec.ofNat 16 (n + 1024 * slot.toNat)) else none
  | 2 => if n < 1024 then some target else none
  | 3 => if n < 128 then some target else none
  | 4 => if n < 16 then some target else none
  | 5 => if n < 64 then some target else none
  | 6 | 7 | 8 => some 0
  | _ => none

/-- Cores that a reset of kind 1 to 4 covers: the number of the first, as a power of two of them. -/
def resetSpan (kind : BitVec 4) (target : BitVec 16) : Nat × Nat :=
  match kind.toNat with
  | 1 => (target.toNat % 1024, 0)
  | 2 => (target.toNat, 0)
  | 3 => (8 * target.toNat, 3)
  | _ => (64 * target.toNat, 6)

/-- The scope of a new request contains a reset that runs. -/
def State.resetContains (s : State) (kind : BitVec 4) (target : BitVec 16) (r : Reset) : Bool :=
  if kind = 8#4 then true
  else if kind = 7#4 then r.kind != 8#4
  else if kind = r.kind then target == r.target
  else if kind = 6#4 then decide (1 ≤ r.kind.toNat) && decide (r.kind.toNat ≤ 3) && (let b := resetSpan r.kind r.target
    (List.range (2 ^ b.2)).all fun i => s.inColumn (BitVec.ofNat 10 (b.1 + i)))
  else if 2 ≤ kind.toNat ∧ kind.toNat ≤ 4 ∧ r.kind.toNat < kind.toNat then
    let a := resetSpan kind target
    let b := resetSpan r.kind r.target
    b.1 / 2 ^ a.2 * 2 ^ a.2 == a.1
  else false

/-- The thread that a slot reset kills is gone, or its waits are over and it is killed (R360, R384). -/
def State.killSlot (s : State) (target : BitVec 16) : Option State :=
  match s.occupant (target.extractLsb' 0 10) (target.extractLsb' 10 4) with
  | none => some s
  | some t => if t.savable then some (s.endThread t.num .killed) else none

/-- What a reset does when it begins. -/
def State.applyReset (s : State) (kind : BitVec 4) (target : BitVec 16) : State :=
  match kind.toNat with
  | 1 => (s.killSlot target).getD s
  | 2 => s.clearCore (target.extractLsb' 0 10)
  | 3 => s.clearComb (target.extractLsb' 0 7)
  | 4 => s.clearHive (target.extractLsb' 0 4)
  | 5 => s.beginVdReset (target.extractLsb' 0 6)
  | 6 => s.restartColumn.rollBack
  | 7 => s.warm
  | _ => s.cold

/-- R384: a request is refused: what it names does not exist, the part is halted, or another reset runs. -/
def State.resetRefused (s : State) (kind : BitVec 4) (target : BitVec 16) : Bool :=
  (s.mgmt.state == 3#8 && kind != 8#4) || (kind == 5#4 && (s.vd (target.extractLsb' 0 6)).st == 0#2) ||
    s.mgmt.reset.any fun r => !s.resetContains kind target r

/-- R384: a reset is requested. A halted part leaves STATE 3 only by a cold reset (R392). -/
def State.requestReset (s : State) (kind slot : BitVec 4) (target : BitVec 16) : State :=
  let refused : State := { s with mgmt := { s.mgmt with rststat := rstStat kind 3 false } }
  match resetTarget kind slot target with
  | none => refused
  | some t =>
    if s.resetRefused kind t then refused
    else
      let s1 := s.applyReset kind t
      { s1 with mgmt := { s1.mgmt with rststat := rstStat kind 1 false, reset := some {
        kind := kind, target := t, since := s1.cyc, duringSave := s.resetMeetsSave kind t } } }

/-- The layout of a request (R384). -/
def State.resetWord (s : State) (w : Word) : State :=
  s.requestReset (w.extractLsb' 60 4) (w.extractLsb' 16 4) (w.extractLsb' 0 16)

/-- R384: a request through rstreq: kinds 6 to 8 are not domain 0's to assert. -/
def State.resetFrom0 (s : State) (w : Word) : State :=
  if 5 < (w.extractLsb' 60 4).toNat then { s with mgmt := { s.mgmt with rststat := rstStat (w.extractLsb' 60 4) 3 false } } else s.resetWord w

def execSlotReset (c : CoreNo) (n : SlotNo) (s : State) : Out1 := .next (s.requestReset 1 n (c.setWidth 16))
def execCoreReset (c : CoreNo) (s : State) : Out1 := .next (s.requestReset 2 0 (c.setWidth 16))
def execCombReset (m : CombNo) (s : State) : Out1 := .next (s.requestReset 3 0 (m.setWidth 16))
def execHiveReset (h : BitVec 4) (s : State) : Out1 := .next (s.requestReset 4 0 (h.setWidth 16))
def execVdReset (v : VdNo) (s : State) : Out1 := .next (s.requestReset 5 0 (v.setWidth 16))
def execFirmwareColumnReset (s : State) : Out1 := .next (s.requestReset 6 0 0)
def execWarmReset (s : State) : Out1 := .next (s.requestReset 7 0 0)
def execColdReset (s : State) : Out1 := .next (s.requestReset 8 0 0)

/-- A core lies in the scope of a reset of kind 1 to 4. -/
def Reset.covers (r : Reset) (c : CoreNo) : Bool :=
  let span := resetSpan r.kind r.target
  c.toNat / 2 ^ span.2 * 2 ^ span.2 == span.1

/-- What a reset does when it ends; none: it goes on, for threads whose accesses are not over. -/
def State.endReset (s : State) (r : Reset) : Option State :=
  if r.kind = 1#4 then s.killSlot r.target
  else if (2 ≤ r.kind.toNat ∧ r.kind.toNat ≤ 4) ∧ s.threads.any (fun t => t.doom.isSome && r.covers t.core) then none
  else if r.kind = 5#4 then
    let v := r.target.extractLsb' 0 6
    if (s.domainsOf v).all fun d => d.life == .dead then
      let d := s.vd v
      some (if d.doomed then { s with
          vds := s.vds.filter fun x => x.num != v, domains := s.domains.filter fun x => x.vd != v }
        else s.setVd { d with st := 1 })
    else none
  else some s

/-- R384, R387: a reset finishes. -/
def execResetComplete (s : State) : Out1 :=
  match s.mgmt.reset with
  | none => .next s
  | some r => match s.endReset r with
    | none => .next s
    | some s1 =>
      let stat := rstStat r.kind 2 r.duringSave
      .next (({ s1 with mgmt := { s1.mgmt with rststat := stat, reset := none } } : State).telemetry 7 [stat, s.cyc - r.since])

/-! ### Boot (R383) -/

/-- The bytes whose signatures are verified: the configuration table's and the image's part of a bank. -/
def tableOf (bank : List Byte) : List Byte := 0 :: bank
def imageOf (bank : List Byte) : List Byte := 1 :: bank

/-- R383 step 3: the table is good. -/
def tableGood (bank : List Byte) : Bool :=
  let w := Config.tableWidth bank
  let n := Config.tableHosts bank
  decide (1 ≤ w) && decide (w ≤ 4) && decide (1 ≤ n) && decide (n ≤ 16) &&
    (List.range 6).all fun r => (List.range (32 * w)).any fun i => Config.tableRole bank i == r

/-- R383: the first step that fails, or none. Whether the bank can be read is the deployment's, and whether the column, the stacks
and the ports start is a free value of each boot (log entry 2). -/
def bootFailure (bank : List Byte) (starts : Bool) : Option Nat :=
  if !Config.tableReadable bank then some 1
  else if !Config.signatureOk (tableOf bank) then some 2
  else if !tableGood bank then some 3
  else if !Config.signatureOk (imageOf bank) then some 4
  else if !starts then some 5
  else none

/-- R383: the part boots once its reset is over. -/
def execBoot (s : State) : Out1 :=
  if s.mgmt.state ≠ 0#8 ∨ s.mgmt.reset.isSome then .next s
  else
    let bank := s.fleet.active
    let width := BitVec.ofNat 3 (Config.tableWidth bank)
    let (v, s1) := s.freeVal
    match bootFailure bank (v.getLsbD 0) with
    | some step => .next { s1 with mgmt := { s1.mgmt with
        state := 3, booterr := BitVec.ofNat 32 step, colw := if 4 ≤ step then width else s1.mgmt.colw } }
    | none => .next { s1 with mgmt := { s1.mgmt with state := 1, colw := width } }

end Sys2Proof.Machine
end

