-- ==== Sys2Proof/Machine/System.lean ====
section
/-! DEFINITION. System registers: `sysrd` and `syswr` (01_state.md R28, R29; 09_gates_system.md R214), the registers of the
hypervisor and of domain 0 (22_traps_translation.md R366 to R370, R372; 11_memory_model.md R255 to R257; 24_fleet.md R388,
R389), and the steps that their writes take. -/

namespace Sys2Proof.Machine

/-! ### Rights (R28, R29, R372) -/

/-- How far the current mode reaches: 1 ordinary code, 2 the domain's trap handler, 3 domain 0. -/
def State.sysMode (s : State) : Nat := if s.cur.dom = 0 then 3 else if s.cur.hm then 2 else 1

/-- The least mode that may read, and that may write, an index below 0x100; 4 is no mode. None: not assigned (R28). -/
def sysModes (i : Nat) : Option (Nat × Nat) :=
  if i = 0 ∨ i = 1 ∨ i = 4 ∨ i = 0x50 then some (1, 1)
  else if i = 2 ∨ i = 3 ∨ i = 5 ∨ i = 6 ∨ (8 ≤ i ∧ i ≤ 0x11) ∨ i = 0x51 ∨ i = 0x52 then some (1, 4)
  else if 0x18 ≤ i ∧ i ≤ 0x1F then some (3, 4)
  else if i = 0x40 ∨ i = 0x42 ∨ i = 0x44 then some (2, 2)
  else if i = 0x41 ∨ i = 0x43 then some (2, 4)
  else if i = 0x45 then some (1, 2)
  else none

/-- Indexes of the hypervisor and of domain 0, and whether each may be written (R372). -/
def highIndex (i : Nat) : Option Bool :=
  if i = 0x116 ∨ i = 0x117 ∨ i = 0x80C then some false
  else if i = 0x100 ∨ i = 0x101 ∨ i = 0x103 ∨ (0x110 ≤ i ∧ i ≤ 0x115) ∨ i = 0x120 ∨ (0x800 ≤ i ∧ i ≤ 0x806) ∨
      (0x808 ≤ i ∧ i ≤ 0x80D) ∨ i = 0x810 ∨ i = 0x820 ∨ i = 0x830 ∨ i = 0x840 ∨ i = 0x842 ∨ i = 0x843 then some true
  else none

/-- What an access to a system register answers. -/
inductive SysAns (α : Type) where
  | ok (a : α)
  | illegal
  | prot (tval : Word)
  | wait

/-- R29, R372: whether the current mode may read or write an index. -/
def sysAllowed (s : State) (i : Nat) (write : Bool) : SysAns Unit :=
  let no : SysAns Unit := .prot (BitVec.ofNat 64 i)
  let yes (b : Bool) : SysAns Unit := if b then .ok () else no
  if i < 0x100 then
    match sysModes i with
    | none => .illegal
    | some (r, w) => yes (decide ((if write then w else r) ≤ s.sysMode))
  else match highIndex i with
    | none => .illegal
    | some rw =>
      let hyp := i < 0x200 && (s.domain s.cur.dom).hyp
      if !(s.cur.dom == 0 || hyp) || (write && !rw) then no
      else if 0x110 ≤ i ∧ i ≤ 0x117 then
        (if s.cur.dom = 0 ∨ s.partition? (combOf s.cur.core) = some s.cur.vdid then .ok () else .prot 0x4001C)
      else .ok ()

/-- The domain that hsel names, which must be of the VD where a hypervisor acts (R372). -/
def State.hselDomain (s : State) (sel : Word) : Option Domain :=
  let d := s.domain (sel.extractLsb' 0 12)
  if s.cur.dom = 0 ∨ (d.vd = s.cur.vdid ∧ d.life ≠ .absent) then some d else none

/-- The domain and the VD that fsel names. -/
def State.fselDomain (s : State) : Domain := s.domain ((s.core s.cur.core).fsel.extractLsb' 0 12)
def State.fselVd (s : State) : Vd := s.vd ((s.core s.cur.core).fsel.extractLsb' 12 6)

/-! ### Reading -/

/-- R382: the event that evsel names is in the VD's allow-list. -/
def State.eventAllowed (s : State) : Bool :=
  let e := s.cur.evsel.extractLsb' 0 8
  ((s.vd s.cur.vdid).evallow.toList.getD (e.toNat / 64) 0).getLsbD (e.toNat % 64)

/-- R382: guest time of a VD. -/
def Vd.gtime (d : Vd) : Word := d.gtoff + BitVec.ofNat 64 (d.gcyc.toNat / 3)

/-- R255: trctl as it reads. -/
def Core.trctl (k : Core) : Word :=
  k.trLost ++ 0#4 ++ k.trHead ++ 0#3 ++ BitVec.ofNat 13 k.trRing.length ++ 0#13 ++ 0#1 ++ bit1 k.trStop ++ bit1 k.trEn

/-- R237: the audit control register as it reads. -/
def Comb.auctl (m : Comb) : Word := m.seq ++ 0#26 ++ bit1 m.auEn ++ m.auExp

/-- R389: thctl as it reads. -/
def Core.thctl (k : Core) : Word := 0#40 ++ k.temp ++ k.hot ++ k.cool

/-- The thermal-ranking entry that rksel selects: its hive and number. -/
def Core.rankAt (k : Core) : BitVec 4 × BitVec 6 := (k.rksel.extractLsb' 6 4, k.rksel.extractLsb' 0 6)

/-- The value of a register below 0x100 (R28), as the thread was before its bundle (R16). -/
def sysLow (s : State) (i : Nat) : Word :=
  let t := s.rd
  let d := s.domain s.cur.dom
  if 0x18 ≤ i ∧ i ≤ 0x1F then ((t.top.map Entry.words).getD []).getD (i - 0x18) 0
  else match i with
    | 0x00 => t.stWord
    | 0x01 => t.cb
    | 0x02 => t.ocWord
    | 0x03 => t.taint.setWidth 64
    | 0x04 => t.pw.setWidth 64
    | 0x05 => t.domWord
    | 0x06 => t.chg
    | 0x08 => t.fmtA.setWidth 64
    | 0x09 => t.fmtB.setWidth 64
    | 0x0A => t.scA
    | 0x0B => t.scB
    | 0x0C => t.scC
    | 0x0D => t.agv.setWidth 64
    | 0x0E => t.agc.setWidth 64
    | 0x0F => t.agmWord
    | 0x10 => t.vbsWord
    | 0x11 => t.pbsWord
    | 0x40 => d.tvec
    | 0x41 => t.tcause
    | 0x42 => t.epc
    | 0x43 => t.tval
    | 0x44 => t.est
    | 0x45 => d.dcb
    | 0x50 => t.evsel
    | 0x51 => if s.eventAllowed then t.evcnt else 0
    | 0x52 => (s.vd s.cur.vdid).gtime
    | _ => 0

/-- The value of a register of the hypervisor or of domain 0 (R372). A write-only register reads 0 (R5). -/
def sysHigh (s : State) (i : Nat) : SysAns Word :=
  let k := s.core s.cur.core
  let v := s.fselVd
  match i with
  | 0x100 => .ok k.hsel
  | 0x101 => (match s.hselDomain k.hsel with
    | none => .prot 0x4001B
    | some d => .ok d.s1root)
  | 0x110 => .ok k.trctl
  | 0x111 | 0x112 | 0x113 | 0x114 => .ok (k.trWins.toList.getD (i - 0x111) 0)
  | 0x115 => .ok (k.trSel.setWidth 64)
  | 0x116 => .ok (((k.trRing[k.trSel.toNat]?).map Prod.fst).getD 0)
  | 0x117 => .ok (((k.trRing[k.trSel.toNat]?).map Prod.snd).getD 0)
  | 0x800 => .ok k.fsel
  | 0x801 => .ok s.fselDomain.s1root
  | 0x802 | 0x803 | 0x804 | 0x805 => .ok (v.s2root.toList.getD (i - 0x802) 0)
  | 0x809 => .ok v.pqbase
  | 0x80A => .ok (BitVec.ofNat 64 (v.pend.length * 2 ^ 32 + v.pqsz.toNat))
  | 0x80B => .ok v.pqhead
  | 0x80C => .ok v.pqtail
  | 0x80D => .ok v.splbase
  | 0x810 => .ok (k.fcfw.setWidth 64)
  | 0x820 => .ok (s.comb (combOf s.cur.core)).auctl
  | 0x840 => .ok k.thctl
  | 0x842 => .ok k.rksel
  | 0x843 => .ok ((((s.hive k.rankAt.1).rank.find? fun r => r.1 == k.rankAt.2).map Prod.snd).getD 0)
  | _ => .ok 0

/-- R214: `sysrd`. An evcnt read of an event that is not allowed sets EVZ (R382). -/
def execSysrd (g : KReg) (d : XReg) (i : BitVec 13) (s : State) : Out1 :=
  finish s (guarded s g (legal s [] [d] (match sysAllowed s i.toNat false with
    | .illegal => .trap .illegal s.bundle
    | .prot v => .trap .prot v
    | .wait => .wait
    | .ok _ =>
      if i.toNat < 0x100 then
        let s1 : State := if i.toNat = 0x51 ∧ !s.eventAllowed then { s with cur := { s.cur with st := putBit s.cur.st stEVZ true } } else s
        putX s1 d (sysLow s i.toNat) false
      else match sysHigh s i.toNat with
        | .ok v => putX s d v false
        | .prot v => .trap .prot v
        | .illegal => .trap .illegal s.bundle
        | .wait => .wait)))

/-! ### The steps that writes take -/

/-- R14: VLIVE is cleared, once VBUSY is 0. -/
def State.clearVlive (s : State) : State :=
  { s with cur := { s.cur with
      st := putBit s.cur.st stVLIVE false, v := Vector.replicate 8 (Vector.replicate 32 0), streams := Vector.replicate 8 {} } }

/-- R255: a write of CLR. -/
def Core.emptyTrace (k : Core) : Core := { k with trRing := [], trLost := 0, trHead := 0 }

/-- R388: a write of evsel. -/
def State.selectEvent (s : State) (v : Word) : State := { s with cur := { s.cur with evsel := v, evcnt := 0 } }

/-- Drops cached translations from every comb. -/
def State.dropTlb (s : State) (p : Tlb → Bool) (q : Tlb2 → Bool) : State :=
  { s with combs := s.combs.map fun m => { m with tlb := m.tlb.filter (fun e => !p e), tlb2 := m.tlb2.filter (fun e => !q e) } }

/-- The IPA pages of the tables that a walk which is held has read. -/
def Walk.passed (w : Walk) : List Nat := match w.at_ with
  | none => []
  | some (.table _ _ via) | some (.output _ _ via) => via.map Prod.fst

/-- R366: a walk that is held for a reply and has read an affected entry forgets what it has read: once the reply has come, it
walks anew (DEDUCED, log entry 76). A walk that is not held is one step, so none else is under way. -/
def State.forgetWalks (s : State) (p : Walk → Bool) : State :=
  { s with walks := s.walks.map fun w => if p w then { w with at_ := none } else w }

/-- R366: `tinv1` in a domain; none is ILLEGAL. -/
def State.invalidate1 (s : State) (d : DomNo) (v : Word) : Option State :=
  if v.extractLsb' 0 16 = 0#16 then
    let page := v.extractLsb' 16 32
    some ((s.dropTlb (fun e => e.dom == d && e.page.extractLsb' 0 32 == page) (fun _ => false)).forgetWalks fun w =>
      w.dom == d && w.page.extractLsb' 0 32 == page)
  else if v.extractLsb' 0 16 = 1#16 then
    some ((s.dropTlb (fun e => e.dom == d) (fun _ => false)).forgetWalks fun w => w.dom == d)
  else none

/-- R366: `tinv2` in a VD; none is ILLEGAL. -/
def State.invalidate2 (s : State) (n : VdNo) (v : Word) : Option State :=
  let page := v.extractLsb' 16 36
  if v.extractLsb' 0 16 = 0#16 then
    some ((s.dropTlb (fun e => e.vd == n && (e.ipa == page || e.via.contains page)) (fun e => e.vd == n && e.ipa == page)).forgetWalks
      fun w => (s.domain w.dom).vd == n && w.passed.contains page.toNat)
  else if v.extractLsb' 0 16 = 1#16 then
    some ((s.dropTlb (fun e => e.vd == n) (fun e => e.vd == n)).forgetWalks fun w => (s.domain w.dom).vd == n)
  else none

/-- R367: a write of pqhead. -/
def State.writePqhead (s : State) (v : VdNo) (w : Word) : State :=
  postRecords v 64 (s.setVd { s.vd v with pqhead := w })

/-! ### Writing -/

/-- st: the reserved RM is ILLEGAL (R13), writing 0 to VLIVE waits for VBUSY (R14), the sticky flags are W1C (R12). -/
def writeSt (s : State) (v : Word) : SysAns State :=
  if 4 < (v.extractLsb' 0 3).toNat then .illegal
  else if !v.getLsbD stVLIVE && s.cur.vbusy then .wait
  else
    let s1 := if v.getLsbD stVLIVE then s else s.clearVlive
    let st := s1.cur.st &&& ~~~(v &&& 0xFF0000#64) &&& ~~~0x1F#64 ||| (v &&& 0x1F#64)
    .ok { s1 with cur := { s1.cur with st := st } }

/-- est: a saved value; only its sticky flags, RM, FZS and FZR take the write (R214). -/
def writeEst (s : State) (v : Word) : SysAns State :=
  if 4 < (v.extractLsb' 0 3).toNat then .illegal
  else .ok { s with cur := { s.cur with est := (s.cur.est &&& ~~~0xFF001F#64) ||| (v &&& 0xFF001F#64) } }

/-- Writes a register below 0x100 (R214). -/
def sysWriteLow (s : State) (i : Nat) (v : Word) : SysAns State :=
  let d := s.domain s.cur.dom
  let t := s.cur
  let low : Word := v &&& ~~~3#64
  match i with
  | 0x00 => writeSt s v
  | 0x01 => .ok { s with cur := { t with cb := v } }
  | 0x04 => .ok { s with cur := { t with pw := v.extractLsb' 0 8 ||| 1 } }
  | 0x40 => .ok (s.setDomain { d with tvec := low })
  | 0x42 => .ok { s with cur := { t with epc := low } }
  | 0x44 => writeEst s v
  | 0x45 => .ok (s.setDomain { d with dcb := v })
  | 0x50 => .ok (s.selectEvent v)
  | _ => .ok s

/-- An ILLEGAL where there is no state. -/
def orIllegal (o : Option State) : SysAns State := match o with
  | none => .illegal
  | some s => .ok s

/-- Replaces an element of a register group. -/
def setAt {n : Nat} (v : Vector Word n) (i : Nat) (x : Word) : Vector Word n := v.mapIdx fun j y => if j = i then x else y

/-- R120 of the slot and core resets that a hypervisor may ask for (R372, R384). -/
def State.hypReset (s : State) (w : Word) : SysAns State :=
  let kind := w.extractLsb' 60 4
  let c := w.extractLsb' 0 16
  if (kind = 1#4 ∨ kind = 2#4) ∧ c.toNat < 1024 ∧ s.partition? (combOf (c.extractLsb' 0 10)) = some s.cur.vdid then .ok (s.resetWord w)
  else .prot 0x4001D

/-- Writes a register of the hypervisor or of domain 0 (R372). -/
def sysWriteHigh (s : State) (i : Nat) (w : Word) : SysAns State :=
  let k := s.core s.cur.core
  let v := s.fselVd
  match i with
  | 0x100 => if (s.hselDomain w).isNone then .prot 0x4001B else .ok (s.setCore { k with hsel := w &&& 0xFFF#64 })
  | 0x101 => (match s.hselDomain k.hsel with
    | none => .prot 0x4001B
    | some d => .ok (s.setDomain { d with s1root := w &&& 0xFFFFFFFFFF000#64 }))
  | 0x103 => (match s.hselDomain k.hsel with
    | none => .prot 0x4001B
    | some d => orIllegal (s.invalidate1 d.num w))
  | 0x110 =>
    let k1 := if w.getLsbD 2 then k.emptyTrace else k
    .ok (s.setCore { k1 with trStop := w.getLsbD 1, trEn := w.getLsbD 0 })
  | 0x111 | 0x112 | 0x113 | 0x114 => .ok (s.setCore { k with trWins := setAt k.trWins (i - 0x111) (w &&& 0xC000003FFFFFFFFF#64) })
  | 0x115 => .ok (s.setCore { k with trSel := w.extractLsb' 0 12 })
  | 0x120 => s.hypReset w
  | 0x800 => .ok (s.setCore { k with fsel := w &&& 0x3FFFF#64 })
  | 0x801 => .ok (s.setDomain { s.fselDomain with s1root := w &&& 0xFFFFFFFFFF000#64 })
  | 0x802 | 0x803 | 0x804 | 0x805 => .ok (s.setVd { v with s2root := setAt v.s2root (i - 0x802) (w &&& 0xFFFFFFFFF0001#64) })
  | 0x806 => orIllegal (s.invalidate2 v.num w)
  | 0x808 => orIllegal (s.pageReply w)
  | 0x809 => .ok (s.setVd { v with pqbase := w &&& ~~~(BitVec.ofNat 64 (32 * v.queueSize - 1)) })
  | 0x80A =>
    let sz := w.extractLsb' 0 4
    .ok (s.setVd { v with pqsz := if 8 < sz.toNat then 8 else sz })
  | 0x80B => .ok (s.writePqhead v.num w)
  | 0x80D => .ok (s.setVd { v with splbase := w &&& 0xFFFFFFFFF0000#64 })
  | 0x810 => .ok (s.setCore { k with fcfw := w.extractLsb' 0 5 })
  | 0x820 =>
    let m := s.comb (combOf s.cur.core)
    .ok (s.setComb { m with auEn := w.getLsbD 5, auExp := w.extractLsb' 0 5 })
  | 0x830 => .ok (s.resetFrom0 w)
  | 0x840 => .ok (s.setCore { k with hot := w.extractLsb' 8 8, cool := w.extractLsb' 0 8 })
  | 0x842 => .ok (s.setCore { k with rksel := w &&& 0x3FF#64 })
  | 0x843 =>
    let h := s.hive k.rankAt.1
    .ok (s.setHive { h with rank := (k.rankAt.2, w &&& 0x83FF#64) :: h.rank.filter fun r => r.1 != k.rankAt.2 })
  | _ => .ok s

/-- The writes that may end the thread itself. -/
def isReset (i : Nat) : Bool := i == 0x120 || i == 0x830

/-- R214: `syswr`. -/
def execSyswr (g : KReg) (a : XReg) (i : BitVec 13) (s : State) : Out1 :=
  finish s (guarded s g (legal s [a] [] (useX s a fun v _ s1 =>
    match sysAllowed s1 i.toNat true with
    | .illegal => .trap .illegal s.bundle
    | .prot x => .trap .prot x
    | .wait => .wait
    | .ok _ =>
      let s2 := if isReset i.toNat then s1.retire none else s1
      match (if i.toNat < 0x100 then sysWriteLow s2 i.toNat v else sysWriteHigh s2 i.toNat v) with
      | .illegal => .trap .illegal s.bundle
      | .prot x => .trap .prot x
      | .wait => .wait
      | .ok s3 => if isReset i.toNat then .moved s3 else .done s3)))

/-! ### The steps by themselves -/

/-- R14. -/
def execVliveClear (s : State) : Out1 := .next (if s.cur.vbusy then s else s.clearVlive)

/-- R255. -/
def execTraceClear (s : State) : Out1 := .next (s.setCore (s.core s.cur.core).emptyTrace)

/-- R388. -/
def execEvselWrite (v : Word) (s : State) : Out1 := .next (s.selectEvent v)

/-- R366. -/
def execTinv1 (v : Word) (s : State) : Out1 :=
  .next (((s.hselDomain (s.core s.cur.core).hsel).bind fun d => s.invalidate1 d.num v).getD s)

/-- R366. -/
def execTinv2 (v : Word) (s : State) : Out1 := .next ((s.invalidate2 s.fselVd.num v).getD s)

/-- R368. -/
def execPgrep (v : Word) (s : State) : Out1 := .next ((s.pageReply v).getD s)

/-- R367. -/
def execPqheadWrite (v : Word) (s : State) : Out1 := .next (s.writePqhead s.fselVd.num v)

/-- R219: the current thread takes a trap at its bundle. -/
def execTrapEntry (c : Cause) (tval : Word) (s : State) : Out1 := .next (s.trapped c tval s.cur.pc)

end Sys2Proof.Machine
end

