-- ==== Sys2Proof/Machine/Host.lean ====
section
/-! DEFINITION. What hosts do at the management endpoint and the data endpoints (23_host_virtualisation.md R374 to R382;
08_engines_keyed.md R184): management operations, writes of the management region, remote accesses, elections. -/

namespace Sys2Proof.Machine

/-! ### Management operations (R379) -/

/-- The VD that an operation names. -/
def pkVd (p : Packet) : VdNo := (pkArg p).extractLsb' 0 6
/-- The domain that an operation names. -/
def pkDom (p : Packet) : DomNo := (pkArg p).extractLsb' 16 12

/-- A management operation of the controller: a packet that is not its own or is malformed sets BADPKT. -/
def manage (s : State) (host : BitVec 4) (p : Packet) (op : Nat) (f : State → Option State) : Out1 :=
  if !s.controls host || s.frontDown then .next s
  else if unsupported .ordered (sendOf p) then .next s.refuse
  else if !controlFieldsOk p op then .next (s.vdSticky (pkVd p) flagBADPKT)
  else match f s with
    | none => .next (s.vdSticky (pkVd p) flagBADPKT)
    | some s1 => .next s1

/-- A comb, or a hive, holds a core of the firmware column. -/
def State.columnComb (s : State) (m : CombNo) : Bool := (combCores m).any s.inColumn
def State.columnHive (s : State) (h : BitVec 4) : Bool :=
  ((List.range 8).map fun i => BitVec.ofNat 7 (8 * h.toNat + i)).any s.columnComb

/-- R379 operation 8: a VD with its partitions; none where the operands forbid it. What domain 0 (R377) and the controlling host
(R376) have written for it stays. -/
def State.createVd (s : State) (p : Packet) : Option State :=
  let v := pkVd p
  let d := s.vd v
  let combs : BitVec 128 := pkw p 4 ++ pkw p 3
  let hives := (pkw p 5).extractLsb' 0 16
  let badComb := (List.range 128).any fun i =>
    combs.getLsbD i && ((s.partition? (BitVec.ofNat 7 i)).isSome || s.columnComb (BitVec.ofNat 7 i))
  let badHive := (List.range 16).any fun i =>
    hives.getLsbD i && ((s.vds.any fun x => x.st != 0#2 && x.hives.getLsbD i) || s.columnHive (BitVec.ofNat 4 i))
  if (pkArg p).extractLsb' 6 58 ≠ 0#58 ∨ (pkw p 5).extractLsb' 16 48 ≠ 0#48 ∨ (pkw p 6).extractLsb' 12 52 ≠ 0#52 ∨ d.st ≠ 0#2 ∨
      badComb ∨ badHive then none
  else
    let fresh : Vd := {
      num := v, st := 1, combs := combs, hives := hives, quota := (pkw p 6).extractLsb' 0 12, idleSince := some s.cyc }
    some (s.setVd { fresh with
      s2root := d.s2root, pqbase := d.pqbase, pqsz := d.pqsz, splbase := d.splbase, sticky := d.sticky, qsticky := d.qsticky
      evallow := d.evallow, feat0 := d.feat0, feat1 := d.feat1, gtoff := d.gtoff })

/-- R379 operation 8. -/
def execCreateVd (host : BitVec 4) (p : Packet) (s : State) : Out1 := manage s host p 8 fun s => s.createVd p

/-- R379 operation 9: a VD reset, after which the VD is removed. Where the reset is refused, nothing happens. -/
def execDestroyVd (host : BitVec 4) (p : Packet) (s : State) : Out1 :=
  manage s host p 9 fun s =>
    let v := pkVd p
    if (pkArg p).extractLsb' 6 58 ≠ 0#58 ∨ (s.vd v).st = 0#2 ∨ v = 0#6 then none
    else
      let s1 := s.requestReset 5 0 (v.setWidth 16)
      some (if s1.mgmt.rststat = rstStat 5 1 false then s1.setVd { s1.vd v with doomed := true } else s1)

/-- A dword of a domain's initial state, from VD memory; a free value where the record's page is not mapped (log entry 26). -/
def State.initialDword (s : State) (v : VdNo) (a : Word) (i : Nat) : Word × State :=
  match s.vdDword v (a.toNat + 8 * i) with
  | some w => (w, s)
  | none => s.freeVal

/-- A number of an initial state; a free one of its range where the record gives one outside it (log entry 26). -/
def State.inRange (s : State) (lo hi : Nat) (w : Word) : Nat × State :=
  if lo ≤ w.toNat ∧ w.toNat ≤ hi then (w.toNat, s)
  else
    let (f, s1) := s.freeVal
    (lo + f.toNat % (hi - lo + 1), s1)

/-- The save-area record of an initial state, which domain 0 writes (R356), given its first dword's place. -/
def State.initialSave (s : State) (v : VdNo) (a : Word) (i : Nat) (d : Domain) : Domain × State :=
  let (base, s1) := s.initialDword v a i
  let (n, s2) := s1.initialDword v a (i + 1)
  let (hw, s3) := s2.initialDword v a (i + 2)
  let (m, s4) := s3.initialDword v a (i + 3)
  let (map, s5) := s4.initialDword v a (i + 4)
  let (svn, s6) := s5.inRange 0 65536 (n &&& 0xFFFFFFFF#64)
  let (hwn, s7) := s6.inRange 0 65536 (m &&& 0xFFFFFFFF#64)
  ({ d with svbase := base &&& ~~~0x1FFFF#64, svn := svn, hwbase := hw.toNat / 65536 * 65536, hwn := hwn, bmap := map.toNat }, s7)

/-- R309, R379: a new domain's state, which domain 0 takes from the initial state in VD memory at an address. The spec gives the
save-area record's layout (R356) and not the whole record's: where its parts lie is the deployment's (DESIGN CHOICE, log
entry 26). -/
def State.freshDomain (s : State) (v : VdNo) (n : DomNo) (launch hyp : Bool) (a : Word) : Domain × State :=
  let (root, s1) := s.initialDword v a (Config.statePlace 0)
  let (base, s2) := s1.initialDword v a (Config.statePlace 1)
  let (len, s3) := s2.initialDword v a (Config.statePlace 2)
  let (dcb, s4) := s3.initialDword v a (Config.statePlace 3)
  let (tvec, s5) := s4.initialDword v a (Config.statePlace 4)
  let (slots, s6) := s5.inRange 2 (2 ^ 20) len
  s6.initialSave v a (Config.statePlace 5) {
    num := n, vd := v, life := .live, s1root := root &&& 0xFFFFFFFFFF000#64, htbase := base.toNat, htlen := slots, dcb := dcb
    tvec := tvec &&& ~~~3#64, hyp := hyp, launch := launch }

/-- R312: domain 0 places the handle-service gate at slot 1 of a new domain's table, with generation 1: n = 6, read-only,
MAXD 8, re-entrant and pre-emptable. Its place in the gate pool, ENTRY, ABANDON and GRACE are free values (log entry 26). -/
def State.placeService (s : State) (d : Domain) : State :=
  let (a, s1) := s.freeVal
  let (entry, s2) := s1.freeVal
  let (abandon, s3) := s2.freeVal
  let (grace, s4) := s3.freeVal
  let gate := a.toNat / 64 * 64
  let flags : Word := BitVec.ofNat 64 (8 * 2 ^ 14 + 1 * 2 ^ 12 + 6 * 2 ^ 9 + 2 ^ 8 + 2 ^ 7)
  let s5 := s4.physWrite gate (wordsBytes [entry &&& ~~~3#64, abandon &&& ~~~3#64, grace &&& 0xFFFFFFFF00000000#64, flags, 0, 0, 0, 0])
  s5.setHentry d { slot := 1, kind := 2, gen := 1, odom := 0, core := 0, addr := BitVec.ofNat 64 gate }

/-- R379 operation 10. A number is given again only when its domain is dead (R310). -/
def State.createDomain (s : State) (p : Packet) : Option State :=
  let w := pkArg p
  let v := pkVd p
  let n := pkDom p
  let launch := w.getLsbD 30
  let hyp := w.getLsbD 31
  let mine := s.domains.filter fun d => d.vd == v && (d.life == .live || d.life == .dying)
  let old := (s.domain n).life
  if w.extractLsb' 6 10 ≠ 0#10 ∨ w.extractLsb' 28 2 ≠ 0#2 ∨ w.extractLsb' 32 32 ≠ 0#32 ∨ (s.vd v).st = 0#2 ∨
      old = .live ∨ old = .dying ∨
      (launch ∧ hyp) ∨ (hyp ∧ mine.any Domain.hyp) ∨ (launch ∧ mine.any fun d => d.launch && d.life == .live) ∨
      (v ≠ 0#6 ∧ (s.vd v).quota.toNat ≤ mine.length) then none
  else
    let (d, s1) := s.freshDomain v n launch hyp (pkw p 3)
    some ((s1.setDomain d).placeService d)

/-- R379 operation 10. -/
def execCreateDomain (host : BitVec 4) (p : Packet) (s : State) : Out1 := manage s host p 10 fun s => s.createDomain p

/-- R379 operation 11 with the pause bit: the VD's slots serve no one until it resumes, and its threads are handed over
(R353). -/
def execPauseVd (host : BitVec 4) (p : Packet) (s : State) : Out1 :=
  if !(pkArg p).getLsbD 8 then .next s
  else manage s host p 11 fun s =>
    let d := s.vd (pkVd p)
    if (pkArg p).extractLsb' 6 2 ≠ 0#2 ∨ (pkArg p).extractLsb' 9 55 ≠ 0#55 ∨ d.st = 0#2 then none
    else some (if d.st = 1#2 then s.setVd { d with st := 2 } else s)

/-- R379 operation 11 without the pause bit. -/
def execResumeVd (host : BitVec 4) (p : Packet) (s : State) : Out1 :=
  if (pkArg p).getLsbD 8 then .next s
  else manage s host p 11 fun s =>
    let d := s.vd (pkVd p)
    if (pkArg p).extractLsb' 6 2 ≠ 0#2 ∨ (pkArg p).extractLsb' 9 55 ≠ 0#55 ∨ d.st = 0#2 then none
    else some (if d.st = 2#2 then s.setVd { d with st := 1 } else s)

/-- A domain is of a VD; and it lives there. -/
def State.isOf (s : State) (v : VdNo) (n : DomNo) : Bool := (s.domain n).life != .absent && (s.domain n).vd == v
def State.livesIn (s : State) (v : VdNo) (n : DomNo) : Bool := (s.domain n).life == .live && (s.domain n).vd == v

/-- R378, R379 operation 12. -/
def execSetDataEndpoint (host : BitVec 4) (p : Packet) (s : State) : Out1 :=
  manage s host p 12 fun s =>
    let w := pkArg p
    let v := pkVd p
    let d := s.vd v
    let e : DataEp := { entry := w.extractLsb' 8 6, dom := pkDom p, rights := w.extractLsb' 28 2, base := pkw p 3, len := pkw p 4 }
    if w.extractLsb' 6 2 ≠ 0#2 ∨ w.extractLsb' 14 2 ≠ 0#2 ∨ w.extractLsb' 30 34 ≠ 0#34 ∨ e.rights = 3#2 ∨ d.st = 0#2 ∨
        (e.rights ≠ 0#2 ∧ !s.livesIn v e.dom) then none
    else
      let rest := d.dataEps.filter fun x => x.entry != e.entry
      some (s.setVd { d with dataEps := if e.rights = 0#2 then rest else rest ++ [e] })

/-- R184, R379 operation 13. -/
def execSetRemoteEndpoint (host : BitVec 4) (p : Packet) (s : State) : Out1 :=
  manage s host p 13 fun s =>
    let w := pkArg p
    let v := pkVd p
    let d := s.vd v
    let e : RemoteEp := {
      entry := w.extractLsb' 8 8, dom := pkDom p, rights := w.extractLsb' 28 2, peer := w.getLsbD 30, fabric := pkw p 3
      endpoint := (pkw p 4).extractLsb' 0 16, base := pkw p 5, len := pkw p 6 }
    if w.extractLsb' 6 2 ≠ 0#2 ∨ w.extractLsb' 31 33 ≠ 0#33 ∨ (pkw p 4).extractLsb' 16 48 ≠ 0#48 ∨ d.st = 0#2 ∨
        !s.isOf v e.dom ∨ (e.rights ≠ 0#2 ∧ !s.livesIn v e.dom) then none
    else
      let rest := d.remoteEps.filter fun x => x.entry != e.entry
      some (s.setVd { d with remoteEps := if e.rights = 0#2 then rest else rest ++ [e] })

/-! ### Data endpoints (R378) -/

/-- The core that stands for the front end: the first of the firmware column. -/
def State.frontCore (s : State) : CoreNo := s.column.headD 1023

/-- One byte's checks in the domain of an entry. -/
def dataCheck (s : State) (dm : DomNo) (k : Acc1) (a : Word) : Eng :=
  let t : Thread := { place := .cached s.frontCore, dom := dm, botdom := dm }
  match checkAt s (combOf s.frontCore) t k 9 0 dm a.toNat 1 with
  | .trap c v => .bad (causeCode c) (BitVec.ofNat 64 v)
  | .miss m => if Held.refused s.dataHeld m.vd m.page then .bad 3 a else .held m
  | .ok ps =>
    if ps.any (s.barred 0) then .bad 1 a
    else if s.fatalAt ps && k == .read then .bad causeECC a
    else match if s.dataHeld.isEmpty then none
        else Held.undecided s.dataHeld (pagesAt s (combOf s.frontCore) t k 0 dm a.toNat 1) with
      | none => .ok ps
      | some (v, p, refused) => if refused then .bad 3 a else .held (awaited dm v a p)

/-- The checks of all bytes: a miss, a failure, or their physical addresses. -/
def dataChecks (s : State) (dm : DomNo) (k : Acc1) : List Word → Eng
  | [] => .ok []
  | a :: r => match dataCheck s dm k a, dataChecks s dm k r with
    | .bad c v, _ => .bad c v
    | _, .bad c v => .bad c v
    | .held m, _ => .held m
    | _, .held m => .held m
    | .ok p, .ok q => .ok (p ++ q)

/-- The bytes of a remote access by aligned 64 bytes, each a memory event at its home (R240, R257). -/
def remotePieces {α : Type} (ps : List (Nat × α)) : List (List (Nat × α)) :=
  (ps.map fun p => p.1 / 64).dedup.map fun l => ps.filter fun p => p.1 / 64 == l

/-- A remote access's source at the homes: the transport, logged under the front end with SRCSLOT 16 (DESIGN CHOICE, log entry 72). -/
def State.remoteSource (s : State) : Source := { core := s.frontCore, slot := 16, thread := 0, remote := true }

/-- A piece of a remote read. -/
def State.remoteRead (s : State) (ps : List Nat) : State := (s.readBytes s.remoteSource 5 0 ps).2.2.2

/-- A piece of a remote write. Answers whether a damaged granule held it back. -/
def State.remoteWrite (s : State) (ps : List (Nat × Byte)) : Bool × State :=
  s.writeBytes s.remoteSource 4 0 (ps.map Prod.fst) (ps.map Prod.snd)

/-- R378: a remote access to `n` bytes at offset `o` of an entry's window; `act` is given their physical addresses. What the entry
or the checks of R99 refuse is answered with access-denied. One that misses in stage 2 posts its page request and comes
again. -/
def State.windowAccess (s : State) (v : VdNo) (e : DataEp) (k : Acc1) (o : Word) (n : Nat) (act : List Nat → State) : State :=
  let deny : State := { s with out := s.out ++ [.denied] }
  let a := e.base + o
  if !s.feature v 4 || decide (e.len.toNat < o.toNat + n) || (k == .write && e.rights != 2#2) ||
      (n != 0 && windowOf a.toNat != windowOf (a + BitVec.ofNat 64 (n - 1)).toNat) then deny
  else match dataChecks s e.dom k ((List.range n).map fun i => a + BitVec.ofNat 64 i) with
    | .bad _ _ => { deny with dataHeld := s.dataHeld.filter fun h => !h.2.2 }
    | .held m =>
      let t : Thread := { place := .cached s.frontCore, dom := e.dom, botdom := e.dom, vdid := v, chgvd := v }
      { s.pageRequest t m with dataHeld := Held.add s.dataHeld m }
    | .ok ps => act ps

/-- R373, R374, R378: a remote operation at a data endpoint, the same at each of the 8 ports. An operation that the part does not
support is refused as such, at whichever endpoint, and so is a send to a data endpoint (DESIGN CHOICE, log entry 48). -/
def execRemoteDataAccess (_port : BitVec 3) (endpoint : BitVec 16) (mode : Delivery) (op : RemoteOp) (o : Word) (s : State) : Out1 :=
  match endpointOf endpoint with
  | none => .next s
  | some .management => .next (if unsupported mode op then s.refuse else s)
  | some (.command v) => .next (if (s.vd v).st != 0#2 && unsupported mode op then s.refuse else s)
  | some (.data v i) =>
    if (s.vd v).st = 0#2 then .next s
    else if unsupported mode op then .next s.refuse
    else match (s.vd v).dataEps.find? fun e => e.entry == i, op with
      | none, _ => .next { s with out := s.out ++ [.denied] }
      | some e, .read n => .next (s.windowAccess v e .read o n fun ps =>
          let s1 := (remotePieces (ps.map fun p => (p, ()))).foldl (fun (s : State) l => s.remoteRead (l.map Prod.fst)) s
          { s1 with out := s1.out ++ [.data (ps.map (memGet s.mem))] })
      | some e, .write bs => .next (s.windowAccess v e .write o bs.length fun ps =>
          let r := (remotePieces (ps.zip bs)).foldl (fun (r : Bool × State) l =>
            let q := r.2.remoteWrite l
            (r.1 || q.1, q.2)) (false, s)
          { r.2 with out := r.2.out ++ [if r.1 then .denied else .data []] })
      | some _, _ => .next s.refuse

/-! ### The management region (R375, R376, R380, R382, R385) -/

/-- R380: a write of FEATACC takes the offered bits, before the VD's first packet. -/
def State.acceptFeatures (s : State) (v : VdNo) (hi : Bool) (w : Word) : State :=
  let d := s.vd v
  if d.firstPkt then s
  else s.setVd (if hi then { d with feat1 := 0 } else { d with feat0 := w &&& 0x1F#64 })

/-- R382: a write of GTOFF restarts C; a value below the current guest time is ignored and sets BADPKT. -/
def State.setGuestTime (s : State) (v : VdNo) (w : Word) : State :=
  let d := s.vd v
  if w.toNat < d.gtime.toNat then s.vdSticky v flagBADPKT
  else s.setVd { d with gtoff := w, gcyc := 0 }

/-- R385: a write of PLIM. -/
def State.setPlim (s : State) (w : BitVec 16) : State :=
  { s with fleet := { s.fleet with plim := if w.toNat < 1200 then 1200 else if 2400 < w.toNat then 2400 else w } }

/-- A write of a VD's block (R376), which each of the 64 VDs has, also one that is absent. -/
def State.vdBlockWrite (s : State) (v : VdNo) (o : Nat) (w : Word) : State :=
  let d := s.vd v
  if o = 0 then s.acceptFeatures v false w
  else if o = 8 then s.acceptFeatures v true w
  else if o = 0x18 then s.setGuestTime v w
  else if o = 0x28 then s.setVd { d with sticky := stickyClear d.sticky w }
  else if 0x30 ≤ o ∧ o < 0xB0 ∧ o % 8 = 0 then
    s.setVd { d with qsticky := d.qsticky.mapIdx fun i x => if i = (o - 0x30) / 8 then stickyClear x w else x }
  else if 0xB0 ≤ o ∧ o < 0xD0 ∧ o % 8 = 0 then s.setVd { d with evallow := setAt d.evallow ((o - 0xB0) / 8) w }
  else s

/-- A write of the region by the controlling host. Registers that are read-only ignore it. -/
def State.regionWrite (s : State) (o : Nat) (w : Word) : State :=
  if o = 0x20 then s.resetWord w
  else if 0x1000 ≤ o ∧ o < 0x5000 then s.vdBlockWrite (BitVec.ofNat 6 ((o - 0x1000) / 256)) ((o - 0x1000) % 256) w
  else if o = 0x5008 then s.setPlim (w.extractLsb' 0 16)
  else s

/-- R375: a write by another host fails with access-denied and changes nothing. -/
def hostWrite (s : State) (host : BitVec 4) (f : State → State) : Out1 :=
  if s.controls host then .next (f s) else .next { s with out := s.out ++ [.denied] }

/-- R375. -/
def execManagementWrite (host : BitVec 4) (o : BitVec 16) (w : Word) (s : State) : Out1 :=
  hostWrite s host fun s => s.regionWrite o.toNat w
/-- R382. -/
def execGtoffWrite (host : BitVec 4) (v : VdNo) (w : Word) (s : State) : Out1 := hostWrite s host fun s => s.setGuestTime v w
/-- R385. -/
def execPlimWrite (host : BitVec 4) (w : BitVec 16) (s : State) : Out1 := hostWrite s host fun s => s.setPlim w
/-- R380. -/
def execFeataccWrite (host : BitVec 4) (v : VdNo) (hi : Bool) (w : Word) (s : State) : Out1 :=
  hostWrite s host fun s => s.acceptFeatures v hi w

/-- The dword at 0x5018 (R385). -/
def Fleet.updateWord (f : Fleet) : Word := f.updst ++ 0#8 ++ BitVec.ofNat 16 f.switched.length ++ f.svn

/-- A read of a VD's block (R376). -/
def State.vdBlockRead (s : State) (v : VdNo) (o : Nat) : Word :=
  let d := s.vd v
  if o = 0 then d.feat0
  else if o = 8 then d.feat1
  else if o = 0x10 then d.gtime
  else if o = 0x20 then d.st.setWidth 64
  else if o = 0x28 then d.sticky
  else if 0x30 ≤ o ∧ o < 0xB0 then d.qsticky.toList.getD ((o - 0x30) / 8) 0
  else if 0xB0 ≤ o ∧ o < 0xD0 then d.evallow.toList.getD ((o - 0xB0) / 8) 0
  else 0

/-- What a dword of the management region reads as, for any host (R375, R376, R385). -/
def State.regionRead (s : State) (o : Nat) : Word :=
  let m := s.mgmt
  let f := s.fleet
  if o = 0 then 0x4820
  else if o = 8 then m.state ++ m.cprio ++ 0#12 ++ m.chost ++ m.term
  else if o = 0x10 then 0x1F
  else if o = 0x28 then m.rststat
  else if o = 0x30 then m.booterr.setWidth 64
  else if o = 0x38 then m.dropped.setWidth 64
  else if o = 0x40 then m.colw.setWidth 64
  else if 0x1000 ≤ o ∧ o < 0x5000 then s.vdBlockRead (BitVec.ofNat 6 ((o - 0x1000) / 256)) ((o - 0x1000) % 256)
  else if o = 0x5000 then BitVec.ofNat 64 f.tlprod
  else if o = 0x5008 then f.plim.setWidth 64
  else if o = 0x5010 then 0#40 ++ f.tlvl ++ f.pwr
  else if o = 0x5018 then f.updateWord
  else if 0x8000 ≤ o ∧ o < 0x10000 then
    match f.ring.find? fun u => u.1 == (o - 0x8000) / 16 with
    | some u => if o % 16 = 0 then u.2.1 else u.2.2
    | none => 0
  else 0

/-- R375: the age at which a record that is not delivered is dropped. -/
def deliveryLimit : Nat := 3000000000

/-- R375: the transport tries a record, the oldest first: it is delivered, or it is stuck; which is a free value (log entry 49). -/
def State.transportTry (s : State) : State :=
  match s.flights.findIdx? fun f => !f.stuck with
  | none => s
  | some i =>
    let (v, s1) := s.freeVal
    { s1 with flights := if v.getLsbD 0 then s1.flights.eraseIdx i else s1.flights.modify i fun f => { f with stuck := true } }

/-- R375: a record or event that has not been delivered within 1 s, the oldest first, is dropped and counted. -/
def execDeliveryTimeout (s : State) : Out1 :=
  match s.flights.find? fun f => decide (deliveryLimit ≤ (s.cyc - f.since).toNat) with
  | none => .next s
  | some f =>
    let m := s.mgmt
    .next { s with flights := s.flights.erase f, out := s.out.erase f.record, mgmt := { m with
      dropped := if m.dropped = BitVec.allOnes 32 then m.dropped else m.dropped + 1 } }

/-! ### Elections (R381) -/

/-- The session of a host. -/
def Mgmt.session? (m : Mgmt) (host : BitVec 4) : Option Session := m.sessions.find? fun x => x.host == some host

/-- A claim is valid; in the first 100 ms after a release that names a successor, only if it is the successor's. -/
def State.claimValid (s : State) (host : BitVec 4) (prio : BitVec 8) (term : BitVec 32) : Bool :=
  ((s.mgmt.session? host).bind fun x => Config.hostPrio s.fleet.active x.cert).any (fun mx => decide (prio.toNat ≤ mx.toNat)) &&
  term == s.mgmt.term && (s.mgmt.state != 1#8 || s.mgmt.succ.all fun h => h == host)

/-- A host takes control. -/
def State.takeControl (s : State) (c : Claim) : State :=
  { s with mgmt := { s.mgmt with
      state := 2, chost := c.host, cprio := c.prio, term := s.mgmt.term + 1, beat := s.cyc, claims := none, succ := none } }

/-- TYPE, PRIO and TERM of a control message's dword 0, and SUCC of dword 1 (R381). -/
def msgType (d0 : Word) : BitVec 8 := d0.extractLsb' 56 8
def msgPrio (d0 : Word) : BitVec 8 := d0.extractLsb' 32 8
def msgTerm (d0 : Word) : BitVec 32 := d0.extractLsb' 0 32
def msgSucc (d1 : Word) : BitVec 4 := d1.extractLsb' 0 4

/-- R381: the answer to a claim: TYPE 4 with the resulting TERM; 1 won, 2 lost, 3 refused. -/
def State.answerClaim (s : State) (host : BitVec 4) (result : Nat) : State :=
  { s with out := s.out ++ [.answer host (4#8 ++ 0#24 ++ s.mgmt.term) (BitVec.ofNat 64 result)] }

/-- R381: a claim is judged. The management endpoint takes none while the part boots or is halted. -/
def execClaim (host : BitVec 4) (dword0 _dword1 : Word) (s : State) : Out1 :=
  let prio := msgPrio dword0
  let term := msgTerm dword0
  if msgType dword0 ≠ 1#8 then .next s
  else if s.mgmt.state = 1#8 then
    if !s.claimValid host prio term then .next (s.answerClaim host 3)
    else
      let m := s.mgmt
      .next { s with mgmt := match m.claims with
        | none => { m with claims := some [{ host := host, prio := prio }], opened := s.cyc }
        | some l => { m with claims := some (l ++ [{ host := host, prio := prio }]) } }
  else if s.mgmt.state = 2#8 then
    if s.claimValid host prio term && decide (s.mgmt.cprio.toNat < prio.toNat) then
      .next ((s.takeControl { host := host, prio := prio }).answerClaim host 1)
    else .next (s.answerClaim host 3)
  else .next s

/-- The claim that wins: the highest PRIO, then the lower host number. -/
def winner : List Claim → Option Claim
  | [] => none
  | c :: r => match winner r with
    | none => some c
    | some d => if c.prio.toNat < d.prio.toNat ∨ (c.prio = d.prio ∧ d.host.toNat < c.host.toNat) then some d else some c

/-- R381: the collection window ends, 50 ms after it opened. A halted part has none (R392). -/
def execCollectionWindowEnd (s : State) : Out1 :=
  if s.mgmt.state ≠ 1#8 ∨ (s.cyc - s.mgmt.opened).toNat < 150000000 then .next s
  else match s.mgmt.claims with
    | none => .next s
    | some l => match winner l with
      | none => .next { s with mgmt := { s.mgmt with claims := none } }
      | some w =>
        let s1 := s.takeControl w
        .next ((l.erase w).foldl (fun (s : State) (c : Claim) => s.answerClaim c.host 2) (s1.answerClaim w.host 1))

/-- Control is lost. -/
def State.openControl (s : State) : State := { s with mgmt := { s.mgmt with state := 1, chost := 0, cprio := 0, claims := none, succ := none } }

/-- R381: the controller's heartbeat with the current TERM. -/
def execHeartbeat (host : BitVec 4) (m : Word × Word) (s : State) : Out1 :=
  if msgType m.1 == 2#8 && s.controls host && msgTerm m.1 == s.mgmt.term then .next { s with mgmt := { s.mgmt with beat := s.cyc } } else .next s

/-- R381: 300 ms without a valid heartbeat. -/
def execHeartbeatTimeout (s : State) : Out1 :=
  if s.mgmt.state = 2#8 ∧ 900000000 ≤ (s.cyc - s.mgmt.beat).toNat then .next s.openControl else .next s

/-- R381: the controller releases control. -/
def execRelease (host : BitVec 4) (m : Word × Word) (s : State) : Out1 :=
  if msgType m.1 != 3#8 || !s.controls host then .next s
  else
    let s1 := s.openControl
    .next { s1 with mgmt := { s1.mgmt with succ := (s.mgmt.session? (msgSucc m.2)).bind Session.host, released := s.cyc } }

/-- R381: after 100 ms every valid claim counts again. -/
def execSuccessorWindowEnd (s : State) : Out1 :=
  if (s.cyc - s.mgmt.released).toNat < 300000000 then .next s else .next { s with mgmt := { s.mgmt with succ := none } }

/-- R374, R381: a session ends: its host number is free, its claims are withdrawn, and control is lost if it was the
controller's. -/
def State.dropSession (s : State) (conn : Nat) : State :=
  match s.mgmt.sessions.find? fun x => x.conn == conn with
  | none => s
  | some x =>
    let m := s.mgmt
    let claims := m.claims.map fun l => l.filter fun c => x.host != some c.host
    let s1 : State := { s with
      mgmt := { m with sessions := m.sessions.filter fun y => y.conn != conn, claims := claims }
      fleet := { s.fleet with begun := if s.fleet.begun = some conn then none else s.fleet.begun } }
    if x.host.any s.controls then s1.openControl else s1

/-- R381: the transport tears a session down. -/
def execSessionTeardown (conn : Nat) (s : State) : Out1 := .next (s.dropSession conn)

end Sys2Proof.Machine
end

