-- ==== Sys2Proof/Machine/Fleet.lean ====
section
/-! DEFINITION. Running a fleet (24_fleet.md R386 to R395): power, heat, SPDM and firmware update. -/

namespace Sys2Proof.Machine

/-! ### Power and heat (R387, R391, R392) -/

/-- R391: at the end of a 1 ms period with an average of `watts`, TLVL moves, and a power record is posted. -/
def execPowerPeriod (watts : BitVec 16) (s : State) : Out1 :=
  let f := s.fleet
  let lvl := if f.plim.toNat < watts.toNat then (if f.tlvl.toNat < 3 then f.tlvl + 1 else f.tlvl)
    else if watts.toNat + 100 < f.plim.toNat then (if f.tlvl = 0 then f.tlvl else f.tlvl - 1)
    else f.tlvl
  let s1 : State := { s with fleet := { f with pwr := watts, tlvl := lvl } }
  .next (s1.telemetry 5 [0#16 ++ f.plim ++ 0#8 ++ lvl ++ watts])

/-- The cores of a hive. -/
def hiveCores (h : BitVec 4) : List CoreNo := (List.range 64).map fun i => BitVec.ofNat 10 (64 * h.toNat + i)

/-- The hottest core of a hive, the lowest of several. -/
def State.hottest (s : State) (h : BitVec 4) : Core :=
  (hiveCores h).foldl (fun (k : Core) c => if k.temp.toNat < (s.core c).temp.toNat then s.core c else k)
    (s.core (BitVec.ofNat 10 (64 * h.toNat)))

/-- Disabled slots of a hive. -/
def State.disabledSlots (s : State) (h : BitVec 4) : Nat :=
  ((hiveCores h).map fun c => ((List.range 16).filter fun n => (s.core c).disabled.getLsbD n).length).foldl (· + ·) 0

/-- R387, SCHEMA 3: posts a hive's thermal record; its count of displacements starts again. -/
def State.postThermal (s : State) (h : BitVec 4) (trip : Bool) (inlet : BitVec 8) : State :=
  let k := s.hottest h
  let v := s.hive h
  let w := BitVec.ofNat 64 (h.toNat * 2 ^ 60 + k.temp.toNat * 2 ^ 48 + k.num.toNat * 2 ^ 32 + (if trip then 2 ^ 31 else 0) +
    inlet.toNat * 2 ^ 16 + s.disabledSlots h % 2 ^ 16)
  (s.setHive { v with displaced := 0 }).telemetry 3 [w, BitVec.ofNat 64 v.displaced]

/-- R387: a hive's record of a 1 ms period. -/
def execThermalRecord (h : BitVec 4) (inlet : BitVec 8) (s : State) : Out1 := .next (s.postThermal h false inlet)

/-- R392: a sensor of a hive reads 110 °C or more: a record with TRIP, and STATE 3, in which no core issues. The inlet
temperature of the record is a free value (log entry 2). -/
def execThermalTrip (h : BitVec 4) (s : State) : Out1 :=
  let (v, s1) := s.freeVal
  let s2 := s1.postThermal h true (v.extractLsb' 0 8)
  .next { s2 with mgmt := { s2.mgmt with state := 3, claims := none, succ := none } }

/-! ### SPDM (R374, R393) -/

/-- The endpoint answers SPDM while the part is open or controlled (R383, R392). -/
def State.spdmUp (s : State) : Bool := s.mgmt.state == 1#8 || s.mgmt.state == 2#8

/-- R393: what the response to a request tells: version 1.2; RSASSA-3072 and SHA-384, with which it signs and hashes; slot 0, of which
the certificate is. -/
def spdmTells (code : Nat) : List SpdmItem :=
  match code with
  | 0x84 => [.version 1 2]
  | 0xE3 => [.rsassa 3072, .sha 384]
  | 0x81 => [.slot 0, .sha 384]
  | 0x82 => [.slot 0]
  | 0x83 | 0xE4 => [.slot 0, .rsassa 3072, .sha 384]
  | 0xE0 => [.rsassa 3072, .sha 384]
  | _ => []

/-- An SPDM response. Request codes are those of the SPDM specification (log entry 27). -/
def State.spdm (s : State) (conn code : Nat) (request measured : List Byte) : State :=
  { s with out := s.out ++ [.spdm conn code (spdmTells code) (Config.spdmBody code request measured)] }

/-- The error status. -/
def State.spdmFails (s : State) (conn : Nat) : State := { s with out := s.out ++ [.spdmError conn] }

/-- A request that changes nothing. -/
def spdmRequest (s : State) (conn code : Nat) (request measured : List Byte) : Out1 :=
  if s.spdmUp then .next (s.spdm conn code request measured) else .next s

/-- R393. -/
def execGetVersion (conn : Nat) (s : State) : Out1 := spdmRequest s conn 0x84 [] []
/-- R393. -/
def execGetCapabilities (conn : Nat) (s : State) : Out1 := spdmRequest s conn 0xE1 [] []
/-- R393. -/
def execNegotiateAlgorithms (conn : Nat) (request : List Byte) (s : State) : Out1 := spdmRequest s conn 0xE3 request []
/-- R393. -/
def execGetDigests (conn : Nat) (s : State) : Out1 := spdmRequest s conn 0x81 [] []
/-- R393. -/
def execGetCertificate (conn : Nat) (offset len : BitVec 16) (s : State) : Out1 :=
  spdmRequest s conn 0x82 (wordBytes (offset.setWidth 64) 2 ++ wordBytes (len.setWidth 64) 2) []
/-- R393. -/
def execChallenge (conn : Nat) (nonce : List Byte) (s : State) : Out1 := spdmRequest s conn 0x83 nonce []

/-- R393: what a measurement index measures; the boot ROM is no part of the state. -/
def State.measured (s : State) (i : Nat) : Option (List Byte) :=
  match i with
  | 1 => some []
  | 2 => some (tableOf s.fleet.active)
  | 3 => some (imageOf s.fleet.active)
  | 4 => some s.fleet.inactive
  | 5 => some (wordBytes 0x1F 8 ++ wordBytes 0 8)
  | _ => none

/-- R393: an index that measures nothing gets the error status. -/
def execGetMeasurements (conn : Nat) (index : BitVec 8) (s : State) : Out1 :=
  if !s.spdmUp then .next s
  else match s.measured index.toNat with
    | none => .next (s.spdmFails conn)
    | some m => .next (s.spdm conn 0xE0 [index] (Config.sha384 m))

/-- R374, R393: a session begins; at most 16 at once. -/
def execKeyExchange (conn : Nat) (cert : List Byte) (s : State) : Out1 :=
  if !s.spdmUp then .next s
  else if decide (16 ≤ s.mgmt.sessions.length) || s.mgmt.sessions.any fun x => x.conn == conn then .next (s.spdmFails conn)
  else
    let s1 := s.spdm conn 0xE4 cert []
    .next { s1 with mgmt := { s1.mgmt with sessions := s1.mgmt.sessions ++ [{ conn := conn, cert := cert, host := none }] } }

/-- The lowest host number that no session has. -/
def Mgmt.freeHost (m : Mgmt) : Option (BitVec 4) :=
  ((List.range 16).map (BitVec.ofNat 4)).find? fun h => (m.session? h).isNone

/-- R374: a session is complete, and its peer gets a host number. -/
def execFinish (conn : Nat) (s : State) : Out1 :=
  if !s.spdmUp then .next s
  else match s.mgmt.sessions.find? fun x => x.conn == conn && x.host.isNone with
    | none => .next (s.spdmFails conn)
    | some _ =>
      let s1 := s.spdm conn 0xE5 [] []
      let give (x : Session) : Session := if x.conn = conn then { x with host := s.mgmt.freeHost } else x
      .next { s1 with mgmt := { s1.mgmt with sessions := s1.mgmt.sessions.map give } }

/-- R381: a session ends. -/
def execEndSession (conn : Nat) (s : State) : Out1 :=
  if !s.spdmUp then .next s
  else if (s.mgmt.sessions.find? fun x => x.conn == conn).isNone then .next (s.spdmFails conn)
  else .next ((s.dropSession conn).spdm conn 0xEC [] [])

/-! ### Firmware update (R394, R395) -/

/-- Posts an update record. -/
def State.updateRecord (s : State) : State := s.telemetry 6 [s.fleet.updateWord]

/-- UPDST changes, and the step is recorded. -/
def State.updateStep (s : State) (st : BitVec 8) : State := ({ s with fleet := { s.fleet with updst := st } } : State).updateRecord

/-- The session is the controlling host's. -/
def State.updater (s : State) (conn : Nat) : Bool :=
  (s.mgmt.sessions.find? fun x => x.conn == conn).any fun x => x.host.any s.controls

/-- R394, R395: a chunk is one of the update that a session may send: it begins one, or is of the one that runs, whose session it is
(or whose session has ended), and does not start a second at offset 0 (DESIGN CHOICE, log entry 49). -/
def State.mayUpdate (s : State) (conn offset : Nat) : Bool :=
  let f := s.fleet
  if f.updst = 1#8 then (f.begun == some conn || (f.begun.isNone && s.updater conn)) && !(offset == 0 && f.based)
  else s.updater conn && f.updst != 2#8 && f.updst != 3#8

/-- Bytes laid over a bank at an offset. -/
def overlay (bank : List Byte) (offset : Nat) (bs : List Byte) : List Byte :=
  bank.take offset ++ List.replicate (offset - bank.length) 0 ++ bs ++ bank.drop (offset + bs.length)

/-- R394 step 1: a chunk of at most 15 KiB goes into the inactive bank. The first begins an update; while one verifies or
rotates, or of another receives, a second is refused (R395). -/
def execUpdateChunk (conn offset : Nat) (chunk : List Byte) (s : State) : Out1 :=
  if !s.spdmUp then .next s
  else if !s.mayUpdate conn offset || decide (15360 < chunk.length) then .next (s.spdmFails conn)
  else
    let s1 := if s.fleet.updst = 1#8 then s
      else ({ s with fleet := { s.fleet with switched := [], based := false } } : State).updateStep 1
    .next (({ s1 with fleet := { s1.fleet with
      inactive := overlay s1.fleet.inactive offset chunk, begun := some conn, based := s1.fleet.based || offset == 0 } } : State).spdm conn
      0xFE chunk [])

/-- R354, R394: another core of a column core's role, which takes its duties. -/
def State.heir (s : State) (c : CoreNo) : Option CoreNo :=
  let role (d : CoreNo) : Nat := Config.tableRole s.fleet.active ((s.column.findIdx? (· == d)).getD 0)
  s.column.find? fun d => d != c && role d == role c

/-- The thread may go to another core of the column now: the part moves it as R295 has it. -/
def State.mayPass (s : State) (t : Thread) : Bool :=
  t.leaving.isNone && !t.portsBound && !t.vlive && !t.norm && t.stands.isNone && !t.halfway && !s.deferred t && (match t.wait with
    | some .closing | some .spawn => false
    | _ => true)

/-- R394: the duties of the core that restarts pass to another core of its role: its threads migrate there. Those that cannot, or have no
such core, pause (DESIGN CHOICE, log entry 82). -/
def State.passDuties (s : State) : State :=
  match s.restarting with
  | none => s
  | some c => match s.heir c with
    | none => s
    | some d => (s.threads.filter fun t => t.inSlot && t.core == c && s.mayPass t).foldl (fun (s : State) t =>
        (s.dropWait t.num).modThread t.num fun t => t.leavesFor d) s

/-- R394 step 2: both signatures verify and the SVN does not fall. -/
def Fleet.imageGood (f : Fleet) : Bool :=
  Config.signatureOk (imageOf f.inactive) && decide ((Config.imageSvn (imageOf f.active)).toNat ≤ (Config.imageSvn (imageOf f.inactive)).toNat)

/-- R394 steps 2 and 3: the final request. -/
def execUpdateVerify (conn : Nat) (s : State) : Out1 :=
  if !s.spdmUp then .next s
  else if s.fleet.updst != 1#8 || !s.mayUpdate conn 1 then .next (s.spdmFails conn)
  else
    let s1 := ({ s with fleet := { s.fleet with svn := Config.imageSvn (imageOf s.fleet.inactive), begun := none } } : State).updateStep 2
    .next (((s1.updateStep (if s1.fleet.imageGood then 3 else 5)).passDuties).spdm conn 0xFE [] [])

/-- R394 step 4: the banks exchange roles. -/
def State.exchangeBanks (s : State) : State :=
  { s with fleet := { s.fleet with
      active := s.fleet.inactive, inactive := s.fleet.active, svn := Config.imageSvn (imageOf s.fleet.active) } }

/-- R394 step 3: the core that restarts has done so from the new bank; its threads run on, and the next core's duties pass. One
that fails its self-check rolls the update back: every switched core restarts from the old bank. -/
def execUpdateCoreSwitch (selfCheck : Bool) (s : State) : Out1 :=
  match s.restarting with
  | none => .next s
  | some c =>
    if selfCheck then
      let s1 := ({ s with fleet := { s.fleet with switched := s.fleet.switched ++ [c] } } : State).updateRecord
      .next (if s1.column.all fun k => s1.fleet.switched.contains k then s1.exchangeBanks.updateStep 4 else s1.passDuties)
    else .next (({ s with fleet := { s.fleet with switched := [] } } : State).updateStep 6)

end Sys2Proof.Machine
end

