-- ==== Sys2Proof/Machine/Integer.lean ====
section
/-! DEFINITION. Integer, logic, shift, bit-field, constant, packed and scalar F32 words (04_control_integer.md R80 to
R97). -/

namespace Sys2Proof.Machine

/-! ### Integer arithmetic (R80 to R83) -/

/-- R80. -/
def execAdd (g : KReg) (d a b : XReg) (s : State) : Out1 := binary s g d a b fun x y => x + y
/-- R80. -/
def execSub (g : KReg) (d a b : XReg) (s : State) : Out1 := binary s g d a b fun x y => x - y
/-- R80: bits [63:0] of the product. -/
def execMul (g : KReg) (d a b : XReg) (s : State) : Out1 := binary s g d a b fun x y => x * y

/-- Bits [127:64] of a product. -/
def highHalf (p : BitVec 128) : Word := p.extractLsb' 64 64

/-- R80: the signed high half. -/
def execMulhI (g : KReg) (d a b : XReg) (s : State) : Out1 :=
  binary s g d a b fun x y => highHalf (x.signExtend 128 * y.signExtend 128)
/-- R80: the natural high half. -/
def execMulhN (g : KReg) (d a b : XReg) (s : State) : Out1 :=
  binary s g d a b fun x y => highHalf (x.setWidth 128 * y.setWidth 128)

/-- R81: the natural quotient and remainder. -/
def divN (n m : Word) : Word := if m = 0 then BitVec.allOnes 64 else BitVec.ofNat 64 (n.toNat / m.toNat)
def remN (n m : Word) : Word := if m = 0 then n else BitVec.ofNat 64 (n.toNat % m.toNat)
/-- R81: the signed quotient and remainder, rounding toward zero; the most negative number by -1 wraps to itself. -/
def divI (n m : Word) : Word := if m = 0 then BitVec.allOnes 64 else BitVec.ofInt 64 (n.toInt.tdiv m.toInt)
def remI (n m : Word) : Word := if m = 0 then n else BitVec.ofInt 64 (n.toInt.tmod m.toInt)

/-- R81. -/
def execDivI (g : KReg) (d a b : XReg) (s : State) : Out1 := binary s g d a b divI
/-- R81. -/
def execDivN (g : KReg) (d a b : XReg) (s : State) : Out1 := binary s g d a b divN
/-- R81. -/
def execRemI (g : KReg) (d a b : XReg) (s : State) : Out1 := binary s g d a b remI
/-- R81. -/
def execRemN (g : KReg) (d a b : XReg) (s : State) : Out1 := binary s g d a b remN

/-- R82: clamps an exact result to the signed or natural 64-bit range. -/
def clampI (v : Int) : Word := BitVec.ofInt 64 (clampInt (-2 ^ 63) (2 ^ 63 - 1) v)
def clampN (v : Int) : Word := BitVec.ofInt 64 (clampInt 0 (2 ^ 64 - 1) v)

/-- R82. -/
def execAddsatI (g : KReg) (d a b : XReg) (s : State) : Out1 := binary s g d a b fun x y => clampI (x.toInt + y.toInt)
/-- R82. -/
def execAddsatN (g : KReg) (d a b : XReg) (s : State) : Out1 :=
  binary s g d a b fun x y => clampN ((x.toNat : Int) + y.toNat)
/-- R82. -/
def execSubsatI (g : KReg) (d a b : XReg) (s : State) : Out1 := binary s g d a b fun x y => clampI (x.toInt - y.toInt)
/-- R82. -/
def execSubsatN (g : KReg) (d a b : XReg) (s : State) : Out1 :=
  binary s g d a b fun x y => clampN ((x.toNat : Int) - y.toNat)

/-- R80: the absolute value; the most negative number gives itself. -/
def execAbs (g : KReg) (d a : XReg) (s : State) : Out1 := unary s g d a fun x => if x.msb then 0 - x else x
/-- R80. -/
def execNeg (g : KReg) (d a : XReg) (s : State) : Out1 := unary s g d a fun x => 0 - x

/-- R83. -/
def execMinI (g : KReg) (d a b : XReg) (s : State) : Out1 := binary s g d a b fun x y => if x.toInt ≤ y.toInt then x else y
/-- R83. -/
def execMaxI (g : KReg) (d a b : XReg) (s : State) : Out1 := binary s g d a b fun x y => if x.toInt ≤ y.toInt then y else x
/-- R83. -/
def execMinN (g : KReg) (d a b : XReg) (s : State) : Out1 := binary s g d a b fun x y => if x.toNat ≤ y.toNat then x else y
/-- R83. -/
def execMaxN (g : KReg) (d a b : XReg) (s : State) : Out1 := binary s g d a b fun x y => if x.toNat ≤ y.toNat then y else x

/-- R80: adds a signed immediate. -/
def execAddi (g : KReg) (d a : XReg) (i : BitVec 13) (s : State) : Out1 := unary s g d a fun x => x + i.signExtend 64

/-! ### Logic (R84, R85) -/

/-- R84. -/
def execAnd (g : KReg) (d a b : XReg) (s : State) : Out1 := binary s g d a b fun x y => x &&& y
/-- R84. -/
def execOr (g : KReg) (d a b : XReg) (s : State) : Out1 := binary s g d a b fun x y => x ||| y
/-- R84. -/
def execXor (g : KReg) (d a b : XReg) (s : State) : Out1 := binary s g d a b fun x y => x ^^^ y
/-- R84. -/
def execAndn (g : KReg) (d a b : XReg) (s : State) : Out1 := binary s g d a b fun x y => x &&& ~~~y
/-- R84. -/
def execOrn (g : KReg) (d a b : XReg) (s : State) : Out1 := binary s g d a b fun x y => x ||| ~~~y
/-- R84: copies x(a) and its taint. -/
def execMov (g : KReg) (d a : XReg) (s : State) : Out1 := unary s g d a fun x => x
/-- R84. -/
def execAndi (g : KReg) (d a : XReg) (i : BitVec 13) (s : State) : Out1 := unary s g d a fun x => x &&& i.signExtend 64
/-- R84. -/
def execOri (g : KReg) (d a : XReg) (i : BitVec 13) (s : State) : Out1 := unary s g d a fun x => x ||| i.signExtend 64
/-- R84. -/
def execXori (g : KReg) (d a : XReg) (i : BitVec 13) (s : State) : Out1 := unary s g d a fun x => x ^^^ i.signExtend 64
/-- R85: selects by kp; the taint is that of both sources. -/
def execSel (g : KReg) (d a b : XReg) (p : KReg) (s : State) : Out1 :=
  binary s g d a b fun x y => if s.rd.pred p then x else y

/-! ### Shifts and bit counts (R86, R87) -/

/-- R86: the amount in bits [7:0] of a register. -/
def amount (y : Word) : Nat := (y.extractLsb' 0 8).toNat
def shiftLeft (x : Word) (n : Nat) : Word := if 64 ≤ n then 0 else x <<< n
def shiftRight (x : Word) (n : Nat) : Word := if 64 ≤ n then 0 else x >>> n
def shiftArith (x : Word) (n : Nat) : Word := x.sshiftRight (min n 63)
def rotate (x : Word) (n : Nat) : Word := x.rotateLeft (n % 64)

/-- R86. -/
def execShl (g : KReg) (d a b : XReg) (s : State) : Out1 := binary s g d a b fun x y => shiftLeft x (amount y)
/-- R86. -/
def execShr (g : KReg) (d a b : XReg) (s : State) : Out1 := binary s g d a b fun x y => shiftRight x (amount y)
/-- R86. -/
def execSar (g : KReg) (d a b : XReg) (s : State) : Out1 := binary s g d a b fun x y => shiftArith x (amount y)
/-- R86. -/
def execRot (g : KReg) (d a b : XReg) (s : State) : Out1 := binary s g d a b fun x y => rotate x (amount y)
/-- R86. -/
def execShli (g : KReg) (d a : XReg) (i : BitVec 8) (s : State) : Out1 := unary s g d a fun x => shiftLeft x i.toNat
/-- R86. -/
def execShri (g : KReg) (d a : XReg) (i : BitVec 8) (s : State) : Out1 := unary s g d a fun x => shiftRight x i.toNat
/-- R86. -/
def execSari (g : KReg) (d a : XReg) (i : BitVec 8) (s : State) : Out1 := unary s g d a fun x => shiftArith x i.toNat
/-- R86. -/
def execRoti (g : KReg) (d a : XReg) (i : BitVec 8) (s : State) : Out1 := unary s g d a fun x => rotate x i.toNat

/-- The number of leading positions in which `p` fails, among `n` bits given by position. -/
def countWhile (p : Nat → Bool) : Nat → Nat → Nat
  | 0, _ => 0
  | n + 1, i => if p i then countWhile p n (i + 1) + 1 else 0

/-- R87: zero bits above the highest one bit. -/
def leadingZeros (x : Word) : Nat := countWhile (fun i => !x.getLsbD (63 - i)) 64 0
/-- R87: zero bits below the lowest one bit. -/
def trailingZeros (x : Word) : Nat := countWhile (fun i => !x.getLsbD i) 64 0
/-- R87: one bits. -/
def ones (x : Word) : Nat := ((List.range 64).filter fun i => x.getLsbD i).length
/-- R87: the bytes in reverse order. -/
def byteSwap (x : Word) : Word := leWord (wordBytes x 8).reverse

/-- R87. -/
def execClz (g : KReg) (d a : XReg) (s : State) : Out1 := unary s g d a fun x => BitVec.ofNat 64 (leadingZeros x)
/-- R87. -/
def execCtz (g : KReg) (d a : XReg) (s : State) : Out1 := unary s g d a fun x => BitVec.ofNat 64 (trailingZeros x)
/-- R87. -/
def execPopc (g : KReg) (d a : XReg) (s : State) : Out1 := unary s g d a fun x => BitVec.ofNat 64 (ones x)
/-- R87. -/
def execBswap (g : KReg) (d a : XReg) (s : State) : Out1 := unary s g d a byteSwap

/-! ### Bit fields, constants, addresses (R88 to R90) -/

/-- R88: bits [q+w:q] of x, the width being w + 1. -/
def execExtI (g : KReg) (d a : XReg) (q w : BitVec 6) (s : State) : Out1 :=
  unary s g d a fun x => (x.extractLsb' q.toNat (w.toNat + 1)).signExtend 64
/-- R88. -/
def execExtN (g : KReg) (d a : XReg) (q w : BitVec 6) (s : State) : Out1 :=
  unary s g d a fun x => (x.extractLsb' q.toNat (w.toNat + 1)).setWidth 64

/-- R88: `old` with bits [q+w:q] replaced by the low bits of `x`. -/
def insertField (old x : Word) (q w : Nat) : Word :=
  let m : Word := (BitVec.allOnes 64 >>> (63 - w)) <<< q
  (old &&& ~~~m) ||| ((x <<< q) &&& m)

/-- R88: x(d) is a source too. -/
def execIns (g : KReg) (d a : XReg) (q w : BitVec 6) (s : State) : Out1 :=
  finish s (guarded s g (legal s [a, d] [d] (
    useXX s a d fun x old t s1 => putX s1 d (insertField old x q.toNat w.toNat) t)))

/-- R89: zero-extended, or sign-extended with h = 1; untainted. -/
def execMovi (g : KReg) (d : XReg) (h : BitVec 1) (i : BitVec 16) (s : State) : Out1 :=
  finish s (guarded s g (putX s d (if h = 1#1 then i.signExtend 64 else i.setWidth 64) false))

/-- R89: shifts the immediate in, or with h = 1 replaces bits [31:16]; x(d) is a source. -/
def execMovh (g : KReg) (d : XReg) (h : BitVec 1) (i : BitVec 16) (s : State) : Out1 :=
  update s g d fun x =>
    if h = 1#1 then (x &&& ~~~0xFFFF0000#64) ||| (i.setWidth 64 <<< 16) else (x <<< 16) ||| i.setWidth 64

/-- R90: the address a CM access would form, with no access. -/
def execLea (g : KReg) (d a : XReg) (c : BitVec 2) (b : BitVec 1) (f : BitVec 10) (s : State) : Out1 :=
  finish s (guarded s g (legal s [a] [d] (useAddress s a (2 ^ c.toNat) b f fun v t s1 => putX s1 d v t)))

/-! ### Packed lanes (R91, R92) -/

/-- Applies an operation to each lane of `w` bits, given as naturals. -/
def packed (w : Nat) (f : Nat → Nat → Nat) (x y : Word) : Word :=
  BitVec.ofNat 64 ((List.range (64 / w)).foldr (fun i acc =>
    f (x.toNat / 2 ^ (w * i) % 2 ^ w) (y.toNat / 2 ^ (w * i) % 2 ^ w) % 2 ^ w + 2 ^ w * acc) 0)

/-- The lane width that the w field names. -/
def laneWidth (w : BitVec 1) : Nat := if w = 1#1 then 16 else 8

/-- A packed word. -/
def packedWord (s : State) (g : KReg) (d a b : XReg) (w : BitVec 1) (f : Nat → Nat → Nat → Nat) : Out1 :=
  binary s g d a b (packed (laneWidth w) (f (laneWidth w)))

/-- A clamp of the signed or natural range of a width. -/
def clampLane (sgn : Bool) (w : Nat) (v : Int) : Nat :=
  if sgn then ofInt w (clampInt (-2 ^ (w - 1)) (2 ^ (w - 1) - 1) v) else ofInt w (clampInt 0 (2 ^ w - 1) v)

/-- All ones of a width, or 0. -/
def maskLane (w : Nat) (b : Bool) : Nat := if b then 2 ^ w - 1 else 0

/-- R92. -/
def execPadd (g : KReg) (d a b : XReg) (w : BitVec 1) (s : State) : Out1 := packedWord s g d a b w fun _ x y => x + y
/-- R92. -/
def execPsub (g : KReg) (d a b : XReg) (w : BitVec 1) (s : State) : Out1 :=
  packedWord s g d a b w fun w x y => x + 2 ^ w - y
/-- R92. -/
def execPaddsatI (g : KReg) (d a b : XReg) (w : BitVec 1) (s : State) : Out1 :=
  packedWord s g d a b w fun w x y => clampLane true w (toInt true w x + toInt true w y)
/-- R92. -/
def execPaddsatN (g : KReg) (d a b : XReg) (w : BitVec 1) (s : State) : Out1 :=
  packedWord s g d a b w fun w x y => clampLane false w ((x : Int) + y)
/-- R92. -/
def execPminI (g : KReg) (d a b : XReg) (w : BitVec 1) (s : State) : Out1 :=
  packedWord s g d a b w fun w x y => if toInt true w x ≤ toInt true w y then x else y
/-- R92. -/
def execPminN (g : KReg) (d a b : XReg) (w : BitVec 1) (s : State) : Out1 :=
  packedWord s g d a b w fun _ x y => if x ≤ y then x else y
/-- R92. -/
def execPmaxI (g : KReg) (d a b : XReg) (w : BitVec 1) (s : State) : Out1 :=
  packedWord s g d a b w fun w x y => if toInt true w x ≤ toInt true w y then y else x
/-- R92. -/
def execPmaxN (g : KReg) (d a b : XReg) (w : BitVec 1) (s : State) : Out1 :=
  packedWord s g d a b w fun _ x y => if x ≤ y then y else x
/-- R92: the amount is the low byte of B's lane. -/
def execPshl (g : KReg) (d a b : XReg) (w : BitVec 1) (s : State) : Out1 :=
  packedWord s g d a b w fun w x y => shlAt w x (y % 256)
/-- R92. -/
def execPshr (g : KReg) (d a b : XReg) (w : BitVec 1) (s : State) : Out1 :=
  packedWord s g d a b w fun w x y => shrAt w x (y % 256)
/-- R92. -/
def execPsar (g : KReg) (d a b : XReg) (w : BitVec 1) (s : State) : Out1 :=
  packedWord s g d a b w fun w x y => sarAt w x (y % 256)
/-- R92. -/
def execPcmpEq (g : KReg) (d a b : XReg) (w : BitVec 1) (s : State) : Out1 :=
  packedWord s g d a b w fun w x y => maskLane w (x == y)
/-- R92. -/
def execPcmpLtI (g : KReg) (d a b : XReg) (w : BitVec 1) (s : State) : Out1 :=
  packedWord s g d a b w fun w x y => maskLane w (decide (toInt true w x < toInt true w y))
/-- R92. -/
def execPcmpLtN (g : KReg) (d a b : XReg) (w : BitVec 1) (s : State) : Out1 :=
  packedWord s g d a b w fun w x y => maskLane w (decide (x < y))

/-! ### Scalar F32 (R93 to R97) -/

/-- R94. -/
def execFadd (g : KReg) (d a b : XReg) (s : State) : Out1 := binaryF s g d a b Thread.fadd
/-- R94. -/
def execFsub (g : KReg) (d a b : XReg) (s : State) : Out1 := binaryF s g d a b Thread.fsub
/-- R94. -/
def execFmul (g : KReg) (d a b : XReg) (s : State) : Out1 := binaryF s g d a b Thread.fmul
/-- R94: x(d) is the addend. -/
def execFfma (g : KReg) (d a b : XReg) (s : State) : Out1 :=
  finish s (guarded s g (legal s [a, b, d] [d] (
    useXX s a b fun x y t s1 => useX s1 d fun z u s2 => putF s2 d (s.rd.ffma x y z) (t || u))))
/-- R96. -/
def execFmin (g : KReg) (d a b : XReg) (s : State) : Out1 := binaryF s g d a b fun t => t.fminMax false
/-- R96. -/
def execFmax (g : KReg) (d a b : XReg) (s : State) : Out1 := binaryF s g d a b fun t => t.fminMax true
/-- R96: clears bit 31; bits [63:32] become 0. -/
def execFabs (g : KReg) (d a : XReg) (s : State) : Out1 := unary s g d a fun x => x &&& 0x7FFFFFFF#64
/-- R96: inverts bit 31. -/
def execFneg (g : KReg) (d a : XReg) (s : State) : Out1 :=
  unary s g d a fun x => (x &&& 0xFFFFFFFF#64) ^^^ 0x80000000#64
/-- R97. -/
def execFcvtF32I32 (g : KReg) (d a b : XReg) (s : State) : Out1 :=
  convertF s g d a b fun t x r => t.fromInt (x.extractLsb' 0 32).toInt r
/-- R97. -/
def execFcvtF32N32 (g : KReg) (d a b : XReg) (s : State) : Out1 :=
  convertF s g d a b fun t x r => t.fromInt (low32 x) r
/-- R97: the result is sign-extended. -/
def execFcvtI32F32 (g : KReg) (d a b : XReg) (s : State) : Out1 :=
  convertF s g d a b fun t x r => (t.toInt x r (-2 ^ 31) (2 ^ 31 - 1)).2
/-- R97. -/
def execFcvtN32F32 (g : KReg) (d a b : XReg) (s : State) : Out1 :=
  convertF s g d a b fun t x r => (t.toInt x r 0 (2 ^ 32 - 1)).2
/-- R97: exact; x(b) is never a source. -/
def execFcvtF32B16 (g : KReg) (d a _b : XReg) (s : State) : Out1 :=
  finish s (guarded s g (legal s [a] [d] (useX s a fun x t s1 => putF s1 d (s.rd.fromB16 x) t)))
/-- R97. -/
def execFcvtB16F32 (g : KReg) (d a b : XReg) (s : State) : Out1 := convertF s g d a b fun t x r => t.toB16 x r

end Sys2Proof.Machine
end

