-- ==== Sys2Proof/Machine/Dispatch.lean ====
section
/-! DEFINITION. The meaning of each instruction: one arm per constructor. -/

namespace Sys2Proof.Machine

/-- What an instruction, a step or an event does to the machine. -/
def exec (i : Instr) (s : State) : Host.Outcome State Fault Refusal :=
  match i with
  | .nop a1 => Sys2Proof.Machine.execNop a1 s
  | .ret a1 => Sys2Proof.Machine.execRet a1 s
  | .jx a1 a2 => Sys2Proof.Machine.execJx a1 a2 s
  | .callx a1 a2 => Sys2Proof.Machine.execCallx a1 a2 s
  | .nap a1 a2 => Sys2Proof.Machine.execNap a1 a2 s
  | .rdcyc a1 a2 => Sys2Proof.Machine.execRdcyc a1 a2 s
  | .tret a1 => Sys2Proof.Machine.execTret a1 s
  | .yield a1 => Sys2Proof.Machine.execYield a1 s
  | .quit a1 => Sys2Proof.Machine.execQuit a1 s
  | .sysrd a1 a2 a3 => Sys2Proof.Machine.execSysrd a1 a2 a3 s
  | .syswr a1 a2 a3 => Sys2Proof.Machine.execSyswr a1 a2 a3 s
  | .trap a1 a2 => Sys2Proof.Machine.execTrap a1 a2 s
  | .brk a1 a2 => Sys2Proof.Machine.execBrk a1 a2 s
  | .hcall a1 a2 => Sys2Proof.Machine.execHcall a1 a2 s
  | .b a1 a2 a3 => Sys2Proof.Machine.execB a1 a2 a3 s
  | .call a1 a2 a3 => Sys2Proof.Machine.execCall a1 a2 a3 s
  | .loop a1 a2 a3 => Sys2Proof.Machine.execLoop a1 a2 a3 s
  | .ldI8 a1 a2 a3 a4 a5 a6 a7 => Sys2Proof.Machine.execLdI8 a1 a2 a3 a4 a5 a6 a7 s
  | .ldN8 a1 a2 a3 a4 a5 a6 a7 => Sys2Proof.Machine.execLdN8 a1 a2 a3 a4 a5 a6 a7 s
  | .ldI16 a1 a2 a3 a4 a5 a6 a7 => Sys2Proof.Machine.execLdI16 a1 a2 a3 a4 a5 a6 a7 s
  | .ldN16 a1 a2 a3 a4 a5 a6 a7 => Sys2Proof.Machine.execLdN16 a1 a2 a3 a4 a5 a6 a7 s
  | .ldI32 a1 a2 a3 a4 a5 a6 a7 => Sys2Proof.Machine.execLdI32 a1 a2 a3 a4 a5 a6 a7 s
  | .ldN32 a1 a2 a3 a4 a5 a6 a7 => Sys2Proof.Machine.execLdN32 a1 a2 a3 a4 a5 a6 a7 s
  | .ldI64 a1 a2 a3 a4 a5 a6 a7 => Sys2Proof.Machine.execLdI64 a1 a2 a3 a4 a5 a6 a7 s
  | .ldc a1 a2 a3 a4 a5 a6 a7 => Sys2Proof.Machine.execLdc a1 a2 a3 a4 a5 a6 a7 s
  | .st8 a1 a2 a3 a4 a5 a6 a7 => Sys2Proof.Machine.execSt8 a1 a2 a3 a4 a5 a6 a7 s
  | .st16 a1 a2 a3 a4 a5 a6 a7 => Sys2Proof.Machine.execSt16 a1 a2 a3 a4 a5 a6 a7 s
  | .st32 a1 a2 a3 a4 a5 a6 a7 => Sys2Proof.Machine.execSt32 a1 a2 a3 a4 a5 a6 a7 s
  | .st64 a1 a2 a3 a4 a5 a6 a7 => Sys2Proof.Machine.execSt64 a1 a2 a3 a4 a5 a6 a7 s
  | .lea a1 a2 a3 a4 a5 a6 => Sys2Proof.Machine.execLea a1 a2 a3 a4 a5 a6 s
  | .wchg a1 a2 a3 a4 a5 => Sys2Proof.Machine.execWchg a1 a2 a3 a4 a5 s
  | .hop a1 a2 a3 a4 => Sys2Proof.Machine.execHop a1 a2 a3 a4 s
  | .probe a1 a2 a3 a4 a5 => Sys2Proof.Machine.execProbe a1 a2 a3 a4 a5 s
  | .amo a1 a2 a3 a4 a5 a6 a7 => Sys2Proof.Machine.execAmo a1 a2 a3 a4 a5 a6 a7 s
  | .rxAmo a1 a2 a3 a4 a5 a6 a7 => Sys2Proof.Machine.execRxAmo a1 a2 a3 a4 a5 a6 a7 s
  | .fence a1 a2 => Sys2Proof.Machine.execFence a1 a2 s
  | .wait a1 a2 a3 a4 a5 => Sys2Proof.Machine.execWait a1 a2 a3 a4 a5 s
  | .msend a1 a2 a3 a4 => Sys2Proof.Machine.execMsend a1 a2 a3 a4 s
  | .mrecv a1 a2 a3 => Sys2Proof.Machine.execMrecv a1 a2 a3 s
  | .waitm a1 => Sys2Proof.Machine.execWaitm a1 s
  | .mlease a1 a2 a3 a4 => Sys2Proof.Machine.execMlease a1 a2 a3 a4 s
  | .mfree a1 => Sys2Proof.Machine.execMfree a1 s
  | .mbload a1 a2 a3 => Sys2Proof.Machine.execMbload a1 a2 a3 s
  | .mma a1 a2 a3 a4 a5 a6 => Sys2Proof.Machine.execMma a1 a2 a3 a4 a5 a6 s
  | .mmas a1 a2 a3 a4 a5 a6 => Sys2Proof.Machine.execMmas a1 a2 a3 a4 a5 a6 s
  | .mzero a1 a2 a3 a4 => Sys2Proof.Machine.execMzero a1 a2 a3 a4 s
  | .mdrain a1 a2 a3 a4 a5 a6 a7 a8 => Sys2Proof.Machine.execMdrain a1 a2 a3 a4 a5 a6 a7 a8 s
  | .magr a1 a2 a3 => Sys2Proof.Machine.execMagr a1 a2 a3 s
  | .mstat a1 a2 a3 => Sys2Proof.Machine.execMstat a1 a2 a3 s
  | .mreclaim a1 a2 a3 => Sys2Proof.Machine.execMreclaim a1 a2 a3 s
  | .mfmt a1 a2 a3 => Sys2Proof.Machine.execMfmt a1 a2 a3 s
  | .xcopy a1 a2 a3 a4 a5 a6 a7 => Sys2Proof.Machine.execXcopy a1 a2 a3 a4 a5 a6 a7 s
  | .xcopyv a1 a2 a3 a4 a5 a6 a7 => Sys2Proof.Machine.execXcopyv a1 a2 a3 a4 a5 a6 a7 s
  | .xgather a1 a2 a3 a4 a5 a6 a7 => Sys2Proof.Machine.execXgather a1 a2 a3 a4 a5 a6 a7 s
  | .xscatter a1 a2 a3 a4 a5 a6 a7 => Sys2Proof.Machine.execXscatter a1 a2 a3 a4 a5 a6 a7 s
  | .xfill a1 a2 a3 a4 a5 a6 a7 => Sys2Proof.Machine.execXfill a1 a2 a3 a4 a5 a6 a7 s
  | .xdeal a1 a2 a3 a4 a5 a6 a7 => Sys2Proof.Machine.execXdeal a1 a2 a3 a4 a5 a6 a7 s
  | .pbind a1 a2 a3 a4 a5 => Sys2Proof.Machine.execPbind a1 a2 a3 a4 a5 s
  | .punbind a1 a2 => Sys2Proof.Machine.execPunbind a1 a2 s
  | .spawn a1 a2 a3 a4 => Sys2Proof.Machine.execSpawn a1 a2 a3 a4 s
  | .spawnW a1 a2 a3 a4 => Sys2Proof.Machine.execSpawnW a1 a2 a3 a4 s
  | .kopen a1 a2 a3 => Sys2Proof.Machine.execKopen a1 a2 a3 s
  | .kclose a1 a2 a3 => Sys2Proof.Machine.execKclose a1 a2 a3 s
  | .kput a1 a2 a3 => Sys2Proof.Machine.execKput a1 a2 a3 s
  | .kwait a1 => Sys2Proof.Machine.execKwait a1 s
  | .kend a1 => Sys2Proof.Machine.execKend a1 s
  | .kstat a1 a2 a3 a4 => Sys2Proof.Machine.execKstat a1 a2 a3 a4 s
  | .gcall a1 a2 a3 a4 => Sys2Proof.Machine.execGcall a1 a2 a3 a4 s
  | .gret a1 a2 => Sys2Proof.Machine.execGret a1 a2 s
  | .awin a1 a2 a3 a4 a5 => Sys2Proof.Machine.execAwin a1 a2 a3 a4 a5 s
  | .gstat a1 a2 a3 a4 => Sys2Proof.Machine.execGstat a1 a2 a3 a4 s
  | .add a1 a2 a3 a4 => Sys2Proof.Machine.execAdd a1 a2 a3 a4 s
  | .sub a1 a2 a3 a4 => Sys2Proof.Machine.execSub a1 a2 a3 a4 s
  | .mul a1 a2 a3 a4 => Sys2Proof.Machine.execMul a1 a2 a3 a4 s
  | .mulhI a1 a2 a3 a4 => Sys2Proof.Machine.execMulhI a1 a2 a3 a4 s
  | .mulhN a1 a2 a3 a4 => Sys2Proof.Machine.execMulhN a1 a2 a3 a4 s
  | .divI a1 a2 a3 a4 => Sys2Proof.Machine.execDivI a1 a2 a3 a4 s
  | .divN a1 a2 a3 a4 => Sys2Proof.Machine.execDivN a1 a2 a3 a4 s
  | .remI a1 a2 a3 a4 => Sys2Proof.Machine.execRemI a1 a2 a3 a4 s
  | .remN a1 a2 a3 a4 => Sys2Proof.Machine.execRemN a1 a2 a3 a4 s
  | .addsatI a1 a2 a3 a4 => Sys2Proof.Machine.execAddsatI a1 a2 a3 a4 s
  | .addsatN a1 a2 a3 a4 => Sys2Proof.Machine.execAddsatN a1 a2 a3 a4 s
  | .subsatI a1 a2 a3 a4 => Sys2Proof.Machine.execSubsatI a1 a2 a3 a4 s
  | .subsatN a1 a2 a3 a4 => Sys2Proof.Machine.execSubsatN a1 a2 a3 a4 s
  | .abs a1 a2 a3 => Sys2Proof.Machine.execAbs a1 a2 a3 s
  | .neg a1 a2 a3 => Sys2Proof.Machine.execNeg a1 a2 a3 s
  | .minI a1 a2 a3 a4 => Sys2Proof.Machine.execMinI a1 a2 a3 a4 s
  | .maxI a1 a2 a3 a4 => Sys2Proof.Machine.execMaxI a1 a2 a3 a4 s
  | .minN a1 a2 a3 a4 => Sys2Proof.Machine.execMinN a1 a2 a3 a4 s
  | .maxN a1 a2 a3 a4 => Sys2Proof.Machine.execMaxN a1 a2 a3 a4 s
  | .and a1 a2 a3 a4 => Sys2Proof.Machine.execAnd a1 a2 a3 a4 s
  | .or a1 a2 a3 a4 => Sys2Proof.Machine.execOr a1 a2 a3 a4 s
  | .xor a1 a2 a3 a4 => Sys2Proof.Machine.execXor a1 a2 a3 a4 s
  | .andn a1 a2 a3 a4 => Sys2Proof.Machine.execAndn a1 a2 a3 a4 s
  | .orn a1 a2 a3 a4 => Sys2Proof.Machine.execOrn a1 a2 a3 a4 s
  | .mov a1 a2 a3 => Sys2Proof.Machine.execMov a1 a2 a3 s
  | .sel a1 a2 a3 a4 a5 => Sys2Proof.Machine.execSel a1 a2 a3 a4 a5 s
  | .shl a1 a2 a3 a4 => Sys2Proof.Machine.execShl a1 a2 a3 a4 s
  | .shr a1 a2 a3 a4 => Sys2Proof.Machine.execShr a1 a2 a3 a4 s
  | .sar a1 a2 a3 a4 => Sys2Proof.Machine.execSar a1 a2 a3 a4 s
  | .rot a1 a2 a3 a4 => Sys2Proof.Machine.execRot a1 a2 a3 a4 s
  | .clz a1 a2 a3 => Sys2Proof.Machine.execClz a1 a2 a3 s
  | .ctz a1 a2 a3 => Sys2Proof.Machine.execCtz a1 a2 a3 s
  | .popc a1 a2 a3 => Sys2Proof.Machine.execPopc a1 a2 a3 s
  | .bswap a1 a2 a3 => Sys2Proof.Machine.execBswap a1 a2 a3 s
  | .padd a1 a2 a3 a4 a5 => Sys2Proof.Machine.execPadd a1 a2 a3 a4 a5 s
  | .psub a1 a2 a3 a4 a5 => Sys2Proof.Machine.execPsub a1 a2 a3 a4 a5 s
  | .paddsatI a1 a2 a3 a4 a5 => Sys2Proof.Machine.execPaddsatI a1 a2 a3 a4 a5 s
  | .paddsatN a1 a2 a3 a4 a5 => Sys2Proof.Machine.execPaddsatN a1 a2 a3 a4 a5 s
  | .pminI a1 a2 a3 a4 a5 => Sys2Proof.Machine.execPminI a1 a2 a3 a4 a5 s
  | .pminN a1 a2 a3 a4 a5 => Sys2Proof.Machine.execPminN a1 a2 a3 a4 a5 s
  | .pmaxI a1 a2 a3 a4 a5 => Sys2Proof.Machine.execPmaxI a1 a2 a3 a4 a5 s
  | .pmaxN a1 a2 a3 a4 a5 => Sys2Proof.Machine.execPmaxN a1 a2 a3 a4 a5 s
  | .pshl a1 a2 a3 a4 a5 => Sys2Proof.Machine.execPshl a1 a2 a3 a4 a5 s
  | .pshr a1 a2 a3 a4 a5 => Sys2Proof.Machine.execPshr a1 a2 a3 a4 a5 s
  | .psar a1 a2 a3 a4 a5 => Sys2Proof.Machine.execPsar a1 a2 a3 a4 a5 s
  | .pcmpEq a1 a2 a3 a4 a5 => Sys2Proof.Machine.execPcmpEq a1 a2 a3 a4 a5 s
  | .pcmpLtI a1 a2 a3 a4 a5 => Sys2Proof.Machine.execPcmpLtI a1 a2 a3 a4 a5 s
  | .pcmpLtN a1 a2 a3 a4 a5 => Sys2Proof.Machine.execPcmpLtN a1 a2 a3 a4 a5 s
  | .fadd a1 a2 a3 a4 => Sys2Proof.Machine.execFadd a1 a2 a3 a4 s
  | .fsub a1 a2 a3 a4 => Sys2Proof.Machine.execFsub a1 a2 a3 a4 s
  | .fmul a1 a2 a3 a4 => Sys2Proof.Machine.execFmul a1 a2 a3 a4 s
  | .ffma a1 a2 a3 a4 => Sys2Proof.Machine.execFfma a1 a2 a3 a4 s
  | .fmin a1 a2 a3 a4 => Sys2Proof.Machine.execFmin a1 a2 a3 a4 s
  | .fmax a1 a2 a3 a4 => Sys2Proof.Machine.execFmax a1 a2 a3 a4 s
  | .fabs a1 a2 a3 => Sys2Proof.Machine.execFabs a1 a2 a3 s
  | .fneg a1 a2 a3 => Sys2Proof.Machine.execFneg a1 a2 a3 s
  | .fcvtF32I32 a1 a2 a3 a4 => Sys2Proof.Machine.execFcvtF32I32 a1 a2 a3 a4 s
  | .fcvtF32N32 a1 a2 a3 a4 => Sys2Proof.Machine.execFcvtF32N32 a1 a2 a3 a4 s
  | .fcvtI32F32 a1 a2 a3 a4 => Sys2Proof.Machine.execFcvtI32F32 a1 a2 a3 a4 s
  | .fcvtN32F32 a1 a2 a3 a4 => Sys2Proof.Machine.execFcvtN32F32 a1 a2 a3 a4 s
  | .fcvtF32B16 a1 a2 a3 a4 => Sys2Proof.Machine.execFcvtF32B16 a1 a2 a3 a4 s
  | .fcvtB16F32 a1 a2 a3 a4 => Sys2Proof.Machine.execFcvtB16F32 a1 a2 a3 a4 s
  | .addi a1 a2 a3 a4 => Sys2Proof.Machine.execAddi a1 a2 a3 a4 s
  | .andi a1 a2 a3 a4 => Sys2Proof.Machine.execAndi a1 a2 a3 a4 s
  | .ori a1 a2 a3 a4 => Sys2Proof.Machine.execOri a1 a2 a3 a4 s
  | .xori a1 a2 a3 a4 => Sys2Proof.Machine.execXori a1 a2 a3 a4 s
  | .shli a1 a2 a3 a4 => Sys2Proof.Machine.execShli a1 a2 a3 a4 s
  | .shri a1 a2 a3 a4 => Sys2Proof.Machine.execShri a1 a2 a3 a4 s
  | .sari a1 a2 a3 a4 => Sys2Proof.Machine.execSari a1 a2 a3 a4 s
  | .roti a1 a2 a3 a4 => Sys2Proof.Machine.execRoti a1 a2 a3 a4 s
  | .extI a1 a2 a3 a4 a5 => Sys2Proof.Machine.execExtI a1 a2 a3 a4 a5 s
  | .extN a1 a2 a3 a4 a5 => Sys2Proof.Machine.execExtN a1 a2 a3 a4 a5 s
  | .ins a1 a2 a3 a4 a5 => Sys2Proof.Machine.execIns a1 a2 a3 a4 a5 s
  | .movi a1 a2 a3 a4 => Sys2Proof.Machine.execMovi a1 a2 a3 a4 s
  | .movh a1 a2 a3 a4 => Sys2Proof.Machine.execMovh a1 a2 a3 a4 s
  | .cmp a1 a2 a3 a4 a5 => Sys2Proof.Machine.execCmp a1 a2 a3 a4 a5 s
  | .fcmp a1 a2 a3 a4 a5 => Sys2Proof.Machine.execFcmp a1 a2 a3 a4 a5 s
  | .pand a1 a2 a3 a4 => Sys2Proof.Machine.execPand a1 a2 a3 a4 s
  | .por a1 a2 a3 a4 => Sys2Proof.Machine.execPor a1 a2 a3 a4 s
  | .pxor a1 a2 a3 a4 => Sys2Proof.Machine.execPxor a1 a2 a3 a4 s
  | .pnot a1 a2 a3 => Sys2Proof.Machine.execPnot a1 a2 a3 s
  | .pmov a1 a2 a3 => Sys2Proof.Machine.execPmov a1 a2 a3 s
  | .psel a1 a2 a3 a4 a5 => Sys2Proof.Machine.execPsel a1 a2 a3 a4 a5 s
  | .cmpiEq a1 a2 a3 a4 => Sys2Proof.Machine.execCmpiEq a1 a2 a3 a4 s
  | .cmpiNe a1 a2 a3 a4 => Sys2Proof.Machine.execCmpiNe a1 a2 a3 a4 s
  | .cmpiLt a1 a2 a3 a4 => Sys2Proof.Machine.execCmpiLt a1 a2 a3 a4 s
  | .cmpiLe a1 a2 a3 a4 => Sys2Proof.Machine.execCmpiLe a1 a2 a3 a4 s
  | .cmpiGt a1 a2 a3 a4 => Sys2Proof.Machine.execCmpiGt a1 a2 a3 a4 s
  | .cmpiGe a1 a2 a3 a4 => Sys2Proof.Machine.execCmpiGe a1 a2 a3 a4 s
  | .cmpiLtN a1 a2 a3 a4 => Sys2Proof.Machine.execCmpiLtN a1 a2 a3 a4 s
  | .cmpiGeN a1 a2 a3 a4 => Sys2Proof.Machine.execCmpiGeN a1 a2 a3 a4 s
  | .vadd a1 a2 a3 a4 => Sys2Proof.Machine.execVadd a1 a2 a3 a4 s
  | .vsub a1 a2 a3 a4 => Sys2Proof.Machine.execVsub a1 a2 a3 a4 s
  | .vmul a1 a2 a3 a4 => Sys2Proof.Machine.execVmul a1 a2 a3 a4 s
  | .vfma a1 a2 a3 a4 => Sys2Proof.Machine.execVfma a1 a2 a3 a4 s
  | .vmin a1 a2 a3 a4 => Sys2Proof.Machine.execVmin a1 a2 a3 a4 s
  | .vmax a1 a2 a3 a4 => Sys2Proof.Machine.execVmax a1 a2 a3 a4 s
  | .vabs a1 a2 a3 => Sys2Proof.Machine.execVabs a1 a2 a3 s
  | .vneg a1 a2 a3 => Sys2Proof.Machine.execVneg a1 a2 a3 s
  | .vand a1 a2 a3 => Sys2Proof.Machine.execVand a1 a2 a3 s
  | .vor a1 a2 a3 => Sys2Proof.Machine.execVor a1 a2 a3 s
  | .vxor a1 a2 a3 => Sys2Proof.Machine.execVxor a1 a2 a3 s
  | .vshl a1 a2 a3 a4 => Sys2Proof.Machine.execVshl a1 a2 a3 a4 s
  | .vshr a1 a2 a3 a4 => Sys2Proof.Machine.execVshr a1 a2 a3 a4 s
  | .vsar a1 a2 a3 a4 => Sys2Proof.Machine.execVsar a1 a2 a3 a4 s
  | .vsel a1 a2 a3 => Sys2Proof.Machine.execVsel a1 a2 a3 s
  | .vcmp a1 a2 a3 a4 a5 => Sys2Proof.Machine.execVcmp a1 a2 a3 a4 a5 s
  | .vcvtFromF32 a1 a2 a3 a4 a5 => Sys2Proof.Machine.execVcvtFromF32 a1 a2 a3 a4 a5 s
  | .vcvtToF32 a1 a2 a3 a4 a5 => Sys2Proof.Machine.execVcvtToF32 a1 a2 a3 a4 a5 s
  | .vex2 a1 a2 a3 a4 => Sys2Proof.Machine.execVex2 a1 a2 a3 a4 s
  | .vrcp a1 a2 => Sys2Proof.Machine.execVrcp a1 a2 s
  | .vrsq a1 a2 => Sys2Proof.Machine.execVrsq a1 a2 s
  | .vredSum a1 a2 a3 => Sys2Proof.Machine.execVredSum a1 a2 a3 s
  | .vredMax a1 a2 a3 => Sys2Proof.Machine.execVredMax a1 a2 a3 s
  | .vredMin a1 a2 a3 => Sys2Proof.Machine.execVredMin a1 a2 a3 s
  | .vbcast a1 a2 a3 => Sys2Proof.Machine.execVbcast a1 a2 a3 s
  | .vget a1 a2 a3 a4 => Sys2Proof.Machine.execVget a1 a2 a3 a4 s
  | .vperm a1 a2 a3 => Sys2Proof.Machine.execVperm a1 a2 a3 s
  | .vpack a1 a2 a3 => Sys2Proof.Machine.execVpack a1 a2 a3 s
  | .vunpack a1 a2 a3 => Sys2Proof.Machine.execVunpack a1 a2 a3 s
  | .vgath a1 a2 a3 a4 a5 => Sys2Proof.Machine.execVgath a1 a2 a3 a4 a5 s
  | .vscat a1 a2 a3 a4 a5 => Sys2Proof.Machine.execVscat a1 a2 a3 a4 a5 s
  | .vbindPop a1 a2 => Sys2Proof.Machine.execVbindPop a1 a2 s
  | .vbindPush a1 a2 => Sys2Proof.Machine.execVbindPush a1 a2 s
  | .vunbind a1 => Sys2Proof.Machine.execVunbind a1 s
  | .vfence => Sys2Proof.Machine.execVfence s
  | .vliveClear => Sys2Proof.Machine.execVliveClear s
  | .traceClear => Sys2Proof.Machine.execTraceClear s
  | .evselWrite a1 => Sys2Proof.Machine.execEvselWrite a1 s
  | .tinv1 a1 => Sys2Proof.Machine.execTinv1 a1 s
  | .tinv2 a1 => Sys2Proof.Machine.execTinv2 a1 s
  | .pgrep a1 => Sys2Proof.Machine.execPgrep a1 s
  | .plainAccessComplete a1 => Sys2Proof.Machine.execPlainAccessComplete a1 s
  | .relaxedLoadReturn a1 => Sys2Proof.Machine.execRelaxedLoadReturn a1 s
  | .relaxedStorePerformed a1 => Sys2Proof.Machine.execRelaxedStorePerformed a1 s
  | .bankPortService a1 => Sys2Proof.Machine.execBankPortService a1 s
  | .sliceFill a1 a2 => Sys2Proof.Machine.execSliceFill a1 a2 s
  | .scrub a1 => Sys2Proof.Machine.execScrub a1 s
  | .normaliserServiceEnd a1 => Sys2Proof.Machine.execNormaliserServiceEnd a1 s
  | .wchgWake a1 => Sys2Proof.Machine.execWchgWake a1 s
  | .wchgPoll a1 => Sys2Proof.Machine.execWchgPoll a1 s
  | .napWake a1 => Sys2Proof.Machine.execNapWake a1 s
  | .trapEntry a1 a2 => Sys2Proof.Machine.execTrapEntry a1 a2 s
  | .vectorBeat a1 => Sys2Proof.Machine.execVectorBeat a1 s
  | .vectorCommandComplete a1 => Sys2Proof.Machine.execVectorCommandComplete a1 s
  | .leaseGrant a1 => Sys2Proof.Machine.execLeaseGrant a1 s
  | .leaseExpiry a1 a2 => Sys2Proof.Machine.execLeaseExpiry a1 a2 s
  | .tileOperationStart a1 => Sys2Proof.Machine.execTileOperationStart a1 s
  | .tileOperationComplete a1 => Sys2Proof.Machine.execTileOperationComplete a1 s
  | .audit a1 => Sys2Proof.Machine.execAudit a1 s
  | .foragerAccept a1 => Sys2Proof.Machine.execForagerAccept a1 s
  | .copyComplete a1 => Sys2Proof.Machine.execCopyComplete a1 s
  | .messageDelivery a1 => Sys2Proof.Machine.execMessageDelivery a1 s
  | .nack a1 => Sys2Proof.Machine.execNack a1 s
  | .messageRetry a1 => Sys2Proof.Machine.execMessageRetry a1 s
  | .pendingReportPost a1 => Sys2Proof.Machine.execPendingReportPost a1 s
  | .keyedRecordArrival a1 => Sys2Proof.Machine.execKeyedRecordArrival a1 s
  | .broodDecision a1 => Sys2Proof.Machine.execBroodDecision a1 s
  | .idleRetirement a1 => Sys2Proof.Machine.execIdleRetirement a1 s
  | .spawnRequest a1 => Sys2Proof.Machine.execSpawnRequest a1 s
  | .spawnAnswer a1 => Sys2Proof.Machine.execSpawnAnswer a1 s
  | .launchRequest a1 => Sys2Proof.Machine.execLaunchRequest a1 s
  | .slotFill a1 a2 => Sys2Proof.Machine.execSlotFill a1 a2 s
  | .quitNotice a1 => Sys2Proof.Machine.execQuitNotice a1 s
  | .doneMessage a1 => Sys2Proof.Machine.execDoneMessage a1 s
  | .migrationDeparture a1 => Sys2Proof.Machine.execMigrationDeparture a1 s
  | .migrationArrival a1 => Sys2Proof.Machine.execMigrationArrival a1 s
  | .thermalSample a1 a2 => Sys2Proof.Machine.execThermalSample a1 a2 s
  | .thermalDisplacement a1 a2 => Sys2Proof.Machine.execThermalDisplacement a1 a2 s
  | .preemptSave a1 a2 => Sys2Proof.Machine.execPreemptSave a1 a2 s
  | .contextResume a1 a2 => Sys2Proof.Machine.execContextResume a1 a2 s
  | .sliceEnd a1 => Sys2Proof.Machine.execSliceEnd a1 s
  | .slotHandover a1 => Sys2Proof.Machine.execSlotHandover a1 s
  | .boostEnd a1 => Sys2Proof.Machine.execBoostEnd a1 s
  | .budgetRenewal => Sys2Proof.Machine.execBudgetRenewal s
  | .deferralExpiry a1 => Sys2Proof.Machine.execDeferralExpiry a1 s
  | .threadUnwind a1 => Sys2Proof.Machine.execThreadUnwind a1 s
  | .graceExpiry a1 => Sys2Proof.Machine.execGraceExpiry a1 s
  | .abandonBudgetExpiry a1 => Sys2Proof.Machine.execAbandonBudgetExpiry a1 s
  | .threadKill a1 => Sys2Proof.Machine.execThreadKill a1 s
  | .domainTeardown a1 => Sys2Proof.Machine.execDomainTeardown a1 s
  | .translationWalk a1 a2 a3 => Sys2Proof.Machine.execTranslationWalk a1 a2 a3 s
  | .rewalk a1 a2 => Sys2Proof.Machine.execRewalk a1 a2 s
  | .installTensor a1 a2 => Sys2Proof.Machine.execInstallTensor a1 a2 s
  | .dropHandle a1 a2 => Sys2Proof.Machine.execDropHandle a1 a2 s
  | .offer a1 a2 a3 => Sys2Proof.Machine.execOffer a1 a2 a3 s
  | .importHandle a1 => Sys2Proof.Machine.execImportHandle a1 s
  | .closeGate a1 a2 a3 => Sys2Proof.Machine.execCloseGate a1 a2 a3 s
  | .launchPacket a1 a2 a3 => Sys2Proof.Machine.execLaunchPacket a1 a2 a3 s
  | .graphReplay a1 a2 => Sys2Proof.Machine.execGraphReplay a1 a2 s
  | .dispatch a1 => Sys2Proof.Machine.execDispatch a1 s
  | .completionRecord a1 a2 => Sys2Proof.Machine.execCompletionRecord a1 a2 s
  | .createQueue a1 a2 a3 => Sys2Proof.Machine.execCreateQueue a1 a2 a3 s
  | .destroyQueue a1 a2 a3 => Sys2Proof.Machine.execDestroyQueue a1 a2 a3 s
  | .createGraph a1 a2 a3 => Sys2Proof.Machine.execCreateGraph a1 a2 a3 s
  | .freeGraph a1 a2 a3 => Sys2Proof.Machine.execFreeGraph a1 a2 a3 s
  | .setEventRing a1 a2 a3 => Sys2Proof.Machine.execSetEventRing a1 a2 a3 s
  | .acknowledgeEvents a1 a2 a3 => Sys2Proof.Machine.execAcknowledgeEvents a1 a2 a3 s
  | .setVdSchedule a1 a2 a3 => Sys2Proof.Machine.execSetVdSchedule a1 a2 a3 s
  | .createVd a1 a2 => Sys2Proof.Machine.execCreateVd a1 a2 s
  | .destroyVd a1 a2 => Sys2Proof.Machine.execDestroyVd a1 a2 s
  | .createDomain a1 a2 => Sys2Proof.Machine.execCreateDomain a1 a2 s
  | .pauseVd a1 a2 => Sys2Proof.Machine.execPauseVd a1 a2 s
  | .resumeVd a1 a2 => Sys2Proof.Machine.execResumeVd a1 a2 s
  | .setDataEndpoint a1 a2 => Sys2Proof.Machine.execSetDataEndpoint a1 a2 s
  | .setRemoteEndpoint a1 a2 => Sys2Proof.Machine.execSetRemoteEndpoint a1 a2 s
  | .remoteDataAccess a1 a2 a3 a4 a5 => Sys2Proof.Machine.execRemoteDataAccess a1 a2 a3 a4 a5 s
  | .managementWrite a1 a2 a3 => Sys2Proof.Machine.execManagementWrite a1 a2 a3 s
  | .gtoffWrite a1 a2 a3 => Sys2Proof.Machine.execGtoffWrite a1 a2 a3 s
  | .plimWrite a1 a2 => Sys2Proof.Machine.execPlimWrite a1 a2 s
  | .feataccWrite a1 a2 a3 a4 => Sys2Proof.Machine.execFeataccWrite a1 a2 a3 a4 s
  | .deliveryTimeout => Sys2Proof.Machine.execDeliveryTimeout s
  | .claim a1 a2 a3 => Sys2Proof.Machine.execClaim a1 a2 a3 s
  | .heartbeat a1 a2 => Sys2Proof.Machine.execHeartbeat a1 a2 s
  | .release a1 a2 => Sys2Proof.Machine.execRelease a1 a2 s
  | .collectionWindowEnd => Sys2Proof.Machine.execCollectionWindowEnd s
  | .heartbeatTimeout => Sys2Proof.Machine.execHeartbeatTimeout s
  | .successorWindowEnd => Sys2Proof.Machine.execSuccessorWindowEnd s
  | .sessionTeardown a1 => Sys2Proof.Machine.execSessionTeardown a1 s
  | .getVersion a1 => Sys2Proof.Machine.execGetVersion a1 s
  | .getCapabilities a1 => Sys2Proof.Machine.execGetCapabilities a1 s
  | .negotiateAlgorithms a1 a2 => Sys2Proof.Machine.execNegotiateAlgorithms a1 a2 s
  | .getDigests a1 => Sys2Proof.Machine.execGetDigests a1 s
  | .getCertificate a1 a2 a3 => Sys2Proof.Machine.execGetCertificate a1 a2 a3 s
  | .challenge a1 a2 => Sys2Proof.Machine.execChallenge a1 a2 s
  | .getMeasurements a1 a2 => Sys2Proof.Machine.execGetMeasurements a1 a2 s
  | .keyExchange a1 a2 => Sys2Proof.Machine.execKeyExchange a1 a2 s
  | .finish a1 => Sys2Proof.Machine.execFinish a1 s
  | .endSession a1 => Sys2Proof.Machine.execEndSession a1 s
  | .updateChunk a1 a2 a3 => Sys2Proof.Machine.execUpdateChunk a1 a2 a3 s
  | .updateVerify a1 => Sys2Proof.Machine.execUpdateVerify a1 s
  | .updateCoreSwitch a1 => Sys2Proof.Machine.execUpdateCoreSwitch a1 s
  | .slotReset a1 a2 => Sys2Proof.Machine.execSlotReset a1 a2 s
  | .coreReset a1 => Sys2Proof.Machine.execCoreReset a1 s
  | .combReset a1 => Sys2Proof.Machine.execCombReset a1 s
  | .hiveReset a1 => Sys2Proof.Machine.execHiveReset a1 s
  | .vdReset a1 => Sys2Proof.Machine.execVdReset a1 s
  | .firmwareColumnReset => Sys2Proof.Machine.execFirmwareColumnReset s
  | .warmReset => Sys2Proof.Machine.execWarmReset s
  | .coldReset => Sys2Proof.Machine.execColdReset s
  | .resetComplete => Sys2Proof.Machine.execResetComplete s
  | .boot => Sys2Proof.Machine.execBoot s
  | .powerPeriod a1 => Sys2Proof.Machine.execPowerPeriod a1 s
  | .thermalRecord a1 a2 => Sys2Proof.Machine.execThermalRecord a1 a2 s
  | .thermalTrip a1 => Sys2Proof.Machine.execThermalTrip a1 s
  | .domainKill a1 => Sys2Proof.Machine.execDomainKill a1 s
  | .pqheadWrite a1 => Sys2Proof.Machine.execPqheadWrite a1 s

end Sys2Proof.Machine
end

