-- ==== Sys2Proof/Machine/Turn.lean ====
section
/-! DEFINITION. A turn of a core (13_execution.md R281 to R283), the fetch of a bundle (02_encoding.md R33, R35, R40), pairs
(R36 to R40), the passing of cycles (01_state.md R27; 21_launch_queues.md R352; 23_host_virtualisation.md R382; 24_fleet.md
R388), and the steps that the part takes by itself (log entry 3). -/

namespace Sys2Proof.Machine

/-! ### Cycles -/

/-- A thread in a slot is charged for every cycle (R27), its events 1 and 15 count (R388), and the matrix flags of a cycle
enter st at its end (R333). -/
def Thread.elapse (n : Nat) (t : Thread) : Thread :=
  if t.inSlot then
    let t1 := ({ t with chg := t.chg + BitVec.ofNat 64 n, st := t.st ||| t.lateFlags, lateFlags := 0 } : Thread).event 1 n
    if t.wait.isSome || t.norm then t1.event 15 n else t1
  else t

/-- R352: the VD that holds a shared core for some cycles: its virtual time, its budget and its share of the core. -/
def State.chargeCore (s : State) (n : Nat) (k : Core) : State :=
  match k.sliceVd with
  | none => s
  | some v =>
    if s.isShared k.num then
      let d := s.vd v
      let used := ((k.share.find? fun p => p.1 == v).map Prod.snd).getD 0
      let w := if d.boost then min 1020 (4 * d.weight) else d.weight
      (s.setVd { d with vt := d.vt + 256 * n / w, spent := d.spent + n }).setCore
        { k with share := (v, used + n) :: k.share.filter fun p => p.1 != v }
    else s

/-- Cycles of a scrub pass (R307). -/
def scrubPass : Nat := 2 ^ 26

/-- R307: the homes that had a request in each of `n` cycles; one that has been busy for a whole pass reports its lag. -/
def State.noteBusy (s : State) (n : Nat) : State :=
  let homes := (s.reqs.map Req.home).dedup
  let now := s.cyc + BitVec.ofNat 64 n
  let old (h : Home) : Home × Word × Nat := (s.busy.find? fun b => b.1 == h).getD (h, s.cyc, 0)
  homes.foldl (fun (s : State) h =>
    let b := old h
    let missed := (now - b.2.1).toNat / scrubPass
    let s1 : State := { s with busy := s.busy ++ [(h, b.2.1, missed)] }
    if b.2.2 < missed then s1.eccRecord (s1.spotHome (match h with
      | .bank c => .mem (scratchBase + c.toNat * 2 ^ 19)
      | .slice f => .slice (f.toNat / 2 * 2 ^ 37 + f.toNat % 2 * 128))).1 0 2 missed else s1) { s with busy := [] }

/-- `n` cycles pass. -/
def State.elapse (s : State) (n : Nat) : State :=
  if n = 0 then s
  else
    let tick (v : Vd) : Vd := if v.st = 1#2 then { v with gcyc := v.gcyc + BitVec.ofNat 64 n } else v
    let s0 := s.noteWorks.noteBusy n
    let s1 : State := { s0 with
      cyc := s0.cyc + BitVec.ofNat 64 n, cur := s0.cur.elapse n, others := s0.others.map (Thread.elapse n), vds := s0.vds.map tick }
    s1.cores.foldl (fun (s : State) k => s.chargeCore n k) s1

/-! ### Which slot issues (R281, R282, R215) -/

/-- The thread must be unwound, orphaned, retired or killed before it issues again (R317, R319 to R321). -/
def State.mustStop (s : State) (t : Thread) : Bool :=
  s.killDue t || (s.unwindTarget t).isSome || s.orphanDue t || t.graceSpent false || t.graceSpent true

/-- The slot serves the thread's VD (R352, R353, R315) and is not disabled (R294). -/
def State.serves (s : State) (t : Thread) : Bool :=
  s.deferred t || (s.slotVd t.core t.slotNo == some t.chgvd && !(s.core t.core).disabled.getLsbD t.slotNo.toNat)

/-- R281: the thread may issue once its cycle has come: it waits for nothing, in a slot that serves it. -/
def State.runnable (s : State) (t : Thread) : Bool :=
  t.inSlot && (match t.wait with
    | none | some (.refused _) => true
    | _ => false) && !t.norm && s.serves t && !s.mustStop t

/-- R281: cycles until a thread is ready: 5 after its slot's last issue, 1 after the end of its last wait. -/
def State.untilReady (s : State) (t : Thread) : Nat :=
  let issue := match (s.core t.core).slotIssue.lookup t.slotNo with
    | none => 0
    | some c => 5 - (s.cyc - c).toNat
  let wait := match t.rejoin with
    | none => 0
    | some c => 1 - (s.cyc - c).toNat
  max issue wait

/-- Cycles until a core may issue again. -/
def State.untilTurn (s : State) (k : Core) : Nat :=
  match k.lastTurn with
  | none => 0
  | some c => 1 - (s.cyc - c).toNat

/-- R215: slots that a yielding slot still lets go first: those that have left rotation no longer count. -/
def State.letGo (s : State) (c : CoreNo) : State :=
  let k := s.core c
  if k.yields.isEmpty then s
  else
    let rot := s.rotation c
    s.setCore { k with yields := (k.yields.map fun y => (y.1, y.2 &&& rot)).filter fun y => y.2 != 0 }

/-- R181, R282: the forager slot has a command that it may accept: the previous one has completed in an earlier cycle. -/
def State.forages (s : State) (c : CoreNo) : Bool :=
  let k := s.core c
  k.engine.isNone && !k.fifo.isEmpty && k.engineFree != some s.cyc

/-- The forager slot did not issue in any of the last 4 cycles. -/
def State.foragerRested (s : State) (c : CoreNo) : Bool :=
  match (s.core c).lastForager with
  | none => true
  | some u => decide (5 ≤ (s.cyc - u).toNat)

/-- The runnable threads of a core. -/
def State.candidates (s : State) (c : CoreNo) : List Thread := s.threads.filter fun t => t.core == c && s.runnable t

/-- R282: the slots of a core that are ready, the first after LastCompute first. -/
def State.readySlots (s : State) (c : CoreNo) : List SlotNo :=
  let k := s.core c
  let ready := (s.candidates c).filter fun t => s.untilReady t == 0
  ((List.range 16).map fun i => k.lastCompute + 1 + BitVec.ofNat 4 i).filter fun n =>
    ready.any (fun t => t.slotNo == n) && !(k.yields.any fun y => y.1 == n)

/-! ### A bundle -/

/-- What became of the bundle in hand. -/
def Mark.isTrap (m : Mark) (c : Cause) : Bool := m == .trapped c

/-- The word parked on a condition, with nothing done. -/
def State.onCond (s : State) : Bool := s.mark == .parked && s.cur.wait == some .cond

/-- The word has trapped, or is held for a page. -/
def State.onTrap (s : State) : Bool := match s.mark with
  | .trapped _ => true
  | .parked => (match s.cur.wait with
    | some (.page _ _ _) => true
    | _ => false)
  | .retired => false

/-- R115: at the end of a bundle the hop hint is ignored where the thread may not move. -/
def State.settleHint (s : State) : State :=
  if s.cur.leaving.isSome && s.heldHere then
    { s with cur := { s.cur with leaving := none, wait := if s.cur.wait = some .leaving then none else s.cur.wait } }
  else s

/-- The word waits, before or after issue. -/
def State.onHold (s : State) : Bool := s.mark == .parked && (s.cur.wait == some .cond || s.cur.wait == some .held)

/-- R36, R248: word 0 has acted, and word 1 waits for it: the bundle stays in hand. `before` is the thread as the bundle found it,
with the wait that word 0 has left. -/
def State.halve (s : State) (before : Thread) (stands : Option (Nat × List Nat)) (stamp : Nat) : State :=
  { s with
    halves := { before with wait := s.cur.wait } :: s.halves.filter fun t => t.num != before.num
    mark := .parked, popped := [], stamp := stamp
    cur := { s.cur with wait := some .held, halfway := true, stands := stands } }

/-- Word 1 of a bundle whose word 0 has acted is tried again: every operand as it was before the bundle (R36). -/
def secondWord (s : State) (before : Thread) (i1 : Instr) : Out1 :=
  let pc := s.cur.pc
  match exec i1 { s with
      pos := .w1, src := some before, popped := [], mark := .retired
      cur := { s.cur with pc := before.pc, halfway := false }, halves := s.halves.filter fun t => t.num != before.num } with
  | .next r =>
    if r.onHold then .next (s.halve before r.cur.stands r.stamp)
    else if r.mark == .retired then .next ({ r with cur := { r.cur with pc := pc, wait := before.wait } } : State).settleHint
    else .next r
  | x => x

/-- R36, R40: a pair. Both words are tried on the state before the bundle; the first cause in the order of R40 decides, then
what a word parks on, and otherwise word 1 acts on what word 0 has left, with every operand as it was before the bundle. -/
def runPair (s : State) (i0 i1 : Instr) : Out1 :=
  match (if s.cur.halfway then s.halves.find? fun t => t.num == s.cur.num else none) with
  | some before => secondWord s before i1
  | none =>
  let a : State := { s with pos := .w0, src := none, popped := [], mark := .retired }
  let b : State := { s with pos := .w1, src := none, popped := [], mark := .retired }
  match exec i0 a, exec i1 b with
  | .next r0, .next r1 =>
    if r0.mark.isTrap .illegal then .next r0
    else if r1.mark.isTrap .illegal then .next r1
    else if r0.onCond then .next r0
    else if r1.onCond then .next r1
    else if r0.mark.isTrap .tileform then .next r0
    else if r1.mark.isTrap .tileform then .next r1
    else if r0.onTrap then .next r0
    else if r1.onTrap then .next r1
    else if r0.mark != .retired then .next r0
    else if r1.mark != .retired then .next r1
    else if r0.cur.num != s.cur.num || r0.cur.place == .gone || r0.cur.lost then .next r0
    else match exec i1 { r0 with pos := .w1, src := some s.cur, mark := .retired } with
      | .next r =>
        if r.mark == .retired then .next r.settleHint
        else if r.onHold then .next (r0.halve s.cur r.cur.stands r.stamp)
        else .next (b.parked .cond)
      | x => x
  | .next _, x => x
  | x, _ => x

/-- The bundle has issued and parks its slot until a condition holds or an event comes. -/
def Wait.afterIssue : Wait → Bool
  | .held | .watch _ | .poll _ | .sleep _ | .lease | .spawn | .closing => true
  | _ => false

/-- A bundle that has issued and has not retired stays in hand. -/
def State.keepBundle (s : State) (bits : Word) : State :=
  if s.mark == .parked && s.cur.wait.any Wait.afterIssue then { s with cur := { s.cur with inHand := some bits } } else s

/-- R35: the current thread's bundle is decoded from the doubleword that holds it, and run. -/
def runBits (s : State) (bits : Word) : Out1 :=
  let pc := match (if s.cur.halfway then s.halves.find? fun t => t.num == s.cur.num else none) with
    | some before => before.pc
    | none => s.cur.pc
  let odd := pc.toNat % 8 == 4
  let s1 : State := { s with pos := .lone, src := none, popped := [], mark := .retired, bundle := bundleBits odd bits }
  match (match decodeBundle odd bits with
    | .error .misframe => .next (s1.trapped .misframe bits pc)
    | .error .illegal => .next (s1.trapped .illegal s1.bundle pc)
    | .ok (.lone i) => exec i s1
    | .ok (.pair i0 i1) => runPair s1 i0 i1 : Out1) with
  | .next r => .next (r.keepBundle bits)
  | x => x

/-- R33, R35: the current thread's bundle is fetched, decoded and run. -/
def runBundle (s : State) : Out1 :=
  let t := s.cur
  let c := combOf t.core
  let pc := t.pc
  let dw := pc.toNat / 8 * 8
  let s0 : State := { s with pos := .lone, src := none, popped := [], mark := .retired, bundle := 0 }
  let walked := if cachedPage s0 c t.dom dw then s0 else (s0.countEv 10 1).noteWalk c t.dom dw
  if windowOf pc.toNat ≠ .image then .next (s0.trapped .prot pc pc)
  else match checkTables s0 c t.dom dw 8 .fetch with
    | .trap cause _ => .next (walked.trapped cause pc pc)
    | .miss m => .next ((walked.pageRequest t { m with at_ := pc.toNat }).parked (.page m.vd m.page pc))
    | .ok ps =>
      if ps.any (s0.barred t.core) then .next (s0.trapped .prot pc pc)
      else if s0.fillsAt ps then .next (s0.parked .cond)
      else
        let s1 := cacheTr walked c t.dom dw (translate s0 c t.dom dw)
        let (s2, bad, fixed) := (s1.touch ps).eccRead ps
        let s2 := if fixed = 0 then s2 else s2.countEv 14 fixed
        let s3 := if bad then s2.memoryError t.num t.dom pc else s2
        let bits : Word := if bad then BitVec.allOnes 64 else leWord (ps.map (memGet s3.mem))
        runBits s3 bits

/-- A ready thread takes its turn: a page that was refused raises FAULT_S2 in place of the bundle (R101). An uncorrectable
error in its registers kills it, once its accesses are over (R305, R321). -/
def issueThread (s : State) (n : ThreadNo) : Out1 :=
  let (s0, bad, _) := (s.focus n).meetSpot (· == .thread n)
  if bad then .next { s0 with cur := { s0.cur with doom := some true }, mark := .parked }
  else
    let s1 : State := { s0 with pos := .lone, src := none, popped := [], bundle := 0, mark := .parked }
    let free : State := { s1 with cur := { s1.cur with wait := none, inHand := none, stands := none } }
    match s1.cur.wait with
    | some (.refused va) => if s1.trapWaits then .next s1 else .next (free.trapped .faultS2 va s1.cur.pc)
    | _ => runBundle free

/-! ### The ends of waits (R281) -/

/-- The bundle in hand of a thread tests its condition again. It waits on, with nothing done; or it retires or traps, and its
slot is ready from the next cycle on. -/
def State.retest (s : State) (n : ThreadNo) : State :=
  let s1 := s.focus n
  match s1.cur.inHand with
  | none => s.modThread n fun t => t.rejoins s.cyc
  | some bits =>
    match runBits { s1 with cur := { s1.cur with wait := none, inHand := none } } bits with
    | .next s2 =>
      if s2.onHold then { s.modThread n fun t => { t with stands := s2.cur.stands } with stamp := s2.stamp }
      else (s2.modThread n fun t => { t with stands := none, rejoin := some s.cyc }).focus s.cur.num
    | _ => s

/-- The bundle of a thread that waits before issue would issue now. -/
def State.wouldIssue (s : State) (n : ThreadNo) : Bool := match issueThread s n with
  | .next r => !(r.mark == .parked && (r.thread? n).any fun t => t.wait == some .cond)
  | _ => true

/-- The threads in slots that wait for something, by number. -/
def State.waiting (s : State) (w : Wait) : List ThreadNo := (s.threads.filter fun t => t.inSlot && t.wait == some w).map Thread.num

/-- R281, R335: what the cycle has brought: records reach stages of their own core, bundles in hand whose condition holds
retire, and bundles that wait before issue and would issue now are free to. -/
def State.settle (s : State) : State :=
  if s.mgmt.state = 3#8 then s
  else
  let s1 := (s.cores.map Core.num).foldl (fun (s : State) c => s.arriveHere c 32) s
  let s2 := (s1.waiting .held).foldl State.retest s1
  (s2.waiting .cond).foldl (fun (s : State) n => if s.wouldIssue n then s.modThread n fun t => t.rejoins s.cyc else s) s2

/-! ### A turn of a core -/

/-- R335: cycles pass; a record that was staged before them is queued in the first. -/
def State.passes (s : State) (n : Nat) : State :=
  if n = 0 ∨ s.mgmt.state = 3#8 then s.elapse n
  else
    let s1 := s.elapse 1
    ((s1.cores.map Core.num).foldl (fun (s : State) c => s.arriveHere c 32) s1).elapse (n - 1)

/-- R282, R215, R388: what an issue leaves: LastCompute, the cycle of the issue, the slots that a yield lets go first. -/
def State.issued (s : State) (c : CoreNo) (slot : SlotNo) (n : ThreadNo) : State :=
  let k := s.core c
  let gone := (k.yields.map fun y => (y.1, y.2 &&& ~~~(1#16 <<< slot.toNat))).filter fun y => y.2 != 0 || y.1 == slot
  (s.setCore { k with
    lastCompute := slot, lastTurn := some s.cyc, yields := gone
    slotIssue := (slot, s.cyc) :: k.slotIssue.filter fun i => i.1 != slot }).modThread n fun t => t.event 0 1

/-- The thread's bundle has not issued. -/
def State.notIssued (s : State) (n : ThreadNo) : Bool := s.mark == .parked && !((s.thread? n).any fun t => t.inHand.isSome)

/-- Tries ready slots in order until one issues; the answer tells whether one did. -/
def trySlots (c : CoreNo) : List SlotNo → State → Out1 × Bool
  | [], s => (.next s, false)
  | n :: r, s =>
    match s.occupant c n with
    | none => trySlots c r s
    | some t =>
      match issueThread s t.num with
      | .next s1 => if s1.notIssued t.num then trySlots c r s1 else (.next (s1.issued c n t.num), true)
      | x => (x, true)

/-- The least of some numbers. -/
def leastOf (l : List Nat) (dflt : Nat) : Nat := match l with
  | [] => dflt
  | a :: r => r.foldl min a

/-- R282: cycles until something of a core can issue; none: nothing of it can. -/
def State.untilIssue (s : State) (c : CoreNo) : Option Nat :=
  let l := (s.candidates c).map s.untilReady ++ (if s.forages c then [0] else [])
  if l.isEmpty then none else some (max (leastOf l 0) (s.untilTurn (s.core c)))

/-- R282: a core takes a turn, in the first cycle in which something of it can issue: the forager slot, if it has rested;
else the first ready compute slot whose bundle issues; else the forager slot. Tells whether anything issued. A halted
part issues nothing (R392). -/
def turn (s : State) (c : CoreNo) : Out1 × Bool :=
  if s.mgmt.state = 3#8 then (.next s, false)
  else
    let s0 := s.settle
    match s0.untilIssue c with
    | none => (.next s0, false)
    | some w =>
      let s1 := (s0.passes w).letGo c
      if s1.forages c && s1.foragerRested c then (execForagerAccept c s1, true)
      else
        let r := trySlots c (s1.readySlots c) s1
        if r.2 then r
        else match r.1 with
          | .next s2 => if s2.forages c then (execForagerAccept c s2, true) else (.next s2, false)
          | _ => r

/-- The core whose turn it is when nothing is on the agenda: the next one in ascending order, after the core of the
thread in hand, of which something can issue. -/
def State.nextCore (s : State) : Option CoreNo :=
  let cs := ((s.threads.filter fun t => s.runnable t).map Thread.core ++ (s.cores.map Core.num).filter s.forages).dedup
  let d (c : CoreNo) : Nat := (c - s.cur.core - 1).toNat
  cs.foldl (fun (b : Option CoreNo) c => match b with
    | none => some c
    | some x => if d c < d x then some c else some x) none

/-! ### Steps that the part takes by itself -/

/-- Cores about which something can happen. -/
def State.activeCores (s : State) : List CoreNo :=
  (s.cores.map Core.num ++ s.threads.map Thread.core ++ s.spawns.map Prod.fst ++ s.launches.map Prod.fst ++
    s.quits.map QuitNote.dest ++ s.dones.filterMap Done.dest).dedup

/-- Steps of a thread. -/
def threadEvents (t : Thread) : List (State → Out1) :=
  let n := t.num
  [execDeferralExpiry n, execPlainAccessComplete n, execRelaxedLoadReturn n, execRelaxedStorePerformed n, execSpawnAnswer n,
   execWchgWake n, execNapWake n, execVectorBeat n, execVectorCommandComplete n, execPendingReportPost n, execThreadUnwind n, execGraceExpiry n, execAbandonBudgetExpiry n,
   execThreadKill n, execMigrationDeparture n, execMigrationArrival n]

/-- Steps of a comb. -/
def combEvents (k : Comb) : List (State → Out1) :=
  [execLeaseGrant k.num, execTileOperationStart k.num, execTileOperationComplete k.num, execAudit k.num] ++
    (k.grants.filter fun g => 64 ≤ g.entered).map fun g => execLeaseExpiry k.num g.thread

/-- Steps of a core. -/
def coreEvents (s : State) (c : CoreNo) : List (State → Out1) :=
  let k := s.core c
  [execNormaliserServiceEnd c, execCopyComplete c, execMessageDelivery c, execKeyedRecordArrival c, execNack c, execMessageRetry c, execBroodDecision c,
   execSpawnRequest c, execLaunchRequest c, execQuitNotice c, execDoneMessage c, execSlotHandover c] ++
  ((List.range 16).map (BitVec.ofNat 4)).flatMap (fun n =>
    [execPreemptSave c n, execThermalDisplacement c n, execSlotFill c n]) ++
  (if s.isShared c && (3000000 ≤ (s.cyc - k.sliceStart).toNat || (k.sliceVd.isNone && (s.pickVd c).isSome))
    then [execSliceEnd c] else []) ++
  (if k.stages.isEmpty then [] else [execIdleRetirement c])

/-- Steps of a VD. -/
def vdEvents (s : State) (v : Vd) : List (State → Out1) :=
  (execDispatch v.num :: v.queues.map fun q => execGraphReplay v.num q.num) ++ (v.active.map fun a => execCompletionRecord v.num a.pkt) ++
    ((v.pend.find? PageReq.mapped).toList.map fun p => execRewalk v.num p.ipa) ++
    (if v.boost && 2 * sliceLength ≤ (s.cyc - v.woke).toNat then [execBoostEnd v.num] else [])

/-- The granules that the scrubber is due to read (R307). -/
def State.scrubs (s : State) : List Nat := s.damage.filterMap fun d =>
  if (s.cyc - d.scrubbed).toNat < scrubPass then none
  else match d.spot with
    | .mem g | .slice g => some g
    | _ => none

/-- What the part may do by itself, in a fixed order. One that is halted does nothing but end its reset (R392). -/
def State.ownEvents (s : State) : List (State → Out1) :=
  if s.mgmt.state = 3#8 then [execResetComplete] else
  (s.reqs.map fun q => execBankPortService q.home) ++ (s.fills.map fun f => execSliceFill f.1 f.2) ++
  (s.threads.flatMap threadEvents) ++ (s.combs.flatMap combEvents) ++ (s.activeCores.flatMap (coreEvents s)) ++
  (s.vds.flatMap (vdEvents s)) ++ ((s.walks.filter s.mayWalk).map fun w => execTranslationWalk w.thread w.va w.kind) ++
  (s.scrubs.map execScrub) ++
  (if 100 * sliceLength ≤ (s.cyc - s.period).toNat then [execBudgetRenewal] else []) ++
  ((s.domains.filter fun d => d.life == .dying).map fun d => execDomainTeardown d.num) ++
  [execResetComplete, execBoot, execCollectionWindowEnd, execHeartbeatTimeout, execSuccessorWindowEnd,
    fun s => .next s.transportTry, execDeliveryTimeout] ++ (s.threads.map fun t => execWchgPoll t.num)

/-- The first of them that changes anything: the state after it. -/
def State.ownStep (s : State) : Option State :=
  s.ownEvents.findSome? fun f => match f s with
    | .next t => if t = s then none else some t
    | _ => none

/-! ### A step -/

/-- With nothing on the agenda, a core takes its turn; where nothing issues, a cycle passes. -/
def issueStep (s : State) : Out1 :=
  let s0 := ({ s with evTurn := true } : State).settle
  match s0.nextCore with
  | none => .next (s0.passes 1)
  | some c =>
    let r := turn s0 c
    if r.2 then r.1
    else match r.1 with
      | .next t => .next (t.settle.passes 1)
      | x => x

/-- What still happens in a part that is halted (R392): requests of resets and their ends, accesses of hosts to the management region,
samples and periods of the sensors, the transport's timeouts. -/
def Instr.whileHalted : Instr → Bool
  | .slotReset _ _ | .coreReset _ | .combReset _ | .hiveReset _ | .vdReset _ | .firmwareColumnReset | .warmReset | .coldReset
  | .resetComplete | .managementWrite _ _ _ | .gtoffWrite _ _ _ | .plimWrite _ _ | .feataccWrite _ _ _ _ | .powerPeriod _
  | .thermalRecord _ _ | .thermalTrip _ | .thermalSample _ _ | .deliveryTimeout => true
  | _ => false

/-- An item of the agenda. -/
def runItem (s : State) : Item → Out1
  | .pass n => .next (s.settle.passes n)
  | .turn c => (turn s c).1
  | .event i => if s.mgmt.state == 3#8 && !Instr.whileHalted i then .next s else exec i s

/-- A step of the machine (log entry 3): the first item of the agenda; with none, a step that the part takes by itself
and the issue of a bundle by turns. -/
def stepState (s : State) : Out1 :=
  match s.agenda with
  | i :: r => runItem { s with agenda := r } i
  | [] =>
    if s.evTurn then
      match ({ s with evTurn := false } : State).ownStep with
      | some t => .next t
      | none => issueStep s
    else issueStep s

/-! ### Placing an instruction -/

/-- Physical addresses of the stage-1 tables and of the instruction that `placeWord` writes. -/
def placeTables : Nat := 0x10000
def placeCode : Nat := 0x20000

/-- Puts a word where the next step fetches: a thread of domain 0 on a core of the firmware column, with stage-1 tables
that map the first page of the image window (log entry 28). -/
def State.placeWord (s : State) (w : BitVec 32) : State :=
  let c : CoreNo := 345
  let t : Thread := { num := s.nextThread, place := .slot c 0, pc := BitVec.ofNat 64 imageBase, lcore := c }
  let rest := (s.cur :: s.others).filter fun u => u.place != .gone && u.place != .slot c 0
  let s1 : State := { s with
    cur := t, others := rest, nextThread := s.nextThread + 1, agenda := [.turn c], evTurn := false
    fleet := { s.fleet with updst := if s.fleet.updst = 3 then 0 else s.fleet.updst }
    mgmt := { s.mgmt with colw := if s.mgmt.colw = 0 then 1 else s.mgmt.colw, state := if s.mgmt.state = 3 then 1 else s.mgmt.state } }
  let s2 := s1.setDomain { s1.domain 0 with life := .live, vd := 0, s1root := BitVec.ofNat 64 placeTables }
  let s3 := s2.setVd { s2.vd 0 with st := 1 }
  let k := s3.core c
  let s4 := s3.setCore { k with disabled := 0, yields := [], fifo := [], engine := none, lastTurn := none, slotIssue := [] }
  let entry (a : Nat) (e : Nat) (s : State) : State := s.physWrite a (wordBytes (BitVec.ofNat 64 e) 8)
  let s5 := entry placeTables (placeTables + 0x1000 + 1) s4
  let s6 := entry (placeTables + 0x1000 + 8 * 64) (placeTables + 0x2000 + 1) s5
  let s7 := entry (placeTables + 0x2000) (placeTables + 0x3000 + 1) s6
  let s8 := entry (placeTables + 0x3000) (placeCode + 0x17) s7
  let s9 := s8.physWrite placeCode (wordBytes (frameWord w) 8)
  let m := s9.comb (combOf c)
  ({ s9 with damage := [] } : State).setComb { m with tlb := m.tlb.filter fun e => e.dom != 0 }

end Sys2Proof.Machine
end

