-- ==== Sys2Proof/Safety.lean ====
section
/-! DEFINITION. The words in which claims are made: what counts as a safe run, when an operand can be read, a result can
be written and an access is granted, and how a word ends. -/

namespace Sys2Proof.Safety

open Sys2Proof.Machine

/-! ### Runs -/

/-- A state that some steps lead to from another. -/
inductive Reaches : State → State → Prop where
  | here (s : State) : Reaches s s
  | step (s t u : State) (h : Reaches s t) (e : Machine.step t = .next u) : Reaches s u

/-- No step from a state stops the machine. -/
def Runs (s : State) : Prop := ∀ t, Reaches s t → ∃ u, Machine.step t = .next u

/-- The memory is in its canonical form. -/
def MemoryOk (s : State) : Prop := Memory.wf s.mem = true

/-! ### Operands and results

Each says that an operation of the model goes through, whatever the word then does with its answer. -/

/-- The guard of a word is 1 (R43). -/
def GuardOn (s : State) (g : KReg) : Prop := s.rd.pred g = true

/-- Reading x(r) gives `v` with taint `t`, and leaves `s1`: a register as it stands, or the head of a port (R24). -/
def ReadsAs (s : State) (r : XReg) (v : Word) (t : Bool) (s1 : State) : Prop := ∀ k, useX s r k = k v t s1

/-- Reading x(a) and then x(b), with the taint of both. -/
def ReadsTwo (s : State) (a b : XReg) (x y : Word) (t : Bool) (s2 : State) : Prop :=
  ∃ ta tb s1, ReadsAs s a x ta s1 ∧ ReadsAs s1 b y tb s2 ∧ t = (ta || tb)

/-- Reading x(r) to x(r + n - 1). -/
def ReadsRun (s : State) (r n : Nat) (vs : List Word) (s1 : State) : Prop := ∀ k, useRun s r n k = k vs s1

/-- x(d) can be written with `v`, which leaves `s1` before the write: a register that is not pending, or a port with room
(R24, R105). -/
def Takes (s : State) (d : XReg) (v : Word) (s1 : State) : Prop := ∀ k, destX s d v k = k s1

/-- A run of registers can be written with some values. -/
def TakesRun (s : State) (d : Nat) (vs : List Word) (s1 : State) : Prop := ∀ k, destRun s d vs k = k s1

/-- No source is bound for pushing and no destination for popping (R24). -/
def PortsFit (s : State) (srcs dsts : List XReg) : Prop :=
  (∀ a ∈ srcs, ∀ p, s.rd.port? a = some p → p.push = false) ∧ (∀ d ∈ dsts, ∀ p, s.rd.port? d = some p → p.push = true)

/-- A plain access passes its checks (R99) and nothing stands ahead of it at its homes (R284, R327): the physical addresses
of its bytes, and the state after the checks. -/
def Grants (s : State) (kind : Acc1) (va : Word) (n : Nat) (ps : List Nat) (s1 : State) : Prop :=
  ∀ k, access s kind va n k = k ps s1

/-- A relaxed access passes its checks (R99, R106). -/
def GrantsRelaxed (s : State) (kind : Acc1) (va : Word) (n : Nat) (ps : List Nat) (s1 : State) : Prop :=
  ∀ k, accessRelaxed s kind va n k = k ps s1

/-- The requests of a relaxed access are queued behind those of another state (R105): one, or two where the access crosses a
64-byte boundary and is not aligned (R100); together they name its bytes. -/
def Sends (s u : State) (va : Word) (ps : List Nat) (d : XReg) (kind : ReqKind) : Prop :=
  ∃ qs, u.reqs = s.reqs ++ qs ∧ qs ≠ [] ∧ qs.flatMap Req.phys = ps ∧
    (va.toNat / 64 = (va.toNat + ps.length - 1) / 64 → qs.length = 1) ∧
    ∀ q ∈ qs, q.thread = s.cur.num ∧ q.core = s.cur.core ∧ q.dom = s.cur.dom ∧ q.kind = kind ∧ q.dest = d ∧ q.whole = ps ∧
      q.num = s.stamp

/-- The word retires from `t` and the next bundle follows. -/
def Retires (i : Instr) (s t : State) : Prop := exec i s = .next (t.retire none)

/-- The word writes `v` with taint `t` to x(d), wherever x(d) can take it, and retires. -/
def Gives (i : Instr) (s s2 : State) (d : XReg) (v : Word) (t : Bool) : Prop :=
  ∀ s3, Takes s2 d v s3 → Retires i s (s3.setX d v t)

/-- The word writes a predicate and retires. -/
def GivesK (i : Instr) (s s2 : State) (k : KReg) (b : Bool) : Prop :=
  Retires i s { s2 with cur := s2.cur.setPred k b }

/-- A scalar F32 word writes its value, sets its flags and retires (R93); one that needs the normaliser leaves its slot
waiting in the core's normaliser (R98). -/
def GivesF (i : Instr) (s s2 : State) (d : XReg) (r : FResult) (t : Bool) : Prop :=
  ∀ s3, Takes s2 d r.value s3 →
    let u := (s3.setX d r.value t).raise r.flags
    ∃ w, Retires i s w ∧ w.cur.x = u.cur.x ∧ w.cur.taint = u.cur.taint ∧ w.cur.st = u.cur.st ∧ w.mem = u.mem ∧
      (r.turns = 0 → w = u) ∧
      (r.turns ≠ 0 → w.cur.norm = true ∧ (w.core u.cur.core).norm = (u.core u.cur.core).norm ++ [u.cur.num])

/-- No register of x8 to x13 is bound as a port, and none is pending. -/
def Unbound (t : Thread) : Prop := (∀ r, t.port? r = none) ∧ t.pend = 0

/-- Lane `i` of a word, of `w` bits. -/
def lane (w i : Nat) (v : Word) : BitVec w := v.extractLsb' (w * i) w

/-- The address of a CM word (R47): x(a) or the context base with a scaled index, and a scaled signed offset. -/
def formedAddress (cb x : Word) (size : Nat) (bsel : BitVec 1) (off : BitVec 10) : Word :=
  let o : Word := BitVec.ofInt 64 (off.toInt * size)
  if bsel = 1#1 then (cb.extractLsb' 6 58 ++ 0#6) + x * BitVec.ofNat 64 size + o else x + o

/-- The loads: constructor, bytes, whether the value is sign-extended, whether it is `ldc` (R102). -/
def loadForms : List ((KReg → XReg → XReg → BitVec 1 → BitVec 1 → BitVec 1 → BitVec 10 → Instr) × Nat × Bool × Bool) :=
  [(.ldI8, 1, true, false), (.ldN8, 1, false, false), (.ldI16, 2, true, false), (.ldN16, 2, false, false),
   (.ldI32, 4, true, false), (.ldN32, 4, false, false), (.ldI64, 8, false, false), (.ldc, 8, false, true)]

/-- The stores: constructor and bytes (R102). -/
def storeForms : List ((KReg → XReg → XReg → BitVec 1 → BitVec 1 → BitVec 1 → BitVec 10 → Instr) × Nat) :=
  [(.st8, 1), (.st16, 2), (.st32, 4), (.st64, 8)]

/-- The operands of an atomic: its address, x(b), and x(d), which only `cas` reads (R109). -/
def ReadsAtomic (s : State) (d a b : XReg) (op : BitVec 4) (va v e : Word) (s1 : State) : Prop :=
  ∀ k, useAtomic s d a b op k = k va v e s1

/-- A matrix word passes the first steps of its issue under a grant (R167). -/
def TileMay (s : State) (wordOk fused : Bool) (n : BitVec 4) (gr : Grant) : Prop := ∀ k, tileIssue s wordOk fused n k = k gr

/-- A tensor descriptor is read (R167). -/
def Describes (s : State) (va : Word) (ws : List Word) (s1 : State) : Prop := ∀ k, readDescriptor s va k = k ws s1

/-- A handle names an entry of the current domain's table, read from memory (R311). -/
def FindsEntry (s : State) (h : Word) (kind : Nat) (e : HEntry) (s1 : State) : Prop := ∀ k, useEntry s h kind k = k e s1

/-- A gate descriptor is read (R208, R313). -/
def FindsGate (s : State) (a : Nat) (g : GateDesc) (s1 : State) : Prop := ∀ k, useGate s a k = k g s1

/-- The part can write the records of a call: the caller's frame, its top entry and the header of its hardware page (R208,
R32, R358). -/
def CallRecords (s : State) (b : Block) (page : Nat) : Prop :=
  s.recBad (physRange (b.caller s.cur.depth.toNat) 1536) true = false ∧ s.recBad (physRange page 16) true = false ∧
  (s.cur.top.isSome → s.recBad (physRange (pageEntry page s.cur.depth.toNat) 64) true = false)

/-- The part can write what a thread leaves behind when it gives its slot up: the header of its hardware page, and its top entry
there (R32, R358). -/
def ShelvesTop (s : State) (t : Thread) : Prop := (writeHwPage s t).1 = false ∧ (t.depth ≠ 0 → t.hwPage.isSome)

/-- The part can use the record of its modes and the shadow registers that a thread writes when it leaves for another core, and
reads when it lands (R286, R288, R358). -/
def TravelRecord (s : State) (b : Block) (write : Bool) : Prop :=
  s.recBad (physRange b.running 0x40) write = false ∧ s.recBad (physRange (b.running + 0xC0) 0x80) write = false

/-- A request is a whole access: no part of its access stands elsewhere (R100). -/
def WholeRequest (s : State) (q : Req) : Prop :=
  q.whole = q.phys ∧ q.off = 0 ∧ q.got = [] ∧ q.bad = false ∧ q.fixed = 0 ∧
  ∀ r ∈ s.reqs.erase q, ¬(r.num = q.num ∧ r.thread = q.thread)

/-- A request has been performed in memory and its answer is on the way (R102, R105, R109). -/
def Answered (s u : State) (q : Req) : Prop :=
  ∃ r : Ret, u.reqs = s.reqs.erase q ∧ u.rets = s.rets ++ [r] ∧ r.thread = q.thread ∧ r.phys = q.phys ∧
    (∀ sg k, q.kind = .load sg k → r.isLoad = true ∧ u.mem = s.mem ∧
      r.write = some (q.dest, extendLoad sg k (leWord (q.phys.map (memGet s.mem))), false)) ∧
    (q.kind = .ldc → r.isLoad = true ∧ u.mem = s.mem ∧
      r.write = some (q.dest, leWord (q.phys.map (memGet s.mem)), true)) ∧
    (∀ k v, q.kind = .store k v → r.isLoad = false ∧ r.write = none ∧ (∀ p, p ∉ q.phys → memGet u.mem p = memGet s.mem p) ∧
      (q.phys.Nodup → q.phys.length = k → k ≤ 8 → ∀ i < k, memGet u.mem (q.phys.getD i 0) = lane 8 i v)) ∧
    (∀ op k v e, q.kind = .atomic op k v e → let old := leWord (q.phys.map (memGet s.mem))
      r.isLoad = false ∧ r.write = some (q.dest, old, false) ∧
      u.mem = match amoNew op q.phys.length old v e with
        | none => s.mem
        | some x => memSetAll s.mem (q.phys.zip (wordBytes x q.phys.length)))

/-- The slots that an operation names are free or the thread's own active ones (R163). -/
def SlotsPass (s : State) (subs : List (BitVec 2)) (ns : List (BitVec 4)) : Prop := ∀ r, checkSlots s subs ns r = r

/-- A tile operation has entered the queue of the thread's comb, and TLO has risen (R167, R168). -/
def Queued (s u : State) (o : TileOp) : Prop :=
  (u.comb (combOf s.cur.core)).queue = (s.comb (combOf s.cur.core)).queue ++ [o] ∧ u.cur.tlo = s.cur.tlo + 1 ∧
  o.thread = s.cur.num ∧ o.dom = s.cur.dom

/-! ### Exact values -/

/-- The value of a finite number. -/
def valueOf : Machine.Num → ℚ
  | .fin b n d => (if b then -1 else 1) * ((n : ℚ) / d)
  | _ => 0

/-- A finite number, well formed. -/
def isFinite (x : Machine.Num) : Prop := ∃ b n d, x = .fin b n d ∧ 0 < d

/-- The value of a finite encoding, without its sign (R222): exponent field `e`, mantissa field `m`. -/
def magnitude (f : Fmt) (mag : Nat) : ℚ :=
  let e := mag / 2 ^ f.m
  let m : ℚ := (mag % 2 ^ f.m : Nat) / 2 ^ f.m
  if e = 0 then 2 ^ (1 - f.bias : ℤ) * m else 2 ^ (e - f.bias : ℤ) * (1 + m)

/-- The value of a finite encoding (R222). -/
def encodedValue (f : Fmt) (bits : Nat) : ℚ :=
  (if bits / 2 ^ (f.e + f.m) % 2 = 1 then -1 else 1) * magnitude f (bits % 2 ^ (f.e + f.m))

/-- Whether a magnitude `x` strictly between two neighbours goes to the upper one (R225, R138): under RNE to the nearer one, a tie to
the one that is even; under stochastic rounding where the fraction's 32 bits and the random word carry. -/
def goesUp (m : Mode) (neg : Bool) (x lo hi : ℚ) (loEven : Bool) (rand : Nat) : Prop :=
  match m with
  | .rne => lo + hi < 2 * x ∨ (lo + hi = 2 * x ∧ loEven = false)
  | .rz => False
  | .ru => neg = false
  | .rd => neg = true
  | .stoch => 2 ^ 32 ≤ ⌊2 ^ 32 * ((x - lo) / (hi - lo))⌋ + rand

/-- Where a magnitude that is too large goes (R94, R137): to infinity under RNE, and under RU or RD in the direction of the
overflow; else to the largest finite value. -/
def overflowMag (f : Fmt) (m : Mode) (neg : Bool) : Nat :=
  if m = .rne ∨ (m = .ru ∧ neg = false) ∨ (m = .rd ∧ neg = true) then f.inf else f.maxFinite

/-- `x` rounded to F32 by RNE once is `w`, where `x` is the exact value of some finite number. -/
def RoundsTo (v : ℚ) (w : Word32) : Prop :=
  ∃ x : Machine.Num, isFinite x ∧ valueOf x = v ∧ w = BitVec.ofNat 32 (roundNum .f32 .rne 0 false x).1

/-! ### Beats -/

/-- A vector command that has not begun, none of whose registers is bound, may take its beat. -/
def BeatReady (s : State) (n : ThreadNo) (t : Thread) (c : VCmd) : Prop :=
  s.thread? n = some t ∧ t.vcmd = some c ∧ c.started = false ∧ c.finished = false ∧ c.waits = [] ∧ c.done = 0 ∧ c.elems = [] ∧
  c.todo = BitVec.allOnes 32 ∧ (s.reqs.any fun q => q.thread == n) = false ∧ ∀ r, (t.stream r).bound = false

/-- Lane `j` of a register as a command reads it. -/
def laneAt (c : VCmd) (t : Thread) (r : VReg) (j : Nat) : Word32 := (c.lanes t r).toList.getD j 0

/-- The beat ends its command, and each lane of `v` is as `f` has it; nothing else of the thread's registers and memory changes. -/
def BeatGives (s : State) (n : ThreadNo) (t : Thread) (v : VReg) (f : Nat → Word32 → Prop) : Prop :=
  ∃ u w d, exec (.vectorBeat n) s = .next u ∧ u.mem = s.mem ∧ u.thread? n = some w ∧ w.x = t.x ∧ w.st = t.st ∧
    w.vcmd = some d ∧ d.finished = true ∧ (∀ r, r ≠ v → w.lanes r = t.lanes r) ∧ ∀ j (h : j < 32), f j ((w.lanes v)[j])

/-- The integer types of lanes: code, width, whether signed (R54). -/
def intTypes : List (BitVec 4 × Nat × Bool) := [(0, 8, true), (1, 8, false), (2, 16, true), (3, 16, false), (4, 32, true), (5, 32, false)]

/-- The element of a stream at number `e` (R130). -/
def elementAt (ws : List Word) (e : Nat) : Word :=
  let n (lo : Nat) : Nat := ((ws.getD 1 0).extractLsb' lo 32).toNat
  ws.getD 0 0 + BitVec.ofNat 64 (e % n 0) * ws.getD 3 0 + BitVec.ofNat 64 (e / n 0 % n 32) * ws.getD 4 0 +
    BitVec.ofNat 64 (e / n 0 / n 32) * ws.getD 5 0

/-- An element's bytes, extended to a lane by its type (R128). -/
def elementLane (y : BitVec 4) (e : Word) : Word32 :=
  if y = 0#4 then (e.setWidth 8).signExtend 32 else if y = 2#4 then (e.setWidth 16).signExtend 32 else e.setWidth 32

/-- A command that has begun, with one register bound to a stream, whose descriptor it has read: the next `cnt` elements pass their
checks, and nothing stands ahead of them. -/
def StreamBeat (s : State) (n : ThreadNo) (t : Thread) (c : VCmd) (r : VReg) (push : Bool) (ws : List Word) (cnt : Nat)
    (at_ : Nat → List Nat) : Prop :=
  s.thread? n = some t ∧ t.vcmd = some c ∧ c.started = true ∧ c.finished = false ∧ c.waits = [] ∧ c.descs = [(r, ws)] ∧
  s.damage = [] ∧ s.pushed = [] ∧ cnt = min 32 (c.len - c.done) ∧
  (∀ q, (t.stream q).bound = (q == r)) ∧ (t.stream r).push = push ∧
  (∀ j < cnt, elementCheck s t c.dom (if push then .write else .read) (elementAt ws ((t.stream r).pos.toNat + j))
    (typeWidth ((ws.getD 2 0).extractLsb' 32 4) / 8) = .ok (at_ j) ∧
    (at_ j).length = typeWidth ((ws.getD 2 0).extractLsb' 32 4) / 8) ∧
  s.engineBehind t.core ((List.range cnt).flatMap at_) = false

/-! ### Ends of operations -/

/-- A tile operation has left its queue and TLO has fallen (R164, R168); memory, slices and slots are those of `s1`. -/
def TileEnds (s1 u : State) (c : CombNo) (o : TileOp) : Prop :=
  u.mem = s1.mem ∧ (u.comb c).slices = (s1.comb c).slices ∧
  (u.comb c).queue = (s1.comb c).queue.filter (fun p => p.num != o.num) ∧
  ∀ t, s1.thread? o.thread = some t → t.place ≠ .gone → (s1.comb c).parking.contains o.thread = false →
    (u.comb c).accs = (s1.comb c).accs ∧ (o.counted = true → ∃ w, u.thread? o.thread = some w ∧ w.tlo = t.tlo - 1 ∧ w.x = t.x)

/-- The row of A, of all of its batches, that meets an output of the sub-array at place `k`, in row `i` (R150). -/
def rowAt (shape : BitVec 3) (k i : Nat) : Nat :=
  if shape = 2#3 then 16 * (k / 2) + i else if shape = 3#3 ∨ shape = 4#3 then 16 * k + i else i

/-- The copy words: constructor and operation (R178). -/
def copyForms : List ((KReg → XReg → XReg → XReg → BitVec 1 → BitVec 1 → BitVec 1 → Instr) × BitVec 3) :=
  [(.xcopy, 0), (.xcopyv, 1), (.xgather, 2), (.xscatter, 3), (.xfill, 4), (.xdeal, 5)]

/-- The 64-bit words of some bytes, the first lowest. -/
def dwords (bs : List Byte) : List Word := (cut 8 64 bs).map leWord

/-- The vector words with no x operand and a command with beats (R133). -/
def vectorPlain : Instr → Bool
  | .vadd _ _ _ _ | .vrcp _ _ | .vcmp _ _ _ _ _ | .vsub _ _ _ _ | .vabs _ _ _ | .vcvtFromF32 _ _ _ _ _ | .vrsq _ _
  | .vneg _ _ _ | .vmul _ _ _ _ | .vand _ _ _ | .vcvtToF32 _ _ _ _ _ | .vfma _ _ _ _ | .vor _ _ _ | .vmin _ _ _ _
  | .vxor _ _ _ | .vmax _ _ _ _ | .vsel _ _ _ | .vshl _ _ _ _ | .vredSum _ _ _ | .vshr _ _ _ _ | .vredMax _ _ _
  | .vsar _ _ _ _ | .vredMin _ _ _ | .vperm _ _ _ | .vpack _ _ _ | .vunpack _ _ _ => true
  | _ => false

/-- Every vector word (R126). -/
def vectorWord : Instr → Bool
  | .vex2 _ _ _ _ | .vbcast _ _ _ | .vget _ _ _ _ | .vgath _ _ _ _ _ | .vscat _ _ _ _ _ | .vbindPop _ _ | .vbindPush _ _
  | .vunbind _ | .vfence => true
  | i => vectorPlain i

/-- A command has been handed to the vector unit with the values of xs and xt and with the modes as the bundle found them,
and VLIVE is set (R126). Where it names bound registers, their descriptors are still to be read (R245). -/
def Handed (s u : State) (i : Instr) (xs xt : Word) : Prop :=
  u.cur.vbusy = true ∧ u.cur.vlive = true ∧
  u.cur.vcmd = some { instr := i, xs := xs, xt := xt, rm := s.rd.rm, fzs := s.rd.fzs, fzr := s.rd.fzr, dom := u.cur.dom,
                         unread := (vectorRoles s.rd.rm i).any fun o => !(o.bound u.cur).isEmpty,
                         old := if s.rd.v = s.cur.v then none else some s.rd.v }

/-- The guard of a word that has one (R43). -/
def guardOf : Instr → Option KReg
  | .hop g _ _ _ | .ldI8 g _ _ _ _ _ _ | .msend g _ _ _ | .ldN8 g _ _ _ _ _ _ | .mlease g _ _ _ | .wchg g _ _ _ _
  | .mzero g _ _ _ | .probe g _ _ _ _ | .sysrd g _ _ | .spawn g _ _ _ | .wait g _ _ _ _ | .spawnW g _ _ _ | .jx g _
  | .syswr g _ _ | .pbind g _ _ _ _ | .callx g _ | .ldI16 g _ _ _ _ _ _ | .nap g _ | .kstat g _ _ _ | .awin g _ _ _ _
  | .gcall g _ _ _ | .rdcyc g _ | .gstat g _ _ _ | .ldN16 g _ _ _ _ _ _ | .loop g _ _ | .add g _ _ _ | .sel g _ _ _ _
  | .mrecv g _ _ | .sub g _ _ _ | .mbload g _ _ | .mul g _ _ _ | .mdrain g _ _ _ _ _ _ _ | .mulhI g _ _ _ | .trap g _
  | .padd g _ _ _ _ | .mulhN g _ _ _ | .magr g _ _ | .ldI32 g _ _ _ _ _ _ | .psub g _ _ _ _ | .divI g _ _ _ | .ret g
  | .divN g _ _ _ | .mstat g _ _ | .tret g | .lea g _ _ _ _ _ | .remI g _ _ _ | .ldN32 g _ _ _ _ _ _ | .brk g _
  | .remN g _ _ _ | .paddsatI g _ _ _ _ | .addsatI g _ _ _ | .hcall g _ | .ldI64 g _ _ _ _ _ _ | .yield g
  | .addsatN g _ _ _ | .mreclaim g _ _ | .ldc g _ _ _ _ _ _ | .paddsatN g _ _ _ _ | .subsatI g _ _ _
  | .pminI g _ _ _ _ | .mfmt g _ _ | .st8 g _ _ _ _ _ _ | .subsatN g _ _ _ | .st16 g _ _ _ _ _ _ | .minI g _ _ _
  | .quit g | .kopen g _ _ | .maxI g _ _ _ | .kclose g _ _ | .fence g _ | .minN g _ _ _ | .mma g _ _ _ _ _
  | .maxN g _ _ _ | .waitm g | .and g _ _ _ | .mfree g | .or g _ _ _ | .st32 g _ _ _ _ _ _ | .pminN g _ _ _ _
  | .xor g _ _ _ | .pmaxI g _ _ _ _ | .st64 g _ _ _ _ _ _ | .kput g _ _ | .andn g _ _ _ | .abs g _ _
  | .amo g _ _ _ _ _ _ | .neg g _ _ | .punbind g _ | .rxAmo g _ _ _ _ _ _ | .pmaxN g _ _ _ _ | .xcopy g _ _ _ _ _ _
  | .orn g _ _ _ | .mov g _ _ | .shl g _ _ _ | .clz g _ _ | .pshl g _ _ _ _ | .kwait g | .pshr g _ _ _ _ | .kend g
  | .shr g _ _ _ | .mmas g _ _ _ _ _ | .xcopyv g _ _ _ _ _ _ | .sar g _ _ _ | .psar g _ _ _ _ | .ctz g _ _
  | .rot g _ _ _ | .xgather g _ _ _ _ _ _ | .fadd g _ _ _ | .pcmpEq g _ _ _ _ | .fsub g _ _ _
  | .xscatter g _ _ _ _ _ _ | .fmul g _ _ _ | .pcmpLtI g _ _ _ _ | .ffma g _ _ _ | .pcmpLtN g _ _ _ _ | .fmin g _ _ _
  | .extI g _ _ _ _ | .fmax g _ _ _ | .popc g _ _ | .xfill g _ _ _ _ _ _ | .bswap g _ _ | .extN g _ _ _ _
  | .fcvtF32I32 g _ _ _ | .fabs g _ _ | .ins g _ _ _ _ | .fneg g _ _ | .fcvtF32N32 g _ _ _ | .cmp g _ _ _ _
  | .fcvtI32F32 g _ _ _ | .pnot g _ _ | .fcvtN32F32 g _ _ _ | .pmov g _ _ | .fcvtF32B16 g _ _ _ | .gret g _
  | .fcvtB16F32 g _ _ _ | .xdeal g _ _ _ _ _ _ | .addi g _ _ _ | .fcmp g _ _ _ _ | .andi g _ _ _ | .psel g _ _ _ _
  | .ori g _ _ _ | .xori g _ _ _ | .shli g _ _ _ | .shri g _ _ _ | .sari g _ _ _ | .roti g _ _ _ | .movi g _ _ _
  | .movh g _ _ _ | .pand g _ _ _ | .por g _ _ _ | .pxor g _ _ _ | .cmpiEq g _ _ _ | .cmpiNe g _ _ _ | .cmpiLt g _ _ _
  | .cmpiLe g _ _ _ | .cmpiGt g _ _ _ | .cmpiGe g _ _ _ | .cmpiLtN g _ _ _ | .cmpiGeN g _ _ _ => some g
  | _ => none

/-- The destination of a word that does nothing but write one x register (04_control_integer.md, and `rdcyc`). -/
def registerDest : Instr → Option XReg
  | .sel _ d _ _ _ | .movi _ d _ _ | .padd _ d _ _ _ | .movh _ d _ _ | .abs _ d _ | .add _ d _ _ | .psub _ d _ _ _
  | .neg _ d _ | .paddsatI _ d _ _ _ | .sub _ d _ _ | .lea _ d _ _ _ _ | .paddsatN _ d _ _ _ | .mul _ d _ _
  | .pminI _ d _ _ _ | .mulhI _ d _ _ | .pminN _ d _ _ _ | .mov _ d _ | .mulhN _ d _ _ | .pmaxI _ d _ _ _
  | .divI _ d _ _ | .pmaxN _ d _ _ _ | .divN _ d _ _ | .pshl _ d _ _ _ | .remI _ d _ _ | .pshr _ d _ _ _
  | .remN _ d _ _ | .clz _ d _ | .addsatI _ d _ _ | .ctz _ d _ | .addsatN _ d _ _ | .popc _ d _ | .psar _ d _ _ _
  | .subsatI _ d _ _ | .pcmpEq _ d _ _ _ | .subsatN _ d _ _ | .pcmpLtI _ d _ _ _ | .minI _ d _ _ | .rdcyc _ d
  | .maxI _ d _ _ | .pcmpLtN _ d _ _ _ | .minN _ d _ _ | .extI _ d _ _ _ | .maxN _ d _ _ | .bswap _ d _ | .and _ d _ _
  | .fabs _ d _ | .or _ d _ _ | .fneg _ d _ | .xor _ d _ _ | .extN _ d _ _ _ | .andn _ d _ _ | .ins _ d _ _ _
  | .orn _ d _ _ | .shl _ d _ _ | .shr _ d _ _ | .sar _ d _ _ | .rot _ d _ _ | .addi _ d _ _ | .andi _ d _ _
  | .ori _ d _ _ | .xori _ d _ _ | .shli _ d _ _ | .shri _ d _ _ | .sari _ d _ _ | .roti _ d _ _ => some d
  | _ => none

/-- The destination of a scalar F32 word that rounds, compares or converts (R94, R96, R97): it may set sticky flags and may
be served by the normaliser. -/
def f32Dest : Instr → Option XReg
  | .fadd _ d _ _ | .fsub _ d _ _ | .fmul _ d _ _ | .ffma _ d _ _ | .fmin _ d _ _ | .fmax _ d _ _
  | .fcvtF32I32 _ d _ _ | .fcvtF32N32 _ d _ _ | .fcvtI32F32 _ d _ _ | .fcvtN32F32 _ d _ _ | .fcvtF32B16 _ d _ _
  | .fcvtB16F32 _ d _ _ => some d
  | _ => none

end Sys2Proof.Safety
end

