-- ==== Sys2Proof/Certificates/Slice0/Obligations.lean ====
section
/-! DEFINITION. What is claimed of the model, as propositions. -/

open Sys2Proof
open Sys2Proof.Machine
open Sys2Proof.Safety

/-! ### Integer words -/

/-- R80: the wrapping operations of the integer group, with their fn codes. -/
def Obligations.WrappingArithmetic : Prop :=
  (∀ (s s2 : State) (g : KReg) (d a b : XReg) (x y : Word) (t : Bool),
    GuardOn s g → PortsFit s [a, b] [d] → ReadsTwo s a b x y t s2 →
      Gives (.add g d a b) s s2 d (x + y) t ∧ Gives (.sub g d a b) s s2 d (x - y) t ∧
      Gives (.mul g d a b) s s2 d (x * y) t ∧
      Gives (.mulhI g d a b) s s2 d (BitVec.ofInt 64 (x.toInt * y.toInt / 2 ^ 64)) t ∧
      Gives (.mulhN g d a b) s s2 d (BitVec.ofNat 64 (x.toNat * y.toNat / 2 ^ 64)) t) ∧
  (∀ (s s1 : State) (g : KReg) (d a : XReg) (x : Word) (t : Bool) (i : BitVec 13),
    GuardOn s g → PortsFit s [a] [d] → ReadsAs s a x t s1 →
      Gives (.abs g d a) s s1 d (if 0 ≤ x.toInt then x else 0 - x) t ∧ Gives (.neg g d a) s s1 d (0 - x) t ∧
      Gives (.addi g d a i) s s1 d (x + i.signExtend 64) t) ∧
  (∀ (g : KReg) (d a b : XReg),
    [(.add g d a b : Instr), .sub g d a b, .mul g d a b, .mulhI g d a b, .mulhN g d a b].map (Instr.encode 1) =
      ([0x000, 0x001, 0x002, 0x003, 0x004] : List (BitVec 9)).map (fun f => some (0b11#2 ++ 0x00#6 ++ g ++ d ++ a ++ b ++ f)) ∧
    [(.abs g d a : Instr), .neg g d a].map (Instr.encode 1) =
      ([0x00D, 0x00E] : List (BitVec 9)).map (fun f => some (0b11#2 ++ 0x00#6 ++ g ++ d ++ a ++ 0#4 ++ f)))

/-- R81: division rounds toward zero; the fn codes; and no pair holds two words that write one register. -/
def Obligations.Division : Prop :=
  ∀ (s s2 : State) (g : KReg) (d a b : XReg) (n m : Word) (t : Bool),
    GuardOn s g → PortsFit s [a, b] [d] → ReadsTwo s a b n m t s2 →
      (m = 0 →
        Gives (.divI g d a b) s s2 d 0xFFFFFFFFFFFFFFFF t ∧ Gives (.divN g d a b) s s2 d 0xFFFFFFFFFFFFFFFF t ∧
        Gives (.remI g d a b) s s2 d n t ∧ Gives (.remN g d a b) s s2 d n t) ∧
      (m ≠ 0 →
        Gives (.divN g d a b) s s2 d (BitVec.ofNat 64 (n.toNat / m.toNat)) t ∧
        Gives (.remN g d a b) s s2 d (BitVec.ofNat 64 (n.toNat - n.toNat / m.toNat * m.toNat)) t) ∧
      (n = 0x8000000000000000 → m = 0xFFFFFFFFFFFFFFFF →
        Gives (.divI g d a b) s s2 d 0x8000000000000000 t ∧ Gives (.remI g d a b) s s2 d 0 t) ∧
      (m ≠ 0 → ¬(n = 0x8000000000000000 ∧ m = 0xFFFFFFFFFFFFFFFF) →
        Gives (.divI g d a b) s s2 d (BitVec.ofInt 64 (n.toInt.tdiv m.toInt)) t ∧
        Gives (.remI g d a b) s s2 d (BitVec.ofInt 64 (n.toInt - n.toInt.tdiv m.toInt * m.toInt)) t) ∧
      [(.divI g d a b : Instr), .divN g d a b, .remI g d a b, .remN g d a b].map (Instr.encode 1) =
        ([0x005, 0x006, 0x007, 0x008] : List (BitVec 9)).map (fun f => some (0b11#2 ++ 0x00#6 ++ g ++ d ++ a ++ b ++ f)) ∧
      pairConflict (.divI g d a b) (.remI g d a b) = true ∧ pairConflict (.divN g d a b) (.remN g d a b) = true

/-- R82: the saturating operations clamp the exact result once. R83: the smaller or larger of two registers. -/
def Obligations.SaturationAndLimits : Prop :=
  (∀ (s s2 : State) (g : KReg) (d a b : XReg) (x y : Word) (t : Bool),
     GuardOn s g → PortsFit s [a, b] [d] → ReadsTwo s a b x y t s2 →
       let signed (v : Int) : Word := BitVec.ofInt 64 (max (-2 ^ 63) (min (2 ^ 63 - 1) v))
       let natural (v : Int) : Word := BitVec.ofInt 64 (max 0 (min (2 ^ 64 - 1) v))
       Gives (.addsatI g d a b) s s2 d (signed (x.toInt + y.toInt)) t ∧
       Gives (.addsatN g d a b) s s2 d (natural (x.toNat + y.toNat)) t ∧
       Gives (.subsatI g d a b) s s2 d (signed (x.toInt - y.toInt)) t ∧
       Gives (.subsatN g d a b) s s2 d (natural ((x.toNat : Int) - y.toNat)) t ∧
       [(.addsatI g d a b : Instr), .addsatN g d a b, .subsatI g d a b, .subsatN g d a b].map (Instr.encode 1) =
         ([0x009, 0x00A, 0x00B, 0x00C] : List (BitVec 9)).map fun f => some (0b11#2 ++ 0x00#6 ++ g ++ d ++ a ++ b ++ f)) ∧
  (∀ (s s2 : State) (g : KReg) (d a b : XReg) (x y : Word) (t : Bool),
     GuardOn s g → PortsFit s [a, b] [d] → ReadsTwo s a b x y t s2 →
       (∃ v, Gives (.minI g d a b) s s2 d v t ∧ (v = x ∨ v = y) ∧ v.toInt = min x.toInt y.toInt) ∧
       (∃ v, Gives (.maxI g d a b) s s2 d v t ∧ (v = x ∨ v = y) ∧ v.toInt = max x.toInt y.toInt) ∧
       (∃ v, Gives (.minN g d a b) s s2 d v t ∧ (v = x ∨ v = y) ∧ v.toNat = min x.toNat y.toNat) ∧
       (∃ v, Gives (.maxN g d a b) s s2 d v t ∧ (v = x ∨ v = y) ∧ v.toNat = max x.toNat y.toNat) ∧
       [(.minI g d a b : Instr), .maxI g d a b, .minN g d a b, .maxN g d a b].map (Instr.encode 1) =
         ([0x00F, 0x010, 0x011, 0x012] : List (BitVec 9)).map fun f => some (0b11#2 ++ 0x00#6 ++ g ++ d ++ a ++ b ++ f))

/-- R84, R85: the logic group and `sel`. R86: shifts, by a register or by an immediate, whose bits [12:8] must be 0. -/
def Obligations.LogicAndShifts : Prop :=
  ((∀ (s s2 : State) (g p : KReg) (d a b : XReg) (x y : Word) (t : Bool),
     GuardOn s g → PortsFit s [a, b] [d] → ReadsTwo s a b x y t s2 →
       Gives (.and g d a b) s s2 d (x &&& y) t ∧ Gives (.or g d a b) s s2 d (x ||| y) t ∧
       Gives (.xor g d a b) s s2 d (x ^^^ y) t ∧ Gives (.andn g d a b) s s2 d (x &&& ~~~y) t ∧
       Gives (.orn g d a b) s s2 d (x ||| ~~~y) t ∧
       Gives (.sel g d a b p) s s2 d (if s.rd.pred p then x else y) t) ∧
   (∀ (s s1 : State) (g : KReg) (d a : XReg) (x : Word) (t : Bool) (i : BitVec 13),
     GuardOn s g → PortsFit s [a] [d] → ReadsAs s a x t s1 →
       Gives (.mov g d a) s s1 d x t ∧ Gives (.andi g d a i) s s1 d (x &&& i.signExtend 64) t ∧
       Gives (.ori g d a i) s s1 d (x ||| i.signExtend 64) t ∧ Gives (.xori g d a i) s s1 d (x ^^^ i.signExtend 64) t)) ∧
  ((∀ (s s2 : State) (g : KReg) (d a b : XReg) (x y : Word) (t : Bool),
     GuardOn s g → PortsFit s [a, b] [d] → ReadsTwo s a b x y t s2 →
       let n := y.toNat % 256
       Gives (.shl g d a b) s s2 d (if 64 ≤ n then 0 else x <<< n) t ∧
       Gives (.shr g d a b) s s2 d (if 64 ≤ n then 0 else x >>> n) t ∧
       Gives (.sar g d a b) s s2 d (x.sshiftRight (min n 63)) t ∧ Gives (.rot g d a b) s s2 d (x.rotateLeft (n % 64)) t) ∧
   (∀ (s s1 : State) (g : KReg) (d a : XReg) (x : Word) (t : Bool) (i : BitVec 8),
     GuardOn s g → PortsFit s [a] [d] → ReadsAs s a x t s1 →
       let n := i.toNat
       Gives (.shli g d a i) s s1 d (if 64 ≤ n then 0 else x <<< n) t ∧
       Gives (.shri g d a i) s s1 d (if 64 ≤ n then 0 else x >>> n) t ∧
       Gives (.sari g d a i) s s1 d (x.sshiftRight (min n 63)) t ∧ Gives (.roti g d a i) s s1 d (x.rotateLeft (n % 64)) t) ∧
   (∀ (s : State) (g p : KReg) (d a b : XReg) (i : BitVec 8),
     s.rd.pred 0 = true ∧
     (.sel g d a b p : Instr).encode 1 = some (0b11#2 ++ 0x01#6 ++ g ++ d ++ a ++ b ++ (0x008#9 + p.setWidth 9)) ∧
     [(.and g d a b : Instr), .or g d a b, .xor g d a b, .andn g d a b, .orn g d a b, .mov g d a].map (Instr.encode 1) =
       ([(b, 0x000), (b, 0x001), (b, 0x002), (b, 0x003), (b, 0x004), (0, 0x005)] : List (XReg × BitVec 9)).map (fun f =>
         some (0b11#2 ++ 0x01#6 ++ g ++ d ++ a ++ f.1 ++ f.2)) ∧
     [(.shl g d a b : Instr), .shr g d a b, .sar g d a b, .rot g d a b].map (Instr.encode 1) =
       ([0x000, 0x001, 0x002, 0x003] : List (BitVec 9)).map (fun f => some (0b11#2 ++ 0x02#6 ++ g ++ d ++ a ++ b ++ f)) ∧
     [(.shli g d a i : Instr), .shri g d a i, .sari g d a i, .roti g d a i].map (Instr.encode 1) =
       ([0x0C, 0x0D, 0x0E, 0x0F] : List (BitVec 6)).map (fun m => some (0b11#2 ++ m ++ g ++ d ++ a ++ 0#5 ++ i))) ∧
   (∀ w : Word32, w.extractLsb' 30 1 = 1#1 → w.extractLsb' 26 4 = 0b0011#4 → w.extractLsb' 8 5 ≠ 0#5 →
     ∃ e, decodeWord w = .error e))

/-- R87: counts of bits, and the bytes in reverse order. R88, R89, R90: bit fields, constants and addresses. -/
def Obligations.BitsFieldsConstants : Prop :=
  (∀ (s s1 : State) (g : KReg) (d a : XReg) (x : Word) (t : Bool),
     GuardOn s g → PortsFit s [a] [d] → ReadsAs s a x t s1 →
       (∃ n ≤ 64, Gives (.clz g d a) s s1 d (BitVec.ofNat 64 n) t ∧ (∀ i < n, x.getLsbD (63 - i) = false) ∧
         (n < 64 → x.getLsbD (63 - n) = true)) ∧
       (∃ n ≤ 64, Gives (.ctz g d a) s s1 d (BitVec.ofNat 64 n) t ∧ (∀ i < n, x.getLsbD i = false) ∧
         (n < 64 → x.getLsbD n = true)) ∧
       Gives (.popc g d a) s s1 d (BitVec.ofNat 64 ((List.range 64).countP fun i => x.getLsbD i)) t ∧
       (∃ v, Gives (.bswap g d a) s s1 d v t ∧ ∀ i < 8, lane 8 i v = lane 8 (7 - i) x) ∧
       [(.clz g d a : Instr), .ctz g d a, .popc g d a, .bswap g d a].map (Instr.encode 1) =
         ([0x004, 0x005, 0x006, 0x007] : List (BitVec 9)).map fun f => some (0b11#2 ++ 0x02#6 ++ g ++ d ++ a ++ 0#4 ++ f)) ∧
  ((∀ (s s1 : State) (g : KReg) (d a : XReg) (x : Word) (t : Bool) (q w : BitVec 6),
     GuardOn s g → PortsFit s [a] [d] → ReadsAs s a x t s1 → q.toNat + w.toNat < 64 →
       (∃ v, Gives (.extI g d a q w) s s1 d v t ∧
         ∀ j < 64, v.getLsbD j = x.getLsbD (q.toNat + min j w.toNat)) ∧
       (∃ v, Gives (.extN g d a q w) s s1 d v t ∧
         ∀ j < 64, v.getLsbD j = (decide (j ≤ w.toNat) && x.getLsbD (q.toNat + j)))) ∧
   (∀ (s s2 : State) (g : KReg) (d a : XReg) (x old : Word) (t : Bool) (q w : BitVec 6),
     GuardOn s g → PortsFit s [a, d] [d] → ReadsTwo s a d x old t s2 → q.toNat + w.toNat < 64 →
       ∃ v, Gives (.ins g d a q w) s s2 d v t ∧
         ∀ j < 64, v.getLsbD j =
           if q.toNat ≤ j ∧ j ≤ q.toNat + w.toNat then x.getLsbD (j - q.toNat) else old.getLsbD j) ∧
   (∀ (s : State) (g : KReg) (d : XReg) (i : BitVec 16), GuardOn s g →
       Gives (.movi g d 0 i) s s d (i.setWidth 64) false ∧ Gives (.movi g d 1 i) s s d (i.signExtend 64) false) ∧
   (∀ (s s1 : State) (g : KReg) (d : XReg) (x : Word) (t : Bool) (i : BitVec 16),
     GuardOn s g → PortsFit s [d] [d] → ReadsAs s d x t s1 →
       Gives (.movh g d 0 i) s s1 d (x.extractLsb' 0 48 ++ i) t ∧
       Gives (.movh g d 1 i) s s1 d (x.extractLsb' 32 32 ++ i ++ x.extractLsb' 0 16) t) ∧
   (∀ (s s1 : State) (g : KReg) (d a : XReg) (x : Word) (t : Bool) (c : BitVec 2) (f : BitVec 10),
     GuardOn s g → PortsFit s [a] [d] → ReadsAs s a x t s1 →
       let o : Word := BitVec.ofInt 64 (f.toInt * 2 ^ c.toNat)
       Gives (.lea g d a c 0 f) s s1 d (x + o) t ∧
       Gives (.lea g d a c 1 f) s s1 d ((s.rd.cb.extractLsb' 6 58 ++ 0#6) + x * BitVec.ofNat 64 (2 ^ c.toNat) + o) t))

/-- R92: each packed operation acts on every lane by itself. -/
def Obligations.PackedLanes : Prop :=
  ∀ (s s2 : State) (g : KReg) (d a b : XReg) (x y : Word) (t : Bool) (w : BitVec 1),
    GuardOn s g → PortsFit s [a, b] [d] → ReadsTwo s a b x y t s2 →
      let n := if w = 1#1 then 16 else 8
      let Lanes (i : Instr) (f : BitVec n → BitVec n → BitVec n) : Prop :=
        ∃ v, Gives i s s2 d v t ∧ ∀ j < 64 / n, lane n j v = f (lane n j x) (lane n j y)
      Lanes (.padd g d a b w) (fun p q => p + q) ∧ Lanes (.psub g d a b w) (fun p q => p - q) ∧
      Lanes (.paddsatI g d a b w) (fun p q =>
        BitVec.ofInt n (max (-2 ^ (n - 1)) (min (2 ^ (n - 1) - 1) (p.toInt + q.toInt)))) ∧
      Lanes (.paddsatN g d a b w) (fun p q => BitVec.ofNat n (min (2 ^ n - 1) (p.toNat + q.toNat))) ∧
      Lanes (.pminI g d a b w) (fun p q => if p.toInt ≤ q.toInt then p else q) ∧
      Lanes (.pminN g d a b w) (fun p q => if p.toNat ≤ q.toNat then p else q) ∧
      Lanes (.pmaxI g d a b w) (fun p q => if p.toInt ≤ q.toInt then q else p) ∧
      Lanes (.pmaxN g d a b w) (fun p q => if p.toNat ≤ q.toNat then q else p) ∧
      Lanes (.pshl g d a b w) (fun p q => if n ≤ q.toNat % 256 then 0 else p <<< (q.toNat % 256)) ∧
      Lanes (.pshr g d a b w) (fun p q => if n ≤ q.toNat % 256 then 0 else p >>> (q.toNat % 256)) ∧
      Lanes (.psar g d a b w) (fun p q => p.sshiftRight (min (q.toNat % 256) (n - 1))) ∧
      Lanes (.pcmpEq g d a b w) (fun p q => if p = q then BitVec.allOnes n else 0) ∧
      Lanes (.pcmpLtI g d a b w) (fun p q => if p.toInt < q.toInt then BitVec.allOnes n else 0) ∧
      Lanes (.pcmpLtN g d a b w) (fun p q => if p.toNat < q.toNat then BitVec.allOnes n else 0) ∧
      [(.padd g d a b w : Instr), .psub g d a b w, .paddsatI g d a b w, .paddsatN g d a b w, .pminI g d a b w, .pminN g d a b w,
        .pmaxI g d a b w, .pmaxN g d a b w, .pshl g d a b w, .pshr g d a b w, .psar g d a b w, .pcmpEq g d a b w, .pcmpLtI g d a b w,
        .pcmpLtN g d a b w].map (Instr.encode 1) =
        (List.range 14).map (fun f => some (0b11#2 ++ 0x03#6 ++ g ++ d ++ a ++ b ++ 0#3 ++ w ++ BitVec.ofNat 5 f))

/-! ### Compares and predicates -/

/-- R76: `cmp`, by its fn codes. R77, R78: `cmpi` and `fcmp`. A NaN makes every condition of `fcmp` but ne and un false; NV is
a signalling NaN for eq, ne and un and any NaN for lt and le. -/
def Obligations.Comparisons : Prop :=
  (∀ (s s2 : State) (g k : KReg) (a b : XReg) (x y : Word) (t : Bool),
     GuardOn s g → PortsFit s [a, b] [] → ReadsTwo s a b x y t s2 →
       GivesK (.cmp g k a b 0) s s2 k (decide (x = y)) ∧ GivesK (.cmp g k a b 1) s s2 k (decide (x ≠ y)) ∧
       GivesK (.cmp g k a b 2) s s2 k (decide (x.toInt < y.toInt)) ∧ GivesK (.cmp g k a b 3) s s2 k (decide (x.toInt ≤ y.toInt)) ∧
       GivesK (.cmp g k a b 4) s s2 k (decide (x.toInt > y.toInt)) ∧ GivesK (.cmp g k a b 5) s s2 k (decide (x.toInt ≥ y.toInt)) ∧
       GivesK (.cmp g k a b 6) s s2 k (decide (x.toNat < y.toNat)) ∧ GivesK (.cmp g k a b 7) s s2 k (decide (x.toNat ≤ y.toNat)) ∧
       GivesK (.cmp g k a b 8) s s2 k (decide (x.toNat > y.toNat)) ∧ GivesK (.cmp g k a b 9) s s2 k (decide (x.toNat ≥ y.toNat)) ∧
       GivesK (.cmp g k a b 10) s s2 k (decide (x &&& y ≠ 0)) ∧
       ∀ f : BitVec 10, (.cmp g k a b f : Instr).encode 1 = some (0b11#2 ++ 0x18#6 ++ g ++ k ++ a ++ b ++ f)) ∧
  ((∀ (s s1 : State) (g k : KReg) (a : XReg) (x : Word) (t : Bool) (i : BitVec 10),
     GuardOn s g → ReadsAs s a x t s1 →
       let e : Word := i.signExtend 64
       GivesK (.cmpiEq g k a i) s s1 k (decide (x = e)) ∧ GivesK (.cmpiNe g k a i) s s1 k (decide (x ≠ e)) ∧
       GivesK (.cmpiLt g k a i) s s1 k (decide (x.toInt < i.toInt)) ∧ GivesK (.cmpiLe g k a i) s s1 k (decide (x.toInt ≤ i.toInt)) ∧
       GivesK (.cmpiGt g k a i) s s1 k (decide (x.toInt > i.toInt)) ∧ GivesK (.cmpiGe g k a i) s s1 k (decide (x.toInt ≥ i.toInt)) ∧
       GivesK (.cmpiLtN g k a i) s s1 k (decide (x.toNat < e.toNat)) ∧ GivesK (.cmpiGeN g k a i) s s1 k (decide (x.toNat ≥ e.toNat)) ∧
       [(.cmpiEq g k a i : Instr), .cmpiNe g k a i, .cmpiLt g k a i, .cmpiLe g k a i, .cmpiGt g k a i, .cmpiGe g k a i, .cmpiLtN g k a i,
         .cmpiGeN g k a i].map (Instr.encode 1) =
         (List.range 8).map (fun m => some (0b11#2 ++ BitVec.ofNat 6 (0x20 + m) ++ g ++ k ++ a ++ 0#4 ++ i))) ∧
   (∀ (s s2 : State) (g k : KReg) (a b : XReg) (x y : Word) (t : Bool),
     GuardOn s g → ReadsTwo s a b x y t s2 →
       let p := s.rd.src32 x
       let q := s.rd.src32 y
       let nan := p.isNan || q.isNan
       let snan := p.signalling || q.signalling
       let Cmp (f : BitVec 10) (r nv : Bool) : Prop := GivesK (.fcmp g k a b f) s (s2.raise { nv := nv }) k r
       Cmp 0 (!nan && p.eq q) snan ∧ Cmp 1 (nan || !(p.eq q)) snan ∧ Cmp 2 (!nan && p.lt q) nan ∧
       Cmp 3 (!nan && (p.lt q || p.eq q)) nan ∧ Cmp 4 nan snan))

/-- R79: the predicate group. k0 reads as 1 wherever it is named. R8: predicate bit 0 always reads 1 and a write to k0 is
ignored; a write to another predicate changes that one alone. -/
def Obligations.Predicates : Prop :=
  (∀ (s : State) (g k a b c : KReg), GuardOn s g →
     let p := s.rd.pred
     p 0 = true ∧
     GivesK (.pand g k a b) s s k (p a && p b) ∧ GivesK (.por g k a b) s s k (p a || p b) ∧
     GivesK (.pxor g k a b) s s k (xor (p a) (p b)) ∧ GivesK (.pnot g k a) s s k (!p a) ∧ GivesK (.pmov g k a) s s k (p a) ∧
     GivesK (.psel g k a b c) s s k (if p c then p a else p b) ∧
     GivesK (.pnot g 1 0) s s 1 false ∧ GivesK (.pmov g 1 0) s s 1 true ∧
     (∀ v : Word, sysWriteLow s 0x04 v = .ok { s with cur := { s.cur with pw := v.extractLsb' 1 7 ++ 1#1 } }) ∧
     (∀ (a : XReg) (q : KReg), q ≠ 0 → Dest.k q ∈ (Instr.syswr g a 4).dests) ∧
     [(.pand g k a b : Instr), .por g k a b, .pxor g k a b, .pnot g k a, .pmov g k a, .psel g k a b c].map (Instr.encode 1) =
       ([(b, 0b000, 0), (b, 0b001, 0), (b, 0b010, 0), (0, 0b011, 0), (0, 0b100, 0), (b, 0b101, c)] :
         List (KReg × BitVec 3 × KReg)).map fun f =>
           some (0b11#2 ++ 0x1A#6 ++ g ++ k ++ 0#1 ++ a ++ 0#1 ++ f.1 ++ f.2.1 ++ 0#4 ++ f.2.2)) ∧
  (∀ (t : Thread) (k q : KReg) (b : Bool),
     t.setPred 0 b = t ∧ (t.setPred k b).pred 0 = true ∧ (k ≠ 0 → (t.setPred k b).pred k = b) ∧
     (q ≠ k → (t.setPred k b).pred q = t.pred q))

/-! ### Scalar F32 -/

/-- R93 to R98, R222, R223, R225: a scalar F32 word writes its value, sets its flags and retires; served by the normaliser, its
slot waits for it. F32 results are zero-extended, and every NaN result is the canonical one. Sums, products and the fused form are
exact and are rounded once: a magnitude of the format's grid stays, one between two neighbours goes to that of the mode and is
inexact, and one above the largest finite value overflows; a tiny inexact result underflows. A conversion to an integer rounds and
clamps. -/
def Obligations.ScalarF32 : Prop :=
  (∀ (s s2 : State) (g : KReg) (d a b : XReg) (x y : Word) (t : Bool),
    GuardOn s g → PortsFit s [a, b] [d] → ReadsTwo s a b x y t s2 →
      GivesF (.fadd g d a b) s s2 d (s.rd.fadd x y) t ∧ GivesF (.fsub g d a b) s s2 d (s.rd.fsub x y) t ∧
      GivesF (.fmul g d a b) s s2 d (s.rd.fmul x y) t ∧
      GivesF (.fmin g d a b) s s2 d (s.rd.fminMax false x y) t ∧ GivesF (.fmax g d a b) s s2 d (s.rd.fminMax true x y) t ∧
      (s.rd.rm = 4#3 →
        GivesF (.fcvtF32I32 g d a b) s s2 d (s.rd.fromInt (x.extractLsb' 0 32).toInt y) t ∧
        GivesF (.fcvtF32N32 g d a b) s s2 d (s.rd.fromInt (x.extractLsb' 0 32).toNat y) t ∧
        GivesF (.fcvtI32F32 g d a b) s s2 d (s.rd.toInt x y (-2 ^ 31) (2 ^ 31 - 1)).2 t ∧
        GivesF (.fcvtN32F32 g d a b) s s2 d (s.rd.toInt x y 0 (2 ^ 32 - 1)).2 t ∧
        GivesF (.fcvtB16F32 g d a b) s s2 d (s.rd.toB16 x y) t)) ∧
  (∀ (s s2 s3 : State) (g : KReg) (d a b : XReg) (x y z : Word) (t u : Bool),
    GuardOn s g → PortsFit s [a, b, d] [d] → ReadsTwo s a b x y t s2 → ReadsAs s2 d z u s3 →
      GivesF (.ffma g d a b) s s3 d (s.rd.ffma x y z) (t || u)) ∧
  (∀ (s s1 : State) (g : KReg) (d a b : XReg) (x : Word) (t : Bool),
    GuardOn s g → PortsFit s [a] [d] → ReadsAs s a x t s1 →
      Gives (.fabs g d a) s s1 d (0#33 ++ x.extractLsb' 0 31) t ∧
      Gives (.fneg g d a) s s1 d (0#32 ++ ~~~x.extractLsb' 31 1 ++ x.extractLsb' 0 31) t ∧
      GivesF (.fcvtF32B16 g d a b) s s1 d (s.rd.fromB16 x) t ∧
      (s.rd.rm ≠ 4#3 →
        GivesF (.fcvtF32I32 g d a b) s s1 d (s.rd.fromInt (x.extractLsb' 0 32).toInt 0) t ∧
        GivesF (.fcvtF32N32 g d a b) s s1 d (s.rd.fromInt (x.extractLsb' 0 32).toNat 0) t ∧
        GivesF (.fcvtI32F32 g d a b) s s1 d (s.rd.toInt x 0 (-2 ^ 31) (2 ^ 31 - 1)).2 t ∧
        GivesF (.fcvtN32F32 g d a b) s s1 d (s.rd.toInt x 0 0 (2 ^ 32 - 1)).2 t ∧
        GivesF (.fcvtB16F32 g d a b) s s1 d (s.rd.toB16 x 0) t)) ∧
  (∀ (t : Thread) (x y z : Word), (t.src32 x).isNan = true →
    (t.fadd x y).value = 0x7FC00000 ∧ (t.fadd y x).value = 0x7FC00000 ∧ (t.fsub x y).value = 0x7FC00000 ∧
    (t.fmul x y).value = 0x7FC00000 ∧ (t.fmul y x).value = 0x7FC00000 ∧ (t.ffma x y z).value = 0x7FC00000 ∧
    (t.ffma y z x).value = 0x7FC00000 ∧ (t.toB16 x y).value = 0x7FC0 ∧ (t.toInt x y (-2 ^ 31) (2 ^ 31 - 1)).2.value = 0) ∧
  (∀ (t : Thread) (x y : Word) (p q : Bool) (n m : Nat),
    (t.src32 x = .inf p → t.src32 y = .inf q → p ≠ q → (t.fadd x y).value = 0x7FC00000 ∧ (t.fadd x y).flags.nv = true) ∧
    (t.src32 x = .inf p → t.src32 y = .fin q 0 m → (t.fmul x y).value = 0x7FC00000 ∧ (t.fmul x y).flags.nv = true ∧
      ∀ z, (t.ffma x y z).value = 0x7FC00000 ∧ (t.ffma x y z).flags.nv = true) ∧
    (t.src32 x = .fin p n m → t.src32 y = .fin (!p) n m → 0 < m →
      (t.fadd x y).value = (if t.rm = 3#3 then 0x80000000 else 0)) ∧
    ((t.src32 x).signalling = true → (t.fadd x y).flags.nv = true ∧ (t.fsub y x).flags.nv = true ∧
      (t.fmul x y).flags.nv = true ∧ (t.fminMax false x y).flags.nv = true ∧ (t.fminMax true y x).flags.nv = true)) ∧
  (∀ (f : Fmt) (w : Nat), let mag := w % 2 ^ (f.e + f.m)
    (mag ≤ f.maxFinite → (f = .f8n → mag ≠ 0x78 ∧ mag ≠ 0x79) → isFinite (decodeF f w) ∧ valueOf (decodeF f w) = encodedValue f w ∧
      (decodeF f w).sign = (w / 2 ^ (f.e + f.m) % 2 == 1)) ∧
    (mag = f.inf → decodeF f w = .inf (w / 2 ^ (f.e + f.m) % 2 == 1)) ∧
    ((f = .f8n → mag = 0x79) → f.inf < mag → (decodeF f w).isNan = true)) ∧
  (∀ (x y z : Machine.Num) (rd : Bool), isFinite x → isFinite y → isFinite z →
    isFinite (x.add rd y) ∧ valueOf (x.add rd y) = valueOf x + valueOf y ∧ isFinite (x.mul y) ∧ valueOf (x.mul y) = valueOf x * valueOf y ∧
    isFinite (x.fma rd y z) ∧ valueOf (x.fma rd y z) = valueOf x * valueOf y + valueOf z ∧ valueOf x.neg = -valueOf x ∧
    (x.mul y).sign = xor x.sign y.sign ∧
    (valueOf x + valueOf y = 0 → (x.add rd y).sign = if valueOf x = 0 ∧ x.sign = y.sign then x.sign else rd)) ∧
  (∀ (f : Fmt) (m : Mode) (rand n d : Nat) (b : Bool), 0 < n → 0 < d → rand < 2 ^ 32 →
    let x : ℚ := (n : ℚ) / d
    let r := roundNum f m rand false (.fin b n d)
    let mag := r.1 % 2 ^ (f.e + f.m)
    let least : ℚ := 2 ^ (1 - f.bias : ℤ)
    let below := least * (1 - 1 / 2 ^ (f.m + 1))
    r.1 = signed f b mag ∧ r.2.nv = false ∧
    (f = .f8n → 120 < x → x < 160 → (goesUp m b x 120 160 false rand → mag = 0x7A) ∧ (¬goesUp m b x 120 160 false rand → mag = 0x77)) ∧
    (¬(f = .f8n ∧ 120 < x ∧ x < 160) →
      (∀ k ≤ f.maxFinite, magnitude f k = x → mag = k ∧ r.2 = {}) ∧
      (∀ k ≤ f.maxFinite, magnitude f k < x → x < magnitude f (k + 1) →
        let up := goesUp m b x (magnitude f k) (magnitude f (k + 1)) (k % 2 == 0) rand
        r.2.nx = true ∧ (¬up → mag = k ∧ r.2.of = false) ∧ (up → k < f.maxFinite → mag = k + 1 ∧ r.2.of = false) ∧
          (up → k = f.maxFinite → mag = overflowMag f m b ∧ r.2.of = true)) ∧
      (magnitude f (f.maxFinite + 1) ≤ x → mag = overflowMag f m b ∧ r.2.of = true ∧ r.2.nx = true)) ∧
    (r.2.uf = true ↔ r.2.nx = true ∧ (x ≤ below ∨ (x < least ∧ ¬goesUp m b x below least false rand))) ∧
    roundNum f m rand true (.fin b n d) =
      (if 0 < mag ∧ mag < 2 ^ f.m then (signed f b 0, { uf := true, nx := true }) else r)) ∧
  (∀ (f : Fmt) (m : Mode) (rand d : Nat) (b z : Bool), roundNum f m rand z (.fin b 0 d) = (signed f b 0, {}) ∧
    roundNum f m rand z (.inf b) = (signed f b f.inf, {}) ∧ roundNum f m rand z (.nan b) = (f.nan, { nv := b })) ∧
  (∀ (m : Mode) (rand n d : Nat) (b : Bool), 0 < d → rand < 2 ^ 32 →
    let x : ℚ := (n : ℚ) / d
    let k := n / d
    let sgn (i : Nat) : Int := if b then -i else i
    (x = k → roundInt m rand b n d = (sgn k, false)) ∧
    (x ≠ k → (goesUp m b x k (k + 1) (k % 2 == 0) rand → roundInt m rand b n d = (sgn (k + 1), true)) ∧
      (¬goesUp m b x k (k + 1) (k % 2 == 0) rand → roundInt m rand b n d = (sgn k, true)))) ∧
  (∀ (t : Thread) (x y z : Word),
    let R (f : Fmt) (v : Machine.Num) (r : FResult) : Prop :=
      let q := roundNum f (modeOf t.rm) (y.extractLsb' 32 32).toNat t.fzr v
      r.value = BitVec.ofNat 64 q.1 ∧ r.flags = q.2
    let small (w : Word) : Prop := 0 < (w.extractLsb' 0 31).toNat ∧ (w.extractLsb' 0 31).toNat < 2 ^ 23
    let rd := t.rm == 3#3
    R .f32 ((t.src32 x).add rd (t.src32 y)) (t.fadd x y) ∧ R .f32 ((t.src32 x).add rd (t.src32 y).neg) (t.fsub x y) ∧
    R .f32 ((t.src32 x).mul (t.src32 y)) (t.fmul x y) ∧ R .f32 ((t.src32 x).fma rd (t.src32 y) (t.src32 z)) (t.ffma x y z) ∧
    R .b16 (t.src32 x) (t.toB16 x y) ∧ (∀ i : Int, R .f32 (.fin (decide (i < 0)) i.natAbs 1) (t.fromInt i y)) ∧
    (t.fzs = true → small x → (t.src32 x).isZero = true ∧ (t.src32 x).sign = x.getLsbD 31) ∧
    (¬(t.fzs = true ∧ small x) → t.src32 x = decodeF .f32 (x.extractLsb' 0 32).toNat) ∧
    (∀ (lo hi : Int), lo ≤ hi → let r := (t.toInt x y lo hi).2
      match t.src32 x with
      | .nan _ => r.value = 0 ∧ r.flags = { nv := true }
      | .inf b => r.value = BitVec.ofInt 64 (if b then lo else hi) ∧ r.flags = { nv := true }
      | .fin b n d => let i := roundInt (modeOf t.rm) (y.extractLsb' 32 32).toNat b n d
        r.value = BitVec.ofInt 64 (max lo (min hi i.1)) ∧ r.flags = (if lo ≤ i.1 ∧ i.1 ≤ hi then { nx := i.2 } else { nv := true })) ∧
    (let h := x.extractLsb' 0 15
     let sub := 0 < h.toNat ∧ h.toNat < 0x80
     (h.toNat ≤ 0x7F80 → (¬sub ∨ t.fzs = false ∧ t.fzr = false) →
       (t.fromB16 x).value = 0#32 ++ x.extractLsb' 0 16 ++ 0#16 ∧ (t.fromB16 x).flags = {}) ∧
     (sub → t.fzs = true → (t.fromB16 x).value = 0#32 ++ x.extractLsb' 15 1 ++ 0#31 ∧ (t.fromB16 x).flags = {}) ∧
     (sub → t.fzs = false → t.fzr = true →
       (t.fromB16 x).value = 0#32 ++ x.extractLsb' 15 1 ++ 0#31 ∧ (t.fromB16 x).flags = { uf := true, nx := true }) ∧
     (0x7F80 < h.toNat → (t.fromB16 x).value = 0x7FC00000 ∧ (t.fromB16 x).flags = { nv := decide (h.toNat < 0x7FC0) })) ∧
    (let E (w : Word) : Word := if t.fzs = true ∧ (0 < (w.extractLsb' 0 31).toNat ∧ (w.extractLsb' 0 31).toNat < 2 ^ 23)
       then 0#32 ++ w.extractLsb' 31 1 ++ 0#31 else 0#32 ++ w.extractLsb' 0 32
     let X := t.src32 x
     let Y := t.src32 y
     (X.isNan = true → Y.isNan = true → (t.fminMax false x y).value = 0x7FC00000 ∧ (t.fminMax true x y).value = 0x7FC00000) ∧
     (X.isNan = true → Y.isNan = false → (t.fminMax false x y).value = E y ∧ (t.fminMax true x y).value = E y) ∧
     (X.isNan = false → Y.isNan = true → (t.fminMax false x y).value = E x ∧ (t.fminMax true x y).value = E x) ∧
     (X.isNan = false → Y.isNan = false →
       (X = .inf true ∨ Y = .inf false ∨ (isFinite X ∧ isFinite Y ∧
          (valueOf X < valueOf Y ∨ (valueOf X = 0 ∧ valueOf Y = 0 ∧ X.sign = true ∧ Y.sign = false))) →
         (t.fminMax false x y).value = E x ∧ (t.fminMax true x y).value = E y) ∧
       (Y = .inf true ∨ X = .inf false ∨ (isFinite X ∧ isFinite Y ∧
          (valueOf Y < valueOf X ∨ (valueOf X = 0 ∧ valueOf Y = 0 ∧ Y.sign = true ∧ X.sign = false))) →
         (t.fminMax false x y).value = E y ∧ (t.fminMax true x y).value = E x)) ∧
     (t.fminMax false x y).flags = { nv := X.signalling || Y.signalling } ∧
     (t.fminMax true x y).flags = { nv := X.signalling || Y.signalling }))

/-! ### Control transfer -/

/-- R71: `b` and `call` branch when k(g) XOR n, by a signed word offset; `call` links untainted in x15. R72: `jx`, `callx` and
`ret` transfer to a register value; a misaligned target is ALIGN, and x15 does not change. R73: `loop` decrements its counter
modulo 2^64, keeps its taint and branches while it is not 0. R74: `nop` changes nothing, whatever its guard, alone or as word
0 of a pair. -/
def Obligations.Transfers : Prop :=
  (∀ (s : State) (g : KReg) (n : BitVec 1) (f : BitVec 20),
     let target := s.cur.pc + BitVec.ofInt 64 (f.toInt * 4)
     let q := s.cur.pc + (if s.pos = .w0 then 8 else 4)
     (xor (s.rd.pred g) (n == 1#1) = true →
       exec (.b g n f) s = .next (s.retire (some target)) ∧
       (s.rd.pend.getLsbD 15 = false →
         exec (.call g n f) s = .next (({ s with cur := s.cur.setReg 15 q false } : State).retire (some target)))) ∧
     (xor (s.rd.pred g) (n == 1#1) = false → Retires (.b g n f) s s ∧ Retires (.call g n f) s s)) ∧
  (∀ (s s1 : State) (g : KReg) (a : XReg) (v : Word) (t : Bool), GuardOn s g → ReadsAs s a v t s1 →
     let q := s.cur.pc + (if s.pos = .w0 then 8 else 4)
     (v.extractLsb' 0 2 = 0#2 →
       exec (.jx g a) s = .next (s1.retire (some v)) ∧ (a = 15 → exec (.ret g) s = .next (s1.retire (some v))) ∧
       (s1.rd.pend.getLsbD 15 = false → s1.pos = s.pos → s1.cur.pc = s.cur.pc →
         exec (.callx g a) s = .next (({ s1 with cur := s1.cur.setReg 15 q false } : State).retire (some v)))) ∧
     (v.extractLsb' 0 2 ≠ 0#2 →
       exec (.jx g a) s = .next (s.trapped .align v s.cur.pc) ∧ exec (.callx g a) s = .next (s.trapped .align v s.cur.pc) ∧
       (a = 15 → exec (.ret g) s = .next (s.trapped .align v s.cur.pc)))) ∧
  (∀ (s s1 s2 : State) (g : KReg) (d : XReg) (x : Word) (t : Bool) (i : BitVec 13),
     GuardOn s g → ReadsAs s d x t s1 → Takes s1 d (x - 1) s2 →
       (x ≠ 1 → exec (.loop g d i) s =
         .next ((s2.setX d (x - 1) t).retire (some (s.cur.pc + BitVec.ofInt 64 (i.toInt * 4))))) ∧
       (x = 1 → Retires (.loop g d i) s (s2.setX d 0 t))) ∧
  ((∀ (g : KReg) (s : State), Retires (.nop g) s s) ∧ Instr.encode 1 (.nop 0) = some 0x80000000 ∧
   Instr.encode 0 (.nop 0) = some 0x00000000)

/-- R8, R43: a word whose guard predicate is 0 retires with no effect, whatever it would do. R36, R38: a word alone moves the
program counter by 4, word 0 of a pair by 8, or to a transfer's target; word 1 leaves it. With nothing popped nothing else
changes but the record of the last bundle; an element popped from a slot queue or a result port goes when the bundle retires, and
of a ring the HEAD that was loaded, plus 1, is stored then (R191, R192). -/
def Obligations.GuardsAndRetirement : Prop :=
  (∀ (i : Instr) (g : KReg) (s : State), guardOf i = some g → s.rd.pred g = false → Retires i s s) ∧
  ((∀ (s : State) (target : Option Word) (r : XReg) (v h : Word) (p : Port),
     s.pos ≠ .w0 → s.popped = [(r, p, v, h)] →
       let t := s.retire target
       let q (u : State) (j : Nat) : SlotQueue := (u.core s.cur.core).queues.toList.getD j {}
       t.popped = [] ∧ t.mark = .retired ∧ (p.kind = 0 → let i := (p.target.extractLsb' 0 3).toNat
         (q t i).elems = (q s i).elems.drop 1 ∧ (∀ j, j ≠ i → q t j = q s j) ∧ t.mem = s.mem ∧ t.cur.x = s.cur.x) ∧
       (p.kind = 2 → t.cur.result = s.cur.result.drop 1 ∧ t.cores = s.cores ∧ t.mem = s.mem ∧ t.cur.x = s.cur.x) ∧
       (∀ ps, p.kind = 1 → checkAccess s s.cur .write (p.target + 16) 8 = .ok ps → s.damage = [] →
         t.cur.x = s.cur.x ∧ (∀ a, a ∉ ps → memGet t.mem a = memGet s.mem a) ∧
         (ps.Nodup → ps.length = 8 → ∀ i < 8, memGet t.mem (ps.getD i 0) = lane 8 i (h + 1)))) ∧
   ∀ (s : State) (target : Option Word), s.popped = [] →
     let t := s.retire target
     (s.pos = .lone → t = { s with mark := .retired, cur := { s.cur with pc := target.getD (s.cur.pc + 4), lastPc := s.cur.pc } }) ∧
     (s.pos = .w0 → t = { s with mark := .retired, cur := { s.cur with pc := target.getD (s.cur.pc + 8), lastPc := s.cur.pc } }) ∧
     (s.pos = .w1 → t = { s with mark := .retired }))

/-! ### How a word ends -/

/-- R24, R105: how a source is read. A register that is neither pending nor bound gives its value and taint; a bound one gives
the head of its slot queue, ring or result port, untainted; a second read in the bundle sees the same element; an empty port and a
pending register wait; a register bound for pushing is ILLEGAL. R24, R105: how a destination is written. A register that is
neither pending nor bound takes the value and its taint and no other register changes; a slot queue or a ring with room takes it
at its end, once every earlier access of the thread has been performed (R248); a full queue or ring and a pending register wait; a
register bound for popping is ILLEGAL. R191: a ring's element n stands at its base plus 8 times n modulo its capacity; a pop loads
the descriptor and the element at HEAD, a push stores its element at TAIL and then TAIL plus 1. R192: a command port gathers seven
pushes and makes the eighth's block a command, which waits as a copy word does. -/
def Obligations.OperandForms : Prop :=
  (∀ (s : State) (r : XReg),
     (s.rd.pend.getLsbD r.toNat = true → ∀ k, useX s r k = .wait) ∧
     (s.rd.pend.getLsbD r.toNat = false →
       (s.rd.port? r = none → ReadsAs s r (s.rd.reg r) (s.rd.tainted r) s) ∧
       (∀ p, s.rd.port? r = some p →
         (p.push = true → ∀ k, useX s r k = .trap .illegal s.bundle) ∧
         (p.push = false → ∀ q v h, s.popped.lookup r = some (q, v, h) → ReadsAs s r v false s) ∧
         (p.push = false → s.popped.lookup r = none →
           let q := ((s.core s.cur.core).queues.toList.getD (p.target.extractLsb' 0 3).toNat {}).elems
           let sound := (s.damage.any fun d => d.spot == .fifo s.cur.core) = false
           (p.kind = 0 → ∀ v l, q = v :: l → s.cur.gated = false → sound →
             ReadsAs s r v false { s with popped := s.popped ++ [(r, p, v, 0)] }) ∧
           (p.kind = 0 → q = [] ∨ s.cur.gated = true → ∀ k, useX s r k = .wait) ∧
           (p.kind = 2 → ∀ v l, s.cur.result = v :: l → sound →
             ReadsAs s r v false { s with popped := s.popped ++ [(r, p, v, 0)] }) ∧
           (p.kind = 2 → s.cur.result = [] → ∀ k, useX s r k = .wait) ∧
           (∀ ps s1, p.kind = 1 → Grants s .read p.target 32 ps s1 →
             let w := wordAt (s1.readDwords p.target ps).1
             let s2 := (s1.readDwords p.target ps).2
             let elem := w 0 + BitVec.ofNat 64 (8 * ((w 2).toNat % ((w 1).extractLsb' 0 32).toNat))
             (w 2 = w 3 → ∀ k, useX s r k = .park .cond s2) ∧
             (∀ qs hs s3 s4, w 2 ≠ w 3 → Grants s2 .read elem 8 qs s3 →
               Grants s3 .write (p.target + 16) 8 hs s4 →
               let (v, s5) := s4.readNow elem qs
               ReadsAs s r v false { s5 with popped := s5.popped ++ [(r, p, v, w 2)] })))))) ∧
  (∀ (s : State) (d : XReg) (v : Word) (t : Bool),
     (s.rd.pend.getLsbD d.toNat = true → ∀ k, destX s d v k = .wait) ∧
     (s.rd.pend.getLsbD d.toNat = false →
       (s.rd.port? d = none → Takes s d v s) ∧
       (∀ p, s.rd.port? d = some p →
         (p.push = false → ∀ k, destX s d v k = .trap .illegal s.bundle) ∧
         (p.push = true →
           let q := (s.core s.cur.core).queues.toList.getD (p.target.extractLsb' 0 3).toNat {}
           let waits := (∃ a ∈ s.reqs, a.thread = s.cur.num) ∨ s.cur.gated = true
           (p.kind = 0 → (q.elems.length < 16 → ¬waits → Takes s d v s) ∧
             (16 ≤ q.elems.length ∨ waits → ∀ k, destX s d v k = .wait)) ∧
           (p.kind = 1 → (waits → ∀ k, destX s d v k = .wait) ∧ ∀ ps s1, ¬waits → Grants s .read p.target 32 ps s1 →
             let w := wordAt (s1.readDwords p.target ps).1
             let s2 := (s1.readDwords p.target ps).2
             let cap := (w 1).extractLsb' 0 32
             let elem := w 0 + BitVec.ofNat 64 (8 * ((w 3).toNat % cap.toNat))
             (w 3 - w 2 = cap.setWidth 64 → ∀ k, destX s d v k = .park .cond s2) ∧
             (∀ qs ts s3 s4, w 3 - w 2 ≠ cap.setWidth 64 → Grants s2 .write elem 8 qs s3 →
               Grants s3 .write (p.target + 24) 8 ts s4 → Takes s d v s4)) ∧
           (p.kind = 3 →
             let full := s.cur.cmdWords.length = 7 ∧ copyWaits (s.core s.cur.core) s.cur (v.getLsbD 12) = true
             (¬full → Takes s d v s) ∧ (full → ∀ k, destX s d v k = .wait))))) ∧
     (s.cur.port? d = none →
       s.setX d v t = { s with cur := s.cur.setReg d v t } ∧ (s.cur.setReg d v t).reg d = v ∧
       (s.cur.setReg d v t).tainted d = t ∧
       ∀ r, r ≠ d → (s.cur.setReg d v t).reg r = s.cur.reg r ∧ (s.cur.setReg d v t).tainted r = s.cur.tainted r) ∧
     (∀ p, s.cur.port? d = some p → p.kind = 0 →
       let i := (p.target.extractLsb' 0 3).toNat
       let q (u : State) (j : Nat) : SlotQueue := (u.core s.cur.core).queues.toList.getD j {}
       (q (s.setX d v t) i).elems = (q s i).elems ++ [v] ∧ (∀ j, j ≠ i → q (s.setX d v t) j = q s j) ∧
       (s.setX d v t).cur = s.cur ∧ (s.setX d v t).mem = s.mem) ∧
     (∀ p ps qs ts, s.cur.port? d = some p → p.kind = 1 → s.damage = [] → checkAccess s s.cur .read p.target 32 = .ok ps →
       let w (i : Nat) : Word := leWord ((ps.drop (8 * i)).take 8 |>.map (memGet s.mem))
       let elem := w 0 + BitVec.ofNat 64 (8 * ((w 3).toNat % ((w 1).extractLsb' 0 32).toNat))
       let u := s.setX d v t
       checkAccess s s.cur .write elem 8 = .ok qs →
       checkAccess (s.writeNow elem qs v) (s.writeNow elem qs v).cur .write (p.target + 24) 8 = .ok ts →
       ps.length = 32 → qs.length = 8 → ts.length = 8 → qs.Nodup → ts.Nodup →
         u.cur.x = s.cur.x ∧ (∀ a, a ∉ qs → a ∉ ts → memGet u.mem a = memGet s.mem a) ∧
         (∀ i < 8, memGet u.mem (ts.getD i 0) = lane 8 i (w 3 + 1)) ∧
         ((∀ a ∈ qs, a ∉ ts) → ∀ i < 8, memGet u.mem (qs.getD i 0) = lane 8 i v)) ∧
     (∀ p, s.cur.port? d = some p → p.kind = 3 →
       let u := s.setX d v t
       let block := s.cur.cmdWords ++ [v]
       (s.cur.cmdWords.length ≠ 7 → u = { s with cur := { s.cur with cmdWords := block } }) ∧
       (s.cur.cmdWords.length = 7 → u.cur.cmdWords = [] ∧ u.cur.cpo = s.cur.cpo + 1 ∧ u.cur.x = s.cur.x ∧ u.mem = s.mem ∧
         ∃ e, (u.core s.cur.core).fifo = (s.core s.cur.core).fifo ++ [e] ∧ e.thread = s.cur.num ∧ e.dom = s.cur.dom ∧
           e.block = block ∧ e.op = v.extractLsb' 13 3 ∧ e.post = v.getLsbD 12 ∧ e.barrier = none)))

/-- Every word of one x destination completes where no port is bound and no register is pending, and what it leaves alone: it
writes that register and its taint and nothing else of the machine but the place of the thread and the record of the bundle.
A scalar F32 word also sets sticky flags (R93: it clears none and writes no other bit of st), and may be queued for the
normaliser (R98), whose turns are counted. -/
def Obligations.RegisterFrame : Prop :=
  ∀ (i : Instr) (d : XReg) (s : State), Unbound s.rd → Unbound s.cur → s.popped = [] →
    (registerDest i = some d → ∃ t, exec i s = .next t ∧ t.mark = .retired ∧
      (∀ r, r ≠ d → t.cur.reg r = s.cur.reg r ∧ t.cur.tainted r = s.cur.tainted r) ∧
      t = { s with mark := .retired, cur := { s.cur with x := t.cur.x, taint := t.cur.taint, pc := t.cur.pc, lastPc := t.cur.lastPc } }) ∧
    (f32Dest i = some d → ∃ t, exec i s = .next t ∧ t.mark = .retired ∧
      (∀ r, r ≠ d → t.cur.reg r = s.cur.reg r ∧ t.cur.tainted r = s.cur.tainted r) ∧
      (∀ j, (s.cur.st.getLsbD j = true → t.cur.st.getLsbD j = true) ∧
        (j < 17 ∨ 20 < j → t.cur.st.getLsbD j = s.cur.st.getLsbD j)) ∧
      (∀ c, t.core c = { s.core c with norm := (t.core c).norm }) ∧
      t = { s with
        mark := .retired, cores := t.cores
        cur := { s.cur with
          x := t.cur.x, taint := t.cur.taint, st := t.cur.st, norm := t.cur.norm, evcnt := t.cur.evcnt, pc := t.cur.pc
          lastPc := t.cur.lastPc } })

/-! ### Time, traps -/

/-- R121, R122, R215: `rdcyc` writes the cycle counter, untainted; `nap` sleeps until the promised cycle, then retires, or
raises PROMISE while a copy with the tag is outstanding on any core; `yield` retires and lets every other slot in rotation go
first, and with a handover pending its slot is handed over at once, unless the thread's gate defers that (R315). -/
def Obligations.TimeWords : Prop :=
  (∀ (s : State) (g : KReg) (d : XReg), GuardOn s g → Gives (.rdcyc g d) s s d s.cyc false) ∧
  (∀ (s s1 : State) (g : KReg) (a : XReg) (w : Word) (t : Bool), GuardOn s g → ReadsAs s a w t s1 →
    let due : Word := w.extractLsb' 8 56 ++ 0#8
    let copy : Prop := ∃ k ∈ s1.cores, ∃ c ∈ k.engine.toList ++ k.fifo, c.thread = s1.cur.num ∧ c.tag = w.extractLsb' 0 8
    (s1.cyc.toNat < due.toNat → exec (.nap g a) s = .next (s1.parked (.sleep due))) ∧
    (due.toNat ≤ s1.cyc.toNat → ¬copy → Retires (.nap g a) s s1) ∧
    (due.toNat ≤ s1.cyc.toNat → copy → exec (.nap g a) s = .next (s.trapped .promise w s.cur.pc))) ∧
  (∀ (s : State) (g : KReg), GuardOn s g →
    let k := s.core s.cur.core
    let n := s.cur.slotNo
    ∃ u, Retires (.yield g) s u ∧ u.cur = s.cur ∧ u.mem = s.mem ∧
      (u.core s.cur.core).yields.lookup n = some (s.rotation s.cur.core &&& ~~~(1#16 <<< n.toNat)) ∧
      (k.nextVd = none ∨ s.deferred s.cur = true →
        (u.core s.cur.core).handed = k.handed ∧ (u.core s.cur.core).nextVd = k.nextVd) ∧
      (∀ v, k.nextVd = some v → s.deferred s.cur = false →
        (k.handed ||| (1#16 <<< n.toNat) ≠ BitVec.allOnes 16 →
          (u.core s.cur.core).handed = k.handed ||| (1#16 <<< n.toNat) ∧ (u.core s.cur.core).nextVd = some v) ∧
        (k.handed ||| (1#16 <<< n.toNat) = BitVec.allOnes 16 →
          (u.core s.cur.core).sliceVd = some v ∧ (u.core s.cur.core).nextVd = none)))

/-- R218: `trap` retires and raises SOFT at the next bundle; `brk` raises BRK at its own; R216: `hcall` where the VD has no
hypervisor domain raises HCALL at the next bundle. The step that takes a trap is the same for every cause. -/
def Obligations.TrapWords : Prop :=
  (∀ (s : State) (g : KReg) (i : BitVec 13), GuardOn s g →
    exec (.trap g i) s = .next ((s.trapped .soft (i.setWidth 64) (s.cur.pc + 4)).retiredAt s.cur.num s.cur.pc) ∧
    exec (.brk g i) s = .next (s.trapped .brk (i.setWidth 64) s.cur.pc) ∧
    (s.hypervisor s.cur.vdid = none →
      exec (.hcall g i) s = .next ((s.trapped .hcall (i.setWidth 64) (s.cur.pc + 4)).retiredAt s.cur.num s.cur.pc)) ∧
    ((s.trapped .soft (i.setWidth 64) (s.cur.pc + 4)).mark ≠ .parked →
      (s.trapped .soft (i.setWidth 64) (s.cur.pc + 4)).cur.num = s.cur.num →
      ((s.trapped .soft (i.setWidth 64) (s.cur.pc + 4)).retiredAt s.cur.num s.cur.pc).cur =
        { (s.trapped .soft (i.setWidth 64) (s.cur.pc + 4)).cur with lastPc := s.cur.pc })) ∧
  (∀ (s : State) (c : Cause) (v : Word), exec (.trapEntry c v) s = .next (s.trapped c v s.cur.pc))

/-- R219: taking a trap. R219, R220: a trap waits while relaxed accesses are outstanding, while descriptors of the thread's vector
command are still to be read (R245), and while its core's earlier accesses stand at the homes of its frame (R241); with HM = 1, or
where tvec is 0, it is a double trap: the thread is gone. What follows the trap waits for the end of a vector command in flight
(R251; log entry 59). -/
def Obligations.Traps : Prop :=
  (∀ (s : State) (c : Cause) (tval epc : Word) (b : Block),
     s.cur.hm = false → (s.domain s.cur.dom).tvec ≠ 0 → s.trapWaits = false → s.cur.block? s.cur.dom = some b →
     s.recBad (physRange b.trapFrame 0x140) true = false →
       let t := s.trapped c tval epc
       t.mark = .trapped c ∧ t.cur.tcause = BitVec.ofNat 64 c.code ∧ t.cur.tval = tval ∧ t.cur.epc = epc ∧
       t.cur.est = s.cur.stWord ∧ t.cur.hm = true ∧ (∀ i, i ≠ 5 → t.cur.st.getLsbD i = s.cur.st.getLsbD i) ∧
       t.cur.pc = (s.domain s.cur.dom).tvec ∧
       t.cur.reg 15 = BitVec.ofNat 64 ((s.domain s.cur.dom).blockVa b.index + 0x8000) ∧ t.cur.tainted 15 = false ∧
       (∀ r, r ≠ 15 → t.cur.reg r = s.cur.reg r ∧ t.cur.tainted r = s.cur.tainted r) ∧
       t.cur.pw = s.cur.pw ∧ t.cur.cb = s.cur.cb ∧ t.cur.v = s.cur.v ∧ t.cur.streams = s.cur.streams ∧
       t.cur.vcmd = s.cur.vcmd.map VCmd.gate ∧ t.cur.depth = s.cur.depth ∧ t.cur.top = s.cur.top ∧
       (∀ r, t.cur.port? r = none) ∧ (s.cur.depth.toNat, s.cur.ports) ∈ t.cur.susp ∧
       (MemoryOk s →
         (∀ i < 40, t.recWord b.trapFrame i = (frameLow s.cur s.cur.depth.toNat 0 epc).getD i 0) ∧
         (∀ a, a < b.trapFrame ∨ b.trapFrame + 0x140 ≤ a → memGet t.mem a = memGet s.mem a))) ∧
  (∀ (s : State) (c : Cause) (tval epc : Word),
     (s.cur.ldo ≠ 0 ∨ s.cur.sto ≠ 0 ∨ s.cur.owes = true ∨
       (∃ b, s.cur.block? s.cur.dom = some b ∧ s.recBehind s.cur b.trapFrame 0x140 = true) → s.trapped c tval epc = s.parked .cond) ∧
     (s.cur.hm = true ∨ (s.domain s.cur.dom).tvec = 0 → s.trapWaits = false →
       (s.trapped c tval epc).mark = .trapped c ∧ (s.trapped c tval epc).cur.place = .gone ∧
       (s.trapped c tval epc).cur.num = s.cur.num))

/-- R221: returning from a trap. -/
def Obligations.TrapReturn : Prop :=
  ∀ (s : State) (g : KReg), GuardOn s g →
    (s.cur.hm = false → exec (.tret g) s = .next (s.trapped .prot 0x4001A s.cur.pc)) ∧
    (s.cur.hm = true → (s.cur.top.any fun e => e.gate == 0) = true → s.cur.trapOpen.getLsbD s.cur.depth.toNat = false →
      exec (.tret g) s = .next (s.trapped .prot 0x40019 s.cur.pc)) ∧
    (∀ b, s.cur.hm = true → ((s.cur.top.any fun e => e.gate == 0) = true → s.cur.trapOpen.getLsbD s.cur.depth.toNat = true) →
      s.trapWaits = false → s.cur.block? s.cur.dom = some b →
      s.recBad (physRange b.trapFrame 0x140) false = false →
        ∃ t, exec (.tret g) s = .next t ∧ t.mark = .retired ∧ t.cur.pc = s.cur.epc ∧ t.cur.hm = false ∧
          (∀ i, t.cur.st.getLsbD i = if i = 7 then s.cur.st.getLsbD 7 else (s.cur.est &&& 0xFF001F).getLsbD i) ∧
          (∀ r : XReg, t.cur.reg r = s.recWord b.trapFrame (8 + r.toNat)) ∧
          t.cur.taint = (s.recWord b.trapFrame 4).extractLsb' 8 16 ∧ t.cur.cb = s.recWord b.trapFrame 3 ∧
          (∀ p, s.cur.susp.find? (fun p => p.1 == s.cur.depth.toNat) = some p → t.cur.ports = p.2) ∧
          t.mem = s.mem ∧ t.cur.depth = s.cur.depth ∧ t.cur.dom = s.cur.dom)

/-! ### Memory words -/

/-- R102 to R105, R107: a load of each size. A plain load writes the extended value and leaves its slot waiting for the
access; a relaxed one counts in LDO, marks its destination pending and sends its request, or waits while LDO is 8; an `ldc`
that is not aligned is ALIGN. R102: where no granule is damaged, a read gives the bytes of memory, lowest first, and changes
none. -/
def Obligations.LoadsAndReads : Prop :=
  (∀ f ∈ loadForms, ∀ (s s1 s2 : State) (g : KReg) (d a : XReg) (h b : BitVec 1) (o : BitVec 10) (x : Word) (t : Bool) (ps : List Nat),
     let va := formedAddress s.rd.cb x f.2.1 b o
     GuardOn s g → PortsFit s [a] [d] → ReadsAs s a x t s1 →
       (∀ r, f.2.2.2 = true → va.toNat % 8 ≠ 0 → exec (f.1 g d a r h b o) s = .next (s.trapped .align va s.cur.pc)) ∧
       ((f.2.2.2 = true → va.toNat % 8 = 0) →
         (8 ≤ s1.cur.ldo → exec (f.1 g d a 1 h b o) s = .next (s.parked .cond)) ∧
         (Grants s1 .read va f.2.1 ps s2 →
           ∀ s4, let (w, s3) := s2.readNow va ps
           let v := if f.2.2.1 then (w.extractLsb' 0 (8 * f.2.1)).signExtend 64 else (w.extractLsb' 0 (8 * f.2.1)).setWidth 64
           Takes s3 d v s4 →
             Retires (f.1 g d a 0 h b o) s ((((s4.setX d v f.2.2.2).countEv 2 1).inFlight).hopHint h va)) ∧
         (GrantsRelaxed s1 .read va f.2.1 ps s2 →
           ∀ s3, s1.cur.ldo < 8 → Takes s2 d 0 s3 → ∃ u, Retires (f.1 g d a 1 0 b o) s u ∧
             u.cur.ldo = s3.cur.ldo + 1 ∧ u.cur.pend = s3.cur.pend ||| (1#16 <<< d.toNat) ∧ u.cur.x = s3.cur.x ∧ u.mem = s3.mem ∧
             Sends s3 u va ps d (if f.2.2.2 then .ldc else .load f.2.2.1 f.2.1)))) ∧
  (∀ (s : State) (va : Word) (ps : List Nat), s.fatalAt ps = false → ps.length ≤ 8 →
     (∀ i < ps.length, lane 8 i (s.readNow va ps).1 = memGet s.mem (ps.getD i 0)) ∧ (s.readNow va ps).2.mem = s.mem ∧
     (s.readNow va ps).2.cur.x = s.cur.x) ∧
  (∀ (s : State) (va : Word) (ps : List Nat), s.fatalAt ps = false → ps.length = 64 →
     (s.readDwords va ps).1 = dwords (ps.map (memGet s.mem)) ∧ (s.readDwords va ps).2.mem = s.mem)

/-- R102 to R105: a store of each size, where it completes. A relaxed one waits while STO is 8. -/
def Obligations.Stores : Prop :=
  ∀ f ∈ storeForms, ∀ (s s1 s2 s3 : State) (g : KReg) (d a : XReg) (h b : BitVec 1) (o : BitVec 10) (x v : Word) (t u : Bool) (ps : List Nat),
    let va := formedAddress s.rd.cb x f.2 b o
    GuardOn s g → PortsFit s [a, d] [] → ReadsAs s a x t s1 → ReadsAs s1 d v u s2 →
      (8 ≤ s2.cur.sto → exec (f.1 g d a 1 h b o) s = .next (s.parked .cond)) ∧
      (Grants s2 .write va f.2 ps s3 →
        Retires (f.1 g d a 0 h b o) s ((((s3.writeNow va ps v).countEv 4 1).inFlight).hopHint h va)) ∧
      (GrantsRelaxed s2 .write va f.2 ps s3 → s2.cur.sto < 8 → ∃ w, Retires (f.1 g d a 1 0 b o) s w ∧
        w.cur.sto = s3.cur.sto + 1 ∧ w.cur.x = s3.cur.x ∧ w.mem = s3.mem ∧ Sends s3 w va ps d (.store f.2 v))

/-- What a plain store leaves alone (R102): with no port bound, no register, no predicate and no flag changes, and every
byte of memory outside the bytes of its address reads as before; the bytes stored are the low bytes of x(d). -/
def Obligations.StoreFrame : Prop :=
  ∀ f ∈ storeForms, ∀ (s s1 : State) (g : KReg) (d a : XReg) (h b : BitVec 1) (o : BitVec 10) (ps : List Nat),
    GuardOn s g → Unbound s.rd → Unbound s.cur → s.popped = [] → MemoryOk s →
    Grants s .write (formedAddress s.rd.cb (s.rd.reg a) f.2 b o) f.2 ps s1 →
      ∃ t, exec (f.1 g d a 0 h b o) s = .next t ∧ t.mark = .retired ∧ t.cur.x = s.cur.x ∧ t.cur.taint = s.cur.taint ∧
        t.cur.pw = s.cur.pw ∧ t.cur.st = s.cur.st ∧ t.cur.v = s.cur.v ∧ t.domains = s.domains ∧
        (∀ p, p ∉ ps → memGet t.mem p = memGet s.mem p) ∧
        (s.damage = [] → ps.Nodup → ∀ i < f.2, memGet t.mem (ps.getD i 0) = lane 8 i (s.rd.reg d))

/-- R105, R109, R111: atomics. The plain form waits out of rotation until its scope's set has completed, and from then on for its
place at its home; it then reads and writes, indivisibly, and returns the old value. The relaxed form counts in STO and marks its
destination pending. A misaligned address is ALIGN. R109: what an atomic writes, and that a `cas` whose comparison fails writes nothing. -/
def Obligations.AtomicWords : Prop :=
  (∀ (s s1 s2 : State) (g : KReg) (d a b : XReg) (op : BitVec 4) (w : BitVec 1) (sc : BitVec 4) (va v e : Word) (ps : List Nat),
     let n := if w = 1#1 then 8 else 4
     GuardOn s g → PortsFit s (if op = 9#4 then [a, b, d] else [a, b]) [d] → ReadsAtomic s d a b op va v e s1 →
       (va.toNat % n ≠ 0 → exec (.amo g d a b op w sc) s = .next (s.trapped .align va s.cur.pc)) ∧
       (va.toNat % n ≠ 0 → s1.cur.sto < 8 → exec (.rxAmo g d a b op w sc) s = .next (s.trapped .align va s.cur.pc)) ∧
       (8 ≤ s1.cur.sto → exec (.rxAmo g d a b op w sc) s = .next (s.parked .cond)) ∧
       (va.toNat % n = 0 → GrantsRelaxed s1 .write va n ps s2 →
         (s2.fenceDone sc = false → exec (.amo g d a b op w sc) s =
           .next (({ s with cur := { s.cur with stands := none } } : State).parked .held)) ∧
         (s2.fenceDone sc = true → s2.ahead ps = true → exec (.amo g d a b op w sc) s =
           .next (({ s with
             cur := { s.cur with stands := some (s2.behind, ps) }
             stamp := if s.cur.stands = none then s.stamp + 1 else s.stamp } : State).parked .held))) ∧
       (va.toNat % n = 0 → Grants s1 .write va n ps s2 →
         (∀ s4, s2.fenceDone sc = true → let (old, bad, fixed, s3) := (s2.tookTurns s2.cur.core.toNat ps).atomicAt s2.source ps op v e
           bad = false → Takes s3 d old s4 →
             Retires (.amo g d a b op w sc) s ((((s4.setX d old false).countEv 5 1).countEv 14 fixed).inFlight)) ∧
         (s2.fenceDone sc = true → s2.fatalAt ps = false → Unbound s2.rd → Unbound s2.cur →
           let old := leWord (ps.map (memGet s2.mem))
           ∃ u, Retires (.amo g d a b op w sc) s u ∧ u.cur.reg d = old ∧ u.cur.tainted d = false ∧
             (∀ r, r ≠ d → u.cur.reg r = s2.cur.reg r ∧ u.cur.tainted r = s2.cur.tainted r) ∧ u.cur.st = s2.cur.st ∧
             u.cur.pw = s2.cur.pw ∧ u.cur.wait = some .access ∧ u.mem = match amoNew op ps.length old v e with
               | none => s2.mem
               | some x => memSetAll s2.mem (ps.zip (wordBytes x ps.length)))) ∧
       (va.toNat % n = 0 → GrantsRelaxed s1 .write va n ps s2 →
         ∀ s3, s1.cur.sto < 8 → Takes s2 d 0 s3 → ∃ u, Retires (.rxAmo g d a b op w sc) s u ∧
           u.cur.sto = s3.cur.sto + 1 ∧ u.cur.pend = s3.cur.pend ||| (1#16 <<< d.toNat) ∧ u.cur.x = s3.cur.x ∧ u.mem = s3.mem ∧
           Sends s3 u va ps d (.atomic op n v e))) ∧
  (∀ (o x e : Word),
     amoNew 0 8 o x e = some (o + x) ∧ amoNew 1 8 o x e = some (o &&& x) ∧ amoNew 2 8 o x e = some (o ||| x) ∧
     amoNew 3 8 o x e = some (o ^^^ x) ∧ amoNew 4 8 o x e = some (if o.toInt ≤ x.toInt then o else x) ∧
     amoNew 5 8 o x e = some (if o.toInt ≤ x.toInt then x else o) ∧ amoNew 6 8 o x e = some (if o.toNat ≤ x.toNat then o else x) ∧
     amoNew 7 8 o x e = some (if o.toNat ≤ x.toNat then x else o) ∧ amoNew 8 8 o x e = some x ∧
     amoNew 9 8 o x e = (if o = e then some x else none) ∧
     amoNew 0 4 o x e = some ((o.extractLsb' 0 32 + x.extractLsb' 0 32).setWidth 64) ∧
     amoNew 9 4 o x e = (if o.extractLsb' 0 32 = e.extractLsb' 0 32 then some ((x.extractLsb' 0 32).setWidth 64) else none) ∧
     ((decodeF .f32 (low32 o)).isNan = true → amoNew 10 4 o x e = some 0x7FC00000 ∧ amoNew 10 4 x o e = some 0x7FC00000))

/-- R110, R112: `fence` and `wait` retire when their operations have completed; until then they have issued, and their slot
waits out of rotation. The copies of the thread count on whichever core they were issued. -/
def Obligations.FencesAndWait : Prop :=
  ∀ (s : State) (g : KReg), GuardOn s g →
    let held := ({ s with cur := { s.cur with stands := none } } : State).parked .held
    let mine (p : Copy → Prop) : Prop := ∃ k ∈ s.cores, ∃ c ∈ k.engine.toList ++ k.fifo, c.thread = s.cur.num ∧ p c
    (∀ sc : BitVec 4,
      (s.fenceDone sc = true → Retires (.fence g sc) s s) ∧
      (s.fenceDone sc = false → exec (.fence g sc) s = .next held)) ∧
    s.fenceDone 0 = true ∧ (s.fenceDone 5 = true ↔ s.cur.ldo = 0 ∧ s.cur.sto = 0) ∧
    (s.fenceDone 8 = true ↔ s.cur.sto = 0 ∧ s.cur.cpo = 0 ∧ s.cur.tlo = 0) ∧
    (s.fenceDone 6 = true ↔ s.cur.ldo = 0 ∧ s.cur.sto = 0 ∧ ¬mine fun c => c.dom = s.cur.dom) ∧
    (s.fenceDone 7 = true ↔ s.cur.ldo = 0 ∧ s.cur.sto = 0 ∧ ¬mine fun _ => True) ∧
    (s.fenceDone 10 = true → s.fenceDone 9 = true ∧ s.fenceDone 6 = true ∧ s.fenceDone 5 = true) ∧
    (s.fenceDone 7 = true → s.fenceDone 6 = true) ∧
    (∀ (l st : BitVec 4) (c t : BitVec 5),
      let done := s.cur.ldo ≤ l.toNat ∧ s.cur.sto ≤ st.toNat ∧ s.cur.cpo ≤ c.toNat ∧ s.cur.tlo ≤ t.toNat
      (done → Retires (.wait g l st c t) s s) ∧ (¬done → exec (.wait g l st c t) s = .next held))

/-- R113, R114, R123: `wchg` retires when the port has found the watched word changed, or when it differs from x(d), and watches it
otherwise, or polls it when the home's 16 watch entries are full; `hop` stays, is refused, or leaves; `probe` writes the rights and never faults. -/
def Obligations.WatchHopProbe : Prop :=
  (∀ (s s1 s2 s3 : State) (g : KReg) (d a : XReg) (b : BitVec 1) (o : BitVec 10) (x y : Word) (t u : Bool) (ps : List Nat),
    let va := formedAddress s.rd.cb x 8 b o
    let p := ps.headD 0
    GuardOn s g → PortsFit s [a, d] [] → ReadsAs s a x t s1 → ReadsAs s1 d y u s2 →
      (s2.watchChanged = true → Retires (.wchg g d a b o) s s2.unwatch) ∧
      (s2.watchChanged = false → va.toNat % 8 ≠ 0 → exec (.wchg g d a b o) s = .next (s.trapped .align va s.cur.pc)) ∧
      (s2.watchChanged = false → va.toNat % 8 = 0 → Grants s2 .read va 8 ps s3 → let (v, s4) := s3.unwatch.readNow va ps
        (v ≠ y → Retires (.wchg g d a b o) s s4.inFlight) ∧
        (v = y → (s4.watches.filter fun w => w.home == homeOf p).length < 16 →
          exec (.wchg g d a b o) s = .next (({ s4 with watches := s4.watches ++ [
            { home := homeOf p, thread := s4.cur.num, addr := p, was := y, hit := false }] } : State).parked (.watch p))) ∧
        (v = y → 16 ≤ (s4.watches.filter fun w => w.home == homeOf p).length →
          exec (.wchg g d a b o) s = .next (s4.parked (.poll p))))) ∧
  (∀ (s s1 : State) (g : KReg) (a : XReg) (b : BitVec 1) (o : BitVec 10) (x : Word) (t : Bool),
    let va := formedAddress s.rd.cb x 8 b o
    GuardOn s g → PortsFit s [a] [] → ReadsAs s a x t s1 →
      (hopTarget va = none ∨ hopTarget va = some s1.cur.core → Retires (.hop g a b o) s s1) ∧
      (∀ c, hopTarget va = some c → c ≠ s1.cur.core →
        (s1.inCoreSet s1.cur.chgvd c = false → exec (.hop g a b o) s = .next (s.trapped .prot va s.cur.pc)) ∧
        (s1.inCoreSet s1.cur.chgvd c = true → s1.heldHere = true →
          exec (.hop g a b o) s = .next (s.trapped .portbound va s.cur.pc)) ∧
        (s1.inCoreSet s1.cur.chgvd c = true → s1.heldHere = false →
          Retires (.hop g a b o) s { s1 with cur := { s1.cur with leaving := some (c, true), wait := some .leaving } }))) ∧
  (∀ (s s1 s2 : State) (g : KReg) (d a : XReg) (b : BitVec 1) (o : BitVec 10) (x : Word) (t : Bool),
    let va := formedAddress s.rd.cb x 1 b o
    GuardOn s g → PortsFit s [a] [d] → ReadsAs s a x t s1 →
      let v := probeWord s1 s1.cur va
      (Takes s1 d v s2 → Retires (.probe g d a b o) s (s2.setX d v t).inFlight) ∧ v.extractLsb' 8 56 = 0#56 ∧
      (v.getLsbD 4 = false → v.extractLsb' 0 5 = 0#5))

/-! ### System registers -/

/-- R28, R29, R214: `sysrd`. R28, R29: who may read and write a system register below 0x100. Ordinary code, the domain's trap
handler and domain 0; every other access raises PROT with the index, and an index that is not assigned is ILLEGAL. -/
def Obligations.SystemReadsAndRights : Prop :=
  (∀ (s : State) (g : KReg) (d : XReg) (i : BitVec 13), GuardOn s g → PortsFit s [] [d] →
     (sysAllowed s i.toNat false = .illegal → exec (.sysrd g d i) s = .next (s.trapped .illegal s.bundle s.cur.pc)) ∧
     (∀ v, sysAllowed s i.toNat false = .prot v → exec (.sysrd g d i) s = .next (s.trapped .prot v s.cur.pc)) ∧
     (sysAllowed s i.toNat false = .ok () → i.toNat < 0x100 → i ≠ 0x51 → Gives (.sysrd g d i) s s d (sysLow s i.toNat) false) ∧
     (∀ v, sysAllowed s i.toNat false = .ok () → 0x100 ≤ i.toNat → sysHigh s i.toNat = .ok v → Gives (.sysrd g d i) s s d v false) ∧
     (s.eventAllowed = true → Gives (.sysrd g d 0x51) s s d s.rd.evcnt false) ∧
     (s.eventAllowed = false →
       Gives (.sysrd g d 0x51) s { s with cur := { s.cur with st := putBit s.cur.st 16 true } } d 0 false) ∧
     sysLow s 0x00 = s.rd.stWord ∧ sysLow s 0x01 = s.rd.cb ∧ sysLow s 0x02 = s.rd.ocWord ∧
     sysLow s 0x03 = s.rd.taint.setWidth 64 ∧ sysLow s 0x04 = s.rd.pw.setWidth 64 ∧ sysLow s 0x05 = s.rd.domWord ∧
     sysLow s 0x06 = s.rd.chg ∧ sysLow s 0x08 = s.rd.fmtA.setWidth 64 ∧ sysLow s 0x09 = s.rd.fmtB.setWidth 64 ∧
     sysLow s 0x0A = s.rd.scA ∧ sysLow s 0x0B = s.rd.scB ∧ sysLow s 0x0C = s.rd.scC ∧
     sysLow s 0x0D = s.rd.agv.setWidth 64 ∧ sysLow s 0x0E = s.rd.agc.setWidth 64 ∧ sysLow s 0x0F = (if s.rd.cen then 1 else 0) ∧
     sysLow s 0x40 = (s.domain s.cur.dom).tvec ∧ sysLow s 0x41 = s.rd.tcause ∧ sysLow s 0x42 = s.rd.epc ∧
     sysLow s 0x43 = s.rd.tval ∧ sysLow s 0x44 = s.rd.est ∧ sysLow s 0x45 = (s.domain s.cur.dom).dcb ∧
     sysLow s 0x50 = s.rd.evsel) ∧
  (∀ (s : State) (i : Nat), i < 0x100 →
     let handler := s.cur.hm = true ∨ s.cur.dom = 0
     let no : SysAns Unit := .prot (BitVec.ofNat 64 i)
     (i ∈ [0, 1, 4, 0x50] → sysAllowed s i false = .ok () ∧ sysAllowed s i true = .ok ()) ∧
     (i ∈ [2, 3, 5, 6, 8, 9, 0xA, 0xB, 0xC, 0xD, 0xE, 0xF, 0x10, 0x11, 0x51, 0x52] →
       sysAllowed s i false = .ok () ∧ sysAllowed s i true = no) ∧
     (i ∈ [0x18, 0x19, 0x1A, 0x1B, 0x1C, 0x1D, 0x1E, 0x1F] →
       (s.cur.dom = 0 → sysAllowed s i false = .ok ()) ∧ (s.cur.dom ≠ 0 → sysAllowed s i false = no) ∧ sysAllowed s i true = no) ∧
     (i ∈ [0x40, 0x42, 0x44] →
       (handler → sysAllowed s i false = .ok () ∧ sysAllowed s i true = .ok ()) ∧
       (¬handler → sysAllowed s i false = no ∧ sysAllowed s i true = no)) ∧
     (i ∈ [0x41, 0x43] →
       (handler → sysAllowed s i false = .ok ()) ∧ (¬handler → sysAllowed s i false = no) ∧ sysAllowed s i true = no) ∧
     (i = 0x45 → sysAllowed s i false = .ok () ∧ (handler → sysAllowed s i true = .ok ()) ∧ (¬handler → sysAllowed s i true = no)) ∧
     (i ∉ [0, 1, 2, 3, 4, 5, 6, 8, 9, 0xA, 0xB, 0xC, 0xD, 0xE, 0xF, 0x10, 0x11, 0x18, 0x19, 0x1A, 0x1B, 0x1C, 0x1D, 0x1E, 0x1F,
         0x40, 0x41, 0x42, 0x43, 0x44, 0x45, 0x50, 0x51, 0x52] →
       sysAllowed s i false = .illegal ∧ sysAllowed s i true = .illegal))

/-- R12 to R14, R214: `syswr`, and what each register below 0x100 takes. Sticky flags of st are cleared by a written 1, and
its RM, FZS and FZR take the written bits; a reserved RM is ILLEGAL and changes nothing. -/
def Obligations.SystemWrites : Prop :=
  (∀ (s s1 : State) (g : KReg) (a : XReg) (i : BitVec 13) (v : Word) (t : Bool),
    GuardOn s g → PortsFit s [a] [] → ReadsAs s a v t s1 →
      (sysAllowed s1 i.toNat true = .illegal → exec (.syswr g a i) s = .next (s.trapped .illegal s.bundle s.cur.pc)) ∧
      (∀ x, sysAllowed s1 i.toNat true = .prot x → exec (.syswr g a i) s = .next (s.trapped .prot x s.cur.pc)) ∧
      (∀ s2, sysAllowed s1 i.toNat true = .ok () → i ≠ 0x120 → i ≠ 0x830 →
        (if i.toNat < 0x100 then sysWriteLow s1 i.toNat v else sysWriteHigh s1 i.toNat v) = .ok s2 → Retires (.syswr g a i) s s2)) ∧
  (∀ (s : State) (v : Word),
    let d := s.domain s.cur.dom
    sysWriteLow s 0x01 v = .ok { s with cur := { s.cur with cb := v } } ∧
    sysWriteLow s 0x04 v = .ok { s with cur := { s.cur with pw := v.extractLsb' 1 7 ++ 1#1 } } ∧
    sysWriteLow s 0x40 v = .ok (s.setDomain { d with tvec := v.extractLsb' 2 62 ++ 0#2 }) ∧
    sysWriteLow s 0x42 v = .ok { s with cur := { s.cur with epc := v.extractLsb' 2 62 ++ 0#2 } } ∧
    sysWriteLow s 0x45 v = .ok (s.setDomain { d with dcb := v }) ∧
    sysWriteLow s 0x50 v = .ok { s with cur := { s.cur with evsel := v, evcnt := 0 } } ∧
    (4 < (v.extractLsb' 0 3).toNat → sysWriteLow s 0x00 v = .illegal ∧ sysWriteLow s 0x44 v = .illegal) ∧
    ((v.extractLsb' 0 3).toNat ≤ 4 → v.getLsbD 7 = false → s.cur.vbusy = true → sysWriteLow s 0x00 v = .wait) ∧
    ((v.extractLsb' 0 3).toNat ≤ 4 → v.getLsbD 7 = true → ∃ u, sysWriteLow s 0x00 v = .ok u ∧
      u = { s with cur := { s.cur with st := u.cur.st } } ∧
      ∀ j, u.cur.st.getLsbD j =
        if j < 5 then v.getLsbD j else if 16 ≤ j ∧ j < 24 then s.cur.st.getLsbD j && !v.getLsbD j else s.cur.st.getLsbD j) ∧
    ((v.extractLsb' 0 3).toNat ≤ 4 → ∃ u, sysWriteLow s 0x44 v = .ok u ∧ u = { s with cur := { s.cur with est := u.cur.est } } ∧
      ∀ j, u.cur.est.getLsbD j = if j < 5 ∨ (16 ≤ j ∧ j < 24) then v.getLsbD j else s.cur.est.getLsbD j))

/-! ### Messages -/

/-- R116, R117, R119, R120: `msend` stages a message, waits out of rotation while the core's buffer is full, and is PROT for
another domain; `mrecv` removes the oldest message for the current domain into a run of registers; `mrecv` and `waitm` wait for
one out of rotation. -/
def Obligations.Messages : Prop :=
  let held (s : State) : State := ({ s with cur := { s.cur with stands := none } } : State).parked .held
  (∀ (s s1 s2 : State) (g : KReg) (a b : XReg) (m : BitVec 3) (w : Word) (t : Bool) (vs : List Word),
    GuardOn s g → PortsFit s (a :: (List.range (m.toNat + 1)).map fun i => b + BitVec.ofNat 4 i) [] → ReadsAs s a w t s1 →
    ReadsRun s1 b.toNat (m.toNat + 1) vs s2 →
      let fits := destDom w = s2.cur.dom ∧ w.extractLsb' 14 6 = 0#6
      (¬fits → exec (.msend g a b m) s = .next (s.trapped .prot w s.cur.pc)) ∧
      (fits → 32 ≤ s2.buffered s2.cur.core → exec (.msend g a b m) s = .next (held s)) ∧
      (fits → s2.buffered s2.cur.core < 32 → ∃ u e, Retires (.msend g a b m) s u ∧ u.cur = s2.cur ∧ u.mem = s2.mem ∧
        (u.core s2.cur.core).retry = (s2.core s2.cur.core).retry ++ [e] ∧ e.sender = s2.cur.num ∧ e.dom = s2.cur.dom ∧
        e.dest = w ∧ e.stage = none ∧ e.payload = vs)) ∧
  (∀ (s s1 : State) (g : KReg) (d : XReg) (m : BitVec 3), GuardOn s g →
    PortsFit s [] ((List.range (m.toNat + 1)).map fun i => d + BitVec.ofNat 4 i) →
      (s.oldestMail = none → exec (.mrecv g d m) s = .next (held s)) ∧
      (∀ e, s.oldestMail = some e →
        let vs := e.header :: (List.range m.toNat).map fun i => e.payload.getD i 0
        (s.damage.any fun d => d.spot == .mailbox s.cur.core) = false → TakesRun s d.toNat vs s1 →
          Retires (.mrecv g d m) s (s1.dropMail.setRun d.toNat vs))) ∧
  (∀ (s : State) (g : KReg), GuardOn s g →
    (s.oldestMail.isSome → Retires (.waitm g) s s) ∧ (s.oldestMail = none → exec (.waitm g) s = .next (held s))) ∧
  (∀ (s : State) (e : Mail), s.oldestMail = some e → e.thread = s.cur.num ∧ e.dom = s.cur.dom ∧
    e ∈ (s.core s.cur.core).mailbox ∧ (s.dropMail.core s.cur.core).mailbox = (s.core s.cur.core).mailbox.erase e)

/-! ### Matrix words -/

/-- R157, R161: `mlease` writes 3 where the thread has an intent; asks the arbiter and waits where it has none; and takes the
grant that has come. `mfree` ends the intent; a grant goes once the thread's operations on its comb have completed. R21, R175,
R176: the words that set agreement and shadow registers; agv is kept within 0 to 1. R165, R166: those that read and reclaim
accumulator slots, with the bits of the status word. -/
def Obligations.MatrixRegisterWords : Prop :=
  (∀ (s : State) (g : KReg), GuardOn s g →
     (∀ (d : XReg) (e : BitVec 2) (p : BitVec 3), PortsFit s [] [d] →
       (s.cur.intent.isSome → Gives (.mlease g d e p) s s d 3 false) ∧
       (s.cur.intent = none → s.cur.granted = false →
         exec (.mlease g d e p) s = .next ((s.requestLease (e == 0) p).parked .lease)) ∧
       (∀ gr s1, s.cur.intent = none → s.cur.granted = true → (s.comb (combOf s.cur.core)).grantOf s.cur.num = some gr →
         let v : Word := if gr.whole then 2 else 1 + 4 * gr.quarter.setWidth 64
         Takes s d v s1 → ∃ u, Retires (.mlease g d e p) s u ∧ u.cur.intent = some (e == 0, p) ∧ u.cur.granted = false ∧
           (s1.cur.port? d = none → u.cur.reg d = v ∧ u.mem = s1.mem ∧ u.combs = s1.combs))) ∧
     (s.cur.intent = none → Retires (.mfree g) s s) ∧
     (s.cur.intent.isSome → ∃ u, Retires (.mfree g) s u ∧ u.cur.intent = none ∧ u.cur.x = s.cur.x ∧ u.cur.taint = s.cur.taint ∧
       u.mem = s.mem ∧ ∀ c ∈ u.combs, (∀ r ∈ c.requests, r.thread ≠ s.cur.num) ∧
         ∀ gr ∈ c.grants, gr.thread = s.cur.num → gr.ending = true ∧ ∃ o ∈ c.queue, o.thread = s.cur.num)) ∧
  (∀ (s s1 : State) (g : KReg) (a : XReg) (v : Word) (t : Bool), GuardOn s g → PortsFit s [a] [] → ReadsAs s a v t s1 →
     Retires (.magr g a 0) s { s1 with cur := { s1.cur with agv := limitAgv (v.extractLsb' 0 32) } } ∧
     Retires (.magr g a 1) s { s1 with cur := { s1.cur with agc := v.extractLsb' 0 16 } } ∧
     Retires (.magr g a 2) s { s1 with cur := { s1.cur with cen := v.getLsbD 0 } } ∧
     Retires (.mfmt g a 0) s { s1 with cur := { s1.cur with fmtA := v.extractLsb' 0 4 } } ∧
     Retires (.mfmt g a 1) s { s1 with cur := { s1.cur with fmtB := v.extractLsb' 0 4 } } ∧
     Retires (.mfmt g a 2) s { s1 with cur := { s1.cur with scA := v } } ∧
     Retires (.mfmt g a 3) s { s1 with cur := { s1.cur with scB := v } } ∧
     Retires (.mfmt g a 4) s { s1 with cur := { s1.cur with scC := v } }) ∧
  (∀ (s s1 : State) (g : KReg) (d : XReg) (n : BitVec 4), GuardOn s g → PortsFit s [] [d] →
     let c := combOf s.cur.core
     let r := s.setComb (reclaim s.cur n (s.comb c))
     (Takes s d (statusWord s n) s1 → Retires (.mstat g d n) s (s1.clearBerr.setX d (statusWord s n) false)) ∧
     ((s.comb c).busy allSubs n = false → (s.comb c).busy allSubs (n ^^^ 1) = false → Takes r d (statusWord r n) s1 →
       Retires (.mreclaim g d n) s (s1.clearBerr.setX d (statusWord r n) false)) ∧
     (Unbound s.rd → Unbound s.cur →
       (∃ u, Retires (.mstat g d n) s u ∧ u.cur.reg d = statusWord s n ∧ u.cur.tainted d = false ∧
         (∀ q, q ≠ d → u.cur.reg q = s.cur.reg q) ∧ u.mem = s.mem ∧ (u.comb c).accs = (s.comb c).accs ∧
         ∀ b ∈ (u.comb c).berr, b.1 ≠ s.cur.num) ∧
       ((s.comb c).busy allSubs n = false → (s.comb c).busy allSubs (n ^^^ 1) = false →
         ∃ u, Retires (.mreclaim g d n) s u ∧ u.cur.reg d = statusWord r n ∧ (∀ q, q ≠ d → u.cur.reg q = s.cur.reg q) ∧
           u.mem = s.mem ∧ (u.comb c).accs.length = (s.comb c).accs.length ∧
           ∀ a ∈ (u.comb c).accs, a.n = n → a.thread = s.cur.num → a.dom = s.cur.dom → a.parked = false))) ∧
  (∀ (s : State) (n : BitVec 4),
     let k := s.comb (combOf s.cur.core)
     let v := statusWord s n
     let own (p : Acc → Prop) : Prop := ∃ a ∈ k.accs, a.n = n ∧ a.thread = s.cur.num ∧ a.dom = s.cur.dom ∧ p a
     (∀ q : BitVec 2,
       (v.getLsbD q.toNat = true ↔ own fun a => a.sub = q ∧ a.parked = false) ∧
       (v.getLsbD (4 + q.toNat) = true ↔ own fun a => a.sub = q ∧ a.parked = true) ∧
       (v.getLsbD (8 + q.toNat) = true ↔
         ∃ a ∈ k.accs, a.n = n ∧ a.sub = q ∧ ¬(a.thread = s.cur.num ∧ a.dom = s.cur.dom))) ∧
     (v.getLsbD 12 = true ↔ own fun a => a.split = true) ∧ (v.getLsbD 13 = true ↔ own fun a => a.i32 = some true) ∧
     (v.getLsbD 15 = true ↔ own fun a => a.err = true) ∧
     v.extractLsb' 20 4 = (match k.grants.find? fun g => g.thread == s.cur.num with
       | none => 0#4
       | some g => if g.whole then 2#4 else g.quarter ++ 1#2) ∧
     (v.getLsbD 24 = true ↔ ∃ b ∈ k.berr, b.1 = s.cur.num) ∧ v.extractLsb' 28 36 = 0#36) ∧
  (limitAgv 0x7FC00000 = 0x3F800000 ∧ limitAgv 0x40000000 = 0x3F800000 ∧ limitAgv 0xBF000000 = 0 ∧ limitAgv 0x3F000000 = 0x3F000000)

/-- R163, R167, R172, R173: the issue of `mzero`, `mma` and `mmas`: the operation enters the comb's queue. R153, R167, R174: the
issue of `mbload` and `mdrain`. That the tags of B which an `mma` or `mmas` checks are those that stand at its issue, and not
those that queued loads will leave, is the model's reading (log entry 29, DEDUCED). What of pattern and lease an `mbload` is
checked for (loadFits) is the model's reading where R152 and R153 leave it open (log entry 63, DESIGN CHOICE), and so is that
its length is the one after expansion and padding (log entry 80). -/
def Obligations.TileWords : Prop :=
  ((∀ (s : State) (g : KReg) (d : BitVec 4) (sh : BitVec 3) (x : BitVec 1) (gr : Grant),
     let split := x == 1#1
     let subs := shapeSubs sh gr
     let c := s.comb (combOf s.cur.core)
     GuardOn s g → TileMay s (shapeOk sh && !(split && d.getLsbD 0) && splitAllowed s split) (sh != 0) d gr →
     SlotsPass s subs (opSlots d split) →
     (c.busy subs d = false ∧ c.busy subs (d ^^^ 1) = false) ∨
       (∀ q n a, c.acc? q n = some a → a.thread = s.cur.num → a.dom = s.cur.dom → a.split = split) →
       ∃ u o, Retires (.mzero g d sh x) s u ∧ Queued s u o ∧ o.instr = .mzero g d sh x ∧ o.subs = subs ∧ u.mem = s.mem ∧
         u.cur.x = s.cur.x) ∧
   (∀ (s s1 s2 s3 s4 s5 : State) (g : KReg) (d : BitVec 4) (a b : XReg) (sh : BitVec 3) (split t : Bool) (gr : Grant) (ha hb : Word)
       (ea eb : HEntry) (wa wb : List Word) (ta tb : Tensor),
     let i : Instr := if split then .mmas g d a b sh 0 else .mma g d a b sh 0
     let subs := shapeSubs sh gr
     let c := s5.comb (combOf s5.cur.core)
     let i32 := family ta.fmt == 2
     GuardOn s g → PortsFit s [a, b] [] → ReadsTwo s a b ha hb t s1 →
     TileMay s (shapeOk sh && !(split && d.getLsbD 0) && splitAllowed s split) (sh != 0) d gr →
     FindsEntry s1 ha 1 ea s2 → FindsEntry s2 hb 1 eb s3 → Describes s3 ea.addr wa s4 → Describes s4 eb.addr wb s5 →
     tensorFor s .a (ha.extractLsb' 0 32) wa = some ta → tensorFor s .b (hb.extractLsb' 0 32) wb = some tb →
     multiplyFits ta tb sh split = true →
     (∀ q ∈ subs, ∀ n < 16, c.tagFor (16 * q.toNat + n) = s5.cur.dom) → SlotsPass s5 subs (opSlots d split) →
     c.slotsAre subs (opSlots d split) (fun z => z.split == split && (z.i32.isNone || z.i32 == some i32)) = true →
       ∃ u o, Retires i s u ∧ Queued s5 u o ∧ o.instr = i ∧ o.subs = subs ∧ o.a = some ta ∧ o.b = some tb ∧ o.rm = s.rd.rm ∧
         o.agv = s.rd.agv ∧ u.mem = s5.mem ∧ u.cur.x = s5.cur.x ∧ u.cur.wait = some .access)) ∧
  ((∀ (s s1 s2 s3 : State) (g : KReg) (a b : XReg) (t : Bool) (gr : Grant) (ha pat : Word) (ea : HEntry) (wa : List Word) (ta : Tensor),
     let subs := if gr.whole then allSubs else [gr.quarter]
     GuardOn s g → PortsFit s [a, b] [] → ReadsTwo s a b ha pat t s1 → TileMay s true false 0 gr →
     FindsEntry s1 ha 1 ea s2 → Describes s2 ea.addr wa s3 → tensorFor s .source (ha.extractLsb' 0 32) wa = some ta →
     ta.sp = false → loadBytes ta < 2 ^ 48 → loadFits pat (loadBytes ta) subs = true →
       ∃ u o, Retires (.mbload g a b) s u ∧ Queued s3 u o ∧ o.instr = .mbload g a b ∧ o.a = some ta ∧ o.pattern = pat ∧
         (∀ q ∈ o.subs, q ∈ subs) ∧ u.mem = s3.mem ∧ u.cur.x = s3.cur.x ∧ u.cur.wait = some .access) ∧
   (∀ (s s1 s2 s3 : State) (g : KReg) (d : BitVec 4) (a b : XReg) (m c : BitVec 2) (x : BitVec 1) (sh : BitVec 3) (t : Bool) (gr : Grant)
       (ha rnd : Word) (ea : HEntry) (wa : List Word) (ta : Tensor),
     let split := x == 1#1
     let subs := shapeSubs sh gr
     let k := s3.comb (combOf s3.cur.core)
     let whole := subs.filter fun q => !(k.slotsAre [q] (opSlots d split) fun z => z.i32 != some true)
     GuardOn s g → PortsFit s [a, b] [] → ReadsTwo s a b ha rnd t s1 →
     TileMay s (shapeOk sh && !(split && d.getLsbD 0) && (split || m == 0) && splitAllowed s split) (sh != 0) d gr →
     FindsEntry s1 ha 1 ea s2 → Describes s2 ea.addr wa s3 → tensorFor s .dest (ha.extractLsb' 0 32) wa = some ta →
     drainFits ta sh (split && m == 0) = true → SlotsPass s3 subs (opSlots d split) →
     k.slotsAre subs (opSlots d split) (fun z => z.split == split) = true → (whole ≠ [] → c = 0) →
       ∃ u o, Retires (.mdrain g d a b m c x sh) s u ∧ Queued s3 u o ∧ o.instr = .mdrain g d a b m c x sh ∧ o.subs = subs ∧
         o.a = some ta ∧ o.random = rnd ∧ o.i32 = whole ∧ u.mem = s3.mem ∧ u.cur.x = s3.cur.x ∧ u.cur.wait = some .access))

/-! ### Copies, ports, threads -/

/-- R178, R180, R182, R185: a copy word reads its 64-byte block and the command enters the core's FIFO; with a promise, x(d)
takes a word whose low byte is the tag. It waits as R180 says, and a block that is not aligned is ALIGN. -/
def Obligations.CopyWords : Prop :=
  ∀ f ∈ copyForms, ∀ (s s1 s2 s3 s5 : State) (g : KReg) (d a b : XReg) (p m c : BitVec 1) (va : Word) (t tnt : Bool)
    (bar : Option Word) (ps : List Nat),
    GuardOn s g → PortsFit s (if c = 1 then [a, b] else [a]) (if p = 1 then [d] else []) → ReadsAs s a va t s1 →
    (c = 0 ∧ bar = none ∧ s2 = s1 ∧ tnt = t ∨ c = 1 ∧ ∃ w u, bar = some w ∧ tnt = (t || u) ∧ ReadsAs s1 b w u s2) →
      (copyWaits (s2.core s2.cur.core) s2.cur (m == 1) = true → exec (f.1 g d a b p m c) s = .next (s.parked .cond)) ∧
      (copyWaits (s2.core s2.cur.core) s2.cur (m == 1) = false → va.extractLsb' 0 6 ≠ 0#6 →
        exec (f.1 g d a b p m c) s = .next (s.trapped .align va s.cur.pc)) ∧
      (copyWaits (s2.core s2.cur.core) s2.cur (m == 1) = false → va.extractLsb' 0 6 = 0#6 → Grants s2 .read va 64 ps s3 →
        let s4 := (s3.readDwords va ps).2
        let block := (s3.readDwords va ps).1
        (bar = none ∧ s5 = s4 ∨
          ∃ w qs, bar = some w ∧ w.toNat % 8 = 0 ∧ ∀ k, checked s4 .write w 8 k = k qs s5) →
        (p = 1 → (∀ q, s5.cur.port? d = some q → q.kind = 0) ∧ ∀ v u, u = s5 ∨ u = s5.freeVal.2 → Takes u d v u) →
          ∃ u e, Retires (f.1 g d a b p m c) s u ∧ u.cur.cpo = s5.cur.cpo + 1 ∧ u.cur.wait = some .access ∧
            (p = 0 → u.cur.x = s5.cur.x) ∧
            (p = 1 → s5.cur.port? d = none →
              (u.cur.reg d).extractLsb' 0 8 = (block.getD 7 0).extractLsb' 0 8 ∧ u.cur.tainted d = tnt) ∧
            (p = 0 → (u.core s5.cur.core).fifo = (s5.core s5.cur.core).fifo ++ [e]) ∧
            e ∈ (u.core s5.cur.core).fifo ∧ e.op = f.2 ∧ e.block = block ∧ e.post = (m == 1) ∧ e.barrier = bar ∧
            e.thread = s5.cur.num ∧ e.dom = s5.cur.dom)

/-- R190 to R192: `pbind` binds a free register to a slot queue, a ring, or a result or command port; `punbind` releases it. -/
def Obligations.PortWords : Prop :=
  (∀ (s s1 : State) (g : KReg) (d a : XReg) (k : BitVec 2) (e : BitVec 1) (v : Word) (t : Bool),
    8 ≤ d.toNat → d.toNat ≤ 13 → GuardOn s g → PortsFit s [a] [] → ReadsAs s a v t s1 → s1.cur.pend.getLsbD d.toNat = false →
      let port : Port := { bound := true, push := e == 1, kind := k, target := v }
      ((s1.cur.port? d).isSome → exec (.pbind g d a k e) s = .next (s.trapped .prot 0x4000A s.cur.pc)) ∧
      (s1.cur.port? d = none →
        (2 ≤ k.toNat → v = 0 → ∃ u, Retires (.pbind g d a k e) s u ∧ u.cur.port? d = some port ∧
          (∀ r, r ≠ d → u.cur.port? r = s1.cur.port? r) ∧ u.cur.x = s1.cur.x ∧ u.mem = s1.mem) ∧
        (2 ≤ k.toNat → v ≠ 0 → exec (.pbind g d a k e) s = .next (s.trapped .prot 0x4000C s.cur.pc)) ∧
        (k = 0 → v.toNat < 8 →
          let q (u : State) := (u.core s1.cur.core).queues.toList.getD v.toNat {}
          let holder (u : State) := if e = 1 then (q u).pusher else (q u).popper
          (holder s1 = none → ∃ u, Retires (.pbind g d a k e) s u ∧ u.cur.port? d = some port ∧ holder u = some s1.cur.num ∧
            (q u).elems = (q s1).elems ∧ u.cur.x = s1.cur.x ∧ u.mem = s1.mem) ∧
          (holder s1 ≠ none → exec (.pbind g d a k e) s = .next (s.trapped .prot 0x40009 s.cur.pc))) ∧
        (k = 1 → v.extractLsb' 0 6 ≠ 0#6 → exec (.pbind g d a k e) s = .next (s.trapped .align v s.cur.pc)) ∧
        (∀ ps s2, k = 1 → v.extractLsb' 0 6 = 0#6 → Grants s1 .read v 64 ps s2 →
          (ringOk (s2.readDwords v ps).1 = true → ∃ u, Retires (.pbind g d a k e) s u ∧ u.cur.port? d = some port ∧
            u.cur.x = s2.cur.x ∧ u.mem = s2.mem ∧ u.cur.wait = some .access) ∧
          (ringOk (s2.readDwords v ps).1 = false → exec (.pbind g d a k e) s = .next (s.trapped .prot 0x4000C s.cur.pc))))) ∧
  (∀ (s : State) (g : KReg) (d : XReg), GuardOn s g →
    (s.cur.port? d = none → Retires (.punbind g d) s s) ∧
    (∀ p, s.cur.port? d = some p → ∃ u, Retires (.punbind g d) s u ∧ u.cur.port? d = none ∧ u.cur.x = s.cur.x ∧ u.mem = s.mem ∧
      (p.kind = 2 → u.cur.result = []) ∧ (p.kind = 3 → u.cur.cmdWords = [])))

/-- R193, R194: `spawn` and `spawn.w` ask for a thread with x0 to x3 as seeds and wait for the answer, which the predicate
takes; a core outside the VD's set is PROT and a misaligned entry ALIGN. `quit` ends a thread at depth 0 that is no stage worker,
once its accesses are over. -/
def Obligations.SpawnAndQuit : Prop :=
  (∀ (s s1 s2 : State) (g k : KReg) (a b : XReg) (va vb : Word) (t retry : Bool) (seeds : List Word),
    let i : Instr := if retry then .spawnW g k a b else .spawn g k a b
    let core := va.extractLsb' 0 10
    let ok := va.extractLsb' 10 54 = 0#54 ∧ s2.inCoreSet s2.cur.vdid core = true
    GuardOn s g → PortsFit s [a, b] [] → ReadsTwo s a b va vb t s1 → ReadsRun s1 0 4 seeds s2 →
      (∀ yes, s2.cur.answer = some yes → Retires i s { s2 with cur := { s2.cur.setPred k yes with answer := none } }) ∧
      (s2.cur.answer = none → ¬ok → exec i s = .next (s.trapped .prot 0x40008 s.cur.pc)) ∧
      (s2.cur.answer = none → ok → vb.extractLsb' 0 2 ≠ 0#2 → exec i s = .next (s.trapped .align vb s.cur.pc)) ∧
      (s2.cur.answer = none → ok → vb.extractLsb' 0 2 = 0#2 → s2.spawning = true → exec i s = .next (s.parked .spawn)) ∧
      (s2.cur.answer = none → ok → vb.extractLsb' 0 2 = 0#2 → s2.spawning = false → ∃ r, exec i s =
        .next (({ s with spawns := s.spawns ++ [(core, r)] } : State).parked .spawn) ∧ r.spawner = s.rd.num ∧ r.seeds = seeds ∧
          r.pc = vb ∧ r.cb = s.rd.cb ∧ r.dom = s.rd.dom ∧ r.vd = s.rd.vdid ∧ r.retry = retry)) ∧
  (∀ (s : State) (g : KReg), GuardOn s g →
    (s.cur.depth ≠ 0 → exec (.quit g) s = .next (s.trapped .prot 0x4000B s.cur.pc)) ∧
    (s.cur.depth = 0 → s.cur.worker.isSome → exec (.quit g) s = .next (s.trapped .prot 0x40005 s.cur.pc)) ∧
    (s.cur.depth = 0 → s.cur.worker = none → (s.cur.ldo ≠ 0 ∨ s.cur.sto ≠ 0 ∨ s.cur.vbusy = true) →
      exec (.quit g) s = .next (s.parked .cond)) ∧
    (s.cur.depth = 0 → s.cur.worker = none → s.cur.ldo = 0 → s.cur.sto = 0 → s.cur.vbusy = false →
      ∃ u, exec (.quit g) s = .next u ∧ u.mark = .retired ∧ u.cur.num = s.cur.num ∧ u.cur.place = .gone))

/-! ### Keyed stages and gates -/

/-- R197 to R205, R380: the keyed words, where the VD has accepted keyed stages: the VD to which the thread's domain belongs
(log entry 39). `kput` stages a record of x(b) to x(b + 2), and waits out of rotation while the core's buffer is full, which
counts what log entry 13 names; `kwait` suspends the coroutine, `kend` ends it, and the worker waits for its next record;
`kopen` opens a stage, or writes the status that says why it opens nothing, 5 where a save area fails (R358) included; `kclose`
drops its handle, asks for its close and writes the count once it is closed; `kstat` reads it. A stage of another domain is
PROT. What counts in that buffer is the model's choice (log entry 13, DESIGN CHOICE), and the VD whose feature counts its
reading (log entry 39). -/
def Obligations.KeyedWords : Prop :=
  (∀ (s : State) (g : KReg), GuardOn s g → s.feature s.cur.vdid 3 = false → ∀ (d a b : XReg),
    ∀ i ∈ [(.kopen g d a : Instr), .kclose g d a, .kput g a b, .kwait g, .kend g, .kstat g d a b],
      exec i s = .next (s.trapped .illegal s.bundle s.cur.pc)) ∧
  (∀ (s : State) (g : KReg), GuardOn s g → s.feature s.cur.vdid 3 = true →
    (∀ (a b : XReg) (h : Word) (t : Bool) (vs : List Word) (e : HEntry) (s1 s2 s3 : State), b.toNat ≤ 13 →
      PortsFit s (a :: (List.range 3).map fun i => b + BitVec.ofNat 4 i) [] → ReadsAs s a h t s1 → ReadsRun s1 b.toNat 3 vs s2 →
      FindsEntry s2 h 3 e s3 →
        (32 ≤ s3.buffered s3.cur.core →
          exec (.kput g a b) s = .next (({ s with cur := { s.cur with stands := none } } : State).parked .held)) ∧
        (s3.buffered s3.cur.core < 32 → ∃ u m, Retires (.kput g a b) s u ∧ u.cur = s3.cur ∧ u.mem = s3.mem ∧
          (u.core s3.cur.core).retry = (s3.core s3.cur.core).retry ++ [m] ∧ m.payload = vs ∧ m.sender = s3.cur.num ∧
          m.stage = some (e.core, s3.linkOf s3.cur.dom e.slot))) ∧
    (s.cur.worker = none → exec (.kwait g) s = .next (s.trapped .prot 0x40001 s.cur.pc) ∧
      exec (.kend g) s = .next (s.trapped .prot 0x40001 s.cur.pc)) ∧
    (∀ w m, s.cur.worker = some w → kwaitCheck s w = .ok m → s.cur.quiet = true →
      ∃ u, exec (.kwait g) s = .next u ∧ u.mark = .retired ∧ u.cur.wait = some .record ∧ u.cur.pc = s.cur.pc + 4 ∧
        u.cur.worker = some { w with key := none } ∧ u.mem = s.mem) ∧
    (∀ w, s.cur.worker = some w → s.cur.quiet = true → s.cur.vbusy = false → s.cur.depth = 0 →
      ∃ u, exec (.kend g) s = .next u ∧ u.mark = .retired ∧ u.cur.wait = some .record ∧ u.cur.pc = s.cur.pc + 4 ∧
        u.cur.worker = some { w with key := none } ∧
        (u.core w.core).broodOf w.stage (w.key.getD 0) = none) ∧
    (∀ (d a : XReg) (desc : Word) (t : Bool) (s0 s1 : State) (ps : List Nat), PortsFit s [a] [d] → ReadsAs s a desc t s0 →
      let writes (u : State) (v : Word) : Prop := ∀ z, Takes u d v z → Retires (.kopen g d a) s (z.setX d v t).inFlight
      (desc.toNat % 64 ≠ 0 → exec (.kopen g d a) s = .next (s.trapped .align desc s.cur.pc)) ∧
      (desc.toNat % 64 = 0 → Grants s0 .read desc 64 ps s1 →
        let w := wordAt (s1.readDwords desc ps).1
        let s2 := (s1.readDwords desc ps).2
        (stageFieldsOk (s2.domain s2.cur.dom) w = false → writes s2 0x300000000) ∧
        (∀ qs s3, stageFieldsOk (s2.domain s2.cur.dom) w = true → Grants s2 .read (w 0) 128 qs s3 →
          let v := wordAt (s3.readDwords (w 0) qs).1
          let s4 := (s3.readDwords (w 0) qs).2
          let dom := s4.domain s4.cur.dom
          let nw := ((w 3).extractLsb' 0 3).toNat + 1
          let free := s4.freeSlots s4.cur.core dom.vd
          let st := stageFrom s4 (s4.core s4.cur.core) dom w v
          let taken := (s4.hentry dom ((w 4).extractLsb' 0 20).toNat).kind ≠ 0
          let slot := ((w 4).extractLsb' 0 20).toNat
          let opens := (s4.readEntries dom [slot]).openStage st (free.take nw)
          (templateOk v = false → writes s4 0x300000000) ∧
          (templateOk v = true → presentAll (dom.htbase + 16 * slot) 16 = true →
            (taken → writes s4 0x400000000) ∧
            (¬taken → 4 ≤ (s4.core s4.cur.core).stages.length → writes s4 0x200000000) ∧
            (¬taken → (s4.core s4.cur.core).stages.length < 4 →
              (free.length < nw → writes s4 0x100000000) ∧
              (∀ s5, nw ≤ free.length → opens = .ok s5 → writes s5 (0#32 ++ st.hslot ++ st.gen)) ∧
              (∀ held, nw ≤ free.length → opens = .failed held →
                writes (({ s4 with allocHeld := held } : State).vdSticky dom.vd flagNOSAVE) 0x500000000) ∧
              (∀ n ms, nw ≤ free.length → opens = .later n ms →
                exec (.kopen g d a) s = .next ((s.allocMiss s4.cur.core n ms).parked .held))))))) ∧
    (∀ (d a : XReg) (x : Word) (t : Bool) (s1 : State), PortsFit s [a] [d] → ReadsAs s a x t s1 →
      (∀ n s2, s.cur.closed = some n → Takes s1 d n s2 → ∃ u, Retires (.kclose g d a) s u ∧ u.cur.closed = none ∧
        (s2.cur.port? d = none → u.cur.reg d = n ∧ u.cur.tainted d = t ∧ u.mem = s2.mem)) ∧
      (∀ e s2, s.cur.closed = none → FindsEntry s1 x 3 e s2 →
        (e.odom ≠ s2.cur.dom → exec (.kclose g d a) s = .next (s.trapped .prot 0x40007 s.cur.pc)) ∧
        (∀ s3, e.odom = s2.cur.dom → Takes s2 d 0 s3 →
          let own := s3.cur.worker.any fun w => w.core == e.core && w.stage == s3.linkOf s3.cur.dom e.slot
          (own = true → exec (.kclose g d a) s = .next (s.trapped .prot 0x40006 s.cur.pc)) ∧
          (∀ st, own = false → s3.stageOf s3.cur.dom e = some st →
            ∃ u : State, exec (.kclose g d a) s = .next (u.parked .closing) ∧
              ∀ z ∈ (u.core e.core).stages, z.id = st.id → z.closing = some s3.cur.num) ∧
          (own = false → s3.stageOf s3.cur.dom e = none → ∃ u : State, Retires (.kclose g d a) s u.inFlight ∧
            (s3.cur.port? d = none → u.cur.reg d = 0 ∧ u.cur.tainted d = t))))) ∧
    (∀ (d a b : XReg), (7 < b.toNat → exec (.kstat g d a b) s = .next (s.trapped .illegal s.bundle s.cur.pc)) ∧
      (b = 0 → PortsFit s [] [d] → Gives (.kstat g d a b) s s d ((s.cur.worker.bind Worker.key).getD 0) false) ∧
      (∀ h t e s1 s2, 1 ≤ b.toNat → b.toNat ≤ 7 → PortsFit s [a] [d] → ReadsAs s a h t s1 → FindsEntry s1 h 3 e s2 →
        (e.odom ≠ s2.cur.dom → exec (.kstat g d a b) s = .next (s.trapped .prot 0x40007 s.cur.pc)) ∧
        (e.odom = s2.cur.dom →
          let v := match s2.stageOf s2.cur.dom e with
            | none => 0
            | some z => if b = 1 then Stage.summary (s2.core e.core) z else z.counts.getD (b.toNat - 2) 0
          ∀ s3, Takes s2 d v s3 → ∃ u : State, Retires (.kstat g d a b) s u.inFlight ∧
            (s3.cur.port? d = none → u.cur.reg d = v ∧ u.cur.tainted d = t ∧ u.mem = s3.mem)))))

/-- R208, R211: `gcall` enters the gate's domain with the passed registers and nothing else of the caller's, and `gret` brings
back the caller's state from its frame with the result registers and k1 set, where the part can write and read the records. -/
def Obligations.GateCalls : Prop :=
  (∀ (s : State) (g : KReg) (d a b : XReg) (gd : GateDesc) (h : Word) (x : BitVec 2 × Word × Word) (s0 s1 : State) (t1 : Thread)
    (bl : Block) (page : Nat),
    GuardOn s g → gateTarget s d a b = some gd.gdom → s.callWaits = false →
    s.takeBlock s.cur.core s.cur gd.gdom = .ok s0 t1 → s.cur.ldo = 0 → s.cur.sto = 0 → s.cur.vbusy = false →
    (∀ k, gateFor { s0 with cur := t1 } d a b k = k gd h x s1) → s1.popped = [] →
    s1.cur.block? s1.cur.dom = some bl → s1.cur.hwPage = some page → CallRecords s1 bl page →
      ∃ u, exec (.gcall g d a b) s = .next u ∧ u.mark = .retired ∧ u.cur.dom = gd.gdom ∧ u.cur.pc = gd.entry &&& ~~~3 ∧
        u.cur.depth = s1.cur.depth + 1 ∧ u.cur.vdid = (s1.domain gd.gdom).vd ∧
        (∀ r : XReg, u.cur.reg r = if r.toNat < gd.nwin.toNat then s1.cur.reg r else 0) ∧ u.cur.pw = 1 ∧ u.cur.st = 0 ∧
        u.cur.cb = (s1.domain gd.gdom).dcb ∧ (∀ r, u.cur.port? r = none) ∧ u.cur.v = ({} : Thread).v ∧
        ∃ e, u.cur.top = some e ∧ e.cdom = s1.cur.dom ∧ e.gdom = gd.gdom ∧ e.retpc = s1.cur.pc + 4 ∧ e.grant = x.1 ∧
          e.gbase = x.2.1 ∧ e.glen = x.2.2 ∧ e.nwin = gd.nwin ∧ e.gate = h.extractLsb' 0 32) ∧
  (∀ (s : State) (g n : BitVec 3) (e : Entry), GuardOn s g →
    (s.cur.top = none → exec (.gret g n) s = .next (s.trapped .prot 0x40017 s.cur.pc)) ∧
    (s.cur.top = some e → s.cur.hm = true → e.gate ≠ 0 → exec (.gret g n) s = .next (s.trapped .prot 0x40018 s.cur.pc)) ∧
    (s.cur.top = some e → (s.cur.hm = true → e.gate = 0) → s.cur.ldo = 0 → s.cur.sto = 0 → s.cur.vbusy = false →
      s.anyBehind s.cur (s.cur.pageRecords (s.cur.depth.toNat - 1)) = false → s.recBehind s.cur e.cframe.toNat 1536 = false →
      ¬(s.cur.depth.toNat = 1 ∧ s.cur.orphan.isSome) →
      let below := readEntry s s.cur (s.cur.depth.toNat - 1)
      below.1 = false → below.2.recBad (physRange e.cframe.toNat 1536) false = false →
        let w := s.recWord e.cframe.toNat
        ∃ u, exec (.gret g n) s = .next u ∧ u.mark = .retired ∧ u.cur.dom = e.cdom ∧ u.cur.pc = e.retpc &&& ~~~3 ∧
          u.cur.vdid = (s.domain e.cdom).vd ∧ u.cur.depth.toNat = s.cur.depth.toNat - 1 ∧ u.cur.pred 1 = true ∧ u.cur.cb = w 3 ∧
          ∀ r : XReg, u.cur.reg r =
            if r.toNat < n.toNat then s.cur.reg r else if e.nwin.toNat ≤ r.toNat then w (8 + r.toNat) else 0))

/-- R207, R212, R216: `awin` checks a buffer and packs a grant word; `gstat` reads the state of the call; `hcall` enters the
VD's hypervisor domain at its tvec with HM set. -/
def Obligations.GateWords : Prop :=
  (∀ (s s2 : State) (g : KReg) (d a b : XReg) (e : BitVec 2) (base len : Word) (t : Bool),
    GuardOn s g → PortsFit s [a, b] [d] → ReadsTwo s a b base len t s2 →
      let last := base + len - 1
      let win := windowHere s2.cur base
      let fits := len.toNat < 2 ^ 62 ∧ base.toNat + len.toNat - 1 < 2 ^ 64
      (len = 0 → Gives (.awin g d a b e) s s2 d 0 false) ∧
      (len ≠ 0 → ¬fits → exec (.awin g d a b e) s = .next (s.trapped .prot 0x40016 s.cur.pc)) ∧
      (len ≠ 0 → fits → win ≠ windowHere s2.cur last → exec (.awin g d a b e) s = .next (s.trapped .straddle base s.cur.pc)) ∧
      (len ≠ 0 → fits → win = windowHere s2.cur last → (win = .none ∨ win = .image ∧ e = 2) →
        exec (.awin g d a b e) s = .next (s.trapped .prot base s.cur.pc)) ∧
      (len ≠ 0 → fits → win = windowHere s2.cur last → win ≠ .none → ¬(win = .image ∧ e = 2) →
        Gives (.awin g d a b e) s s2 d (e ++ len.extractLsb' 0 62) false)) ∧
  (∀ (s : State) (g : KReg) (d a : XReg) (n : BitVec 3), GuardOn s g →
    (n ≠ 2 → PortsFit s [] [d] → Gives (.gstat g d a n) s s d (gstatWord s.cur n.toNat) false) ∧
    (∀ h t s1, n = 2 → PortsFit s [a] [d] → ReadsAs s a h t s1 →
      let table := s1.domain s1.cur.dom
      let slot := (h.extractLsb' 12 20).toNat
      let at_ := physRange (table.htbase + 16 * slot) 16
      (slot = 0 ∨ table.htlen ≤ slot → exec (.gstat g d a n) s = .next (s.trapped .stale h s.cur.pc)) ∧
      (at_.all present = true → s1.cur.gated = false → s1.ahead at_ = false → s1.fatalAt at_ = false → s1.lookup s1.cur.dom h 2 = none →
        exec (.gstat g d a n) s = .next (s.trapped .stale h s.cur.pc)) ∧
      (∀ e gd s2 s3 s4, FindsEntry s1 h 2 e s2 → FindsGate s2 e.addr.toNat gd s3 → Takes s3 d (gateWord s3 gd) s4 →
        Retires (.gstat g d a n) s (s4.setX d (gateWord s3 gd) false).inFlight)) ∧
    (s.cur.top = none → gstatWord s.cur 0 = 0 ∧ gstatWord s.cur 1 = 0 ∧ gstatWord s.cur 3 = 0 ∧ gstatWord s.cur 4 = BitVec.allOnes 64) ∧
    (∀ e, s.cur.top = some e → gstatWord s.cur 1 = e.glen ∧ gstatWord s.cur 3 = s.cur.chg - e.ecyc)) ∧
  (∀ (s : State) (g : KReg) (i : BitVec 13) (h : Domain), GuardOn s g → s.hypervisor s.cur.vdid = some h →
    (s.cur.depth = 8 → exec (.hcall g i) s = .next (s.trapped .prot 0x40011 s.cur.pc)) ∧
    (∀ s0 t1 bl page, s.cur.depth ≠ 8 → s.callWaits = false → s.takeBlock s.cur.core s.cur h.num = .ok s0 t1 → s.cur.ldo = 0 →
      s.cur.sto = 0 → s.cur.vbusy = false → t1.block? t1.dom = some bl → t1.hwPage = some page →
      CallRecords { s0 with cur := t1 } bl page → t1.place ≠ .gone →
        ∃ u, exec (.hcall g i) s = .next u ∧ u.mark = .retired ∧ u.cur.dom = h.num ∧ u.cur.pc = h.tvec &&& ~~~3 ∧ u.cur.hm = true ∧
          u.cur.tcause = 18 ∧ u.cur.tval = i.setWidth 64 ∧ u.cur.epc = t1.pc + 4 ∧ u.cur.est = t1.stWord ∧
          u.cur.depth = t1.depth + 1 ∧ ∃ e, u.cur.top = some e ∧ e.gate = 0 ∧ e.nwin = 6 ∧ e.grant = 0))

/-! ### Vector words -/

/-- R126, R129, R133: a vector word waits while a command is in progress; otherwise a command is handed to the vector unit,
which is busy from then on, and VLIVE is set. A bound register that it must not use is ILLEGAL. R131, R147: `vbind` binds a
vector register to the descriptor at x(t), at position 0 with lanes of 0; `vunbind` releases it and keeps its lanes; `vfence`
waits for the command in progress, and that is all. That a command keeps the v registers as its bundle found them (Handed, field
old) is the model's choice (log entry 66, DESIGN CHOICE). -/
def Obligations.VectorWords : Prop :=
  ((∀ (s : State) (c : Instr), vectorWord c = true → s.cur.vbusy = true → exec c s = .next (s.parked .cond)) ∧
   (∀ (s : State) (c : Instr), vectorPlain c = true → s.cur.vbusy = false →
     (((vectorRoles s.rd.rm c).any fun o => o.illegal s.rd) = true → exec c s = .next (s.trapped .illegal s.bundle s.cur.pc)) ∧
     (((vectorRoles s.rd.rm c).any fun o => o.illegal s.rd) = false → ∃ u, Retires c s u ∧ Handed s u c 0 0 ∧
       u.cur.x = s.cur.x ∧ u.mem = s.mem)) ∧
   (∀ (s s1 : State) (v a b : VReg) (x : XReg) (y : BitVec 4) (w : Word) (t : Bool), s.cur.vbusy = false → PortsFit s [x] [] →
     ReadsAs s x w t s1 →
     (((vectorRoles s.rd.rm (.vex2 v a b x)).any fun o => o.illegal s.rd) = false →
       ∃ u, Retires (.vex2 v a b x) s u ∧ Handed s u (.vex2 v a b x) w 0) ∧
     (((vectorRoles s.rd.rm (.vbcast v x y)).any fun o => o.illegal s.rd) = false →
       ∃ u, Retires (.vbcast v x y) s u ∧ Handed s u (.vbcast v x y) w 0) ∧
     (∀ d s2, PortsFit s [x] [d] → ((vectorRoles s.rd.rm (.vget a x d y)).any fun o => o.illegal s.rd) = false → Takes s1 d 0 s2 →
       ∃ u, Retires (.vget a x d y) s u ∧ Handed s u (.vget a x d y) w 0 ∧ u.cur.pend.getLsbD d.toNat = true)) ∧
   (∀ (s s2 : State) (v a b : VReg) (x z : XReg) (y : BitVec 4) (w k : Word) (t : Bool), s.cur.vbusy = false →
     PortsFit s [x, z] [] → ReadsTwo s x z w k t s2 →
     (((vectorRoles s.rd.rm (.vgath v a x z y)).any fun o => o.illegal s.rd) = false →
       ∃ u, Retires (.vgath v a x z y) s u ∧ Handed s u (.vgath v a x z y) w k) ∧
     (((vectorRoles s.rd.rm (.vscat a b x z y)).any fun o => o.illegal s.rd) = false →
       ∃ u, Retires (.vscat a b x z y) s u ∧ Handed s u (.vscat a b x z y) w k))) ∧
  ((∀ (s s1 : State) (v : VReg) (x : XReg) (a : Word) (t : Bool), s.cur.vbusy = false → PortsFit s [x] [] → ReadsAs s x a t s1 →
     (a.extractLsb' 0 6 ≠ 0#6 → exec (.vbindPop v x) s = .next (s.trapped .align a s.cur.pc) ∧
       exec (.vbindPush v x) s = .next (s.trapped .align a s.cur.pc)) ∧
     (a.extractLsb' 0 6 = 0#6 →
       (∃ u, Retires (.vbindPop v x) s u ∧ u.cur.stream v = { bound := true, push := false, desc := a, pos := 0 } ∧
         u.cur.lanes v = Vector.replicate 32 0 ∧ u.cur.x = s1.cur.x ∧ u.mem = s1.mem ∧ u.cur.vlive = true) ∧
       (∃ u, Retires (.vbindPush v x) s u ∧ u.cur.stream v = { bound := true, push := true, desc := a, pos := 0 } ∧
         u.cur.lanes v = Vector.replicate 32 0 ∧ u.cur.x = s1.cur.x ∧ u.mem = s1.mem ∧ u.cur.vlive = true))) ∧
   (∀ (s : State) (v : VReg), s.cur.vbusy = false →
     (∃ u, Retires (.vunbind v) s u ∧ (u.cur.stream v).bound = false ∧ u.cur.v = s.cur.v ∧ u.cur.x = s.cur.x ∧ u.mem = s.mem) ∧
     (∃ u, Retires .vfence s u ∧ u.cur.v = s.cur.v ∧ u.cur.x = s.cur.x ∧ u.cur.streams = s.cur.streams ∧ u.mem = s.mem)))

/-! ### Steps of memory and of the units -/

/-- R98, R100, R102 to R105, R113, R122, R281, R284, R302, R305, R307: what the memory system and the ends of waits do. A plain
access completes and its slot rejoins in that cycle, or its thread leaves, unless what came meanwhile refuses that (R115); the
bundle of a watched word that has changed or of a promised cycle tests its condition again; a home performs the request it
serves next, in memory where no granule is damaged; a relaxed load's data are written when they return, and LDO or STO falls; an absent line is filled and its requests are served; the scrubber, at a home with no request,
repairs single-bit errors of cells that have not failed. -/
def Obligations.MemoryEvents : Prop :=
  (∀ (s : State) (n : ThreadNo) (t : Thread), s.thread? n = some t →
    let again : Thread := { t with wait := some .held }
    (t.wait = some .access → ∃ u, exec (.plainAccessComplete n) s = .next u ∧ u.mem = s.mem ∧
      u.thread? n = some (if t.leaving.any (fun l => s.mayMove t l.1) then { t with wait := some .leaving }
        else { t with wait := none, rejoin := some s.cyc, leaving := none })) ∧
    (∀ a, t.wait = some (.watch a) → (s.watches.any fun w => w.thread == n && w.hit) = true →
      ∃ u, exec (.wchgWake n) s = .next u ∧ u.thread? n = some again ∧ u.watches = s.watches ∧ u.mem = s.mem) ∧
    (∀ a, t.wait = some (.poll a) → ∃ u, exec (.wchgPoll n) s = .next u ∧ u.thread? n = some again) ∧
    (∀ c, t.wait = some (.sleep c) → c.toNat ≤ s.cyc.toNat →
      ∃ u, exec (.napWake n) s = .next u ∧ u.thread? n = some again) ∧
    (∀ c r, (s.core c).norm = n :: r → ∃ u, exec (.normaliserServiceEnd c) s = .next u ∧ (u.core c).norm = r ∧
      (t.norm = true → u.thread? n = some { t with norm := false, rejoin := some s.cyc }) ∧
      (t.norm = false → u.thread? n = some t))) ∧
  (∀ (s : State) (n : ThreadNo) (t : Thread) (r : Ret) (d : XReg) (v : Word) (b : Bool),
    s.thread? n = some t → r.thread = n → r.write = some (d, v, b) → t.port? d = none →
    let done (e : Out1) : Prop := ∃ u w, e = .next u ∧ u.rets = s.rets.erase r ∧ u.mem = s.mem ∧ u.thread? n = some w ∧
      w.reg d = v ∧ w.tainted d = b ∧ (∀ q, q ≠ d → w.reg q = t.reg q) ∧ w.pend = t.pend &&& ~~~(1#16 <<< d.toNat) ∧
      w.st = t.st ∧ w.pw = t.pw ∧ (if r.isLoad then w.ldo = t.ldo - 1 ∧ w.sto = t.sto else w.sto = t.sto - 1 ∧ w.ldo = t.ldo)
    ((s.rets.find? fun x => x.thread == n && x.isLoad) = some r → done (exec (.relaxedLoadReturn n) s)) ∧
    ((s.rets.find? fun x => x.thread == n && !x.isLoad) = some r → done (exec (.relaxedStorePerformed n) s))) ∧
  (∀ (s : State) (n : ThreadNo) (t : Thread) (r : Ret), s.thread? n = some t → r.write = none → r.thread = n →
    (s.rets.find? fun x => x.thread == n && !x.isLoad) = some r →
      ∃ u, exec (.relaxedStorePerformed n) s = .next u ∧ u.rets = s.rets.erase r ∧
        u.thread? n = some { t with sto := t.sto - 1 }) ∧
  (∀ (s : State) (b : CoreNo) (c m : Nat) (q : Req), s.damage = [] → s.nextSource (.bank b) = some (c, m) →
    (s.servable (.bank b)).find? (fun q => q.core.toNat == c) = some q → WholeRequest s q →
      ∃ u, exec (.bankPortService (.bank b)) s = .next u ∧ Answered s u q ∧ u.served.head? = some (.bank b, c, m)) ∧
  (∀ (s : State) (f : BitVec 5) (c m : Nat) (q : Req), s.nextSource (.slice f) = some (c, m) →
    (s.servable (.slice f)).find? (fun q => q.core.toNat == c) = some q →
      (s.lines.contains (f, q.line) = false →
        exec (.bankPortService (.slice f)) s = .next { s with fills := s.fills ++ [(f, q.line)] }) ∧
      (s.lines.contains (f, q.line) = true → s.damage = [] → WholeRequest s q →
        ∃ u, exec (.bankPortService (.slice f)) s = .next u ∧ Answered s u q)) ∧
  (∀ (s : State) (f : BitVec 5) (l : Nat), s.fills.contains (f, l) = true →
    let filled : State := { s with
      fills := s.fills.erase (f, l), lines := touchLine s.lines f l
      firsts := (f, l, s.nextNumber) :: s.firsts.filter fun x => !(x.1 == f && x.2.1 == l) }
    (s.queueAt (.slice f) = [] → exec (.sliceFill f l) s = .next filled) ∧
    (∀ q, s.queueAt (.slice f) = [q] → q.line = l → filled.fills.contains (f, l) = false → s.standsBefore q = false →
      filled.standing (.slice f) = [] →
      s.damage = [] → WholeRequest s q → ∃ u, exec (.sliceFill f l) s = .next u ∧ u.fills = filled.fills ∧ Answered s u q)) ∧
  (∀ (s : State) (g : Nat), present g = true →
    (s.queueAt (homeOf g) = [] → ∃ u, exec (.scrub g) s = .next u ∧ u.mem = s.mem ∧
      u.damage = (s.damage.map fun d => if d.spot.holds g then { d with scrubbed := s.cyc } else d).filter fun d =>
        d.fatal || d.lasting || !d.spot.holds g) ∧
    (s.queueAt (homeOf g) ≠ [] → exec (.scrub g) s = .next s))

/-- R128 to R132, R134 to R144: a beat of a command whose registers are not bound to streams computes each of its 32 lanes, for integer
types modulo 2^W, extended by the type, and for B16 and F32 from the exact value, rounded once; a reduction gives all lanes its
result; a gather reads and a scatter writes the lanes that the counter admits. A command with a bound register takes the next elements
of its stream, or stores the results there, in element order, and its position rises; the stream's descriptor is read first. The
command has then finished, and VBUSY falls when it completes. A command computes with the v registers as its bundle found them
(log entry 66). -/
def Obligations.VectorBeats : Prop :=
  (∀ (s : State) (n : ThreadNo) (t : Thread) (c : VCmd) (v a b : VReg), BeatReady s n t c →
    let L := laneAt c t
    (∀ p ∈ ([(.vand v a b, fun x y _ => x &&& y), (.vor v a b, fun x y _ => x ||| y), (.vxor v a b, fun x y _ => x ^^^ y),
        (.vsel v a b, fun x y z => (z &&& x) ||| (~~~z &&& y))] : List (Instr × (Word32 → Word32 → Word32 → Word32))), c.instr = p.1 →
      BeatGives s n t v fun j r => r = p.2 (L a j) (L b j) (L v j)) ∧
    (c.instr = .vperm v a b → BeatGives s n t v fun j r => r = L a ((L b j).toNat % 32)) ∧
    (∀ y W sg, (y, W, sg) ∈ intTypes →
      let ext (x : BitVec W) : Word32 := if sg then x.signExtend 32 else x.setWidth 32
      let le (x z : BitVec W) : Bool := if sg then x.sle z else x.ule z
      let N (r : VReg) (j : Nat) : BitVec W := (L r j).setWidth W
      (∀ p ∈ ([(.vadd v a b y, fun x z _ => x + z), (.vsub v a b y, fun x z _ => x - z), (.vmul v a b y, fun x z _ => x * z),
          (.vfma v a b y, fun x z d => x * z + d), (.vmin v a b y, fun x z _ => if le x z then x else z),
          (.vmax v a b y, fun x z _ => if le x z then z else x), (.vabs v a y, fun x _ _ => if sg && x.msb then -x else x),
          (.vneg v a y, fun x _ _ => -x)] : List (Instr × (BitVec W → BitVec W → BitVec W → BitVec W))), c.instr = p.1 →
        BeatGives s n t v fun j r => r = ext (p.2 (N a j) (N b j) (N v j))) ∧
      (∀ p ∈ ([(.vshl v a b y, fun x k => x <<< k), (.vshr v a b y, fun x k => x >>> k), (.vsar v a b y, fun x k => x.sshiftRight k)]
          : List (Instr × (BitVec W → Nat → BitVec W))), c.instr = p.1 →
        BeatGives s n t v fun j r => r = ext (p.2 (N a j) ((L b j).extractLsb' 0 8).toNat)) ∧
      (∀ p ∈ ([(0, fun x z => x = z), (1, fun x z => x ≠ z), (2, fun x z => le z x = false), (3, fun x z => le x z = true),
          (4, fun x z => le x z = false), (5, fun x z => le z x = true)] : List (BitVec 3 × (BitVec W → BitVec W → Prop))),
        c.instr = .vcmp v a b p.1 y → BeatGives s n t v fun j r =>
          (p.2 (N a j) (N b j) → r = 0xFFFFFFFF) ∧ (¬p.2 (N a j) (N b j) → r = 0)) ∧
      (∀ m, c.instr = .vcvtFromF32 v a b y m → BeatGives s n t v fun j r =>
        let lo : Int := if sg then -2 ^ (W - 1) else 0
        let hi : Int := if sg then 2 ^ (W - 1) - 1 else 2 ^ W - 1
        match decodeF .f32 (flush .f32 c.fzs (L a j).toNat) with
        | .nan _ => r = 0
        | .inf neg => r = ext (BitVec.ofInt W (if neg then lo else hi))
        | .fin neg x d => r = ext (BitVec.ofInt W (max lo (min hi
            (roundInt (modeOf (if m = 7 then c.rm else m)) (L b j).toNat neg x d).1)))) ∧
      (∀ m, c.instr = .vcvtToF32 v a b y m → BeatGives s n t v fun j r =>
        let i : Int := if sg then (N a j).toInt else (N a j).toNat
        r = BitVec.ofNat 32 (roundNum .f32 (modeOf (if m = 7 then c.rm else m)) (L b j).toNat c.fzr
          (.fin (decide (i < 0)) i.natAbs 1)).1) ∧
      (∀ x, c.instr = .vbcast v x y → BeatGives s n t v fun _ r => r = ext (c.xs.setWidth W)) ∧
      (c.instr = .vpack v a y → BeatGives s n t v fun j r =>
        (32 / (32 / W) ≤ j → r = 0) ∧ (j < 32 / (32 / W) → ∀ e < 32 / W, r.extractLsb' (W * e) W = N a (32 / W * j + e))) ∧
      (c.instr = .vunpack v a y → BeatGives s n t v fun j r =>
        r = ext ((L a (j / (32 / W))).extractLsb' (W * (j % (32 / W))) W)) ∧
      (W = 32 → c.instr = .vredSum v a y → BeatGives s n t v fun _ r => r = ((List.range 32).map (L a)).sum) ∧
      (c.instr = .vredMax v a y → BeatGives s n t v fun _ r => ∃ i < 32, r = ext (N a i) ∧ ∀ j < 32, le (N a j) (N a i) = true) ∧
      (c.instr = .vredMin v a y → BeatGives s n t v fun _ r => ∃ i < 32, r = ext (N a i) ∧ ∀ j < 32, le (N a i) (N a j) = true)) ∧
    (∀ y f, (y, f) ∈ ([(6, .b16), (7, .f32)] : List (BitVec 4 × Fmt)) →
      let enc (r : VReg) (j : Nat) : Nat := flush f c.fzs ((L r j).toNat % 2 ^ f.width)
      let F (r : VReg) (j : Nat) : Machine.Num := decodeF f (enc r j)
      let md : Mode := if c.rm = 4 then .rne else modeOf c.rm
      let rd := md == .rd
      let V (r : VReg) (j : Nat) : ℚ := valueOf (F r j)
      (∀ p ∈ ([(.vadd v a b y, fun x z _ => x.add rd z), (.vsub v a b y, fun x z _ => x.add rd z.neg), (.vmul v a b y, fun x z _ => x.mul z),
          (.vfma v a b y, fun x z d => x.fma rd z d)] : List (Instr × (Machine.Num → Machine.Num → Machine.Num → Machine.Num))), c.instr = p.1 →
        BeatGives s n t v fun j r => r = BitVec.ofNat 32 (roundNum f md 0 c.fzr (p.2 (F a j) (F b j) (F v j))).1) ∧
      (c.instr = .vabs v a y → BeatGives s n t v fun j r => r.toNat = (L a j).toNat % 2 ^ (f.width - 1)) ∧
      (c.instr = .vneg v a y → BeatGives s n t v fun j r =>
        r.toNat = ((L a j).toNat + 2 ^ (f.width - 1)) % 2 ^ f.width) ∧
      (∀ p ∈ ([(.vmin v a b y, fun x z => min x z), (.vmax v a b y, fun x z => max x z)] : List (Instr × (ℚ → ℚ → ℚ))), c.instr = p.1 →
        BeatGives s n t v fun j r =>
          ((F a j).isNan = true → (F b j).isNan = true → r.toNat = f.nan) ∧
          ((F a j).isNan = true → (F b j).isNan = false → r.toNat = enc b j) ∧
          ((F a j).isNan = false → (F b j).isNan = true → r.toNat = enc a j) ∧
          (isFinite (F a j) → isFinite (F b j) → (r.toNat = enc a j ∨ r.toNat = enc b j) ∧
            valueOf (decodeF f r.toNat) = p.2 (V a j) (V b j))) ∧
      (∀ p ∈ ([(0, fun x z => x = z), (1, fun x z => x ≠ z), (2, fun x z => x < z), (3, fun x z => x ≤ z), (4, fun x z => z < x),
          (5, fun x z => z ≤ x), (6, fun _ _ => False)] : List (BitVec 3 × (ℚ → ℚ → Prop))), c.instr = .vcmp v a b p.1 y →
        BeatGives s n t v fun j r =>
          (isFinite (F a j) → isFinite (F b j) → (p.2 (V a j) (V b j) → r = 0xFFFFFFFF) ∧ (¬p.2 (V a j) (V b j) → r = 0)) ∧
          ((F a j).isNan = true ∨ (F b j).isNan = true → r = if p.1 = 1 ∨ p.1 = 6 then 0xFFFFFFFF else 0)) ∧
      (∀ p ∈ ([(.vredMax v a y, fun x z => x ≤ z), (.vredMin v a y, fun x z => z ≤ x)] : List (Instr × (ℚ → ℚ → Prop))), c.instr = p.1 →
        BeatGives s n t v fun _ r =>
          ((∀ j < 32, (F a j).isNan = true) → r.toNat = f.nan) ∧
          ((∀ j < 32, isFinite (F a j) ∨ (F a j).isNan = true) → (∃ j < 32, isFinite (F a j)) →
            ∃ i < 32, isFinite (F a i) ∧ r.toNat = enc a i ∧ ∀ j < 32, isFinite (F a j) → p.2 (V a j) (V a i)))) ∧
    (∀ y g, (y, g) ∈ ([(6, .b16), (8, .f8n), (9, .f8w)] : List (BitVec 4 × Fmt)) → ∀ m,
      let mode := modeOf (if m = 7 then c.rm else m)
      (c.instr = .vcvtFromF32 v a b y m → BeatGives s n t v fun j r =>
        r = BitVec.ofNat 32 (roundNum g mode (L b j).toNat c.fzr (decodeF .f32 (flush .f32 c.fzs (L a j).toNat))).1) ∧
      (c.instr = .vcvtToF32 v a b y m → BeatGives s n t v fun j r =>
        r = BitVec.ofNat 32 (roundNum .f32 mode (L b j).toNat c.fzr (decodeF g (flush g c.fzs ((L a j).toNat % 2 ^ g.width)))).1)) ∧
    (let F (w : Word32) : Machine.Num := decodeF .f32 (flush .f32 c.fzs w.toNat)
     (c.instr = .vredSum v a 7 → BeatGives s n t v fun _ r =>
       let S : ℚ := ((List.range 32).map fun j => valueOf (F (L a j))).sum
       let md : Mode := if c.rm = 4 then .rne else modeOf c.rm
       ((∃ j < 32, (F (L a j)).isNan = true) → r = 0x7FC00000) ∧
       ((∀ j < 32, isFinite (F (L a j))) →
         (S ≠ 0 → ∃ x, isFinite x ∧ valueOf x = S ∧ r = BitVec.ofNat 32 (roundNum .f32 md 0 c.fzr x).1) ∧
         (S = 0 → let negative := md = .rd ∨ ∀ j < 32, (F (L a j)).isZero = true ∧ (F (L a j)).sign = true
           (negative → r = 0x80000000) ∧ (¬negative → r = 0)))) ∧
     (c.instr = .vrcp v a → BeatGives s n t v fun j r => match F (L a j) with
       | .nan _ => r = 0x7FC00000
       | .inf neg => r = if neg then 0x80000000 else 0
       | .fin neg x d => if x = 0 then r = (if neg then 0xFF800000 else 0x7F800000) else
           r = BitVec.ofNat 32 (roundNum .f32 .rne 0 c.fzr (.fin neg d x)).1) ∧
     (c.instr = .vrsq v a → BeatGives s n t v fun j r => match F (L a j) with
       | .nan _ => r = 0x7FC00000
       | .inf neg => r = if neg then 0x7FC00000 else 0
       | .fin neg x d => if x = 0 then r = (if neg then 0xFF800000 else 0x7F800000) else
           (neg = true → r = 0x7FC00000) ∧
           (neg = false → 0 < d → 0 < r.toNat ∧ r.toNat < 0x7F800000 ∧
             ((magnitude .f32 (r.toNat - 1) + magnitude .f32 r.toNat) / 2) ^ 2 * ((x : ℚ) / d) ≤ 1 ∧
             1 ≤ ((magnitude .f32 r.toNat + magnitude .f32 (r.toNat + 1)) / 2) ^ 2 * ((x : ℚ) / d))) ∧
     (∀ x, c.instr = .vex2 v a b x → BeatGives s n t v fun j r =>
       let y := ((F (L a j)).add false (F (L b j)).neg).mul (F (c.xs.setWidth 32))
       (y.isNan = true → r = 0x7FC00000) ∧ (y = .inf false → r = 0x7F800000) ∧ (y = .inf true → r = 0) ∧
       (isFinite y → (∀ w : Int, -126 ≤ w → w ≤ 127 → valueOf y = w → r = BitVec.ofInt 32 ((w + 127) * 2 ^ 23)) ∧
         (128 ≤ valueOf y → r = 0x7F800000) ∧ (valueOf y < -151 → r = 0)))) ∧
    (∀ x d y, c.instr = .vget a x d y → t.port? d = none →
      ∃ u w e, exec (.vectorBeat n) s = .next u ∧ u.mem = s.mem ∧ u.thread? n = some w ∧ w.vcmd = some e ∧ e.finished = true ∧
        (∀ r, w.lanes r = t.lanes r) ∧ w.pend = t.pend &&& ~~~(1#16 <<< d.toNat) ∧ (∀ q, q ≠ d → w.reg q = t.reg q) ∧
        w.reg d = (let l := L a (c.xs.extractLsb' 0 5).toNat
          if y = 4 then l.signExtend 64 else l.setWidth 64)) ∧
    (∀ x z y (at_ : Nat → List Nat), s.damage = [] →
      let cnt := min 32 c.xt.toNat
      let addr (r : VReg) (j : Nat) : Word := c.xs + (L r j).signExtend 64 * 4
      (c.instr = .vgath v a x z y → (∀ j < cnt, elementCheck s t c.dom .read (addr a j) 4 = .ok (at_ j)) →
        s.engineBehind t.core ((List.range cnt).flatMap at_) = false →
        BeatGives s n t v fun j r => r = if j < cnt then (leWord ((at_ j).map (memGet s.mem))).setWidth 32 else (t.lanes v).toList.getD j 0) ∧
      (c.instr = .vscat a b x z y →
        let last := (List.range cnt).filter fun j => !((List.range cnt).any fun k => decide (j < k) && addr b k == addr b j)
        (∀ j ∈ last, elementCheck s t c.dom .write (addr b j) 4 = .ok (at_ j) ∧ (at_ j).length = 4) → (last.flatMap at_).Nodup →
        s.engineBehind t.core (last.flatMap at_) = false →
        ∃ u w d, exec (.vectorBeat n) s = .next u ∧ u.thread? n = some w ∧ w.vcmd = some d ∧ d.finished = true ∧ w.v = t.v ∧ w.x = t.x ∧
          (∀ p, p ∉ last.flatMap at_ → memGet u.mem p = memGet s.mem p) ∧
          ∀ j ∈ last, ∀ i < 4, memGet u.mem ((at_ j).getD i 0) = (L a j).extractLsb' (8 * i) 8))) ∧
  (∀ (s : State) (n : ThreadNo) (t : Thread) (c : VCmd) (v a b : VReg) (ws : List Word) (cnt : Nat) (at_ : Nat → List Nat),
    let y := (ws.getD 2 0).extractLsb' 32 4
    ∀ p ∈ ([(.vadd v a b 4, fun x z => x + z), (.vsub v a b 4, fun x z => x - z), (.vmul v a b 4, fun x z => x * z),
        (.vand v a b, fun x z => x &&& z), (.vor v a b, fun x z => x ||| z), (.vxor v a b, fun x z => x ^^^ z)]
        : List (Instr × (Word32 → Word32 → Word32))), c.instr = p.1 → y.toNat ≤ 9 →
      (StreamBeat s n t c a false ws cnt at_ → a ≠ b → v ≠ a →
        let e (j : Nat) : Word32 := elementLane y (leWord ((at_ j).map (memGet s.mem)))
        ∃ u w d, exec (.vectorBeat n) s = .next u ∧ u.mem = s.mem ∧ u.thread? n = some w ∧ w.vcmd = some d ∧
          d.done = c.done + cnt ∧ d.finished = decide (c.len ≤ c.done + cnt) ∧
          (w.stream a).pos = (t.stream a).pos + BitVec.ofNat 64 cnt ∧ (cnt = 32 → ∀ j (h : j < 32), (w.lanes a)[j] = e j) ∧
          ∀ j (h : j < 32), (w.lanes v)[j] = if j < cnt then p.2 (e j) (laneAt c t b j) else 0) ∧
      (StreamBeat s n t c v true ws cnt at_ → v ≠ a → v ≠ b → ((List.range cnt).flatMap at_).Nodup →
        let r (j : Nat) : Word32 := p.2 (laneAt c t a j) (laneAt c t b j)
        ∃ u w d, exec (.vectorBeat n) s = .next u ∧ u.thread? n = some w ∧ w.vcmd = some d ∧ d.done = c.done + cnt ∧
          d.finished = decide (c.len ≤ c.done + cnt) ∧ (w.stream v).pos = (t.stream v).pos + BitVec.ofNat 64 cnt ∧
          (∀ k, k ∉ (List.range cnt).flatMap at_ → memGet u.mem k = memGet s.mem k) ∧
          ∀ j < cnt, ∀ i < (at_ j).length, memGet u.mem ((at_ j).getD i 0) = (r j).extractLsb' (8 * i) 8)) ∧
  (∀ (s : State) (n : ThreadNo) (t : Thread) (c : VCmd) (o : Roles) (r : VReg) (ps : List Nat), s.thread? n = some t → t.vcmd = some c →
    c.started = false → c.finished = false → c.waits = [] → (s.reqs.any fun q => q.thread == n) = false → s.damage = [] →
    vectorRoles c.rm c.instr = some o → gatherForm c.instr = none → o.bound t = [r] → ps.length = 64 →
    elementCheck s t c.dom .read (t.stream r).desc 64 = .ok ps → s.engineBehind t.core ps = false →
      let ws : List Word := (List.range 8).map fun i => leWord ((List.range 8).map fun j => memGet s.mem (ps.getD (8 * i + j) 0))
      let length := ((ws.getD 1 0).extractLsb' 0 32).toNat * ((ws.getD 1 0).extractLsb' 32 32).toNat * ((ws.getD 2 0).extractLsb' 0 32).toNat
      let good := (ws.getD 2 0).extractLsb' 36 28 = 0 ∧ ws.getD 6 0 = 0 ∧ ws.getD 7 0 = 0 ∧ ((ws.getD 2 0).extractLsb' 32 4).toNat ≤ 9 ∧
        length < 2 ^ 48
      (good → (t.stream r).pos.toNat < length → ∃ s1 : State, s1.mem = s.mem ∧ exec (.vectorBeat n) s = .next (s1.nextBeat n t
        { c with started := true, descs := [(r, ws)], len := length - (t.stream r).pos.toNat, waits := [], unread := false } o)) ∧
      (¬good → ∃ u w d, exec (.vectorBeat n) s = .next u ∧ u.mem = s.mem ∧ u.thread? n = some w ∧ w.vcmd = some d ∧ d.finished = true ∧
        w.v = t.v ∧ w.x = t.x)) ∧
  (∀ (s : State) (n : ThreadNo) (t : Thread) (c : VCmd), s.thread? n = some t → t.vcmd = some c → c.finished = true →
    ∃ u, exec (.vectorCommandComplete n) s = .next u ∧ u.thread? n = some { t with vcmd := none } ∧ u.mem = s.mem)

/-- R158, R159: the arbiter grants a request whose extent is free, and the thread that waited for it may go on; a grant at its
limit is renewed where no request needs it and is taken back otherwise, with the holder's intent queued again. R168: a tile
operation starts and completes, and TLO falls. R172: `mzero` leaves zeros. R151 to R155, R173: each K step of `mma` and `mmas`
adds to every output the exact sum of its products, rounded once, and in a split slot to P, N and the counts; what a step reads
of A and of B is stated. R174: each element drained is written to its address, as its mode and format give it from the
accumulators, with its flags. R153: `mbload` writes its padded blocks to their slices and steps. R238: an audit that is due is
posted. R179, R181 to R183, R186, R187: the forager slot accepts the head of its core's FIFO once the engine is free, and finds
a bad block there; a copy and a fill move their bytes chunk by chunk to the addresses of their loops; a command that is held
goes on where it stands; one that completes leaves the engine, CPO falls and its message is posted, with the bytes it moved, or
with status DESC and nothing moved where its block is bad. That what a held operation or command has done stays done is log
entry 7. -/
def Obligations.TileAndCopyEvents : Prop :=
  ((∀ (s : State) (c : CombNo) (i : Nat) (r : LeaseReq), (s.comb c).nextGrant = some (i, r) →
     ((s.comb c).freeQuarter r).isSome ∧ ∃ u gr, exec (.leaseGrant c) s = .next u ∧
       (u.comb c).grants = (s.comb c).grants ++ [gr] ∧ gr.thread = r.thread ∧ gr.whole = r.whole ∧
       some gr.quarter = (s.comb c).freeQuarter r ∧ gr.since = s.cyc ∧ gr.entered = 0 ∧
       (u.comb c).requests.length = (s.comb c).requests.length - 1 ∧
       (∀ t, s.thread? r.thread = some t → t.wait = some .lease →
         u.thread? r.thread = some { t with wait := some .held, granted := true })) ∧
   (∀ (s : State) (c : CombNo) (n : ThreadNo) (g : Grant), (s.comb c).grants.find? (fun g => g.thread == n) = some g →
     64 ≤ g.entered ∨ 65536 ≤ (s.cyc - g.since).toNat →
       (((s.comb c).requests.any fun r => r.needs g) = false → ∃ u, exec (.leaseExpiry c n) s = .next u ∧
         { g with entered := 0, since := s.cyc } ∈ (u.comb c).grants ∧ (u.comb c).requests = (s.comb c).requests) ∧
       (((s.comb c).requests.any fun r => r.needs g) = true → ∃ u, exec (.leaseExpiry c n) s = .next u ∧ g ∉ (u.comb c).grants ∧
         ∀ t i, s.thread? n = some t → t.intent = some i → ∃ q, (u.comb c).requests = (s.comb c).requests ++ [q] ∧
           q.thread = n ∧ q.cls = i.2 ∧ q.whole = g.whole ∧ q.only = if g.whole then none else some g.quarter)) ∧
   (∀ (s : State) (c : CombNo) (o : TileOp) (r : List TileOp) (g : Grant), (s.comb c).queue = o :: r → o.started = false →
     (s.reqs.any fun q => q.thread == o.thread) = false → g ∈ (s.comb c).grants → g.thread = o.thread →
     g.whole = true ∨ o.subs = [g.quarter] →
       ∃ u, exec (.tileOperationStart c) s = .next u ∧ (u.comb c).queue.head? = some { o with started := true } ∧ u.mem = s.mem) ∧
   (∀ (s : State) (c : CombNo) (o : TileOp) (g : KReg) (d : BitVec 4) (sh : BitVec 3) (x : BitVec 1),
     (s.comb c).queue.find? (fun o => o.started && !Held.waits s o.held) = some o → o.instr = .mzero g d sh x →
       ∃ u, exec (.tileOperationComplete c) s = .next u ∧ (u.comb c).queue = (s.comb c).queue.filter (fun p => p.num != o.num) ∧
         u.mem = s.mem ∧
         (∀ a ∈ (u.comb c).accs, o.subs.contains a.sub = true → (opSlots d (x == 1#1)).contains a.n = true →
           a.elems = List.replicate 256 0 ∧ a.err = false) ∧
         (∀ t, s.thread? o.thread = some t → o.counted = true → ∃ w, u.thread? o.thread = some w ∧ w.tlo = t.tlo - 1 ∧ w.x = t.x)) ∧
   (∀ (s s1 : State) (c : CombNo) (o o1 : TileOp) (a b : Tensor) (g : KReg) (d : BitVec 4) (x y : XReg) (sh : BitVec 3) (p : BitVec 2),
     (s.comb c).queue.find? (fun o => o.started && !Held.waits s o.held) = some o →
     (o.instr = .mma g d x y sh p ∨ o.instr = .mmas g d x y sh p) → o.a = some a → o.b = some b →
       (runSteps c a b (a.steps - o.step) s o = .ok s1 o1 → ∃ u, exec (.tileOperationComplete c) s = .next u ∧ TileEnds s1 u c o1 ∧
         (u.comb c).seq = (s1.comb c).seq + 1) ∧
       (∀ cause, runSteps c a b (a.steps - o.step) s o = .bad s1 o1 cause → ∃ u, exec (.tileOperationComplete c) s = .next u ∧
         u.mem = s1.mem ∧ ∀ r ∈ (u.comb c).accs, o1.subs.contains r.sub = true → o1.slots.contains r.n = true →
           r.err = true ∧ r.ecause = BitVec.ofNat 3 cause)) ∧
   (∀ (s : State) (c : CombNo) (o : TileOp) (a b : Tensor) (n : Nat) (x : StepIn) (l : Reads), s.damage = [] → o.shape.toNat ≤ 4 →
     o.subs.Nodup → o.subs.length = (if o.shape = 0 then 1 else 4) → readStep (o.unit s) (s.comb c) o a b o.step = .ok x l →
       ∃ s1 refs, runSteps c a b (n + 1) s o = runSteps c a b n s1 { o with step := o.step + 1, refs := refs } ∧ s1.mem = s.mem ∧
         (∀ r ∈ (s.comb c).accs, o.subs.contains r.sub = false ∨ (r.n ≠ o.slot ∧ (o.split = false ∨ r.n ≠ o.slot + 1)) →
           r ∈ (s1.comb c).accs) ∧
         ∀ k r, k < o.subs.length → (s.comb c).acc? (o.sub k) o.slot = some r → r.elems.length = 256 →
           ∃ w, (s1.comb c).acc? (o.sub k) o.slot = some w ∧ w.elems.length = 256 ∧ ∀ j < 256,
             let row := x.rows.getD (rowAt o.shape k (j / 16)) ([], .fin false 0 1)
             let col := x.cols.getD (16 * k + j % 16) ([], .fin false 0 1)
             let src (t : Tensor) (e : Nat) : Machine.Num := decodeF t.format (flush t.format o.fzs e)
             let finite := isFinite row.2 ∧ isFinite col.2 ∧ (∀ e ∈ row.1, isFinite (src a e)) ∧ ∀ e ∈ col.1, isFinite (src b e)
             let terms : List ℚ := List.zipWith (fun e f => valueOf (src a e) * valueOf row.2 * (valueOf (src b f) * valueOf col.2)) row.1 col.1
             let old := r.elems.getD j 0
             let new := w.elems.getD j 0
             (family a.fmt = 2 → new = old + BitVec.ofInt 32 (List.zipWith (fun e f => toInt true 8 e * toInt true 8 f) row.1 col.1).sum) ∧
             (family a.fmt ≠ 2 → o.split = false → finite → isFinite (decodeF .f32 old.toNat) →
               RoundsTo (valueOf (decodeF .f32 old.toNat) + terms.sum) new) ∧
             (family a.fmt ≠ 2 → o.split = false → (decodeF .f32 old.toNat).isNan = true → new = 0x7FC00000) ∧
             (family a.fmt ≠ 2 → o.split = true → finite → ∀ r2, (s.comb c).acc? (o.sub k) (o.slot + 1) = some r2 →
               r2.elems.length = 256 → r.counts.length = 256 → isFinite (decodeF .f32 old.toNat) →
               isFinite (decodeF .f32 (r2.elems.getD j 0).toNat) →
               ∃ w2, (s1.comb c).acc? (o.sub k) (o.slot + 1) = some w2 ∧
                 RoundsTo (valueOf (decodeF .f32 old.toNat) + (terms.filter (0 < ·)).sum) new ∧
                 RoundsTo (valueOf (decodeF .f32 (r2.elems.getD j 0).toNat) + ((terms.filter (· < 0)).map fun v => -v).sum) (w2.elems.getD j 0) ∧
                 (w.counts.getD j (0, 0)).1.toNat = min ((r.counts.getD j (0, 0)).1.toNat + (terms.filter (0 < ·)).length) 65535 ∧
                 (w.counts.getD j (0, 0)).2.toNat = min ((r.counts.getD j (0, 0)).2.toNat + (terms.filter (· < 0)).length) 65535)) ∧
   (∀ (s : State) (c : CombNo) (o : TileOp) (a b : Tensor) (x : StepIn) (l : Reads), s.damage = [] →
     readStep (o.unit s) (s.comb c) o a b o.step = .ok x l →
       let n := min a.perStep (a.d0 - o.step * a.perStep)
       (∀ (i1 i2 : Nat) (ps : List Nat), i1 < shapeM o.shape → i2 < (if o.shape = 4 then 4 else 1) → a.capped = false → a.scm = 0 → 0 < n →
         engineAccess s o.core o.thread o.dom o.held .read
           (a.base + BitVec.ofInt 64 (i1 * a.s1 + i2 * a.s2 + 0 * a.s3) + BitVec.ofNat 64 (48 * o.step)) (n * a.size) = .ok ps →
         ps.length = n * a.size →
         x.rows[i1 + shapeM o.shape * i2]? = some ((List.range n).map (fun i =>
           (leWord ((List.range a.size).map fun z => memGet s.mem (ps.getD (a.size * i + z) 0))).toNat), .fin false 1 1)) ∧
       (∀ k i, k < o.subs.length → i < 16 → ∃ sc, x.cols[16 * k + i]? =
         some ((sliceRow (s.comb c) (16 * (o.sub k).toNat + i) (b.base.toNat + o.step) b.size).take n, sc) ∧
         (b.scm = 0 → sc = .fin false 1 1))) ∧
   (∀ (s s1 : State) (c : CombNo) (o o1 : TileOp) (z : Tensor) (g : KReg) (d : BitVec 4) (x y : XReg) (m f : BitVec 2) (sp : BitVec 1)
      (sh : BitVec 3), (s.comb c).queue.find? (fun o => o.started && !Held.waits s o.held) = some o →
     o.instr = .mdrain g d x y m f sp sh → o.a = some z →
     drainFrom z m f (cellsOf (s.comb c) o) (shapeSize sh - o.step) s o = .ok s1 o1 →
       ∃ u, exec (.tileOperationComplete c) s = .next u ∧ TileEnds s1 u c o1 ∧
         ∀ t, s1.thread? o1.thread = some t → ∃ w, u.thread? o1.thread = some w ∧
           (o1.flags.mz = true → w.lateFlags.getLsbD stMZ = true) ∧ (o1.flags.mrovf = true → w.lateFlags.getLsbD stMROVF = true) ∧
           (o1.flags.mcsat = true → w.lateFlags.getLsbD stMCSAT = true)) ∧
   (∀ (s s1 : State) (o o1 : TileOp) (z : Tensor) (m f : BitVec 2) (cells : List Cell1) (n : Nat) (sc : Machine.Num) (l : Reads),
     let q := spot o.shape o.step
     let p := drainPlanes o m f sc (o.i32.contains (o.sub q.k)) o.step (cells.getD o.step ⟨0, 0, 0, 0⟩)
     (o.unit s).destScale z (q.row + 16 * q.batch) q.n = .ok sc l → drainWrites z o.shape f q 0 p.1 (s.noteTile o l) o = .ok s1 o1 →
       drainFrom z m f cells (n + 1) s o = drainFrom z m f cells n s1 { o1 with step := o1.step + 1, flags := o1.flags.or p.2 }) ∧
   (∀ (s : State) (o : TileOp) (z : Tensor) (sh : BitVec 3) (f : BitVec 2) (q : OutPos) (k v size : Nat) (r : List (Nat × Nat)) (ps : List Nat),
     s.damage = [] → size ≤ 8 → ps.Nodup → ps.length = size →
     engineAccess s o.core o.thread o.dom o.held .write (drainAddr z sh f q k) size = .ok ps → s.arrayBehind ps = false →
       ∃ s1, drainWrites z sh f q k ((v, size) :: r) s o = drainWrites z sh f q (k + 1) r s1 o ∧ s1.damage = [] ∧
         (∀ a, a ∉ ps → memGet s1.mem a = memGet s.mem a) ∧
         ∀ i < size, memGet s1.mem (ps.getD i 0) = BitVec.ofNat 8 (v / 2 ^ (8 * i))) ∧
   (∀ (o : TileOp) (m f : BitVec 2) (sc : Machine.Num) (e : Nat) (w : Cell1), isFinite sc → isFinite (numOf w.p) → isFinite (numOf w.n) →
     let out (v : ℚ) (y : Nat × Nat) : Prop := ∃ x, isFinite x ∧ valueOf x = valueOf sc * v ∧ y.2 = drainSize f ∧
       y.1 = (roundNum (drainFmt f) (modeOf o.rm) (drainBits o.random e) o.fzr x).1
     let vp := valueOf (numOf w.p)
     let vn := valueOf (numOf w.n)
     let one (v : ℚ) (i32 : Bool) : Prop := ∃ y, (drainPlanes o m f sc i32 e w).1 = [y] ∧ out v y
     let fl := (drainPlanes o m f sc false e w).2
     (m = 0 → (drainPlanes o m f sc true e w).1 = [(w.p.toNat, 4)]) ∧ (m = 0 → o.split = false → one vp false) ∧
     (m = 0 → o.split = true → ∃ y z, (drainPlanes o m f sc false e w).1 = [y, z, (w.cn * 65536 + w.cp, 4)] ∧ out vp y ∧ out vn z) ∧
     (m = 1 → one (vp - vn) false) ∧ (m = 2 → 0 ≤ vp → 0 ≤ vn → vp + vn ≠ 0 → one ((vp - vn) / (vp + vn)) false) ∧
     (m = 2 → vp = 0 → vn = 0 → one 0 false ∧ fl.mz = true) ∧
     (m = 3 → 0 ≤ vp → 0 ≤ vn → vp + vn ≠ 0 → isFinite (numOf o.agv) → 0 ≤ valueOf (numOf o.agv) →
       let pass := valueOf (numOf o.agv) * (vp + vn) ≤ |vp - vn| ∧
         (o.cen = false ∨ (w.cp + w.cn = 0 ∧ o.agc = 0) ∨
           (w.cp + w.cn ≠ 0 ∧ o.agc.toNat * (w.cp + w.cn) ≤ 65535 * (max w.cp w.cn - min w.cp w.cn)))
       (pass → one (vp - vn) false) ∧ (¬pass → one 0 false)) ∧
     (o.split = true → (fl.mcsat = true ↔ w.cp = 65535 ∨ w.cn = 65535))) ∧
   (∀ (s s1 : State) (c : CombNo) (o o1 : TileOp) (z : Tensor) (g : KReg) (x y : XReg),
     (s.comb c).queue.find? (fun o => o.started && !Held.waits s o.held) = some o → o.instr = .mbload g x y → o.a = some z →
     let ends := loadFrom c z (pattern o.pattern) (loadBlocks z (pattern o.pattern) - o.step) (s.tagSlices c o) o
     (ends = .ok s1 o1 → ∃ u, exec (.tileOperationComplete c) s = .next u ∧ TileEnds s1 u c o1) ∧
     (∀ cause, ends = .bad s1 o1 cause → ∃ u, exec (.tileOperationComplete c) s = .next u ∧ u.mem = s1.mem ∧
       (o1.thread, BitVec.ofNat 3 cause) ∈ (u.comb c).berr)) ∧
   (∀ (s : State) (c : CombNo) (o : TileOp) (z : Tensor) (p : Pattern) (n : Nat) (us : List (List Byte)) (l : Reads), s.damage = [] →
     let slice := (p.first + p.stride * (o.step % p.cyc)) % 64
     let row := p.row0 + o.step / p.cyc * (p.blk / 48)
     Rd.all (fun j => loadUnit (o.unit s) z (o.step * (p.blk / 48) + j)) (List.range (p.blk / 48)) = .ok us l →
     (∀ y ∈ us, y.length = 48) → (∀ y ∈ (s.comb c).slices, y.num.toNat = slice → y.tag = o.dom) →
       ∃ s1, loadFrom c z p (n + 1) s o = loadFrom c z p n s1 { o with step := o.step + 1 } ∧ s1.mem = s.mem ∧
         (∀ i < us.length, sliceRow (s1.comb c) slice (row + i) 1 = (us.getD i []).map BitVec.toNat) ∧
         (∀ k r, k ≠ slice ∨ r < row ∨ row + us.length ≤ r → sliceRow (s1.comb c) k r 1 = sliceRow (s.comb c) k r 1)) ∧
   (∀ (s : State) (o : TileOp) (z : Tensor) (i : Nat) (ps : List Nat), s.damage = [] → z.capped = false → 0 < z.steps →
     let r := i / z.steps
     let j := i % z.steps
     let n := min z.perStep (z.d0 - j * z.perStep)
     (z.d1 * z.d2 * z.d3 ≤ r → loadUnit (o.unit s) z i = .ok (List.replicate 48 0) []) ∧
     (r < z.d1 * z.d2 * z.d3 → 0 < n → ps.length = n * z.size → s.arrayBehind ps = false →
       engineAccess s o.core o.thread o.dom o.held .read
         (z.base + BitVec.ofInt 64 ((r % z.d1 : Nat) * z.s1 + (r / z.d1 % z.d2 : Nat) * z.s2 + (r / z.d1 / z.d2 : Nat) * z.s3) +
           BitVec.ofNat 64 (48 * j)) (n * z.size) = .ok ps →
       ∃ l, loadUnit (o.unit s) z i = .ok (ps.map (memGet s.mem) ++ List.replicate (48 - n * z.size) 0) l)) ∧
   (∀ (s : State) (c : CombNo) (j : AuditJob), (s.comb c).audit = some j →
     ∃ u, exec (.audit c) s = .next u ∧ (u.comb c).audit = none ∧ (u.comb c).skipped = 0 ∧ u.mem = s.mem ∧
       u.fleet.tlprod = s.fleet.tlprod + 4 ∧ u.fleet.recSeq = s.fleet.recSeq + 1 ∧
       getBy Prod.fst ((s.fleet.tlprod + 1) % 2048) (0, 0, 0) u.fleet.ring = ((s.fleet.tlprod + 1) % 2048, j.d2, j.d3) ∧
       getBy Prod.fst ((s.fleet.tlprod + 2) % 2048) (0, 0, 0) u.fleet.ring =
         ((s.fleet.tlprod + 2) % 2048, j.d4 ||| BitVec.ofNat 64 (min (s.comb c).skipped 65535), j.d5))) ∧
  ((∀ (s : State) (c : CoreNo) (h : Copy) (r : List Copy), (s.core c).engine = none → (s.core c).fifo = h :: r →
     (∀ d ∈ s.damage, d.spot ≠ .fifo c) →
       ∃ u, exec (.foragerAccept c) s = .next u ∧ (u.core c).engine = some { h with desc := h.bad s, ending := none } ∧
         (u.core c).fifo = r ∧ (u.core c).lastForager = some s.cyc ∧ (u.core c).lastTurn = some s.cyc ∧ u.mem = s.mem) ∧
   (∀ (s s1 : State) (c : CoreNo) (e e1 : Copy) (t : Thread) (status : Nat) (info : Word), (s.core c).engine = some e → e.held = [] →
     e.barrier = none → (s.reqs.any fun q => q.thread == e.thread && decide (q.num < e.num)) = false →
     (e.ending = some (status, info) ∧ s1 = s ∧ e1 = e) ∨ (e.ending = none ∧ e.desc = true ∧ s1 = s ∧ e1 = e ∧ status = 6 ∧ info = 0) ∨
       (e.ending = none ∧ e.desc = false ∧ e.perform c s = .bad s1 e1 status info) ∨
       (e.ending = none ∧ e.desc = false ∧ e.perform c s = .ok s1 e1 ∧ e1.op ≠ 2 ∧ e1.op ≠ 3 ∧ e1.barrier = none ∧ status = 0 ∧ info = 0) →
     e1.barrier = none → s1.thread? e1.thread = some t →
       ∃ u, exec (.copyComplete c) s = .next u ∧ u.mem = s1.mem ∧ (u.core c).engine = none ∧ (u.core c).fifo = (s1.core c).fifo ∧
         (u.core c).engineFree = some s1.cyc ∧ u.thread? e1.thread = some { t with cpo := t.cpo - 1 } ∧
         (e1.post = false → (u.core c).mailbox = (s1.core c).mailbox) ∧
         (e1.post = true → ∃ m, (u.core c).mailbox = (s1.core c).mailbox ++ [m] ∧ m.thread = e1.thread ∧ m.dom = e1.dom ∧
           m.payload = [BitVec.ofNat 64 (status * 2 ^ 56 + e1.op.toNat * 2 ^ 53 + e1.bytes % 2 ^ 48), info])) ∧
   (∀ (s s1 : State) (c : CoreNo) (e e1 : Copy), (s.core c).engine = some e → e.held = [] → e.ending = none → e.desc = false →
     (s.reqs.any fun q => q.thread == e.thread && decide (q.num < e.num)) = false → e.perform c s = .wait s1 e1 →
       ∃ u, exec (.copyComplete c) s = .next u ∧ (u.core c).engine = some e1 ∧ u.mem = s1.mem) ∧
   (∀ (s : State) (c : CoreNo) (e : Copy), e.count = 0 → e.perform c s = .ok s e) ∧
   (∀ (s : State) (c : CoreNo) (e : Copy), e.count ≠ 0 → e.toPort = false → e.rdir = 0 → e.op = 0 ∨ e.op = 4 →
     let d (i : Nat) (lo : Nat) : Nat := ((e.block.getD i 0).extractLsb' lo 32).toNat
     let x (i : Nat) (lo : Nat) : Word := ((e.block.getD i 0).extractLsb' lo 32).signExtend 64
     let at_ (i j i1 i2 : Nat) (s1 s2 : Word) : Word :=
       e.block.getD i 0 + BitVec.ofNat 64 i1 * s1 + BitVec.ofNat 64 i2 * s2 + BitVec.ofNat 64 j
     let byte (m : Nat) : Option Word × Word :=
       let j := m % d 2 0
       let i1 := m / d 2 0 % d 2 32
       let i2 := m / d 2 0 / d 2 32
       (if e.op = 0 then some (at_ 0 j i1 i2 (x 4 0) (x 4 32)) else none, at_ 1 j i1 i2 (x 5 0) (x 5 32))
     e.perform c s = moveChunks c ((chunks (((List.range (d 2 0 * d 2 32 * d 3 0)).map byte).zipIdx)).drop e.chunk) s e) ∧
   (∀ (s : State) (c : CoreNo) (e : Copy) (l : List ((Option Word × Word) × Nat)) (r : List (List ((Option Word × Word) × Nat)))
      (ps qs : List Nat), s.damage = [] → e.held = [] →
     let srcs : List Word := l.filterMap fun (m : (Option Word × Word) × Nat) => m.1.1
     let vas : List Word := l.map fun (m : (Option Word × Word) × Nat) => m.1.2
     let bs := ps.map (memGet s.mem)
     ((∀ m ∈ l, m.1.1.isSome) ∧ ps.length = l.length ∨ (∀ m ∈ l, m.1.1 = none) ∧ ps = []) →
     checkBytes (e.byteCheck s c .read) srcs = .ok ps → s.engineBehind c ps = false →
     let s0 := (s.useTr c e.thread e.dom .read (srcs.map fun a => (a, 1))).noteReads (e.source c) 5 [((srcs.headD 0).toNat, ps)]
     checkBytes (e.byteCheck s0 c .write) vas = .ok qs → s0.engineBehind c qs = false → qs.Nodup → qs.length = l.length →
       ∃ s1, moveChunks c (l :: r) s e = moveChunks c r s1 { e with chunk := e.chunk + 1, bytes := e.bytes + l.length } ∧
         (∀ a, a ∉ qs → memGet s1.mem a = memGet s.mem a) ∧
         ∀ i < l.length, memGet s1.mem (qs.getD i 0) =
           if ps.isEmpty then (if e.op = 4 then (e.block.getD 6 0).extractLsb' (8 * ((l.getD i default).2 % 8)) 8 else 0) else bs.getD i 0))

/-! ### Steps between threads -/

/-- R117, R118, R322, R323, R371: a staged message is delivered to its addressee, fails with a report to its sender, or is refused,
answered with a NACK and sent again after its backoff; one that a domain sent before it died is still
delivered; a pending report is posted once there is an entry for it. -/
def Obligations.MessageEvents : Prop :=
  (∀ (s : State) (c : CoreNo) (m : Msg) (i : Instr), m.stage = none → m ∈ (s.core c).retry →
    i = .messageDelivery c ∧
        (s.core c).retry.find? (fun m => m.stage.isNone && !m.refused && m.nacks == 0 && s.inOrder m) = some m ∨
      i = .messageRetry c ∧ (s.core c).retry.find? (fun m =>
        !m.refused && m.nacks != 0 && decide (m.due.toNat ≤ s.cyc.toNat) && s.inOrder m) = some m →
      let fails := s.messageFails c m && !((s.accepts m).any (s.firstOfDead c m))
      (∀ t, m.nacks = 0 → s.gone (destDom m.dest) = true → s.accepts m = some t → s.refuses t.core c 2 = false → fails = false) ∧
      (∀ t, fails = false → s.accepts m = some t → ∃ u e, exec i s = .next u ∧ u.mem = s.mem ∧
        (u.core c).retry = (s.core c).retry.erase m ∧ (u.core t.core).mailbox = (s.core t.core).mailbox ++ [e] ∧
        e.thread = t.num ∧ e.dom = destDom m.dest ∧ e.payload = m.payload ∧
        e.header = m.sender ++ m.dom ++ 0#4 ++ BitVec.ofNat 4 m.payload.length ++ 0#12) ∧
      (fails = false → s.accepts m = none → ∃ u, exec i s = .next u ∧ u.mem = s.mem ∧
        { m with refused := true } ∈ (u.core c).retry ∧ (u.core c).retry.length = (s.core c).retry.length) ∧
      (∀ t, fails = true → s.thread? m.sender = some t → t.inSlot = true → (s.core t.core).mailFree t.num = true →
        t.num = m.sender → t.reports = [] → ∃ u e, exec i s = .next u ∧ (u.core c).retry = (s.core c).retry.erase m ∧
          (u.core t.core).mailbox = (s.core t.core).mailbox ++ [e] ∧ e.thread = m.sender ∧ e.dom = m.dom ∧
          e.payload = [m.dest, 1] ∧ e.header.extractLsb' 16 4 = 2#4)) ∧
  (∀ (s : State) (c : CoreNo) (m : Msg), (s.core c).retry.find? (fun m => m.refused) = some m →
    let n := m.nacks + 1
    ∃ u, exec (.nack c) s = .next u ∧ { m with refused := false, nacks := n, due := s.cyc + BitVec.ofNat 64 (32 * 2 ^ min n 7) } ∈
      (u.core c).retry ∧ u.mem = s.mem) ∧
  (∀ (s : State) (n : ThreadNo) (t : Thread) (r : Report), s.thread? n = some t → t.inSlot = true →
    (s.core t.core).mailFree n = true → nextReport t = some r →
      ∃ u e w, exec (.pendingReportPost n) s = .next u ∧ (u.core t.core).mailbox = (s.core t.core).mailbox ++ [e] ∧ e.thread = n ∧
        e.dom = r.dom ∧ e.payload = [r.w0, r.w1] ∧ e.header.extractLsb' 16 4 = r.kind ∧ u.thread? n = some w ∧
        w.reports = t.reports.erase r ∧ w.x = t.x ∧ u.mem = s.mem)

/-- R198, R200, R203, R204, R336: a record arrives at its stage; the store resumes the idle coroutine of its key on a free worker,
with the record in x0 and x1, or starts one at ENTRY where the key's spill record is empty; the entry that makes room is idle, of
the least age of its stage at LIMIT, else of the store; an entry that is due resumes at RETIRE; and a stage that has closed is gone, with the
count of its `kclose`. -/
def Obligations.KeyedEvents : Prop :=
  (∀ (s : State) (c k : CoreNo) (id : Nat) (m : Msg) (g : Stage),
    (s.core c).retry.find? (fun m => m.stage.isSome && !m.refused && m.nacks == 0 && s.inOrder m) = some m →
    m.stage = some (k, id) → (s.core k).stages.find? (fun h => h.id == id) = some g → g.closing = none →
    (s.domain g.dom).life = .live → s.refuses k c 2 = false → s.restarting ≠ some k →
      (g.queue.length < 128 → ∃ u h, exec (.keyedRecordArrival c) s = .next u ∧ u.mem = s.mem ∧
        (u.core c).retry = (s.core c).retry.erase m ∧ (u.core k).stages.find? (fun h => h.id == id) = some h ∧
        h.queue = g.queue ++ [m.payload] ∧ h.workers = g.workers) ∧
      (128 ≤ g.queue.length → ∃ u h, exec (.keyedRecordArrival c) s = .next u ∧ u.mem = s.mem ∧
        { m with refused := true } ∈ (u.core c).retry ∧ (u.core k).stages.find? (fun h => h.id == id) = some h ∧
        h.queue = g.queue ∧ h.refusedFlag = true)) ∧
  (∀ (s s1 : State) (c : CoreNo) (g : Stage) (before after : List Stage) (t w : Thread) (ts : List Thread) (r : Work) (rs : List Work),
    (s.core c).stages = before ++ g :: after → (∀ h ∈ before, s.startable c h = []) → s.startable c g = r :: rs →
    (s.core c).decisions.find? (s.mayGoOn c) = none →
    s.readyWorkers c g = (s1, t :: ts) → s1.damage = [] → s1.thread? t.num = some w →
      let runs (b : Brood) : Prop := ∃ u v, exec (.broodDecision c) s = .next u ∧ u.thread? t.num = some v ∧ v.pc = b.pc &&& ~~~3 ∧
        v.wait = none ∧ v.reg 0 = r.getD 1 0 ∧
        v.reg 1 = r.getD 2 0 ∧ (∀ q : XReg, 2 ≤ q.toNat → v.reg q = maskedRegs b.mask b.regs q.toNat) ∧ v.pw = b.pw ||| 1 ∧
        v.worker = some { core := c, stage := g.id, key := some b.key } ∧ { b with life := .running } ∈ (u.core c).brood
      (∀ b, (s1.core c).broodOf g.id r.key = some b → b.life = .idle → runs b) ∧
      (∀ ps, (s1.core c).broodOf g.id r.key = none → (s1.core c).room g = some none → g.spn ≠ 0 → s1.fatalAt ps = false →
        let k := s1.core c
        let fetching : State := s1.setCore { k with brood := k.brood ++ [{
          stage := g.id, key := r.key, pc := g.entry, pw := 1, mask := g.initMask, regs := g.initVals, age := s1.cyc, life := .fetching }] }
        engineAccess fetching c t.num g.dom g.held .read (g.recordAt (g.home r.key)) 128 = .ok ps →
        fetching.engineBehind c ps = false → memGet s1.mem (ps.getD 23 0) = 0 → ps.length = 128 →
          runs { stage := g.id, key := r.key, pc := g.entry, pw := 1, mask := g.initMask, regs := g.initVals, age := s1.cyc, life := .idle })) ∧
  (∀ (k : Core) (g : Stage) (b : Brood), k.room g = some (some b) → b ∈ k.brood ∧ b.life = .idle ∧
    let here := k.brood.filter fun e => e.life != .spilling
    let mine := here.filter fun e => e.stage == g.id
    (g.limit ≤ mine.length → b.stage = g.id ∧ ∀ e ∈ mine, e.life = .idle → b.age.toNat ≤ e.age.toNat) ∧
    (mine.length < g.limit → 64 ≤ here.length ∧ ∀ e ∈ here, e.life = .idle → b.age.toNat ≤ e.age.toNat)) ∧
  (∀ (s s1 : State) (c : CoreNo) (g : Stage) (before after : List Stage) (t w : Thread) (ts : List Thread) (r : Work)
    (rs : List Work) (b : Brood),
    (s.core c).stages.find? (s.stageDone c) = none →
    (s.core c).stages = before ++ g :: after → (∀ h ∈ before, s.dueItems c h = []) → s.dueItems c g = r :: rs →
    s.readyWorkers c g = (s1, t :: ts) → s1.damage = [] → s1.thread? t.num = some w →
    (s1.core c).broodOf g.id r.key = some b → b.life = .idle →
      ∃ u v, exec (.idleRetirement c) s = .next u ∧ u.thread? t.num = some v ∧ v.pc = g.retire &&& ~~~3 ∧ v.wait = none ∧ v.reg 0 = 0 ∧
        v.reg 1 = 0 ∧ (∀ q : XReg, 2 ≤ q.toNat → v.reg q = maskedRegs b.mask b.regs q.toNat) ∧
        { b with life := .retiring } ∈ (u.core c).brood) ∧
  (∀ (s : State) (c : CoreNo) (g : Stage) (n : ThreadNo), (s.core c).stages.find? (s.stageDone c) = some g → g.closing = some n →
    ∃ u, exec (.idleRetirement c) s = .next u ∧ (∀ h ∈ (u.core c).stages, h.id ≠ g.id) ∧
      ∀ w, u.thread? n = some w → w.closed = some g.retiredByClose ∧ w.wait = some .held)

/-- R11, R290 to R293, R354, R361: a `spawn` request starts its thread in a free slot for which nothing waits, is stored, or is
refused, as it is where the column does not admit it, and its answer makes the spawner's word issue again; a launch request
enters the core's table; a free slot takes the first of what waits for it, a context with what it held or with what its block
holds; threads that end are counted at their launch core, and a core whose threads and children are all counted reports. -/
def Obligations.StartEvents : Prop :=
  (∀ (s : State) (c : CoreNo) (r : SpawnReq),
      (s.spawns.find? fun p => p.1 == c && !p.2.refused && (p.2.nacks == 0 || p.2.due == 0)) = some (c, r) →
      s.restarting ≠ some c →
      let s1 : State := { s with spawns := s.spawns.erase (c, r) }
      let admitted := s.refuses c r.from_ 0 = false
      let turned := s.refuses c r.from_ 0 = true ∨ s1.openSlot c r.vd = none ∧ 32 ≤ (s.core c).spawnStore.length
      (∀ n s2, admitted → s1.openSlot c r.vd = some n → s1.startThread c n (r.thread s1) = .ok s2 →
        ∃ u t, exec (.spawnRequest c) s = .next u ∧ u.answers = s.answers ++ [(r.spawner, true)] ∧ t ∈ u.others ∧
          t.num = s.freshNumber ∧ t.place = .slot c n ∧ t.pc = r.pc ∧ t.cb = r.cb ∧ t.dom = r.dom ∧
          (∀ q : XReg, t.reg q = r.seeds.getD q.toNat 0) ∧ t.pw = 1 ∧ t.agv = r.agree.1) ∧
      (admitted → s1.openSlot c r.vd = none → (s.core c).spawnStore.length < 32 → ∃ u, exec (.spawnRequest c) s = .next u ∧
        (u.core c).spawnStore = (s.core c).spawnStore ++ [{ r with came := s.cyc }] ∧
        u.answers = s.answers ++ [(r.spawner, true)] ∧ u.mem = s.mem) ∧
      (turned → r.retry = false → exec (.spawnRequest c) s = .next { s1 with answers := s.answers ++ [(r.spawner, false)] }) ∧
      (turned → r.retry = true → ∃ u, exec (.spawnRequest c) s = .next u ∧
        (c, { r with refused := true }) ∈ u.spawns ∧ u.answers = s.answers)) ∧
  (∀ (s : State) (n : ThreadNo) (t : Thread) (b : Bool), s.thread? n = some t → t.wait = some .spawn →
    (s.answers.find? fun a => a.1 == n) = some (n, b) → ∃ u, exec (.spawnAnswer n) s = .next u ∧
      u.thread? n = some { t with answer := some b, wait := some .held } ∧ u.answers = s.answers.erase (n, b)) ∧
  (∀ (s : State) (c : CoreNo) (r : LaunchReq), (s.launches.find? fun p => p.1 == c) = some (c, r) →
    (s.core c).launchTable.length < 4 → s.openSlots c r.vd = [] →
      ∃ u q, exec (.launchRequest c) s = .next u ∧ u.launches = s.launches.erase (c, r) ∧
        (u.core c).launchTable = (s.core c).launchTable ++ [{ r with came := s.cyc }] ∧ (u.core c).parts = (s.core c).parts ++ [q] ∧
        q.vd = r.vd ∧ q.pkt = r.pkt ∧ q.quota = r.left ∧ q.counted = 0 ∧ u.mem = s.mem) ∧
  (∀ (s s1 : State) (c : CoreNo) (n : SlotNo) (r : LaunchReq), s.nextFor c n = some (.launch r) →
    s.startThread c n (r.thread s c) = .ok s1 → ∃ u t, exec (.slotFill c n) s = .next u ∧ t ∈ u.others ∧ t.num = s.freshNumber ∧
      u.nextThread = s.freshNumber + 1 ∧ t.place = .slot c n ∧ t.pc = r.entry &&& ~~~3 ∧ t.cb = (s.domain r.dom).dcb ∧
      t.dom = r.dom ∧ t.pkt = r.pkt ∧ t.lcore = c ∧ (∀ q : XReg, t.reg q = r.seeds.getD q.toNat 0) ∧ t.fmtA = r.fmtA ∧
      t.scC = r.scC ∧ t.st = 0 ∧ t.pw = 1) ∧
  (∀ (s : State) (c k : CoreNo) (n : SlotNo) (t : Thread) (b : Block), s.nextFor c n = some (.context t) →
    s.thread? t.num = some t → t.block? t.dom = some b → (readEntry s t t.depth.toNat).1 = false → s.resumeBehind t = false →
    ∀ i ∈ ([.slotFill c n, .contextResume c n] : List Instr),
      (t.place = .cached k → ∃ u, exec i s = .next u ∧ u.mem = s.mem ∧ t.num ∉ (u.core c).cache ∧ u.thread? t.num = some { t with
        place := .slot c n, st := t.st ||| t.lateFlags, lateFlags := 0, rejoin := some s.cyc
        top := entryAt s t t.depth.toNat }) ∧
      (t.place = .spilled k → s.unwindTarget t = none → s.recBad (physRange b.running t.frameBytes) false = false →
        let w := s.recWord b.running
        ∃ u v, exec i s = .next u ∧ u.mem = s.mem ∧ t.num ∉ (u.core c).spills ∧ u.thread? t.num = some v ∧ v.place = .slot c n ∧
          v.pc = w 1 &&& ~~~3 ∧ v.cb = w 3 ∧ (∀ r : XReg, v.reg r = w (8 + r.toNat)) ∧ v.pred 0 = true ∧
          v.top = entryAt s t t.depth.toNat)) ∧
  (∀ (s : State) (c : CoreNo) (q : QuitNote) (p : PktPart), (s.quits.find? fun q => q.dest == c) = some q →
    (s.core c).parts.find? (PktPart.ofPkt q.vd q.pkt) = some p →
      let p1 : PktPart := { p with counted := p.counted + 1, count := p.count + 1, err := p.err ||| q.err, fin := wordMax p.fin q.fin }
      ∃ u, exec (.quitNotice c) s = .next u ∧ u.quits = s.quits.erase q ∧ u.mem = s.mem ∧
        (p1.counted < p.quota ∨ p.children ≠ 0 → (u.core c).parts.find? (PktPart.ofPkt q.vd q.pkt) = some p1 ∧ u.dones = s.dones) ∧
        (p.quota ≤ p1.counted → p.children = 0 → u.dones = s.dones ++ [{
          dest := p.parent, vd := q.vd, pkt := q.pkt, err := p1.err, count := p1.count, fin := p1.fin }])) ∧
  (∀ (s : State) (c : CoreNo) (d : Done) (p : PktPart),
    (s.dones.find? fun d => d.dest == some c && (s.core c).parts.any (PktPart.ofPkt d.vd d.pkt)) = some d →
    (s.core c).parts.find? (PktPart.ofPkt d.vd d.pkt) = some p →
      let p1 : PktPart := { p with children := p.children - 1, err := p.err ||| d.err, count := p.count + d.count, fin := wordMax p.fin d.fin }
      ∃ u, exec (.doneMessage c) s = .next u ∧ u.mem = s.mem ∧
        (p.counted < p.quota ∨ p1.children ≠ 0 →
          (u.core c).parts.find? (PktPart.ofPkt d.vd d.pkt) = some p1 ∧ u.dones = s.dones.erase d) ∧
        (p.quota ≤ p.counted → p1.children = 0 → u.dones = s.dones.erase d ++ [{
          dest := p.parent, vd := d.vd, pkt := d.pkt, err := p1.err, count := p1.count, fin := p1.fin }]))

/-! ### Threads that move -/

/-- R286 to R289, R322, R360, R361: a thread that has drained leaves with the registers that are live, and takes a slot for
which nothing waits, or waits on arrival; one that is to be killed takes none; a thread whose slot serves another VD is saved
into its core's cache with the registers of its safe point. R315: a gate defers that, for 65,536 cycles. R294, R295, R352, R353:
a hot sample disables the highest enabled slot of its core, a cool one enables the lowest disabled slot, and the thread of a
disabled slot leaves for the coolest core that takes it; a core's slice ends with the VD that is to hold it next, its slots are
handed over one by one, and boosts and budgets end. That a thread saved for another VD keeps the registers of its safe point
alone is the model's reading of R273's words on a handover (log entry 61, DEDUCED): R360 by itself copies the running frame. -/
def Obligations.MotionAndHeat : Prop :=
  let live (s : State) (t w : Thread) : Prop :=
    ∀ r : XReg, w.reg r = if ((s.safePoint t).getD 0xFFFF).getLsbD r.toNat then t.reg r else 0
  ((∀ (s : State) (n : ThreadNo) (t : Thread) (c : CoreNo) (full : Bool) (b : Block), s.thread? n = some t → t.num = n →
     t.leaving = some (c, full) → t.inSlot = true → t.wait = some .leaving ∨ t.wait = some .record → t.norm = false → t.ldo = 0 →
     t.sto = 0 → (full = true → t.cpo = 0 ∧ t.tlo = 0) → s.buffered t.core < 32 → t.block? t.dom = some b →
     s.anyBehind t (t.pageRecords t.depth.toNat ++ t.runningRecord) = false → ShelvesTop s t → TravelRecord s b true →
       ∃ u w, exec (.migrationDeparture n) s = .next u ∧ u.thread? n = some w ∧ w.place = .travelling c ∧ w.leaving = none ∧
         w.trip = { from_ := t.core } ∧ w.wait = (if t.wait = some .record then some .record else none) ∧ w.pc = t.pc ∧ w.dom = t.dom ∧ w.top = none ∧
         live s t w) ∧
   (∀ (s : State) (n : ThreadNo) (t : Thread) (c : CoreNo), s.thread? n = some t → t.num = n → t.place = .travelling c →
     (t.trip.refused = true ∨ s.cyc.toNat < t.trip.due.toNat → exec (.migrationArrival n) s = .next s) ∧
     (t.trip.refused = false → t.trip.due.toNat ≤ s.cyc.toNat →
     (s.killDue t = true → ∃ u w, exec (.migrationArrival n) s = .next u ∧ u.thread? n = some w ∧ w.place = .gone) ∧
     (∀ m b, s.killDue t = false → s.openSlot c t.chgvd = some m → t.block? t.dom = some b →
       (readEntry s t t.depth.toNat).1 = false → TravelRecord s b false → t.lost = false → s.resumeBehind t = false →
       ∃ u w, exec (.migrationArrival n) s = .next u ∧ u.thread? n = some w ∧ w.place = .slot c m ∧ w.x = t.x ∧ w.pc = t.pc ∧
         w.taint = t.taint ∧ w.top = entryAt s t t.depth.toNat ∧ w.rejoin = some s.cyc ∧ u.mem = s.mem ∧
         (s.unwindTarget t = none → w.cb = s.recWord b.running 3 ∧ w.st = stDefined (s.recWord b.running 2) ||| t.lateFlags)) ∧
     (s.killDue t = false → t.lost = false → s.openSlot c t.chgvd = none → (s.core c).arrivals.length < 8 →
       ∃ u, exec (.migrationArrival n) s = .next u ∧ u.thread? n = some { t with place := .arrival c } ∧
         (u.core c).arrivals = (s.core c).arrivals ++ [n] ∧ u.mem = s.mem))) ∧
   (∀ (s : State) (c : CoreNo) (t : Thread), ((s.core c).retry.find? fun m => m.refused) = none →
     (s.spawns.find? fun p => p.2.refused && p.2.from_ == c) = none →
     (s.threads.find? fun t => t.leftFrom c && t.trip.refused) = some t → s.thread? t.num = some t →
       let n := t.trip.nacks + 1
       ∃ u w, exec (.nack c) s = .next u ∧ u.thread? t.num = some w ∧ w.place = t.place ∧ u.mem = s.mem ∧
         w.trip = { t.trip with refused := false, nacks := n, due := s.cyc + BitVec.ofNat 64 (32 * 2 ^ min n 7) }) ∧
   (∀ (s : State) (c : CoreNo) (n : SlotNo) (t : Thread), s.occupant c n = some t → s.thread? t.num = some t → t.place = .slot c n →
     (s.slotVd c n == some t.chgvd) = false →
     (s.deferred t = true → ∃ u, exec (.preemptSave c n) s = .next u ∧ u.mem = s.mem ∧
       u.thread? t.num = some { t with deferSince := t.deferSince <|> some s.cyc }) ∧
     (s.deferred t = false → (s.saveQueue c).contains t.num = false → ∃ u, exec (.preemptSave c n) s = .next u ∧
       (u.core c).saves = s.saveQueue c ++ [t.num] ∧ u.cur = s.cur ∧ u.others = s.others ∧ u.mem = s.mem) ∧
     (s.deferred t = false → (s.saveQueue c).contains t.num = true → (s.saveQueue c).head? ≠ some t.num →
       exec (.preemptSave c n) s = .next s) ∧
     (s.deferred t = false → (s.saveQueue c).head? = some t.num → t.savable = true → s.saveBehind c t = false →
       (s.core c).cache.length < 32 → ShelvesTop s t → s.orphanDue t = false →
       ∃ u w, exec (.preemptSave c n) s = .next u ∧ u.thread? t.num = some w ∧ w.place = .cached c ∧ live s t w ∧ w.pc = t.pc ∧
         w.pw = t.pw ∧ w.cb = t.cb ∧ w.v = t.v ∧ w.tlo = 0 ∧ (u.core c).cache = (s.core c).cache ++ [t.num] ∧
         ∀ k ∈ u.combs, (∀ o ∈ k.queue, o.thread ≠ t.num) → ∀ a ∈ k.accs, a.thread = t.num → a.parked = true)) ∧
   (∀ (s : State) (n : ThreadNo) (t : Thread), s.thread? n = some t →
     ∃ u, exec (.deferralExpiry n) s = .next u ∧ u.mem = s.mem ∧
       (∀ y, t.deferSince = some y → 65536 ≤ (s.cyc - y).toNat →
         u.thread? n = some { t with deferOver := true, deferSince := none }) ∧
       ((∀ y, t.deferSince = some y → (s.cyc - y).toNat < 65536) → u.thread? n = some t))) ∧
  ((∀ (s : State) (c : CoreNo) (x : BitVec 8),
     let k := s.core c
     ∃ u, exec (.thermalSample c x) s = .next u ∧ (u.core c).temp = x ∧ u.mem = s.mem ∧
       (∀ n < 16, k.hot.toNat ≤ x.toNat → k.disabled.getLsbD n = false → (∀ m, n < m → m < 16 → k.disabled.getLsbD m = true) →
         (u.core c).disabled = k.disabled ||| (1#16 <<< n)) ∧
       (∀ n < 16, x.toNat < k.hot.toNat → x.toNat < k.coolAt → k.disabled.getLsbD n = true → (∀ m < n, k.disabled.getLsbD m = false) →
         (u.core c).disabled = k.disabled &&& ~~~(1#16 <<< n)) ∧
       (x.toNat < k.hot.toNat → k.coolAt ≤ x.toNat → (u.core c).disabled = k.disabled)) ∧
   (∀ (s : State) (c d : CoreNo) (n : SlotNo) (t : Thread), s.occupant c n = some t → s.thread? t.num = some t →
     (s.core c).disabled.getLsbD n.toNat = true → s.deferred t = false → t.leaving = none → t.portsBound = false → t.vlive = false →
     s.coolCore t = some d → t.norm = false → t.stands = none → t.wait ≠ some .closing → t.wait ≠ some .spawn →
       ∃ u w, exec (.thermalDisplacement c n) s = .next u ∧ u.thread? t.num = some w ∧ w.leaving = some (d, false) ∧ w.x = t.x ∧
         u.mem = s.mem ∧ (u.hive (hiveOf t.core)).displaced = (s.hive (hiveOf t.core)).displaced + 1 ∧
         w.wait = match t.wait with
           | some .access => some .access
           | some .record => some .record
           | some (.refused a) => some (.refused a)
           | _ => some .leaving) ∧
   (∀ (s : State) (c : CoreNo), s.isShared c = true → (∀ v ∈ s.vds, v.idleSince = none ↔ s.sharedWork v = true) →
       ∃ u, exec (.sliceEnd c) s = .next u ∧ u.vds = s.vds ∧ u.mem = s.mem ∧
         (∀ v, s.pickVd c = some v → (s.core c).sliceVd ≠ some v → (s.core c).nextVd = none →
           (u.core c).nextVd = some v ∧ (u.core c).handed = 0 ∧ (u.core c).sliceStart = s.cyc ∧
           (u.core c).pointer = (s.core c).lastCompute + 1) ∧
         (s.pickVd c = none ∨ s.pickVd c = (s.core c).sliceVd →
           (u.core c).nextVd = (s.core c).nextVd ∧ (u.core c).sliceVd = (s.core c).sliceVd)) ∧
   (∀ (s : State) (c : CoreNo) (v : VdNo) (n : SlotNo),
     let k := s.core c
     k.nextVd = some v → s.visited k = some n →
       (s.mayHand c n = true → ∃ u, exec (.slotHandover c) s = .next u ∧ u.mem = s.mem ∧ (u.core c).pointer = n + 1 ∧
         (∀ t, s.occupant c n = some t → t.num ∈ (u.core c).saves ∨ u.slotVd c n = some t.chgvd ∨ u.deferred t = true) ∧
         (k.handed ||| (1#16 <<< n.toNat) ≠ BitVec.allOnes 16 →
           (u.core c).handed = k.handed ||| (1#16 <<< n.toNat) ∧ (u.core c).nextVd = some v) ∧
         (k.handed ||| (1#16 <<< n.toNat) = BitVec.allOnes 16 → (u.core c).nextVd = none ∧ (u.core c).sliceVd = some v)) ∧
       (s.mayHand c n = false → ∃ u, exec (.slotHandover c) s = .next u ∧ u.core c = { k with pointer := n } ∧ u.mem = s.mem)) ∧
   (∀ (s : State) (v : VdNo), ∃ u, exec (.boostEnd v) s = .next u ∧ u.vd v = { s.vd v with boost := false } ∧ u.mem = s.mem) ∧
   (∀ (s : State), ∃ u, exec .budgetRenewal s = .next u ∧ (∀ v ∈ u.vds, v.spent = 0) ∧ (∀ k ∈ u.cores, k.share = []) ∧
     u.mem = s.mem ∧ u.vds.length = s.vds.length))

/-! ### The end of threads and domains, the handle service, system steps -/

/-- R310, R317 to R322, R358: a killed domain is dying, and dead once nothing is left in it; a thread whose bottom domain is gone
and to which no entry is left is killed; a thread is unwound out of a dying callee with status 11 in x0 and k1 = 0; an orphan
whose grace is spent is retired, or runs its gate's abandon handler on a second budget, after which it is killed. -/
def Obligations.EndEvents : Prop :=
  (∀ (s : State) (d : DomNo),
    ((s.domain d).life ≠ .live → exec (.domainKill d) s = .next s) ∧
    ((s.domain d).life = .live → ∃ u, exec (.domainKill d) s = .next u ∧ (u.domain d).life = .dying ∧
      (∀ c, ∀ g ∈ (u.core c).stages, g.dom ≠ d) ∧ (∀ e, e ≠ d → u.domain e = s.domain e) ∧
      (∀ k ∈ s.cores, s.core k.num = k → ∀ g ∈ k.stages, ∀ n t, g.dom = d → g.closing = some n → s.thread? n = some t →
        (∀ g' ∈ s.cores.flatMap Core.stages, g'.closing = some n → g' = g) →
        ∃ w, u.thread? n = some w ∧ w.closed = some g.retiredByClose) ∧
      ((∀ i < (s.domain d).htlen, let e := s.hentry (s.domain d) i
          ¬(e.kind = 2 ∧ e.odom = d ∧ (s.gateDesc e.addr.toNat).inside = 0)) → u.mem = s.mem))) ∧
  (∀ (s : State) (d : DomNo), (s.domain d).life = .dying → s.emptied d = true →
    ∃ u, exec (.domainTeardown d) s = .next u ∧ (u.domain d).life = .dead ∧ (u.domain d).htlen = 0 ∧ (u.domain d).svn = 0 ∧
      (∀ k ∈ u.combs, ∀ a ∈ k.accs, a.dom ≠ d) ∧ (∀ o ∈ u.offers, o.odom ≠ d ∧ o.target ≠ d)) ∧
  (∀ (s : State) (n : ThreadNo) (t : Thread), s.thread? n = some t → t.place ≠ .gone →
    let ends (e : Out1) : Prop := ∃ u w, e = .next u ∧ u.thread? n = some w ∧ w.place = .gone
    (s.killDue t = true → t.between = true → (∀ c, t.place ≠ .travelling c) → t.num = n → ends (exec (.threadKill n) s)) ∧
    (t.depth = 0 → s.gone t.dom = true → s.killDue t = true) ∧
    (t.inSlot = true → t.graceSpent true = true → t.between = true → ends (exec (.abandonBudgetExpiry n) s)) ∧
    (t.inSlot = true → t.graceSpent false = true → t.boundary = true → t.depth ≠ 0 → s.levelsBehind t 1 = false →
      (s.abandonOf t = 0 → ends (exec (.graceExpiry n) s)) ∧
      (s.abandonOf t ≠ 0 → t.depth = 1 → (s.readLevels t 1).1 = false →
        ∃ u w, exec (.graceExpiry n) s = .next u ∧ u.thread? n = some w ∧
        w.pc = s.abandonOf t &&& ~~~3 ∧ w.pred 1 = false ∧ w.reg 15 = t.pc ∧ (∀ r, r ≠ 15 → w.reg r = t.reg r) ∧ w.depth = 1 ∧
        w.wait = none ∧ w.orphan.any (fun o => o.second && o.since == t.chg) = true))) ∧
  (∀ (s : State) (n : ThreadNo) (t : Thread) (e : Entry), s.thread? n = some t → t.num = n → t.inSlot = true →
    t.boundary = true → t.lost = false → t.doom = none → t.orphan = none → t.depth = 1 → t.top = some e → s.gone e.gdom = true →
    s.gone e.cdom = false → s.recBad (physRange e.cframe.toNat 1536) false = false → s.levelsBehind t 0 = false →
      let f := s.recWord e.cframe.toNat
      ∃ u w, exec (.threadUnwind n) s = .next u ∧ u.thread? n = some w ∧ w.depth = 0 ∧ w.dom = e.cdom ∧ w.pc = e.retpc &&& ~~~3 ∧
        w.reg 0 = 11 ∧ w.pred 1 = false ∧
        ∀ r : XReg, r ≠ 0 → w.reg r = if r.toNat < e.nwin.toNat then 0 else f (8 + r.toNat))

/-- R310 to R312, R314: the operations of the handle service, which x0 names, answer a result in x0 and a status in x1: 1 for a
handle that does not stand, 2 without the right, 3 for no offer, 4 for a full table, 5 for what is no operation; a dropped entry's
handle no longer stands, an installed one does, an offer is consumed by its import, and a closed gate's descriptor holds its new
STATE: one that is hard-closed never reopens. -/
def Obligations.HandleService : Prop :=
  ∀ (s : State) (c : DomNo), s.serving = some c →
    let d := s.domain c
    let op := (s.cur.reg 0).toNat
    let asked (n : Nat) (l : List Word) : Prop := op = n ∧ ∀ x ∈ l.zipIdx, s.cur.reg (BitVec.ofNat 4 (x.2 + 1)) = x.1
    let answers (i : Instr) (v : Word) (n : Nat) : Prop :=
      ∃ u : State, exec i s = .next (u.serve v n) ∧ u.mem = s.mem ∧ u.cur.x = s.cur.x ∧ u.domains = s.domains ∧ u.offers = s.offers
    (∀ (v : Word) (n : Nat), (s.serve v n).cur.reg 0 = v ∧ (s.serve v n).cur.reg 1 = BitVec.ofNat 64 n) ∧
    (∀ a b x : Word, ∀ i ∈ ([(.installTensor a b, 1), (.dropHandle a x, 2), (.offer a b x, 3), (.importHandle x, 4),
        (.closeGate a b x, 5)] : List (Instr × Nat)),
      (op = 0 ∨ 5 < op → answers i.1 0 5) ∧ (1 ≤ op → op ≤ 5 → op ≠ i.2 → exec i.1 s = .next s)) ∧
    (∀ slot desc : Word, asked 1 [slot, desc] →
      (desc.extractLsb' 0 6 ≠ 0#6 → answers (.installTensor slot desc) 0 2) ∧
      (∀ ps, checkTables s (combOf s.cur.core) c desc.toNat 64 .read = .ok ps → desc.extractLsb' 0 6 = 0#6 →
        (slot = 0 → s.freeSlot d = none → answers (.installTensor slot desc) 0 4) ∧
        (slot ≠ 0 → d.htlen ≤ slot.toNat ∨ (s.hentry d slot.toNat).kind ≠ 0 → answers (.installTensor slot desc) 0 1) ∧
        (∀ i, i < 2 ^ 20 → (slot = 0 ∧ s.freeSlot d = some i) ∨
            (slot.toNat = i ∧ i ≠ 0 ∧ i < d.htlen ∧ (s.hentry d i).kind = 0) →
          ∃ u, exec (.installTensor slot desc) s = .next u ∧ u.cur.reg 1 = 0 ∧
            (MemoryOk s → s.damage = [] →
              u.hentry d i = { s.hentry d i with kind := 1, odom := c, core := 0, addr := desc }) ∧
            u.cur.reg 0 = (BitVec.ofNat 20 i ++ (s.hentry d i).gen).setWidth 64))) ∧
    (∀ (h x : Word) (dn : DomNo), s.serviceDom c x = some dn → s.cur.reg 1 = h → s.cur.reg 3 = x →
      (op = 2 → s.entryOf dn h = none → answers (.dropHandle h x) 0 1) ∧
      (∀ e, op = 2 → s.entryOf dn h = some e → ∃ u, exec (.dropHandle h x) s = .next u ∧ u.cur.reg 1 = 0 ∧
        (MemoryOk s → s.damage = [] →
          (u.hentry (s.domain dn) e.slot).kind = 0 ∧ (u.hentry (s.domain dn) e.slot).gen = e.gen + 1)) ∧
      (∀ y, s.cur.reg 2 = y →
        (op = 3 → s.lookup dn h 2 = none → s.lookup dn h 3 = none → answers (.offer h y x) 0 1) ∧
        (∀ e, op = 3 → s.lookup dn h 2 = some e → e.odom ≠ dn → answers (.offer h y x) 0 2) ∧
        (∀ e, op = 3 → s.lookup dn h 2 = some e → e.odom = dn → ∃ u o, exec (.offer h y x) s = .next u ∧ u.cur.reg 1 = 0 ∧
          u.offers = s.offers ++ [o] ∧ o.odom = dn ∧ o.target = y.extractLsb' 0 12 ∧ o.w1 = e.addr ∧ u.mem = s.mem) ∧
        (op = 5 → s.lookup dn h 2 = none → answers (.closeGate h y x) 0 1) ∧
        (∀ e, op = 5 → s.lookup dn h 2 = some e → e.odom ≠ dn → answers (.closeGate h y x) 0 2) ∧
        (∀ e, op = 5 → s.lookup dn h 2 = some e → e.odom = dn →
          let g := s.gateDesc e.addr.toNat
          (2 < y.toNat → answers (.closeGate h y x) 0 5) ∧
          (y.toNat < 2 → g.state = 2 → answers (.closeGate h y x) 0 2) ∧
          (y = 2 → g.state = 2 → answers (.closeGate h y x) 0 0) ∧
          (y = 0 → g.state = 0 → answers (.closeGate h y x) 0 2) ∧
          (y.toNat ≤ 2 → g.state ≠ 2 → ¬(y = 0 ∧ g.state = 0) →
            ∃ u, exec (.closeGate h y x) s = .next u ∧ u.cur.reg 1 = 0 ∧
              (¬(y = 2 ∧ g.inside = 0) → MemoryOk s → s.damage = [] →
                (u.gateDesc e.addr.toNat).state = y.extractLsb' 0 2 ∧ (u.gateDesc e.addr.toNat).entry = g.entry) ∧
              (y = 2 → g.inside = 0 → ∀ o ∈ u.offers, namesGate e.addr.toNat o.w0 o.w1 = false))))) ∧
    (∀ x h y : Word, s.serviceDom c x = none → s.cur.reg 1 = h → s.cur.reg 2 = y → s.cur.reg 3 = x →
      (op = 2 → answers (.dropHandle h x) 0 2) ∧ (op = 3 → answers (.offer h y x) 0 2) ∧
      (op = 5 → answers (.closeGate h y x) 0 2)) ∧
    (∀ x : Word, asked 4 [x] →
      let find := s.offers.find? fun o => o.odom.setWidth 64 == x && o.target == c && o.name == nameFrom s 4096 0
      (find = none → answers (.importHandle x) 0 3) ∧
      (∀ o, find = some o → s.freeSlot d = none → answers (.importHandle x) 0 4) ∧
      (∀ o i, find = some o → s.freeSlot d = some i → i < 2 ^ 20 → ∃ u, exec (.importHandle x) s = .next u ∧ u.cur.reg 1 = 0 ∧
        u.offers = s.offers.erase o ∧ (MemoryOk s → s.damage = [] → u.hentry d i = { s.hentry d i with
          kind := (o.w0.extractLsb' 60 4).toNat, odom := o.odom, core := o.w0.extractLsb' 10 10, addr := o.w1 })))

/-- R14, R255, R339, R340, R366 to R369, R388: the steps of the system registers, of page replies and of walks. -/
def Obligations.SystemSteps : Prop :=
  (∀ (s : State), s.cur.vbusy = false → ∃ u, exec .vliveClear s = .next u ∧ u.cur.vlive = false ∧
    (∀ r, u.cur.lanes r = Vector.replicate 32 0) ∧ (∀ r, (u.cur.stream r).bound = false) ∧ u.cur.x = s.cur.x ∧ u.mem = s.mem) ∧
  (∀ (s : State), ∃ u, exec .traceClear s = .next u ∧ (u.core s.cur.core).trRing = [] ∧ (u.core s.cur.core).trLost = 0 ∧
    (u.core s.cur.core).trHead = 0 ∧ (u.core s.cur.core).trEn = (s.core s.cur.core).trEn ∧ u.cur = s.cur) ∧
  (∀ (s : State) (v : Word), exec (.evselWrite v) s = .next { s with cur := { s.cur with evsel := v, evcnt := 0 } }) ∧
  (∀ (s : State) (d : Domain) (v : Word), s.hselDomain (s.core s.cur.core).hsel = some d →
    (v.extractLsb' 0 16 = 0 → ∃ u, exec (.tinv1 v) s = .next u ∧ u.mem = s.mem ∧
      ∀ k ∈ u.combs, ∀ e ∈ k.tlb, ¬(e.dom = d.num ∧ e.page.extractLsb' 0 32 = v.extractLsb' 16 32)) ∧
    (v.extractLsb' 0 16 = 1 → ∃ u, exec (.tinv1 v) s = .next u ∧ u.mem = s.mem ∧ ∀ k ∈ u.combs, ∀ e ∈ k.tlb, e.dom ≠ d.num)) ∧
  (∀ (s : State) (v : Word),
    (v.extractLsb' 0 16 = 0 → ∃ u, exec (.tinv2 v) s = .next u ∧ u.mem = s.mem ∧ ∀ k ∈ u.combs,
      (∀ e ∈ k.tlb, ¬(e.vd = s.fselVd.num ∧ e.ipa = v.extractLsb' 16 36)) ∧
      ∀ e ∈ k.tlb2, ¬(e.vd = s.fselVd.num ∧ e.ipa = v.extractLsb' 16 36)) ∧
    (v.extractLsb' 0 16 = 1 → ∃ u, exec (.tinv2 v) s = .next u ∧ u.mem = s.mem ∧ ∀ k ∈ u.combs,
      (∀ e ∈ k.tlb, e.vd ≠ s.fselVd.num) ∧ ∀ e ∈ k.tlb2, e.vd ≠ s.fselVd.num)) ∧
  (∀ (s : State) (w : Word) (v : VdNo) (p : PageReq), w.extractLsb' 2 6 = 0 → w.extractLsb' 8 6 = v → w.extractLsb' 14 18 = 0 →
    (s.vd v).pend.find? (fun p => p.req == w.extractLsb' 32 32 && !p.mapped) = some p →
      (w.extractLsb' 0 2 = 1 → ∃ u, exec (.pgrep w) s = .next u ∧ u.mem = s.mem ∧ u.cur = s.cur ∧
        (u.vd v).pend = (s.vd v).pend.filter (fun q => q.req != p.req) ++ [{ p with mapped := true }]) ∧
      (w.extractLsb' 0 2 = 2 → ∃ u, exec (.pgrep w) s = .next u ∧ (∀ q ∈ (u.vd v).pend, q.req ≠ p.req) ∧ u.mem = s.mem ∧
        ∀ n t a, s.thread? n = some t → t.wait = some (.page v p.ipa a) → ∃ y, u.thread? n = some y ∧
          y.wait = some (.refused a) ∧ y.x = t.x)) ∧
  (∀ (s : State) (v : Word), (∀ i < s.fselVd.queueSize, present (s.fselVd.pqbase.toNat + 32 * i) = true) →
    ∃ u, exec (.pqheadWrite v) s = .next u ∧ u.cur = s.cur ∧ (u.vd s.fselVd.num).pqhead = v) ∧
  (∀ (s : State) (v : VdNo) (page : BitVec 36) (p : PageReq), (s.vd v).pend.find? PageReq.mapped = some p →
    (p.ipa ≠ page → exec (.rewalk v page) s = .next s) ∧
    (p.ipa = page → ∃ u, exec (.rewalk v page) s = .next u ∧ (∀ q ∈ (u.vd v).pend, q.req ≠ p.req) ∧ u.mem = s.mem ∧
      ∀ n t x, s.thread? n = some t → t.wait = some (.page v page x) → ∃ y, u.thread? n = some y ∧ y.wait = none ∧
        y.rejoin = some s.cyc ∧ y.x = t.x)) ∧
  (∀ (s : State) (n : ThreadNo) (t : Thread) (va : Word) (k : BitVec 2) (page : Nat) (r : Rights) (ipa : Nat)
      (ts : List (Nat × Nat × Rights × Nat)),
    s.thread? n = some t → windowOf va.toNat = .priv → (∀ w ∈ s.walks, w.page.toNat ≠ va.toNat / 65536) →
    translate s (combOf t.core) t.dom va.toNat = .ok page r ipa ts →
      ∃ u, exec (.translationWalk n va k) s = .next u ∧ u.mem = s.mem ∧ u.cur = s.cur ∧
        ((u.comb (combOf t.core)).tlb.any fun e => e.dom == t.dom && e.page.toNat == va.toNat / 65536) = true) ∧
  (∀ (s : State) (w : Walk) (n : ThreadNo) (va : Word) (k : BitVec 2) (page : Nat) (r : Rights) (ipa : Nat)
      (ts : List (Nat × Nat × Rights × Nat)),
    s.walks = [w] → w.thread = n → w.page.toNat = va.toNat / 65536 → w.held = none → s.walkers w = [] →
    s.walk w = .ok page r ipa ts →
      ∃ u, exec (.translationWalk n va k) s = .next u ∧ u.walks = [] ∧ u.mem = s.mem ∧ u.cur = s.cur)

/-! ### Packets -/

/-- R343 to R349, R355: a packet of the controlling host joins its queue; the head of the queue that is taken next is dispatched,
its first launch request sent; a replay takes the free patch set of lowest number and starts its graph's first packet, patched;
the done message of its root completes the packet. -/
def Obligations.PacketEvents : Prop :=
  (∀ (s : State) (host : BitVec 4) (v : VdNo) (p : Packet), (s.vd v).st ≠ 0#2 → s.controls host = true → s.frontDown = false →
    let n : BitVec 16 := 0x100 + v.setWidth 16
    (p.length = 0 ∨ 2048 < p.length → exec (.launchPacket host n p) s = .next { s with out := s.out ++ [.unsupported] }) ∧
    (p.length ≠ 16 → 1 ≤ p.length → p.length ≤ 2048 → exec (.launchPacket host n p) s = .next (s.vdSticky v flagBADPKT)) ∧
    (p.length = 16 → pkKind p ≠ 2#8 → ((s.vd v).queues.find? fun x => x.num == pkQueue p) = none →
      ∃ u : State, exec (.launchPacket host n p) s = .next (u.vdSticky v flagNOQUEUE) ∧ u.mem = s.mem ∧
        (u.vd v).firstPkt = (s.vd v).firstPkt ∧ (u.vd v).highPkt.toNat = max (s.vd v).highPkt.toNat (pkNum p).toNat) ∧
    (∀ q, p.length = 16 → pkKind p ≠ 2#8 → ((s.vd v).queues.find? fun x => x.num == pkQueue p) = some q →
      q.packets ≠ [] → q.packets.length < 256 → ∃ u, exec (.launchPacket host n p) s = .next u ∧ u.mem = s.mem ∧
        ((u.vd v).queues.find? fun x => x.num == pkQueue p) = some { q with packets := q.packets ++ [p] } ∧
        (u.vd v).firstPkt = true ∧ (u.vd v).highPkt.toNat = max (s.vd v).highPkt.toNat (pkNum p).toNat)) ∧
  (∀ (s : State) (host : BitVec 4) (n : BitVec 16) (p : Packet), (∀ v : VdNo, n ≠ 0x100 + v.setWidth 16) →
    exec (.launchPacket host n p) s = .next s) ∧
  (∀ (s : State) (v : VdNo) (q : PktQueue) (p : Packet) (c : CoreNo) (cs : List CoreNo) (d : Domain) (e : HEntry),
    (s.vd v).active = [] → (s.vd v).mayDispatch = true → (s.vd v).nextQueue = some q → q.packets = [p] → pkKind p = 0#8 →
    packetCores p = c :: cs → s.launchDomain v = some d → s.imageEntry v p = some e →
    (s.vd v).queues.find? (fun x => x.num == q.num) = some q →
      ∃ u a r, exec (.dispatch v) s = .next u ∧ u.mem = s.mem ∧ (u.vd v).active = [a] ∧ a.pkt = pkNum p ∧ a.cores = cs ∧
        a.allCores = c :: cs ∧ a.caddr = pkw p 12 ∧ (u.vd v).lastQueue = q.num ∧ u.launches = s.launches ++ [(c, r)] ∧ r.vd = v ∧
        r.dom = d.num ∧ r.pkt = pkNum p ∧ r.entry = e.addr + (pkEntry p).setWidth 64 ∧
        r.seeds = [pkw p 3, pkw p 4, pkw p 5, pkw p 6] ∧ r.left = ((pkw p 2).extractLsb' 30 4).toNat + 1 ∧
        ((u.vd v).queues.find? fun x => x.num == q.num) = some { q with packets := [] }) ∧
  (∀ (s : State) (v : VdNo) (q : PktQueue) (p f : Packet) (fs : List Packet) (g : Graph) (i : Nat),
    (s.vd v).active = [] → (s.vd v).mayDispatch = true → (s.vd v).nextQueue = some q → q.packets = [p] → pkKind p = 1#8 →
    (s.vd v).queues.find? (fun x => x.num == q.num) = some q →
    ((s.vd v).graphs.find? fun g => g.num.toNat == (pkGraph p).toNat) = some g → g.freeSet = some i →
    (g.packets.zipIdx.map fun x => patched g (patchValues p) x.2 x.1) = f :: fs → s.launchFault v f = none →
      ∃ u a h, exec (.graphReplay v q.num) s = .next u ∧ u.mem = s.mem ∧ (u.vd v).active = [a] ∧ a.pkt = pkNum p ∧ a.launch = f ∧
        a.chain = fs ∧ a.cores = packetCores f ∧ a.graph = some (g.num, i) ∧
        ((u.vd v).graphs.find? fun g => g.num.toNat == (pkGraph p).toNat) = some h ∧ h.sets = g.sets ++ [(i, patchValues p)]) ∧
  (∀ (s : State) (v : VdNo) (m : Done) (a : Active),
    let d := s.vd v
    (s.dones.find? fun m => m.dest.isNone && m.vd == v && m.pkt == a.pkt) = some m → d.active = [a] → a.chain = [] →
    a.graph = none → a.partial_ = false → a.rest = false → d.destroying = [] → a.caddr ≠ 0 →
      ∃ u, exec (.completionRecord v a.pkt) s = .next u ∧ u.mem = s.mem ∧ (u.vd v).active = [] ∧ u.dones = s.dones.erase m ∧
        u.out = s.out ++ [.record v a.cep a.caddr [0#32 ++ a.pkt, 0#16 ++ (a.err ||| m.err) ++ (a.count + m.count),
          wordMax a.fin m.fin, a.queue.setWidth 64]])

/-- R343, R346, R348, R350, R351, R355, R352: the control operations on queues, graphs, the host event ring and a VD's schedule:
a packet of the right form is sent, acts, and is complete, but for one that must wait to free a graph; a malformed one sets
BADPKT and does nothing else. That the packets and patches of a graph are read at intermediate addresses of the VD is the
model's reading (log entry 23, DEDUCED); so are those of log entry 40. -/
def Obligations.ControlOperations : Prop :=
  ∀ (s : State) (host : BitVec 4) (v : VdNo) (p : Packet), (s.vd v).st ≠ 0#2 → s.controls host = true → s.frontDown = false →
    let n : BitVec 16 := 0x100 + v.setWidth 16
    let s0 := s.packetSent v (pkNum p)
    let d := s0.vd v
    let w := pkw p 2
    let form (op : Nat) : Prop := p.length = 16 ∧ pkVer p = 1#8 ∧ pkKind p = 2#8 ∧ (pkw p 0).extractLsb' 36 12 = 0#12 ∧
      pkNum p ≠ 0 ∧ (pkOp p).toNat = op ∧ (pkw p 1).extractLsb' 8 56 = 0#56 ∧ (pkw p 13).extractLsb' 16 48 = 0#48 ∧
      pkw p 14 = 0 ∧ pkw p 15 = 0
    let acts (i : Instr) (u : State) : Prop := (d.graphs.any fun g => g.freeing.contains (pkNum p)) = false →
      exec i s = .next (u.packetDone v (pkNum p))
    let bad (i : Instr) : Prop := acts i (s0.vdSticky v flagBADPKT)
    (∀ x ∈ ([(.createQueue host n p, 1), (.destroyQueue host n p, 2), (.createGraph host n p, 3), (.freeGraph host n p, 4),
        (.setEventRing host n p, 5), (.acknowledgeEvents host n p, 6), (.setVdSchedule host n p, 7)] : List (Instr × Nat)),
      ¬form x.2 → exec x.1 s = .next (s.vdSticky v flagBADPKT)) ∧
    (form 1 → w.extractLsb' 4 4 = 0 → w.extractLsb' 11 53 = 0 → (d.queues.any fun x => x.num == w.extractLsb' 0 4) = false →
      acts (.createQueue host n p) (s0.setVd { d with
        queues := d.queues ++ [{ num := w.extractLsb' 0 4, prio := w.extractLsb' 8 3 }] })) ∧
    (form 2 → w.extractLsb' 4 4 = 0 → w.extractLsb' 9 55 = 0 → (d.queues.find? fun x => x.num == w.extractLsb' 0 4) = none →
      acts (.destroyQueue host n p) (s0.vdSticky v flagNOQUEUE)) ∧
    (∀ q, form 2 → w.extractLsb' 4 4 = 0 → w.extractLsb' 9 55 = 0 → d.queues.find? (fun x => x.num == w.extractLsb' 0 4) = some q →
      q.packets = [] → d.active = [] → d.destroying = [] → d.ringProd - d.ringCons < d.ringSize →
        ∃ u r, exec (.destroyQueue host n p) s = .next u ∧ u.mem = s.mem ∧ (∀ x ∈ (u.vd v).queues, x.num ≠ q.num) ∧
          u.out = s.out ++ [.record v d.ringCep (d.ringBase + BitVec.ofNat 64 (32 * (d.ringProd % d.ringSize))) r] ∧
          (r.getD 0 0).extractLsb' 56 8 = 6#8 ∧ r.getD 1 0 = (if w.getLsbD 8 then 1 else 0)) ∧
    (∀ ws es, form 3 → s.feature v 0 = true → w.toNat ≤ 63 → 1 ≤ (pkw p 4).toNat → (pkw p 4).toNat ≤ 256 → (pkw p 6).toNat ≤ 64 →
      (d.graphs.any fun g => g.num.toNat == w.toNat) = false → s0.vdDwords v (pkw p 3).toNat (16 * (pkw p 4).toNat) = some ws →
      s0.vdDwords v (pkw p 5).toNat (pkw p 6).toNat = some es → es.all (patchOk (pkw p 4).toNat) = true →
        acts (.createGraph host n p) (s0.setVd { d with graphs := d.graphs ++ [{
          num := w.extractLsb' 0 6, packets := cut 16 (pkw p 4).toNat ws, patches := es, sets := [] }] })) ∧
    (form 3 → s.feature v 0 = false → bad (.createGraph host n p)) ∧
    (∀ g, form 4 → s.feature v 0 = true → d.graphs.find? (fun g => g.num.toNat == w.toNat) = some g →
      (g.sets = [] → ∃ u, exec (.freeGraph host n p) s = .next u ∧ u.mem = s.mem ∧
        (u.vd v).graphs = d.graphs.filter fun x => x.num != g.num) ∧
      (g.sets ≠ [] → exec (.freeGraph host n p) s = .next (s0.setVd { d with graphs := d.graphs.map fun x =>
        if x.num = g.num then { x with freeing := x.freeing ++ [pkNum p] } else x }))) ∧
    (form 5 → 4 ≤ (pkw p 3).toNat → (pkw p 3).toNat ≤ 16 → ∃ u, exec (.setEventRing host n p) s = .next u ∧ u.mem = s.mem ∧
      (u.vd v).ringBase = w ∧ (u.vd v).ringSize = 2 ^ (pkw p 3).toNat ∧ (u.vd v).ringCep = (pkw p 13).extractLsb' 0 16 ∧
      (u.vd v).ringProd = 0 ∧ (u.vd v).ringCons = 0) ∧
    (form 5 → (pkw p 3).toNat < 4 ∨ 16 < (pkw p 3).toNat → bad (.setEventRing host n p)) ∧
    (form 6 → d.ringCons ≤ w.toNat → w.toNat ≤ d.ringProd → d.ringOver = 0 →
      acts (.acknowledgeEvents host n p) (s0.setVd { d with ringCons := w.toNat })) ∧
    (form 6 → w.toNat < d.ringCons ∨ d.ringProd < w.toNat → bad (.acknowledgeEvents host n p)) ∧
    (form 7 → v = 0 → w.extractLsb' 6 2 = 0 → w.extractLsb' 24 40 = 0 → w.extractLsb' 8 8 ≠ 0 →
      (s0.vd (w.extractLsb' 0 6)).st ≠ 0 →
      acts (.setVdSchedule host n p) (s0.setVd { s0.vd (w.extractLsb' 0 6) with
        weight := (w.extractLsb' 8 8).toNat, cap := (w.extractLsb' 16 8).toNat + 1, budget := (pkw p 3).toNat })) ∧
    (form 7 → v ≠ 0 → bad (.setVdSchedule host n p))

/-! ### Hosts -/

/-- R377 to R379, R184, R312: the management operations of the controlling host on VDs, domains and endpoints, among them the
handle-service gate at slot 1 of a new domain's table; and a remote access at a data endpoint: refused beyond the entry's rights
or range, and otherwise made in the entry's domain. -/
def Obligations.VdManagement : Prop :=
  (∀ (s : State) (host : BitVec 4) (p : Packet), s.controls host = true → s.frontDown = false →
    let v := pkVd p
    let d := s.vd v
    let w := pkw p 2
    let form (op : Nat) : Prop := p.length = 16 ∧ pkVer p = 1#8 ∧ pkKind p = 2#8 ∧ (pkw p 0).extractLsb' 36 12 = 0#12 ∧
      pkNum p ≠ 0 ∧ (pkOp p).toNat = op ∧ (pkw p 1).extractLsb' 8 56 = 0#56 ∧ (pkw p 13).extractLsb' 16 48 = 0#48 ∧
      pkw p 14 = 0 ∧ pkw p 15 = 0
    (∀ x ∈ ([(.createVd host p, 8), (.destroyVd host p, 9), (.createDomain host p, 10), (.setDataEndpoint host p, 12),
        (.setRemoteEndpoint host p, 13)] : List (Instr × Nat)), 1 ≤ p.length → p.length ≤ 2048 → ¬form x.2 →
      exec x.1 s = .next (s.vdSticky v flagBADPKT)) ∧
    (form 8 → d.st ≠ 0 → exec (.createVd host p) s = .next (s.vdSticky v flagBADPKT)) ∧
    (form 8 → w.extractLsb' 6 58 = 0 → (pkw p 5) = 0 → (pkw p 6).extractLsb' 12 52 = 0 → d.st = 0 →
      (∀ i < 128, (pkw p 4 ++ pkw p 3).getLsbD i = true →
        s.partition? (BitVec.ofNat 7 i) = none ∧ s.columnComb (BitVec.ofNat 7 i) = false) →
        ∃ u, exec (.createVd host p) s = .next u ∧ u.mem = s.mem ∧ (u.vd v).st = 1 ∧ (u.vd v).combs = pkw p 4 ++ pkw p 3 ∧
          (u.vd v).quota = (pkw p 6).extractLsb' 0 12 ∧ (u.vd v).s2root = d.s2root ∧ (u.vd v).weight = 16 ∧ (u.vd v).cap = 256 ∧
          (u.vd v).sticky = d.sticky ∧ (u.vd v).evallow = d.evallow ∧ (u.vd v).queues = [] ∧ u.domains = s.domains) ∧
    (form 9 → v = 0 ∨ d.st = 0 → exec (.destroyVd host p) s = .next (s.vdSticky v flagBADPKT)) ∧
    (form 9 → w.extractLsb' 6 58 = 0 → v ≠ 0 → d.st ≠ 0 → s.mgmt.state ≠ 3 → s.mgmt.reset = none →
      ∃ u, exec (.destroyVd host p) s = .next u ∧ (u.vd v).st = 3 ∧ (u.vd v).doomed = true ∧
        ∃ r, u.mgmt.reset = some r ∧ r.kind = 5 ∧ r.target = v.setWidth 16) ∧
    (form 10 → ((s.domain (pkDom p)).life = .live ∨ (s.domain (pkDom p)).life = .dying) →
      exec (.createDomain host p) s = .next (s.vdSticky v flagBADPKT)) ∧
    (form 10 → w.extractLsb' 6 10 = 0 → w.extractLsb' 28 2 = 0 → w.extractLsb' 30 34 = 0 → d.st ≠ 0 →
      (s.domain (pkDom p)).life = .absent ∨ (s.domain (pkDom p)).life = .dead →
      (v = 0 ∨ (s.domains.filter fun d => d.vd == v && (d.life == .live || d.life == .dying)).length < d.quota.toNat) →
        ∃ u, exec (.createDomain host p) s = .next u ∧ (u.domain (pkDom p)).life = .live ∧
          (u.domain (pkDom p)).vd = v ∧ (u.domain (pkDom p)).hyp = false ∧ (u.domain (pkDom p)).launch = false ∧
          (∀ n, n ≠ pkDom p → u.domain n = s.domain n) ∧ u.vds = s.vds ∧
          (∀ x, s.vdDword v ((pkw p 3).toNat + 8 * Config.statePlace 0) = some x →
            (u.domain (pkDom p)).s1root = x &&& 0xFFFFFFFFFF000#64) ∧
          (MemoryOk s → s.damage = [] → let e := u.hentry (u.domain (pkDom p)) 1
            e.kind = 2 ∧ e.gen = 1 ∧ e.odom = 0)) ∧
    (form 11 → w.extractLsb' 6 2 = 0 → w.extractLsb' 9 55 = 0 → d.st ≠ 0 →
      (w.getLsbD 8 = true → exec (.pauseVd host p) s = .next (if d.st = 1 then s.setVd { d with st := 2 } else s)) ∧
      (w.getLsbD 8 = false → exec (.resumeVd host p) s = .next (if d.st = 2 then s.setVd { d with st := 1 } else s))) ∧
    (form 12 → w.extractLsb' 6 2 = 0 → w.extractLsb' 14 2 = 0 → w.extractLsb' 30 34 = 0 → w.extractLsb' 28 2 ≠ 3 → d.st ≠ 0 →
      let rest := d.dataEps.filter fun x => x.entry != w.extractLsb' 8 6
      (w.extractLsb' 28 2 = 0 → exec (.setDataEndpoint host p) s = .next (s.setVd { d with dataEps := rest })) ∧
      (w.extractLsb' 28 2 ≠ 0 → s.livesIn v (pkDom p) = true → exec (.setDataEndpoint host p) s = .next (s.setVd { d with
        dataEps := rest ++ [{ entry := w.extractLsb' 8 6, dom := pkDom p, rights := w.extractLsb' 28 2, base := pkw p 3, len := pkw p 4 }] })) ∧
      (w.extractLsb' 28 2 ≠ 0 → s.livesIn v (pkDom p) = false →
        exec (.setDataEndpoint host p) s = .next (s.vdSticky v flagBADPKT))) ∧
    (form 13 → w.extractLsb' 6 2 = 0 → w.extractLsb' 31 33 = 0 → (pkw p 4).extractLsb' 16 48 = 0 → d.st ≠ 0 →
      let rest := d.remoteEps.filter fun x => x.entry != w.extractLsb' 8 8
      let lives := (s.domain (pkDom p)).life
      (w.extractLsb' 28 2 ≠ 0 → s.livesIn v (pkDom p) = true → exec (.setRemoteEndpoint host p) s = .next (s.setVd { d with
        remoteEps := rest ++ [{
          entry := w.extractLsb' 8 8, dom := pkDom p, rights := w.extractLsb' 28 2, peer := w.getLsbD 30, fabric := pkw p 3
          endpoint := (pkw p 4).extractLsb' 0 16, base := pkw p 5, len := pkw p 6 }] })) ∧
      (w.extractLsb' 28 2 = 0 → (s.domain (pkDom p)).vd = v → lives ≠ .absent →
        exec (.setRemoteEndpoint host p) s = .next (s.setVd { d with remoteEps := rest })) ∧
      ((s.domain (pkDom p)).vd ≠ v ∨ lives = .absent → exec (.setRemoteEndpoint host p) s = .next (s.vdSticky v flagBADPKT)))) ∧
  (∀ (s : State) (port : BitVec 3) (v : VdNo) (n : BitVec 6) (m : Delivery) (o : Word), (s.vd v).st ≠ 0 →
    let at_ : BitVec 16 := 0x1000 + 64 * v.setWidth 16 + n.setWidth 16
    let answers (op : RemoteOp) (x : Out) : Prop := exec (.remoteDataAccess port at_ m op o) s = .next { s with out := s.out ++ [x] }
    let supported := m = .ordered ∨ m = .unordered
    (∀ op, ¬supported ∨ op = .atomic ∨ op = .rendezvous ∨ op = .deferredSend → answers op .unsupported) ∧
    (∀ k, 2 ^ 32 < k → answers (.read k) .unsupported) ∧ (∀ bs, 2 ^ 32 < bs.length → answers (.write bs) .unsupported) ∧
    (∀ op k, supported → (op = .read k ∨ ∃ bs, op = .write bs ∧ bs.length = k) → k ≤ 2 ^ 32 →
      (((s.vd v).dataEps.find? fun e => e.entry == n) = none → answers op .denied) ∧
      (∀ e, ((s.vd v).dataEps.find? fun e => e.entry == n) = some e →
        (s.feature v 4 = false → answers op .denied) ∧ (e.len.toNat < o.toNat + k → answers op .denied) ∧
        ((∃ bs, op = .write bs) → e.rights ≠ 2 → answers op .denied) ∧
        (k ≠ 0 → windowOf (e.base + o).toNat ≠ windowOf (e.base + o + BitVec.ofNat 64 (k - 1)).toNat → answers op .denied) ∧
        (∀ ps, s.feature v 4 = true → o.toNat + k ≤ e.len.toNat → s.damage = [] →
          (k ≠ 0 → windowOf (e.base + o).toNat = windowOf (e.base + o + BitVec.ofNat 64 (k - 1)).toNat) →
          (op = .read k → dataChecks s e.dom .read ((List.range k).map fun i => e.base + o + BitVec.ofNat 64 i) = .ok ps →
            ∃ u, exec (.remoteDataAccess port at_ m op o) s = .next u ∧ u.mem = s.mem ∧
              u.out = s.out ++ [.data (ps.map (memGet s.mem))]) ∧
          (∀ bs, op = .write bs → e.rights = 2 → ps.length = k →
            dataChecks s e.dom .write ((List.range k).map fun i => e.base + o + BitVec.ofNat 64 i) = .ok ps →
            ∃ u, exec (.remoteDataAccess port at_ m op o) s = .next u ∧ u.out = s.out ++ [.data []] ∧
              (∀ a, a ∉ ps → memGet u.mem a = memGet s.mem a) ∧ (ps.Nodup → ps.map (memGet u.mem) = bs))))))

/-- R375, R376, R380, R382, R385: the management region takes writes of the controlling host alone; power limits are kept within
1,200 to 2,400 W, a guest time never falls, features are accepted before the VD's first packet; and a record that cannot be
delivered is dropped and counted. Which record a delivery timeout drops, the oldest of those that the transport has not
delivered for 3 * 10^9 cy, is the model's reading (log entry 49, DEDUCED). -/
def Obligations.RegionWrites : Prop :=
  (∀ (s : State) (host : BitVec 4), s.controls host = false →
    ∀ i : Instr, (∃ o w, i = .managementWrite host o w) ∨ (∃ v w, i = .gtoffWrite host v w) ∨ (∃ w, i = .plimWrite host w) ∨
        (∃ v h w, i = .feataccWrite host v h w) → exec i s = .next { s with out := s.out ++ [.denied] }) ∧
  (∀ (s : State) (host : BitVec 4), s.controls host = true →
    (∀ w : BitVec 16, ∃ u, exec (.plimWrite host w) s = .next u ∧ u.mem = s.mem ∧
      u.fleet.plim.toNat = min 2400 (max 1200 w.toNat)) ∧
    (∀ v w,
      (w.toNat < (s.vd v).gtime.toNat → exec (.gtoffWrite host v w) s = .next (s.vdSticky v flagBADPKT)) ∧
      ((s.vd v).gtime.toNat ≤ w.toNat → ∃ u, exec (.gtoffWrite host v w) s = .next u ∧ (u.vd v).gtime = w ∧ u.mem = s.mem)) ∧
    (∀ (v : VdNo) w (i : BitVec 2), let at_ (o : BitVec 16) : BitVec 16 := 0x1000 + 256 * v.setWidth 16 + o
      (∃ u, exec (.managementWrite host (at_ 0x28) w) s = .next u ∧ u.mem = s.mem ∧
        (∀ j < 7, (u.vd v).sticky.getLsbD j = ((s.vd v).sticky.getLsbD j && !w.getLsbD j))) ∧
      (∃ u, exec (.managementWrite host (at_ (0xB0 + 8 * i.setWidth 16)) w) s = .next u ∧ u.mem = s.mem ∧
        (u.vd v).evallow = (s.vd v).evallow.set i.toNat w i.isLt)) ∧
    (∀ v w,
      ((s.vd v).firstPkt = true → exec (.feataccWrite host v false w) s = .next s) ∧
      ((s.vd v).firstPkt = false → ∃ u, exec (.feataccWrite host v false w) s = .next u ∧ u.mem = s.mem ∧
        ∀ j, (u.vd v).feat0.getLsbD j = (decide (j < 5) && w.getLsbD j))) ∧
    (∀ o : BitVec 16, o.toNat < 0x20 ∨ o = 0x28 ∨ o = 0x30 ∨ o = 0x38 ∨ o = 0x40 → ∀ w, exec (.managementWrite host o w) s = .next s) ∧
    (∀ w, exec (.managementWrite host 0x5008 w) s = exec (.plimWrite host (w.extractLsb' 0 16)) s) ∧
    (∀ v : VdNo, ∀ w, exec (.managementWrite host (0x1018 + 256 * v.setWidth 16) w) s = exec (.gtoffWrite host v w) s)) ∧
  (∀ (s : State),
    let late := s.flights.find? fun f => decide (3000000000 ≤ (s.cyc - f.since).toNat)
    (late = none → exec .deliveryTimeout s = .next s) ∧
    (∀ f, late = some f → s.mgmt.dropped ≠ BitVec.allOnes 32 → ∃ u, exec .deliveryTimeout s = .next u ∧
      u.flights = s.flights.erase f ∧ u.out = s.out.erase f.record ∧ u.mgmt.dropped = s.mgmt.dropped + 1 ∧ u.mem = s.mem))

/-- R381: claims, heartbeats and the ends of control. The claim that wins has the highest PRIO, and of those the lowest host
number; a controller that releases control, falls silent for 300 ms or loses its session leaves the part open. -/
def Obligations.Elections : Prop :=
  (∀ (s : State) (h : BitVec 4) (d e : Word), d.extractLsb' 56 8 = 1 →
    let pr := d.extractLsb' 32 8
    let tm := d.extractLsb' 0 32
    let answer (r : Nat) : State := { s with out := s.out ++ [.answer h (4#8 ++ 0#24 ++ s.mgmt.term) (BitVec.ofNat 64 r)] }
    (s.mgmt.state = 1 → s.claimValid h pr tm = false → exec (.claim h d e) s = .next (answer 3)) ∧
    (s.mgmt.state = 1 → s.claimValid h pr tm = true → s.mgmt.claims = none → exec (.claim h d e) s =
      .next { s with mgmt := { s.mgmt with claims := some [{ host := h, prio := pr }], opened := s.cyc } }) ∧
    (∀ l, s.mgmt.state = 1 → s.claimValid h pr tm = true → s.mgmt.claims = some l → exec (.claim h d e) s =
      .next { s with mgmt := { s.mgmt with claims := some (l ++ [{ host := h, prio := pr }]) } }) ∧
    (s.mgmt.state = 2 → s.claimValid h pr tm = false ∨ pr.toNat ≤ s.mgmt.cprio.toNat → exec (.claim h d e) s = .next (answer 3)) ∧
    (s.mgmt.state = 2 → s.claimValid h pr tm = true → s.mgmt.cprio.toNat < pr.toNat → ∃ u, exec (.claim h d e) s = .next u ∧
      u.mgmt.chost = h ∧ u.mgmt.cprio = pr ∧ u.mgmt.term = s.mgmt.term + 1 ∧ u.mgmt.state = 2 ∧ u.mem = s.mem ∧
      u.out = s.out ++ [.answer h (4#8 ++ 0#24 ++ (s.mgmt.term + 1)) 1])) ∧
  (∀ (s : State) (l : List Claim), s.mgmt.state = 1 → s.mgmt.claims = some l → l ≠ [] → 150000000 ≤ (s.cyc - s.mgmt.opened).toNat →
    ∃ u w, exec .collectionWindowEnd s = .next u ∧ w ∈ l ∧ u.mgmt.state = 2 ∧ u.mgmt.chost = w.host ∧ u.mgmt.cprio = w.prio ∧
      u.mgmt.term = s.mgmt.term + 1 ∧ u.mgmt.claims = none ∧ Out.answer w.host (4#8 ++ 0#24 ++ (s.mgmt.term + 1)) 1 ∈ u.out ∧
      ∀ c ∈ l, c.prio.toNat < w.prio.toNat ∨ (c.prio = w.prio ∧ w.host.toNat ≤ c.host.toNat)) ∧
  (∀ (s : State), s.mgmt.state ≠ 1 → exec .collectionWindowEnd s = .next s) ∧
  (∀ (s : State) (h : BitVec 4) (d e : Word), s.controls h = true →
    (d.extractLsb' 56 8 = 2 → d.extractLsb' 0 32 = s.mgmt.term →
      exec (.heartbeat h (d, e)) s = .next { s with mgmt := { s.mgmt with beat := s.cyc } }) ∧
    (d.extractLsb' 0 32 ≠ s.mgmt.term → exec (.heartbeat h (d, e)) s = .next s) ∧
    (d.extractLsb' 56 8 = 3 → ∃ u, exec (.release h (d, e)) s = .next u ∧ u.mgmt.state = 1 ∧ u.mgmt.chost = 0 ∧
      u.mgmt.released = s.cyc ∧ u.mem = s.mem ∧ u.mgmt.succ = (s.mgmt.session? (e.extractLsb' 0 4)).bind Session.host) ∧
    (∀ n x, (s.mgmt.sessions.find? fun y => y.conn == n) = some x → x.host = some h →
      ∃ u, exec (.sessionTeardown n) s = .next u ∧ u.mgmt.state = 1 ∧ (∀ y ∈ u.mgmt.sessions, y.conn ≠ n) ∧ u.mem = s.mem)) ∧
  (∀ (s : State), s.mgmt.state = 2 → 900000000 ≤ (s.cyc - s.mgmt.beat).toNat →
    ∃ u, exec .heartbeatTimeout s = .next u ∧ u.mgmt.state = 1 ∧ u.mgmt.chost = 0 ∧ u.mem = s.mem) ∧
  (∀ (s : State), s.mgmt.state = 2 → (s.cyc - s.mgmt.beat).toNat < 900000000 → exec .heartbeatTimeout s = .next s) ∧
  (∀ (s : State), 300000000 ≤ (s.cyc - s.mgmt.released).toNat →
    exec .successorWindowEnd s = .next { s with mgmt := { s.mgmt with succ := none } })

/-- R374, R393, R394, R395: an SPDM request is answered while the part is open or controlled; a session gets the lowest free
host number when it is finished; an update goes into the inactive bank, is verified, rotates over the column's cores and
exchanges the banks, or rolls back. The request codes are the model's (log entry 27). That a measurement index of 0 or above 5
is an error, and that the boot ROM measures as empty, are the model's readings (log entry 49, DEDUCED). -/
def Obligations.SpdmAndUpdate : Prop :=
  ∀ (s : State) (n : Nat), s.spdmUp = true →
    let answered (u : State) (code : Nat) (l : List SpdmItem) (q m : List Byte) : Prop :=
      u.out = s.out ++ [.spdm n code l (Config.spdmBody code q m)]
    let failed (i : Instr) : Prop := exec i s = .next { s with out := s.out ++ [.spdmError n] }
    let same (i : Instr) (code : Nat) (l : List SpdmItem) (q m : List Byte) : Prop :=
      exec i s = .next { s with out := s.out ++ [.spdm n code l (Config.spdmBody code q m)] }
    let le (v : BitVec 16) : List Byte := [v.extractLsb' 0 8, v.extractLsb' 8 8]
    let signs : List SpdmItem := [.rsassa 3072, .sha 384]
    let measures (i : BitVec 8) (m : List Byte) : Prop := same (.getMeasurements n i) 0xE0 signs [i] (Config.sha384 m)
    let f := s.fleet
    let controller := (s.mgmt.sessions.find? fun x => x.conn == n).any fun x => x.host.any s.controls
    same (.getVersion n) 0x84 [.version 1 2] [] [] ∧ same (.getCapabilities n) 0xE1 [] [] [] ∧
    same (.getDigests n) 0x81 [.slot 0, .sha 384] [] [] ∧ (∀ q, same (.negotiateAlgorithms n q) 0xE3 signs q []) ∧
    (∀ q, same (.challenge n q) 0x83 (.slot 0 :: signs) q []) ∧
    (∀ o l, same (.getCertificate n o l) 0x82 [.slot 0] (le o ++ le l) []) ∧
    measures 1 [] ∧ measures 2 (tableOf f.active) ∧ measures 3 (imageOf f.active) ∧ measures 4 f.inactive ∧
    measures 5 (wordBytes 0x1F 8 ++ wordBytes 0 8) ∧
    (∀ i : BitVec 8, i = 0 ∨ 5 < i.toNat → failed (.getMeasurements n i)) ∧
    (∀ c, s.mgmt.sessions.length < 16 → (s.mgmt.sessions.any fun x => x.conn == n) = false →
      ∃ u, exec (.keyExchange n c) s = .next u ∧ answered u 0xE4 (.slot 0 :: signs) c [] ∧
        u.mgmt.sessions = s.mgmt.sessions ++ [{ conn := n, cert := c, host := none }]) ∧
    (∀ c, 16 ≤ s.mgmt.sessions.length ∨ (s.mgmt.sessions.any fun x => x.conn == n) = true → failed (.keyExchange n c)) ∧
    ((s.mgmt.sessions.any fun x => x.conn == n) = false → failed (.finish n) ∧ failed (.endSession n)) ∧
    (∀ x h, (s.mgmt.sessions.find? fun x => x.conn == n && x.host.isNone) = some x → s.mgmt.freeHost = some h →
      ∃ u, exec (.finish n) s = .next u ∧ answered u 0xE5 [] [] [] ∧ { x with host := some h } ∈ u.mgmt.sessions ∧
        ∀ k : BitVec 4, k.toNat < h.toNat → (s.mgmt.session? k).isSome) ∧
    (∀ x, (s.mgmt.sessions.find? fun x => x.conn == n) = some x → ∃ u, exec (.endSession n) s = .next u ∧
      answered u 0xEC [] [] [] ∧ ∀ y ∈ u.mgmt.sessions, y.conn ≠ n) ∧
    (f.updst ≠ 1 ∨ (f.begun ≠ some n ∧ controller = false) ∨ (∃ k, f.begun = some k ∧ k ≠ n) → failed (.updateVerify n)) ∧
    (∀ o bs, 15360 < bs.length ∨ f.updst = 2 ∨ f.updst = 3 ∨ (f.updst ≠ 1 ∧ controller = false) ∨
      (f.updst = 1 ∧ ((∃ k, f.begun = some k ∧ k ≠ n) ∨ (o = 0 ∧ f.based = true))) → failed (.updateChunk n o bs)) ∧
    (∀ o bs, bs.length ≤ 15360 → o ≤ f.inactive.length →
      (controller = true ∧ f.updst ≠ 1 ∧ f.updst ≠ 2 ∧ f.updst ≠ 3) ∨
        (f.updst = 1 ∧ f.begun = some n ∧ (o ≠ 0 ∨ f.based = false)) →
      ∃ u, exec (.updateChunk n o bs) s = .next u ∧ answered u 0xFE [] bs [] ∧ u.fleet.updst = 1 ∧ u.fleet.begun = some n ∧
        u.fleet.active = f.active ∧ (u.fleet.inactive.drop o).take bs.length = bs ∧ u.fleet.inactive.take o = f.inactive.take o ∧
        u.fleet.inactive.drop (o + bs.length) = f.inactive.drop (o + bs.length) ∧ u.mem = s.mem) ∧
    (f.updst = 1 → f.begun = some n → ∃ u, exec (.updateVerify n) s = .next u ∧ answered u 0xFE [] [] [] ∧
      u.fleet.updst = (if f.imageGood then 3 else 5) ∧ u.fleet.active = f.active ∧ u.mem = s.mem) ∧
    (∀ ok, f.updst ≠ 3 → exec (.updateCoreSwitch ok) s = .next s) ∧
    (∀ c, f.updst = 3 → (s.column.find? fun c => !f.switched.contains c) = some c →
      (∃ u, exec (.updateCoreSwitch false) s = .next u ∧ u.fleet.updst = 6 ∧ u.fleet.switched = [] ∧
        u.fleet.active = f.active ∧ u.cur = s.cur ∧ u.others = s.others) ∧
      ((s.column.all fun k => (f.switched ++ [c]).contains k) = true → ∃ u, exec (.updateCoreSwitch true) s = .next u ∧
        u.fleet.updst = 4 ∧ u.fleet.active = f.inactive ∧ u.fleet.inactive = f.active ∧ u.cur = s.cur ∧ u.others = s.others) ∧
      ((s.column.all fun k => (f.switched ++ [c]).contains k) = false → ∃ u, exec (.updateCoreSwitch true) s = .next u ∧
        u.fleet.updst = 3 ∧ u.fleet.switched = f.switched ++ [c] ∧ u.fleet.active = f.active ∧
        ∀ m t, s.thread? m = some t → ∃ w, u.thread? m = some w ∧ w.x = t.x ∧ w.pc = t.pc ∧ w.doom = t.doom))

/-- R383, R384, R392: a reset request runs unless its target does not exist or another reset runs that its scope does not contain,
and RSTSTAT says so; a core reset empties its core, a warm reset keeps HBM, a cold one lists no memory; each ends with RSTSTAT
done, once the accesses of the threads it kills are over, and says whether it met a context on its way to be saved (R362). -/
def Obligations.ResetEvents : Prop :=
  (∀ (s : State), s.mgmt.reset = none → s.mgmt.state ≠ 3 → s.threads = [] →
    let runs (i : Instr) (k : BitVec 4) (t : BitVec 16) (p : State → Prop) : Prop :=
      ∃ u r, exec i s = .next u ∧ u.mgmt.rststat = k ++ 1#2 ++ 0#58 ∧ u.mgmt.reset = some r ∧ r.kind = k ∧ r.target = t ∧
        r.duringSave = false ∧ p u
    let empty (u : State) (c : CoreNo) : Prop := (u.core c).mailbox = [] ∧ (u.core c).launchTable = [] ∧
      (u.core c).spawnStore = [] ∧ (u.core c).stages = [] ∧ (u.core c).arrivals = [] ∧ (u.core c).cache = [] ∧
      (u.core c).trRing = [] ∧ (u.core c).trEn = false
    (∀ c n, runs (.slotReset c n) 1 (n.setWidth 16 <<< 10 ||| c.setWidth 16) fun u => u.mem = s.mem) ∧
    (∀ c, runs (.coreReset c) 2 (c.setWidth 16) fun u => empty u c ∧ u.mem = s.mem) ∧
    (∀ m, runs (.combReset m) 3 (m.setWidth 16) fun u => (∀ c, combOf c = m → empty u c) ∧ (u.comb m).accs = [] ∧
      (u.comb m).slices = [] ∧ (u.comb m).grants = [] ∧ (u.comb m).tlb = [] ∧ (u.comb m).tlb2 = [] ∧ (u.comb m).queue = [] ∧
      (u.comb m).seq = 0 ∧ u.mem = s.mem) ∧
    (∀ h, runs (.hiveReset h) 4 (h.setWidth 16) fun u => (∀ c, hiveOf c = h → empty u c) ∧ u.mem = s.mem ∧
      (∀ x ∈ u.lines, x.1.extractLsb' 1 4 ≠ h) ∧ ∀ w ∈ u.walks, w.hive ≠ h) ∧
    (∀ v, (s.vd v).st ≠ 0 → runs (.vdReset v) 5 (v.setWidth 16) fun u => (u.vd v).st = 3 ∧ (u.vd v).pend = [] ∧ (u.vd v).spills = [] ∧
      (u.vd v).feat0 = 0 ∧
      (∀ d ∈ s.domains, (s.domain d.num).life = .live → (s.domain d.num).vd = v → (u.domain d.num).life = .dying)) ∧
    runs .firmwareColumnReset 6 0 (fun u => (∀ c, s.inColumn c = true → empty u c) ∧
      (s.fleet.updst = 3 → u.fleet.updst = 6 ∧ u.fleet.switched = [])) ∧
    runs .warmReset 7 0 (fun u => u.mem = s.mem.filter (fun c => decide (c.1 < scratchBase)) ∧ u.cores = [] ∧ u.combs = [] ∧
      u.domains = State.reset.domains ∧ u.vds = State.reset.vds ∧ u.mgmt.state = 0 ∧ u.fleet.active = s.fleet.active ∧
      u.fleet.svn = 0 ∧ ∀ d ∈ s.damage, d.lasting = true → d ∈ u.damage) ∧
    runs .coldReset 8 0 (fun u => u.mem = [] ∧ u.cores = [] ∧ u.combs = [] ∧ u.domains = State.reset.domains ∧
      u.vds = State.reset.vds ∧ u.mgmt.state = 0 ∧ u.fleet.active = s.fleet.active ∧ u.fleet.svn = 0 ∧
      u.damage = s.damage.filter Damage.lasting)) ∧
  (∀ (s : State) (v : VdNo), s.mgmt.reset = none → s.mgmt.state ≠ 3 → (s.vd v).st ≠ 0 → ∃ u r, exec (.vdReset v) s = .next u ∧
    u.mgmt.reset = some r ∧ r.kind = 5 ∧ r.duringSave = s.saving (· == v)) ∧
  (∀ (s : State) (v : VdNo), ((s.vd v).st = 0 ∨ s.mgmt.state = 3 ∨
    ∃ r, s.mgmt.reset = some r ∧ (r.kind ≠ 5 ∨ r.target ≠ v.setWidth 16)) →
    exec (.vdReset v) s = .next { s with mgmt := { s.mgmt with rststat := 5#4 ++ 3#2 ++ 0#58 } }) ∧
  (∀ (s : State) (r : Reset), s.mgmt.reset = some r → r.kind ≠ 1 → r.kind ≠ 5 →
    (r.kind.toNat ≤ 4 → ∀ t ∈ s.threads, t.doom = none ∨ r.covers t.core = false) →
    ∃ u, exec .resetComplete s = .next u ∧ u.mgmt.reset = none ∧ u.mgmt.rststat = r.kind ++ 2#2 ++ 0#57 ++ bit1 r.duringSave ∧
      u.mem = s.mem ∧ u.fleet.tlprod = s.fleet.tlprod + 2 ∧ u.cores = s.cores) ∧
  (∀ (s : State) (r : Reset), s.mgmt.reset = some r → 2 ≤ r.kind.toNat → r.kind.toNat ≤ 4 →
    (∃ t ∈ s.threads, t.doom ≠ none ∧ r.covers t.core = true) → exec .resetComplete s = .next s) ∧
  (∀ (s : State) (r : Reset), s.mgmt.reset = some r → r.kind = 1 →
    let here := s.occupant (r.target.extractLsb' 0 10) (r.target.extractLsb' 10 4)
    (here = none → ∃ u, exec .resetComplete s = .next u ∧ u.mgmt.reset = none ∧ u.mem = s.mem) ∧
    (∀ t, here = some t → t.savable = false → exec .resetComplete s = .next s)) ∧
  (∀ (s : State) (r : Reset),
    let v := r.target.extractLsb' 0 6
    s.mgmt.reset = some r → r.kind = 5 → (∀ d ∈ s.domainsOf v, d.life = .dead) →
      ∃ u, exec .resetComplete s = .next u ∧ u.mgmt.reset = none ∧ ((s.vd v).doomed = false → (u.vd v).st = 1) ∧
        ((s.vd v).doomed = true → (u.vd v).st = 0))

/-- R383, R385, R387, R391, R392: boot ends open or halted with the step that failed; the power loop moves TLVL by at most one a
period, within 0 to 3; a hive's thermal record restarts its count; and a trip halts the part. -/
def Obligations.BootPowerHeat : Prop :=
  (∀ (s : State), s.mgmt.state = 0 → s.mgmt.reset = none →
    let bank := s.fleet.active
    let b := bootFailure bank (s.freeVal.1.getLsbD 0)
    (b = none → exec .boot s = .next { s.freeVal.2 with mgmt := { s.mgmt with
      state := 1, colw := BitVec.ofNat 3 (Config.tableWidth bank) } }) ∧
    (Config.tableReadable bank = false → b = some 1) ∧
    (Config.tableReadable bank = true → Config.signatureOk (tableOf bank) = false → b = some 2) ∧
    (∀ k, b = some k → k ∈ [1, 2, 3, 4, 5] ∧ ∃ u, exec .boot s = .next u ∧ u.mgmt.state = 3 ∧
      u.mgmt.booterr = BitVec.ofNat 32 k ∧ u.mem = s.mem)) ∧
  (∀ (s : State) (w : BitVec 16),
    let f := s.fleet
    ∃ u, exec (.powerPeriod w) s = .next u ∧ u.mem = s.mem ∧ u.fleet.pwr = w ∧ u.fleet.plim = f.plim ∧
      (f.plim.toNat < w.toNat → f.tlvl.toNat < 3 → u.fleet.tlvl = f.tlvl + 1) ∧
      (f.plim.toNat < w.toNat → 3 ≤ f.tlvl.toNat → u.fleet.tlvl = f.tlvl) ∧
      (w.toNat ≤ f.plim.toNat → w.toNat + 100 < f.plim.toNat → f.tlvl ≠ 0 → u.fleet.tlvl = f.tlvl - 1) ∧
      (w.toNat ≤ f.plim.toNat → f.plim.toNat ≤ w.toNat + 100 → u.fleet.tlvl = f.tlvl) ∧
      u.fleet.tlprod = f.tlprod + 2 ∧ u.fleet.recSeq = f.recSeq + 1) ∧
  (∀ (s : State) (h : BitVec 4) (x : BitVec 8),
    (∃ u, exec (.thermalRecord h x) s = .next u ∧ (u.hive h).displaced = 0 ∧ u.mem = s.mem ∧ u.mgmt = s.mgmt ∧
      u.fleet.tlprod = s.fleet.tlprod + 3) ∧
    (∃ u, exec (.thermalTrip h) s = .next u ∧ u.mgmt.state = 3 ∧ u.mgmt.claims = none ∧ u.mem = s.mem ∧ (u.hive h).displaced = 0 ∧
      u.fleet.tlprod = s.fleet.tlprod + 3))

/-! ### Decoding, steps and the whole machine -/

/-- R33 to R67: some words, written out from the encodings of the spec, and what they stand for; a pair that writes one register
twice is ILLEGAL (R37). -/
def Obligations.DecodeSamples : Prop :=
  decodeWord 0x80000000#32 = .ok (.nop 0) ∧
  decodeWord 0x16048001#32 = .ok (.ldI64 0 2 4 0 0 0 1) ∧
  decodeWord 0x480AA001#32 = .ok (.addi 0 5 5 1) ∧
  decodeWord 0xE2054020#32 = .ok (.cmpiLt 0 1 5 32) ∧
  decodeWord 0x862FFFFD#32 = .ok (.b 1 0 (-3)) ∧
  decodeWord 0x9A06D404#32 = .ok (.st32 0 3 6 1 0 1 4) ∧
  decodeWord 0xA008F215#32 = .ok (.amo 0 4 7 9 0 1 5) ∧
  decodeWord 0xF0298007#32 = .ok (.vadd 1 2 3 7) ∧
  decodeWord 0xC0060200#32 = .ok (.add 0 3 0 1) ∧
  decodeWord 0x80000008#32 = .ok (.quit 0) ∧
  decodeWord 0x83000015#32 = .ok (.trap 0 21) ∧
  decodeWord 0xA3011080#32 = .ok (.wait 0 0 8 16 16) ∧
  decodeWord 0xA4006801#32 = .ok (.msend 0 3 4 1) ∧
  decodeWord 0xA80A0080#32 = .ok (.mlease 0 5 1 0) ∧
  decodeWord 0xB1104020#32 = .ok (.pbind 0 8 2 0 1) ∧
  decodeWord 0xB30C2540#32 = .ok (.kstat 0 6 1 2) ∧
  decodeWord 0xB80A8C00#32 = .ok (.gcall 0 5 4 6) ∧
  decodeBundle false 0x480AA001160A8001#64 = .error .illegal

/-- R43 to R67: the encodings lose nothing: a well-formed word, encoded lone or in a pair, decodes to itself. -/
def Obligations.DecodeEncode : Prop :=
  ∀ (l : BitVec 1) (i : Instr) (w : Word32), i.wf = true → i.encode l = some w → decodeWord w = .ok i

/-- R33, R35, R281, R282: a step in which a core takes its turn runs what the dword at the program counter of its first ready
slot decodes to: the word alone, the pair, or the trap of a dword that decodes to nothing; the bundle's issue is then noted, and
one whose condition keeps it from issuing leaves everything as it was. A step in which an event of the part stands first on the
agenda is that event; in a part that is halted only some of them happen (R392). -/
def Obligations.StepRunsDecoded : Prop :=
  (∀ (s : State) (rest : List Item) (c : CoreNo) (w : Nat) (n : SlotNo) (ns : List SlotNo) (t0 : Thread) (ps : List Nat),
    let a : State := ({ s with agenda := rest } : State).settle
    let s0 : State := (a.passes w).letGo c
    let p : State := s0.focus t0.num
    let t := p.cur
    let pc := t.pc
    let k := combOf t.core
    let dw := pc.toNat / 8 * 8
    let odd := pc.toNat % 8 == 4
    let g : State := { p with
      cur := { t with wait := none, inHand := none, stands := none }, pos := .lone, src := none, popped := [], mark := .retired
      bundle := 0 }
    let h := if cachedPage g k t.dom dw then g else (g.countEv 10 1).noteWalk k t.dom dw
    let bits := leWord (ps.map (memGet s0.mem))
    let f : State := { (cacheTr h k t.dom dw (translate g k t.dom dw)).touch ps with
      pos := .lone, src := none, popped := [], mark := .retired, bundle := bundleBits odd bits }
    let runs (x : Out1) : Prop := ∀ u, x = .next u →
      ((u.keepBundle bits).notIssued t0.num = false → step s = .next ((u.keepBundle bits).issued c n t0.num)) ∧
      ((u.keepBundle bits).notIssued t0.num = true → ns = [] → step s = .next s0)
    s.agenda = .turn c :: rest → s.mgmt.state ≠ 3 → a.untilIssue c = some w → s0.damage = [] → s0.forages c = false →
    s0.readySlots c = n :: ns → s0.occupant c n = some t0 → (∀ va, t.wait ≠ some (.refused va)) →
    windowOf pc.toNat = .image → checkTables g k t.dom dw 8 .fetch = .ok ps → ps.any (g.barred t.core) = false →
    g.fillsAt ps = false → t.halfway = false →
      (∀ i, decodeBundle odd bits = .ok (.lone i) → runs (exec i f)) ∧
      (∀ i j, decodeBundle odd bits = .ok (.pair i j) → runs (runPair f i j)) ∧
      (decodeBundle odd bits = .error .illegal → runs (.next (f.trapped .illegal f.bundle pc))) ∧
      (decodeBundle odd bits = .error .misframe → runs (.next (f.trapped .misframe bits pc)))) ∧
  (∀ (s : State) (rest : List Item) (i : Instr), s.agenda = .event i :: rest →
    (s.mgmt.state ≠ 3 ∨ Machine.Instr.whileHalted i = true → step s = exec i { s with agenda := rest }) ∧
    (s.mgmt.state = 3 → Machine.Instr.whileHalted i = false → step s = .next { s with agenda := rest }))

/-- R36, R38, R40: the words of a pair read what the registers held before the bundle, and word 1 acts on what word 0 has left.
First comes an ILLEGAL of either word, then a condition that a word waits on, then a TILEFORM, then another trap or a missing page,
then a word that parks, of word 0 before word 1 each time; and then nothing of the other word is done. R36, R248: a word 1 that must
wait for what word 0 has done keeps its slot with word 0 done, and is tried again by itself. -/
def Obligations.PairRule : Prop :=
  (∀ (s : State) (g h : KReg) (d e a b x y : XReg), Unbound s.cur → s.cur.place ≠ .gone → s.cur.halfway = false →
    s.cur.lost = false → s.cur.pred g = true → s.cur.pred h = true →
    d ≠ e → ∃ u, runPair s (.add g d a b) (.sub h e x y) = .next u ∧ u.mark = .retired ∧
      u.cur.reg d = s.cur.reg a + s.cur.reg b ∧ u.cur.reg e = s.cur.reg x - s.cur.reg y ∧
      (∀ r, r ≠ d → r ≠ e → u.cur.reg r = s.cur.reg r) ∧ u.cur.pc = s.cur.pc + 8 ∧ u.cur.pw = s.cur.pw ∧ u.mem = s.mem) ∧
  (∀ (s r0 r1 : State) (i j : Instr), s.cur.halfway = false →
    exec i { s with pos := .w0, src := none, popped := [], mark := .retired } = .next r0 →
    exec j { s with pos := .w1, src := none, popped := [], mark := .retired } = .next r1 →
      let ill (x : State) : Prop := x.mark = .trapped .illegal
      let waits (x : State) : Prop := x.mark = .parked ∧ x.cur.wait = some .cond
      let form (x : State) : Prop := x.mark = .trapped .tileform
      let stops (x : State) : Prop := (∃ c, x.mark = .trapped c) ∨ (x.mark = .parked ∧ ∃ v q va, x.cur.wait = some (.page v q va))
      (ill r0 → runPair s i j = .next r0) ∧ (¬ill r0 → ill r1 → runPair s i j = .next r1) ∧
      (¬ill r0 → ¬ill r1 →
        (waits r0 → runPair s i j = .next r0) ∧ (¬waits r0 → waits r1 → runPair s i j = .next r1) ∧
        (¬waits r0 → ¬waits r1 →
          (form r0 → runPair s i j = .next r0) ∧ (¬form r0 → form r1 → runPair s i j = .next r1) ∧
          (¬form r0 → ¬form r1 →
            (stops r0 → runPair s i j = .next r0) ∧ (¬stops r0 → stops r1 → runPair s i j = .next r1) ∧
            (¬stops r0 → ¬stops r1 → r0.mark = .parked → runPair s i j = .next r0) ∧
            (r0.mark = .retired → r1.mark = .parked → ¬stops r1 → runPair s i j = .next r1)))) ∧
      (r0.mark = .retired → r1.mark = .retired → r0.cur.num = s.cur.num → r0.cur.place ≠ .gone → r0.cur.lost = false →
        ∀ r, exec j { r0 with pos := .w1, src := some s.cur, mark := .retired } = .next r →
          (r.mark = .retired → runPair s i j = .next r.settleHint) ∧
          (r.onHold = true → ∃ u, runPair s i j = .next u ∧ u.mark = .parked ∧ u.cur.wait = some .held ∧ u.cur.halfway = true ∧
            u.cur.x = r0.cur.x ∧ u.reqs = r0.reqs ∧ u.mem = r0.mem))) ∧
  (∀ (s r : State) (b : Thread) (i j : Instr), s.cur.halfway = true → (s.halves.find? fun t => t.num == s.cur.num) = some b →
    exec j { s with pos := .w1, src := some b, popped := [], mark := .retired, cur := { s.cur with pc := b.pc, halfway := false }
                    halves := s.halves.filter fun t => t.num != b.num } = .next r →
      (r.mark = .retired → runPair s i j =
        .next ({ r with cur := { r.cur with pc := s.cur.pc, wait := b.wait } } : State).settleHint) ∧
      (∀ c, r.mark = .trapped c → runPair s i j = .next r))

/-- R5, R8, R13, R20, R376, R379, R383 to R385, R389: what reset leaves: no thread, domain 0 alone, live in VD 0, which runs; STATE 0;
the power limit of 2,400 W; and the reset values that the spec gives a thread's, a core's, a comb's and a VD's registers. Memory
lists nothing, which is its canonical form. -/
def Obligations.ResetState : Prop :=
  MemoryOk State.reset ∧ State.reset.mem = [] ∧ State.reset.threads = [] ∧ State.reset.cyc = 0 ∧ State.reset.agenda = [] ∧
  (State.reset.domain 0).life = .live ∧ (State.reset.domain 0).vd = 0 ∧ (∀ n, n ≠ 0 → (State.reset.domain n).life = .absent) ∧
  (State.reset.vd 0).st = 1 ∧ (∀ v, v ≠ 0 → (State.reset.vd v).st = 0) ∧ (∀ v, (State.reset.vd v).weight = 16 ∧
    (State.reset.vd v).cap = 256 ∧ (State.reset.vd v).gtoff = 0 ∧ (State.reset.vd v).feat0 = 0) ∧
  State.reset.mgmt.state = 0 ∧ State.reset.mgmt.term = 0 ∧ State.reset.mgmt.rststat = 0 ∧ State.reset.fleet.plim = 2400 ∧
  State.reset.fleet.tlvl = 0 ∧ State.reset.fleet.tlprod = 0 ∧
  (∀ c, (State.reset.core c).hot = 95 ∧ (State.reset.core c).cool = 85 ∧ (State.reset.core c).fcfw = 1 ∧
    (State.reset.core c).disabled = 0 ∧ (State.reset.core c).lastCompute = 15 ∧ (State.reset.core c).trEn = false) ∧
  (∀ m, (State.reset.comb m).auEn = true ∧ (State.reset.comb m).auExp = 12 ∧ (State.reset.comb m).accs = [] ∧
    (State.reset.comb m).tlb = []) ∧
  ({} : Thread).pw = 1 ∧ ({} : Thread).st = 0 ∧ ({} : Thread).agv = 0x3F000000 ∧ ({} : Thread).agc = 0x8000 ∧ ({} : Thread).cen = false

/-- Every instruction and every step of the part has an outcome that goes on: the model stops on none of them, and no state ends a
run (R217 to R220 and the rules of each row: what the spec describes is a next state). -/
def Obligations.NothingStops : Prop :=
  (∀ (i : Instr) (s : State), ∃ t, exec i s = .next t) ∧ (∀ s : State, ∃ t, step s = .next t) ∧ ∀ s : State, Runs s

/-- No step leaves the canonical form of memory: addresses that strictly rise, and no byte listed that an unlisted address reads
as. -/
def Obligations.MemoryPreserved : Prop := ∀ s t : State, MemoryOk s → step s = .next t → MemoryOk t
end

