-- ==== Sys2Proof/Laws/State.lean ====
section
/-! SUPPORT. What each named update of the state leaves in each field. -/

namespace Sys2Proof.Machine


@[simp] theorem setCore_cur (s : State) (r : Core) : (s.setCore r).cur = s.cur := rfl
@[simp] theorem setCore_others (s : State) (r : Core) : (s.setCore r).others = s.others := rfl
@[simp] theorem setCore_mem (s : State) (r : Core) : (s.setCore r).mem = s.mem := rfl
@[simp] theorem setCore_damage (s : State) (r : Core) : (s.setCore r).damage = s.damage := rfl
@[simp] theorem setCore_cyc (s : State) (r : Core) : (s.setCore r).cyc = s.cyc := rfl
@[simp] theorem setCore_combs (s : State) (r : Core) : (s.setCore r).combs = s.combs := rfl
@[simp] theorem setCore_hives (s : State) (r : Core) : (s.setCore r).hives = s.hives := rfl
@[simp] theorem setCore_domains (s : State) (r : Core) : (s.setCore r).domains = s.domains := rfl
@[simp] theorem setCore_vds (s : State) (r : Core) : (s.setCore r).vds = s.vds := rfl
@[simp] theorem setCore_offers (s : State) (r : Core) : (s.setCore r).offers = s.offers := rfl
@[simp] theorem setCore_stageLinks (s : State) (r : Core) : (s.setCore r).stageLinks = s.stageLinks := rfl
@[simp] theorem setCore_reqs (s : State) (r : Core) : (s.setCore r).reqs = s.reqs := rfl
@[simp] theorem setCore_rets (s : State) (r : Core) : (s.setCore r).rets = s.rets := rfl
@[simp] theorem setCore_stamp (s : State) (r : Core) : (s.setCore r).stamp = s.stamp := rfl
@[simp] theorem setCore_period (s : State) (r : Core) : (s.setCore r).period = s.period := rfl
@[simp] theorem setCore_busy (s : State) (r : Core) : (s.setCore r).busy = s.busy := rfl
@[simp] theorem setCore_served (s : State) (r : Core) : (s.setCore r).served = s.served := rfl
@[simp] theorem setCore_watches (s : State) (r : Core) : (s.setCore r).watches = s.watches := rfl
@[simp] theorem setCore_walks (s : State) (r : Core) : (s.setCore r).walks = s.walks := rfl
@[simp] theorem setCore_fills (s : State) (r : Core) : (s.setCore r).fills = s.fills := rfl
@[simp] theorem setCore_lines (s : State) (r : Core) : (s.setCore r).lines = s.lines := rfl
@[simp] theorem setCore_firsts (s : State) (r : Core) : (s.setCore r).firsts = s.firsts := rfl
@[simp] theorem setCore_pushed (s : State) (r : Core) : (s.setCore r).pushed = s.pushed := rfl
@[simp] theorem setCore_allocHeld (s : State) (r : Core) : (s.setCore r).allocHeld = s.allocHeld := rfl
@[simp] theorem setCore_dataHeld (s : State) (r : Core) : (s.setCore r).dataHeld = s.dataHeld := rfl
@[simp] theorem setCore_spawns (s : State) (r : Core) : (s.setCore r).spawns = s.spawns := rfl
@[simp] theorem setCore_answers (s : State) (r : Core) : (s.setCore r).answers = s.answers := rfl
@[simp] theorem setCore_launches (s : State) (r : Core) : (s.setCore r).launches = s.launches := rfl
@[simp] theorem setCore_quits (s : State) (r : Core) : (s.setCore r).quits = s.quits := rfl
@[simp] theorem setCore_dones (s : State) (r : Core) : (s.setCore r).dones = s.dones := rfl
@[simp] theorem setCore_mgmt (s : State) (r : Core) : (s.setCore r).mgmt = s.mgmt := rfl
@[simp] theorem setCore_fleet (s : State) (r : Core) : (s.setCore r).fleet = s.fleet := rfl
@[simp] theorem setCore_out (s : State) (r : Core) : (s.setCore r).out = s.out := rfl
@[simp] theorem setCore_flights (s : State) (r : Core) : (s.setCore r).flights = s.flights := rfl
@[simp] theorem setCore_nextThread (s : State) (r : Core) : (s.setCore r).nextThread = s.nextThread := rfl
@[simp] theorem setCore_free (s : State) (r : Core) : (s.setCore r).free = s.free := rfl
@[simp] theorem setCore_agenda (s : State) (r : Core) : (s.setCore r).agenda = s.agenda := rfl
@[simp] theorem setCore_evTurn (s : State) (r : Core) : (s.setCore r).evTurn = s.evTurn := rfl
@[simp] theorem setCore_pos (s : State) (r : Core) : (s.setCore r).pos = s.pos := rfl
@[simp] theorem setCore_bundle (s : State) (r : Core) : (s.setCore r).bundle = s.bundle := rfl
@[simp] theorem setCore_src (s : State) (r : Core) : (s.setCore r).src = s.src := rfl
@[simp] theorem setCore_popped (s : State) (r : Core) : (s.setCore r).popped = s.popped := rfl
@[simp] theorem setCore_mark (s : State) (r : Core) : (s.setCore r).mark = s.mark := rfl
@[simp] theorem setCore_halves (s : State) (r : Core) : (s.setCore r).halves = s.halves := rfl

@[simp] theorem setComb_cur (s : State) (r : Comb) : (s.setComb r).cur = s.cur := rfl
@[simp] theorem setComb_others (s : State) (r : Comb) : (s.setComb r).others = s.others := rfl
@[simp] theorem setComb_mem (s : State) (r : Comb) : (s.setComb r).mem = s.mem := rfl
@[simp] theorem setComb_damage (s : State) (r : Comb) : (s.setComb r).damage = s.damage := rfl
@[simp] theorem setComb_cyc (s : State) (r : Comb) : (s.setComb r).cyc = s.cyc := rfl
@[simp] theorem setComb_cores (s : State) (r : Comb) : (s.setComb r).cores = s.cores := rfl
@[simp] theorem setComb_hives (s : State) (r : Comb) : (s.setComb r).hives = s.hives := rfl
@[simp] theorem setComb_domains (s : State) (r : Comb) : (s.setComb r).domains = s.domains := rfl
@[simp] theorem setComb_vds (s : State) (r : Comb) : (s.setComb r).vds = s.vds := rfl
@[simp] theorem setComb_offers (s : State) (r : Comb) : (s.setComb r).offers = s.offers := rfl
@[simp] theorem setComb_stageLinks (s : State) (r : Comb) : (s.setComb r).stageLinks = s.stageLinks := rfl
@[simp] theorem setComb_reqs (s : State) (r : Comb) : (s.setComb r).reqs = s.reqs := rfl
@[simp] theorem setComb_rets (s : State) (r : Comb) : (s.setComb r).rets = s.rets := rfl
@[simp] theorem setComb_stamp (s : State) (r : Comb) : (s.setComb r).stamp = s.stamp := rfl
@[simp] theorem setComb_period (s : State) (r : Comb) : (s.setComb r).period = s.period := rfl
@[simp] theorem setComb_busy (s : State) (r : Comb) : (s.setComb r).busy = s.busy := rfl
@[simp] theorem setComb_served (s : State) (r : Comb) : (s.setComb r).served = s.served := rfl
@[simp] theorem setComb_watches (s : State) (r : Comb) : (s.setComb r).watches = s.watches := rfl
@[simp] theorem setComb_walks (s : State) (r : Comb) : (s.setComb r).walks = s.walks := rfl
@[simp] theorem setComb_fills (s : State) (r : Comb) : (s.setComb r).fills = s.fills := rfl
@[simp] theorem setComb_lines (s : State) (r : Comb) : (s.setComb r).lines = s.lines := rfl
@[simp] theorem setComb_firsts (s : State) (r : Comb) : (s.setComb r).firsts = s.firsts := rfl
@[simp] theorem setComb_pushed (s : State) (r : Comb) : (s.setComb r).pushed = s.pushed := rfl
@[simp] theorem setComb_allocHeld (s : State) (r : Comb) : (s.setComb r).allocHeld = s.allocHeld := rfl
@[simp] theorem setComb_dataHeld (s : State) (r : Comb) : (s.setComb r).dataHeld = s.dataHeld := rfl
@[simp] theorem setComb_spawns (s : State) (r : Comb) : (s.setComb r).spawns = s.spawns := rfl
@[simp] theorem setComb_answers (s : State) (r : Comb) : (s.setComb r).answers = s.answers := rfl
@[simp] theorem setComb_launches (s : State) (r : Comb) : (s.setComb r).launches = s.launches := rfl
@[simp] theorem setComb_quits (s : State) (r : Comb) : (s.setComb r).quits = s.quits := rfl
@[simp] theorem setComb_dones (s : State) (r : Comb) : (s.setComb r).dones = s.dones := rfl
@[simp] theorem setComb_mgmt (s : State) (r : Comb) : (s.setComb r).mgmt = s.mgmt := rfl
@[simp] theorem setComb_fleet (s : State) (r : Comb) : (s.setComb r).fleet = s.fleet := rfl
@[simp] theorem setComb_out (s : State) (r : Comb) : (s.setComb r).out = s.out := rfl
@[simp] theorem setComb_flights (s : State) (r : Comb) : (s.setComb r).flights = s.flights := rfl
@[simp] theorem setComb_nextThread (s : State) (r : Comb) : (s.setComb r).nextThread = s.nextThread := rfl
@[simp] theorem setComb_free (s : State) (r : Comb) : (s.setComb r).free = s.free := rfl
@[simp] theorem setComb_agenda (s : State) (r : Comb) : (s.setComb r).agenda = s.agenda := rfl
@[simp] theorem setComb_evTurn (s : State) (r : Comb) : (s.setComb r).evTurn = s.evTurn := rfl
@[simp] theorem setComb_pos (s : State) (r : Comb) : (s.setComb r).pos = s.pos := rfl
@[simp] theorem setComb_bundle (s : State) (r : Comb) : (s.setComb r).bundle = s.bundle := rfl
@[simp] theorem setComb_src (s : State) (r : Comb) : (s.setComb r).src = s.src := rfl
@[simp] theorem setComb_popped (s : State) (r : Comb) : (s.setComb r).popped = s.popped := rfl
@[simp] theorem setComb_mark (s : State) (r : Comb) : (s.setComb r).mark = s.mark := rfl
@[simp] theorem setComb_halves (s : State) (r : Comb) : (s.setComb r).halves = s.halves := rfl

@[simp] theorem setHive_cur (s : State) (r : Hive) : (s.setHive r).cur = s.cur := rfl
@[simp] theorem setHive_others (s : State) (r : Hive) : (s.setHive r).others = s.others := rfl
@[simp] theorem setHive_mem (s : State) (r : Hive) : (s.setHive r).mem = s.mem := rfl
@[simp] theorem setHive_damage (s : State) (r : Hive) : (s.setHive r).damage = s.damage := rfl
@[simp] theorem setHive_cyc (s : State) (r : Hive) : (s.setHive r).cyc = s.cyc := rfl
@[simp] theorem setHive_cores (s : State) (r : Hive) : (s.setHive r).cores = s.cores := rfl
@[simp] theorem setHive_combs (s : State) (r : Hive) : (s.setHive r).combs = s.combs := rfl
@[simp] theorem setHive_domains (s : State) (r : Hive) : (s.setHive r).domains = s.domains := rfl
@[simp] theorem setHive_vds (s : State) (r : Hive) : (s.setHive r).vds = s.vds := rfl
@[simp] theorem setHive_offers (s : State) (r : Hive) : (s.setHive r).offers = s.offers := rfl
@[simp] theorem setHive_stageLinks (s : State) (r : Hive) : (s.setHive r).stageLinks = s.stageLinks := rfl
@[simp] theorem setHive_reqs (s : State) (r : Hive) : (s.setHive r).reqs = s.reqs := rfl
@[simp] theorem setHive_rets (s : State) (r : Hive) : (s.setHive r).rets = s.rets := rfl
@[simp] theorem setHive_stamp (s : State) (r : Hive) : (s.setHive r).stamp = s.stamp := rfl
@[simp] theorem setHive_period (s : State) (r : Hive) : (s.setHive r).period = s.period := rfl
@[simp] theorem setHive_busy (s : State) (r : Hive) : (s.setHive r).busy = s.busy := rfl
@[simp] theorem setHive_served (s : State) (r : Hive) : (s.setHive r).served = s.served := rfl
@[simp] theorem setHive_watches (s : State) (r : Hive) : (s.setHive r).watches = s.watches := rfl
@[simp] theorem setHive_walks (s : State) (r : Hive) : (s.setHive r).walks = s.walks := rfl
@[simp] theorem setHive_fills (s : State) (r : Hive) : (s.setHive r).fills = s.fills := rfl
@[simp] theorem setHive_lines (s : State) (r : Hive) : (s.setHive r).lines = s.lines := rfl
@[simp] theorem setHive_firsts (s : State) (r : Hive) : (s.setHive r).firsts = s.firsts := rfl
@[simp] theorem setHive_pushed (s : State) (r : Hive) : (s.setHive r).pushed = s.pushed := rfl
@[simp] theorem setHive_allocHeld (s : State) (r : Hive) : (s.setHive r).allocHeld = s.allocHeld := rfl
@[simp] theorem setHive_dataHeld (s : State) (r : Hive) : (s.setHive r).dataHeld = s.dataHeld := rfl
@[simp] theorem setHive_spawns (s : State) (r : Hive) : (s.setHive r).spawns = s.spawns := rfl
@[simp] theorem setHive_answers (s : State) (r : Hive) : (s.setHive r).answers = s.answers := rfl
@[simp] theorem setHive_launches (s : State) (r : Hive) : (s.setHive r).launches = s.launches := rfl
@[simp] theorem setHive_quits (s : State) (r : Hive) : (s.setHive r).quits = s.quits := rfl
@[simp] theorem setHive_dones (s : State) (r : Hive) : (s.setHive r).dones = s.dones := rfl
@[simp] theorem setHive_mgmt (s : State) (r : Hive) : (s.setHive r).mgmt = s.mgmt := rfl
@[simp] theorem setHive_fleet (s : State) (r : Hive) : (s.setHive r).fleet = s.fleet := rfl
@[simp] theorem setHive_out (s : State) (r : Hive) : (s.setHive r).out = s.out := rfl
@[simp] theorem setHive_flights (s : State) (r : Hive) : (s.setHive r).flights = s.flights := rfl
@[simp] theorem setHive_nextThread (s : State) (r : Hive) : (s.setHive r).nextThread = s.nextThread := rfl
@[simp] theorem setHive_free (s : State) (r : Hive) : (s.setHive r).free = s.free := rfl
@[simp] theorem setHive_agenda (s : State) (r : Hive) : (s.setHive r).agenda = s.agenda := rfl
@[simp] theorem setHive_evTurn (s : State) (r : Hive) : (s.setHive r).evTurn = s.evTurn := rfl
@[simp] theorem setHive_pos (s : State) (r : Hive) : (s.setHive r).pos = s.pos := rfl
@[simp] theorem setHive_bundle (s : State) (r : Hive) : (s.setHive r).bundle = s.bundle := rfl
@[simp] theorem setHive_src (s : State) (r : Hive) : (s.setHive r).src = s.src := rfl
@[simp] theorem setHive_popped (s : State) (r : Hive) : (s.setHive r).popped = s.popped := rfl
@[simp] theorem setHive_mark (s : State) (r : Hive) : (s.setHive r).mark = s.mark := rfl
@[simp] theorem setHive_halves (s : State) (r : Hive) : (s.setHive r).halves = s.halves := rfl

@[simp] theorem setDomain_cur (s : State) (r : Domain) : (s.setDomain r).cur = s.cur := rfl
@[simp] theorem setDomain_others (s : State) (r : Domain) : (s.setDomain r).others = s.others := rfl
@[simp] theorem setDomain_mem (s : State) (r : Domain) : (s.setDomain r).mem = s.mem := rfl
@[simp] theorem setDomain_damage (s : State) (r : Domain) : (s.setDomain r).damage = s.damage := rfl
@[simp] theorem setDomain_cyc (s : State) (r : Domain) : (s.setDomain r).cyc = s.cyc := rfl
@[simp] theorem setDomain_cores (s : State) (r : Domain) : (s.setDomain r).cores = s.cores := rfl
@[simp] theorem setDomain_combs (s : State) (r : Domain) : (s.setDomain r).combs = s.combs := rfl
@[simp] theorem setDomain_hives (s : State) (r : Domain) : (s.setDomain r).hives = s.hives := rfl
@[simp] theorem setDomain_vds (s : State) (r : Domain) : (s.setDomain r).vds = s.vds := rfl
@[simp] theorem setDomain_offers (s : State) (r : Domain) : (s.setDomain r).offers = s.offers := rfl
@[simp] theorem setDomain_stageLinks (s : State) (r : Domain) : (s.setDomain r).stageLinks = s.stageLinks := rfl
@[simp] theorem setDomain_reqs (s : State) (r : Domain) : (s.setDomain r).reqs = s.reqs := rfl
@[simp] theorem setDomain_rets (s : State) (r : Domain) : (s.setDomain r).rets = s.rets := rfl
@[simp] theorem setDomain_stamp (s : State) (r : Domain) : (s.setDomain r).stamp = s.stamp := rfl
@[simp] theorem setDomain_period (s : State) (r : Domain) : (s.setDomain r).period = s.period := rfl
@[simp] theorem setDomain_busy (s : State) (r : Domain) : (s.setDomain r).busy = s.busy := rfl
@[simp] theorem setDomain_served (s : State) (r : Domain) : (s.setDomain r).served = s.served := rfl
@[simp] theorem setDomain_watches (s : State) (r : Domain) : (s.setDomain r).watches = s.watches := rfl
@[simp] theorem setDomain_walks (s : State) (r : Domain) : (s.setDomain r).walks = s.walks := rfl
@[simp] theorem setDomain_fills (s : State) (r : Domain) : (s.setDomain r).fills = s.fills := rfl
@[simp] theorem setDomain_lines (s : State) (r : Domain) : (s.setDomain r).lines = s.lines := rfl
@[simp] theorem setDomain_firsts (s : State) (r : Domain) : (s.setDomain r).firsts = s.firsts := rfl
@[simp] theorem setDomain_pushed (s : State) (r : Domain) : (s.setDomain r).pushed = s.pushed := rfl
@[simp] theorem setDomain_allocHeld (s : State) (r : Domain) : (s.setDomain r).allocHeld = s.allocHeld := rfl
@[simp] theorem setDomain_dataHeld (s : State) (r : Domain) : (s.setDomain r).dataHeld = s.dataHeld := rfl
@[simp] theorem setDomain_spawns (s : State) (r : Domain) : (s.setDomain r).spawns = s.spawns := rfl
@[simp] theorem setDomain_answers (s : State) (r : Domain) : (s.setDomain r).answers = s.answers := rfl
@[simp] theorem setDomain_launches (s : State) (r : Domain) : (s.setDomain r).launches = s.launches := rfl
@[simp] theorem setDomain_quits (s : State) (r : Domain) : (s.setDomain r).quits = s.quits := rfl
@[simp] theorem setDomain_dones (s : State) (r : Domain) : (s.setDomain r).dones = s.dones := rfl
@[simp] theorem setDomain_mgmt (s : State) (r : Domain) : (s.setDomain r).mgmt = s.mgmt := rfl
@[simp] theorem setDomain_fleet (s : State) (r : Domain) : (s.setDomain r).fleet = s.fleet := rfl
@[simp] theorem setDomain_out (s : State) (r : Domain) : (s.setDomain r).out = s.out := rfl
@[simp] theorem setDomain_flights (s : State) (r : Domain) : (s.setDomain r).flights = s.flights := rfl
@[simp] theorem setDomain_nextThread (s : State) (r : Domain) : (s.setDomain r).nextThread = s.nextThread := rfl
@[simp] theorem setDomain_free (s : State) (r : Domain) : (s.setDomain r).free = s.free := rfl
@[simp] theorem setDomain_agenda (s : State) (r : Domain) : (s.setDomain r).agenda = s.agenda := rfl
@[simp] theorem setDomain_evTurn (s : State) (r : Domain) : (s.setDomain r).evTurn = s.evTurn := rfl
@[simp] theorem setDomain_pos (s : State) (r : Domain) : (s.setDomain r).pos = s.pos := rfl
@[simp] theorem setDomain_bundle (s : State) (r : Domain) : (s.setDomain r).bundle = s.bundle := rfl
@[simp] theorem setDomain_src (s : State) (r : Domain) : (s.setDomain r).src = s.src := rfl
@[simp] theorem setDomain_popped (s : State) (r : Domain) : (s.setDomain r).popped = s.popped := rfl
@[simp] theorem setDomain_mark (s : State) (r : Domain) : (s.setDomain r).mark = s.mark := rfl
@[simp] theorem setDomain_halves (s : State) (r : Domain) : (s.setDomain r).halves = s.halves := rfl

@[simp] theorem setVd_cur (s : State) (r : Vd) : (s.setVd r).cur = s.cur := rfl
@[simp] theorem setVd_others (s : State) (r : Vd) : (s.setVd r).others = s.others := rfl
@[simp] theorem setVd_mem (s : State) (r : Vd) : (s.setVd r).mem = s.mem := rfl
@[simp] theorem setVd_damage (s : State) (r : Vd) : (s.setVd r).damage = s.damage := rfl
@[simp] theorem setVd_cyc (s : State) (r : Vd) : (s.setVd r).cyc = s.cyc := rfl
@[simp] theorem setVd_cores (s : State) (r : Vd) : (s.setVd r).cores = s.cores := rfl
@[simp] theorem setVd_combs (s : State) (r : Vd) : (s.setVd r).combs = s.combs := rfl
@[simp] theorem setVd_hives (s : State) (r : Vd) : (s.setVd r).hives = s.hives := rfl
@[simp] theorem setVd_domains (s : State) (r : Vd) : (s.setVd r).domains = s.domains := rfl
@[simp] theorem setVd_offers (s : State) (r : Vd) : (s.setVd r).offers = s.offers := rfl
@[simp] theorem setVd_stageLinks (s : State) (r : Vd) : (s.setVd r).stageLinks = s.stageLinks := rfl
@[simp] theorem setVd_reqs (s : State) (r : Vd) : (s.setVd r).reqs = s.reqs := rfl
@[simp] theorem setVd_rets (s : State) (r : Vd) : (s.setVd r).rets = s.rets := rfl
@[simp] theorem setVd_stamp (s : State) (r : Vd) : (s.setVd r).stamp = s.stamp := rfl
@[simp] theorem setVd_period (s : State) (r : Vd) : (s.setVd r).period = s.period := rfl
@[simp] theorem setVd_busy (s : State) (r : Vd) : (s.setVd r).busy = s.busy := rfl
@[simp] theorem setVd_served (s : State) (r : Vd) : (s.setVd r).served = s.served := rfl
@[simp] theorem setVd_watches (s : State) (r : Vd) : (s.setVd r).watches = s.watches := rfl
@[simp] theorem setVd_walks (s : State) (r : Vd) : (s.setVd r).walks = s.walks := rfl
@[simp] theorem setVd_fills (s : State) (r : Vd) : (s.setVd r).fills = s.fills := rfl
@[simp] theorem setVd_lines (s : State) (r : Vd) : (s.setVd r).lines = s.lines := rfl
@[simp] theorem setVd_firsts (s : State) (r : Vd) : (s.setVd r).firsts = s.firsts := rfl
@[simp] theorem setVd_pushed (s : State) (r : Vd) : (s.setVd r).pushed = s.pushed := rfl
@[simp] theorem setVd_allocHeld (s : State) (r : Vd) : (s.setVd r).allocHeld = s.allocHeld := rfl
@[simp] theorem setVd_dataHeld (s : State) (r : Vd) : (s.setVd r).dataHeld = s.dataHeld := rfl
@[simp] theorem setVd_spawns (s : State) (r : Vd) : (s.setVd r).spawns = s.spawns := rfl
@[simp] theorem setVd_answers (s : State) (r : Vd) : (s.setVd r).answers = s.answers := rfl
@[simp] theorem setVd_launches (s : State) (r : Vd) : (s.setVd r).launches = s.launches := rfl
@[simp] theorem setVd_quits (s : State) (r : Vd) : (s.setVd r).quits = s.quits := rfl
@[simp] theorem setVd_dones (s : State) (r : Vd) : (s.setVd r).dones = s.dones := rfl
@[simp] theorem setVd_mgmt (s : State) (r : Vd) : (s.setVd r).mgmt = s.mgmt := rfl
@[simp] theorem setVd_fleet (s : State) (r : Vd) : (s.setVd r).fleet = s.fleet := rfl
@[simp] theorem setVd_out (s : State) (r : Vd) : (s.setVd r).out = s.out := rfl
@[simp] theorem setVd_flights (s : State) (r : Vd) : (s.setVd r).flights = s.flights := rfl
@[simp] theorem setVd_nextThread (s : State) (r : Vd) : (s.setVd r).nextThread = s.nextThread := rfl
@[simp] theorem setVd_free (s : State) (r : Vd) : (s.setVd r).free = s.free := rfl
@[simp] theorem setVd_agenda (s : State) (r : Vd) : (s.setVd r).agenda = s.agenda := rfl
@[simp] theorem setVd_evTurn (s : State) (r : Vd) : (s.setVd r).evTurn = s.evTurn := rfl
@[simp] theorem setVd_pos (s : State) (r : Vd) : (s.setVd r).pos = s.pos := rfl
@[simp] theorem setVd_bundle (s : State) (r : Vd) : (s.setVd r).bundle = s.bundle := rfl
@[simp] theorem setVd_src (s : State) (r : Vd) : (s.setVd r).src = s.src := rfl
@[simp] theorem setVd_popped (s : State) (r : Vd) : (s.setVd r).popped = s.popped := rfl
@[simp] theorem setVd_mark (s : State) (r : Vd) : (s.setVd r).mark = s.mark := rfl
@[simp] theorem setVd_halves (s : State) (r : Vd) : (s.setVd r).halves = s.halves := rfl

@[simp] theorem setReg_num (t : Thread) (r : XReg) (v : Word) (b : Bool) : (t.setReg r v b).num = t.num := rfl
@[simp] theorem setReg_place (t : Thread) (r : XReg) (v : Word) (b : Bool) : (t.setReg r v b).place = t.place := rfl
@[simp] theorem setReg_trip (t : Thread) (r : XReg) (v : Word) (b : Bool) : (t.setReg r v b).trip = t.trip := rfl
@[simp] theorem setReg_pw (t : Thread) (r : XReg) (v : Word) (b : Bool) : (t.setReg r v b).pw = t.pw := rfl
@[simp] theorem setReg_pc (t : Thread) (r : XReg) (v : Word) (b : Bool) : (t.setReg r v b).pc = t.pc := rfl
@[simp] theorem setReg_cb (t : Thread) (r : XReg) (v : Word) (b : Bool) : (t.setReg r v b).cb = t.cb := rfl
@[simp] theorem setReg_st (t : Thread) (r : XReg) (v : Word) (b : Bool) : (t.setReg r v b).st = t.st := rfl
@[simp] theorem setReg_ldo (t : Thread) (r : XReg) (v : Word) (b : Bool) : (t.setReg r v b).ldo = t.ldo := rfl
@[simp] theorem setReg_sto (t : Thread) (r : XReg) (v : Word) (b : Bool) : (t.setReg r v b).sto = t.sto := rfl
@[simp] theorem setReg_cpo (t : Thread) (r : XReg) (v : Word) (b : Bool) : (t.setReg r v b).cpo = t.cpo := rfl
@[simp] theorem setReg_tlo (t : Thread) (r : XReg) (v : Word) (b : Bool) : (t.setReg r v b).tlo = t.tlo := rfl
@[simp] theorem setReg_pend (t : Thread) (r : XReg) (v : Word) (b : Bool) : (t.setReg r v b).pend = t.pend := rfl
@[simp] theorem setReg_fmtA (t : Thread) (r : XReg) (v : Word) (b : Bool) : (t.setReg r v b).fmtA = t.fmtA := rfl
@[simp] theorem setReg_fmtB (t : Thread) (r : XReg) (v : Word) (b : Bool) : (t.setReg r v b).fmtB = t.fmtB := rfl
@[simp] theorem setReg_scA (t : Thread) (r : XReg) (v : Word) (b : Bool) : (t.setReg r v b).scA = t.scA := rfl
@[simp] theorem setReg_scB (t : Thread) (r : XReg) (v : Word) (b : Bool) : (t.setReg r v b).scB = t.scB := rfl
@[simp] theorem setReg_scC (t : Thread) (r : XReg) (v : Word) (b : Bool) : (t.setReg r v b).scC = t.scC := rfl
@[simp] theorem setReg_agv (t : Thread) (r : XReg) (v : Word) (b : Bool) : (t.setReg r v b).agv = t.agv := rfl
@[simp] theorem setReg_agc (t : Thread) (r : XReg) (v : Word) (b : Bool) : (t.setReg r v b).agc = t.agc := rfl
@[simp] theorem setReg_cen (t : Thread) (r : XReg) (v : Word) (b : Bool) : (t.setReg r v b).cen = t.cen := rfl
@[simp] theorem setReg_v (t : Thread) (r : XReg) (v : Word) (b : Bool) : (t.setReg r v b).v = t.v := rfl
@[simp] theorem setReg_streams (t : Thread) (r : XReg) (v : Word) (b : Bool) : (t.setReg r v b).streams = t.streams := rfl
@[simp] theorem setReg_ports (t : Thread) (r : XReg) (v : Word) (b : Bool) : (t.setReg r v b).ports = t.ports := rfl
@[simp] theorem setReg_vcmd (t : Thread) (r : XReg) (v : Word) (b : Bool) : (t.setReg r v b).vcmd = t.vcmd := rfl
@[simp] theorem setReg_result (t : Thread) (r : XReg) (v : Word) (b : Bool) : (t.setReg r v b).result = t.result := rfl
@[simp] theorem setReg_cmdWords (t : Thread) (r : XReg) (v : Word) (b : Bool) : (t.setReg r v b).cmdWords = t.cmdWords := rfl
@[simp] theorem setReg_dom (t : Thread) (r : XReg) (v : Word) (b : Bool) : (t.setReg r v b).dom = t.dom := rfl
@[simp] theorem setReg_botdom (t : Thread) (r : XReg) (v : Word) (b : Bool) : (t.setReg r v b).botdom = t.botdom := rfl
@[simp] theorem setReg_vdid (t : Thread) (r : XReg) (v : Word) (b : Bool) : (t.setReg r v b).vdid = t.vdid := rfl
@[simp] theorem setReg_chgvd (t : Thread) (r : XReg) (v : Word) (b : Bool) : (t.setReg r v b).chgvd = t.chgvd := rfl
@[simp] theorem setReg_depth (t : Thread) (r : XReg) (v : Word) (b : Bool) : (t.setReg r v b).depth = t.depth := rfl
@[simp] theorem setReg_top (t : Thread) (r : XReg) (v : Word) (b : Bool) : (t.setReg r v b).top = t.top := rfl
@[simp] theorem setReg_gates (t : Thread) (r : XReg) (v : Word) (b : Bool) : (t.setReg r v b).gates = t.gates := rfl
@[simp] theorem setReg_hwIndex (t : Thread) (r : XReg) (v : Word) (b : Bool) : (t.setReg r v b).hwIndex = t.hwIndex := rfl
@[simp] theorem setReg_hwPage (t : Thread) (r : XReg) (v : Word) (b : Bool) : (t.setReg r v b).hwPage = t.hwPage := rfl
@[simp] theorem setReg_blocks (t : Thread) (r : XReg) (v : Word) (b : Bool) : (t.setReg r v b).blocks = t.blocks := rfl
@[simp] theorem setReg_chg (t : Thread) (r : XReg) (v : Word) (b : Bool) : (t.setReg r v b).chg = t.chg := rfl
@[simp] theorem setReg_tcause (t : Thread) (r : XReg) (v : Word) (b : Bool) : (t.setReg r v b).tcause = t.tcause := rfl
@[simp] theorem setReg_epc (t : Thread) (r : XReg) (v : Word) (b : Bool) : (t.setReg r v b).epc = t.epc := rfl
@[simp] theorem setReg_tval (t : Thread) (r : XReg) (v : Word) (b : Bool) : (t.setReg r v b).tval = t.tval := rfl
@[simp] theorem setReg_est (t : Thread) (r : XReg) (v : Word) (b : Bool) : (t.setReg r v b).est = t.est := rfl
@[simp] theorem setReg_trapOpen (t : Thread) (r : XReg) (v : Word) (b : Bool) : (t.setReg r v b).trapOpen = t.trapOpen := rfl
@[simp] theorem setReg_susp (t : Thread) (r : XReg) (v : Word) (b : Bool) : (t.setReg r v b).susp = t.susp := rfl
@[simp] theorem setReg_evsel (t : Thread) (r : XReg) (v : Word) (b : Bool) : (t.setReg r v b).evsel = t.evsel := rfl
@[simp] theorem setReg_evcnt (t : Thread) (r : XReg) (v : Word) (b : Bool) : (t.setReg r v b).evcnt = t.evcnt := rfl
@[simp] theorem setReg_intent (t : Thread) (r : XReg) (v : Word) (b : Bool) : (t.setReg r v b).intent = t.intent := rfl
@[simp] theorem setReg_orphan (t : Thread) (r : XReg) (v : Word) (b : Bool) : (t.setReg r v b).orphan = t.orphan := rfl
@[simp] theorem setReg_deferOver (t : Thread) (r : XReg) (v : Word) (b : Bool) : (t.setReg r v b).deferOver = t.deferOver := rfl
@[simp] theorem setReg_deferSince (t : Thread) (r : XReg) (v : Word) (b : Bool) : (t.setReg r v b).deferSince = t.deferSince := rfl
@[simp] theorem setReg_worker (t : Thread) (r : XReg) (v : Word) (b : Bool) : (t.setReg r v b).worker = t.worker := rfl
@[simp] theorem setReg_pkt (t : Thread) (r : XReg) (v : Word) (b : Bool) : (t.setReg r v b).pkt = t.pkt := rfl
@[simp] theorem setReg_lcore (t : Thread) (r : XReg) (v : Word) (b : Bool) : (t.setReg r v b).lcore = t.lcore := rfl
@[simp] theorem setReg_pvd (t : Thread) (r : XReg) (v : Word) (b : Bool) : (t.setReg r v b).pvd = t.pvd := rfl
@[simp] theorem setReg_eccSeen (t : Thread) (r : XReg) (v : Word) (b : Bool) : (t.setReg r v b).eccSeen = t.eccSeen := rfl
@[simp] theorem setReg_reports (t : Thread) (r : XReg) (v : Word) (b : Bool) : (t.setReg r v b).reports = t.reports := rfl
@[simp] theorem setReg_lost (t : Thread) (r : XReg) (v : Word) (b : Bool) : (t.setReg r v b).lost = t.lost := rfl
@[simp] theorem setReg_doom (t : Thread) (r : XReg) (v : Word) (b : Bool) : (t.setReg r v b).doom = t.doom := rfl
@[simp] theorem setReg_wait (t : Thread) (r : XReg) (v : Word) (b : Bool) : (t.setReg r v b).wait = t.wait := rfl
@[simp] theorem setReg_norm (t : Thread) (r : XReg) (v : Word) (b : Bool) : (t.setReg r v b).norm = t.norm := rfl
@[simp] theorem setReg_inHand (t : Thread) (r : XReg) (v : Word) (b : Bool) : (t.setReg r v b).inHand = t.inHand := rfl
@[simp] theorem setReg_rejoin (t : Thread) (r : XReg) (v : Word) (b : Bool) : (t.setReg r v b).rejoin = t.rejoin := rfl
@[simp] theorem setReg_stands (t : Thread) (r : XReg) (v : Word) (b : Bool) : (t.setReg r v b).stands = t.stands := rfl
@[simp] theorem setReg_halfway (t : Thread) (r : XReg) (v : Word) (b : Bool) : (t.setReg r v b).halfway = t.halfway := rfl
@[simp] theorem setReg_lastPc (t : Thread) (r : XReg) (v : Word) (b : Bool) : (t.setReg r v b).lastPc = t.lastPc := rfl
@[simp] theorem setReg_lateFlags (t : Thread) (r : XReg) (v : Word) (b : Bool) : (t.setReg r v b).lateFlags = t.lateFlags := rfl
@[simp] theorem setReg_leaving (t : Thread) (r : XReg) (v : Word) (b : Bool) : (t.setReg r v b).leaving = t.leaving := rfl
@[simp] theorem setReg_answer (t : Thread) (r : XReg) (v : Word) (b : Bool) : (t.setReg r v b).answer = t.answer := rfl
@[simp] theorem setReg_closed (t : Thread) (r : XReg) (v : Word) (b : Bool) : (t.setReg r v b).closed = t.closed := rfl
@[simp] theorem setReg_granted (t : Thread) (r : XReg) (v : Word) (b : Bool) : (t.setReg r v b).granted = t.granted := rfl

@[simp] theorem setStream_num (t : Thread) (r : VReg) (b : Stream) : (t.setStream r b).num = t.num := rfl
@[simp] theorem setStream_place (t : Thread) (r : VReg) (b : Stream) : (t.setStream r b).place = t.place := rfl
@[simp] theorem setStream_trip (t : Thread) (r : VReg) (b : Stream) : (t.setStream r b).trip = t.trip := rfl
@[simp] theorem setStream_x (t : Thread) (r : VReg) (b : Stream) : (t.setStream r b).x = t.x := rfl
@[simp] theorem setStream_pw (t : Thread) (r : VReg) (b : Stream) : (t.setStream r b).pw = t.pw := rfl
@[simp] theorem setStream_pc (t : Thread) (r : VReg) (b : Stream) : (t.setStream r b).pc = t.pc := rfl
@[simp] theorem setStream_cb (t : Thread) (r : VReg) (b : Stream) : (t.setStream r b).cb = t.cb := rfl
@[simp] theorem setStream_st (t : Thread) (r : VReg) (b : Stream) : (t.setStream r b).st = t.st := rfl
@[simp] theorem setStream_taint (t : Thread) (r : VReg) (b : Stream) : (t.setStream r b).taint = t.taint := rfl
@[simp] theorem setStream_ldo (t : Thread) (r : VReg) (b : Stream) : (t.setStream r b).ldo = t.ldo := rfl
@[simp] theorem setStream_sto (t : Thread) (r : VReg) (b : Stream) : (t.setStream r b).sto = t.sto := rfl
@[simp] theorem setStream_cpo (t : Thread) (r : VReg) (b : Stream) : (t.setStream r b).cpo = t.cpo := rfl
@[simp] theorem setStream_tlo (t : Thread) (r : VReg) (b : Stream) : (t.setStream r b).tlo = t.tlo := rfl
@[simp] theorem setStream_pend (t : Thread) (r : VReg) (b : Stream) : (t.setStream r b).pend = t.pend := rfl
@[simp] theorem setStream_fmtA (t : Thread) (r : VReg) (b : Stream) : (t.setStream r b).fmtA = t.fmtA := rfl
@[simp] theorem setStream_fmtB (t : Thread) (r : VReg) (b : Stream) : (t.setStream r b).fmtB = t.fmtB := rfl
@[simp] theorem setStream_scA (t : Thread) (r : VReg) (b : Stream) : (t.setStream r b).scA = t.scA := rfl
@[simp] theorem setStream_scB (t : Thread) (r : VReg) (b : Stream) : (t.setStream r b).scB = t.scB := rfl
@[simp] theorem setStream_scC (t : Thread) (r : VReg) (b : Stream) : (t.setStream r b).scC = t.scC := rfl
@[simp] theorem setStream_agv (t : Thread) (r : VReg) (b : Stream) : (t.setStream r b).agv = t.agv := rfl
@[simp] theorem setStream_agc (t : Thread) (r : VReg) (b : Stream) : (t.setStream r b).agc = t.agc := rfl
@[simp] theorem setStream_cen (t : Thread) (r : VReg) (b : Stream) : (t.setStream r b).cen = t.cen := rfl
@[simp] theorem setStream_v (t : Thread) (r : VReg) (b : Stream) : (t.setStream r b).v = t.v := rfl
@[simp] theorem setStream_ports (t : Thread) (r : VReg) (b : Stream) : (t.setStream r b).ports = t.ports := rfl
@[simp] theorem setStream_vcmd (t : Thread) (r : VReg) (b : Stream) : (t.setStream r b).vcmd = t.vcmd := rfl
@[simp] theorem setStream_result (t : Thread) (r : VReg) (b : Stream) : (t.setStream r b).result = t.result := rfl
@[simp] theorem setStream_cmdWords (t : Thread) (r : VReg) (b : Stream) : (t.setStream r b).cmdWords = t.cmdWords := rfl
@[simp] theorem setStream_dom (t : Thread) (r : VReg) (b : Stream) : (t.setStream r b).dom = t.dom := rfl
@[simp] theorem setStream_botdom (t : Thread) (r : VReg) (b : Stream) : (t.setStream r b).botdom = t.botdom := rfl
@[simp] theorem setStream_vdid (t : Thread) (r : VReg) (b : Stream) : (t.setStream r b).vdid = t.vdid := rfl
@[simp] theorem setStream_chgvd (t : Thread) (r : VReg) (b : Stream) : (t.setStream r b).chgvd = t.chgvd := rfl
@[simp] theorem setStream_depth (t : Thread) (r : VReg) (b : Stream) : (t.setStream r b).depth = t.depth := rfl
@[simp] theorem setStream_top (t : Thread) (r : VReg) (b : Stream) : (t.setStream r b).top = t.top := rfl
@[simp] theorem setStream_gates (t : Thread) (r : VReg) (b : Stream) : (t.setStream r b).gates = t.gates := rfl
@[simp] theorem setStream_hwIndex (t : Thread) (r : VReg) (b : Stream) : (t.setStream r b).hwIndex = t.hwIndex := rfl
@[simp] theorem setStream_hwPage (t : Thread) (r : VReg) (b : Stream) : (t.setStream r b).hwPage = t.hwPage := rfl
@[simp] theorem setStream_blocks (t : Thread) (r : VReg) (b : Stream) : (t.setStream r b).blocks = t.blocks := rfl
@[simp] theorem setStream_chg (t : Thread) (r : VReg) (b : Stream) : (t.setStream r b).chg = t.chg := rfl
@[simp] theorem setStream_tcause (t : Thread) (r : VReg) (b : Stream) : (t.setStream r b).tcause = t.tcause := rfl
@[simp] theorem setStream_epc (t : Thread) (r : VReg) (b : Stream) : (t.setStream r b).epc = t.epc := rfl
@[simp] theorem setStream_tval (t : Thread) (r : VReg) (b : Stream) : (t.setStream r b).tval = t.tval := rfl
@[simp] theorem setStream_est (t : Thread) (r : VReg) (b : Stream) : (t.setStream r b).est = t.est := rfl
@[simp] theorem setStream_trapOpen (t : Thread) (r : VReg) (b : Stream) : (t.setStream r b).trapOpen = t.trapOpen := rfl
@[simp] theorem setStream_susp (t : Thread) (r : VReg) (b : Stream) : (t.setStream r b).susp = t.susp := rfl
@[simp] theorem setStream_evsel (t : Thread) (r : VReg) (b : Stream) : (t.setStream r b).evsel = t.evsel := rfl
@[simp] theorem setStream_evcnt (t : Thread) (r : VReg) (b : Stream) : (t.setStream r b).evcnt = t.evcnt := rfl
@[simp] theorem setStream_intent (t : Thread) (r : VReg) (b : Stream) : (t.setStream r b).intent = t.intent := rfl
@[simp] theorem setStream_orphan (t : Thread) (r : VReg) (b : Stream) : (t.setStream r b).orphan = t.orphan := rfl
@[simp] theorem setStream_deferOver (t : Thread) (r : VReg) (b : Stream) : (t.setStream r b).deferOver = t.deferOver := rfl
@[simp] theorem setStream_deferSince (t : Thread) (r : VReg) (b : Stream) : (t.setStream r b).deferSince = t.deferSince := rfl
@[simp] theorem setStream_worker (t : Thread) (r : VReg) (b : Stream) : (t.setStream r b).worker = t.worker := rfl
@[simp] theorem setStream_pkt (t : Thread) (r : VReg) (b : Stream) : (t.setStream r b).pkt = t.pkt := rfl
@[simp] theorem setStream_lcore (t : Thread) (r : VReg) (b : Stream) : (t.setStream r b).lcore = t.lcore := rfl
@[simp] theorem setStream_pvd (t : Thread) (r : VReg) (b : Stream) : (t.setStream r b).pvd = t.pvd := rfl
@[simp] theorem setStream_eccSeen (t : Thread) (r : VReg) (b : Stream) : (t.setStream r b).eccSeen = t.eccSeen := rfl
@[simp] theorem setStream_reports (t : Thread) (r : VReg) (b : Stream) : (t.setStream r b).reports = t.reports := rfl
@[simp] theorem setStream_lost (t : Thread) (r : VReg) (b : Stream) : (t.setStream r b).lost = t.lost := rfl
@[simp] theorem setStream_doom (t : Thread) (r : VReg) (b : Stream) : (t.setStream r b).doom = t.doom := rfl
@[simp] theorem setStream_wait (t : Thread) (r : VReg) (b : Stream) : (t.setStream r b).wait = t.wait := rfl
@[simp] theorem setStream_norm (t : Thread) (r : VReg) (b : Stream) : (t.setStream r b).norm = t.norm := rfl
@[simp] theorem setStream_inHand (t : Thread) (r : VReg) (b : Stream) : (t.setStream r b).inHand = t.inHand := rfl
@[simp] theorem setStream_rejoin (t : Thread) (r : VReg) (b : Stream) : (t.setStream r b).rejoin = t.rejoin := rfl
@[simp] theorem setStream_stands (t : Thread) (r : VReg) (b : Stream) : (t.setStream r b).stands = t.stands := rfl
@[simp] theorem setStream_halfway (t : Thread) (r : VReg) (b : Stream) : (t.setStream r b).halfway = t.halfway := rfl
@[simp] theorem setStream_lastPc (t : Thread) (r : VReg) (b : Stream) : (t.setStream r b).lastPc = t.lastPc := rfl
@[simp] theorem setStream_lateFlags (t : Thread) (r : VReg) (b : Stream) : (t.setStream r b).lateFlags = t.lateFlags := rfl
@[simp] theorem setStream_leaving (t : Thread) (r : VReg) (b : Stream) : (t.setStream r b).leaving = t.leaving := rfl
@[simp] theorem setStream_answer (t : Thread) (r : VReg) (b : Stream) : (t.setStream r b).answer = t.answer := rfl
@[simp] theorem setStream_closed (t : Thread) (r : VReg) (b : Stream) : (t.setStream r b).closed = t.closed := rfl
@[simp] theorem setStream_granted (t : Thread) (r : VReg) (b : Stream) : (t.setStream r b).granted = t.granted := rfl

@[simp] theorem setLanes_num (t : Thread) (r : VReg) (l : Lanes) : (t.setLanes r l).num = t.num := rfl
@[simp] theorem setLanes_place (t : Thread) (r : VReg) (l : Lanes) : (t.setLanes r l).place = t.place := rfl
@[simp] theorem setLanes_trip (t : Thread) (r : VReg) (l : Lanes) : (t.setLanes r l).trip = t.trip := rfl
@[simp] theorem setLanes_x (t : Thread) (r : VReg) (l : Lanes) : (t.setLanes r l).x = t.x := rfl
@[simp] theorem setLanes_pw (t : Thread) (r : VReg) (l : Lanes) : (t.setLanes r l).pw = t.pw := rfl
@[simp] theorem setLanes_pc (t : Thread) (r : VReg) (l : Lanes) : (t.setLanes r l).pc = t.pc := rfl
@[simp] theorem setLanes_cb (t : Thread) (r : VReg) (l : Lanes) : (t.setLanes r l).cb = t.cb := rfl
@[simp] theorem setLanes_st (t : Thread) (r : VReg) (l : Lanes) : (t.setLanes r l).st = t.st := rfl
@[simp] theorem setLanes_taint (t : Thread) (r : VReg) (l : Lanes) : (t.setLanes r l).taint = t.taint := rfl
@[simp] theorem setLanes_ldo (t : Thread) (r : VReg) (l : Lanes) : (t.setLanes r l).ldo = t.ldo := rfl
@[simp] theorem setLanes_sto (t : Thread) (r : VReg) (l : Lanes) : (t.setLanes r l).sto = t.sto := rfl
@[simp] theorem setLanes_cpo (t : Thread) (r : VReg) (l : Lanes) : (t.setLanes r l).cpo = t.cpo := rfl
@[simp] theorem setLanes_tlo (t : Thread) (r : VReg) (l : Lanes) : (t.setLanes r l).tlo = t.tlo := rfl
@[simp] theorem setLanes_pend (t : Thread) (r : VReg) (l : Lanes) : (t.setLanes r l).pend = t.pend := rfl
@[simp] theorem setLanes_fmtA (t : Thread) (r : VReg) (l : Lanes) : (t.setLanes r l).fmtA = t.fmtA := rfl
@[simp] theorem setLanes_fmtB (t : Thread) (r : VReg) (l : Lanes) : (t.setLanes r l).fmtB = t.fmtB := rfl
@[simp] theorem setLanes_scA (t : Thread) (r : VReg) (l : Lanes) : (t.setLanes r l).scA = t.scA := rfl
@[simp] theorem setLanes_scB (t : Thread) (r : VReg) (l : Lanes) : (t.setLanes r l).scB = t.scB := rfl
@[simp] theorem setLanes_scC (t : Thread) (r : VReg) (l : Lanes) : (t.setLanes r l).scC = t.scC := rfl
@[simp] theorem setLanes_agv (t : Thread) (r : VReg) (l : Lanes) : (t.setLanes r l).agv = t.agv := rfl
@[simp] theorem setLanes_agc (t : Thread) (r : VReg) (l : Lanes) : (t.setLanes r l).agc = t.agc := rfl
@[simp] theorem setLanes_cen (t : Thread) (r : VReg) (l : Lanes) : (t.setLanes r l).cen = t.cen := rfl
@[simp] theorem setLanes_streams (t : Thread) (r : VReg) (l : Lanes) : (t.setLanes r l).streams = t.streams := rfl
@[simp] theorem setLanes_ports (t : Thread) (r : VReg) (l : Lanes) : (t.setLanes r l).ports = t.ports := rfl
@[simp] theorem setLanes_vcmd (t : Thread) (r : VReg) (l : Lanes) : (t.setLanes r l).vcmd = t.vcmd := rfl
@[simp] theorem setLanes_result (t : Thread) (r : VReg) (l : Lanes) : (t.setLanes r l).result = t.result := rfl
@[simp] theorem setLanes_cmdWords (t : Thread) (r : VReg) (l : Lanes) : (t.setLanes r l).cmdWords = t.cmdWords := rfl
@[simp] theorem setLanes_dom (t : Thread) (r : VReg) (l : Lanes) : (t.setLanes r l).dom = t.dom := rfl
@[simp] theorem setLanes_botdom (t : Thread) (r : VReg) (l : Lanes) : (t.setLanes r l).botdom = t.botdom := rfl
@[simp] theorem setLanes_vdid (t : Thread) (r : VReg) (l : Lanes) : (t.setLanes r l).vdid = t.vdid := rfl
@[simp] theorem setLanes_chgvd (t : Thread) (r : VReg) (l : Lanes) : (t.setLanes r l).chgvd = t.chgvd := rfl
@[simp] theorem setLanes_depth (t : Thread) (r : VReg) (l : Lanes) : (t.setLanes r l).depth = t.depth := rfl
@[simp] theorem setLanes_top (t : Thread) (r : VReg) (l : Lanes) : (t.setLanes r l).top = t.top := rfl
@[simp] theorem setLanes_gates (t : Thread) (r : VReg) (l : Lanes) : (t.setLanes r l).gates = t.gates := rfl
@[simp] theorem setLanes_hwIndex (t : Thread) (r : VReg) (l : Lanes) : (t.setLanes r l).hwIndex = t.hwIndex := rfl
@[simp] theorem setLanes_hwPage (t : Thread) (r : VReg) (l : Lanes) : (t.setLanes r l).hwPage = t.hwPage := rfl
@[simp] theorem setLanes_blocks (t : Thread) (r : VReg) (l : Lanes) : (t.setLanes r l).blocks = t.blocks := rfl
@[simp] theorem setLanes_chg (t : Thread) (r : VReg) (l : Lanes) : (t.setLanes r l).chg = t.chg := rfl
@[simp] theorem setLanes_tcause (t : Thread) (r : VReg) (l : Lanes) : (t.setLanes r l).tcause = t.tcause := rfl
@[simp] theorem setLanes_epc (t : Thread) (r : VReg) (l : Lanes) : (t.setLanes r l).epc = t.epc := rfl
@[simp] theorem setLanes_tval (t : Thread) (r : VReg) (l : Lanes) : (t.setLanes r l).tval = t.tval := rfl
@[simp] theorem setLanes_est (t : Thread) (r : VReg) (l : Lanes) : (t.setLanes r l).est = t.est := rfl
@[simp] theorem setLanes_trapOpen (t : Thread) (r : VReg) (l : Lanes) : (t.setLanes r l).trapOpen = t.trapOpen := rfl
@[simp] theorem setLanes_susp (t : Thread) (r : VReg) (l : Lanes) : (t.setLanes r l).susp = t.susp := rfl
@[simp] theorem setLanes_evsel (t : Thread) (r : VReg) (l : Lanes) : (t.setLanes r l).evsel = t.evsel := rfl
@[simp] theorem setLanes_evcnt (t : Thread) (r : VReg) (l : Lanes) : (t.setLanes r l).evcnt = t.evcnt := rfl
@[simp] theorem setLanes_intent (t : Thread) (r : VReg) (l : Lanes) : (t.setLanes r l).intent = t.intent := rfl
@[simp] theorem setLanes_orphan (t : Thread) (r : VReg) (l : Lanes) : (t.setLanes r l).orphan = t.orphan := rfl
@[simp] theorem setLanes_deferOver (t : Thread) (r : VReg) (l : Lanes) : (t.setLanes r l).deferOver = t.deferOver := rfl
@[simp] theorem setLanes_deferSince (t : Thread) (r : VReg) (l : Lanes) : (t.setLanes r l).deferSince = t.deferSince := rfl
@[simp] theorem setLanes_worker (t : Thread) (r : VReg) (l : Lanes) : (t.setLanes r l).worker = t.worker := rfl
@[simp] theorem setLanes_pkt (t : Thread) (r : VReg) (l : Lanes) : (t.setLanes r l).pkt = t.pkt := rfl
@[simp] theorem setLanes_lcore (t : Thread) (r : VReg) (l : Lanes) : (t.setLanes r l).lcore = t.lcore := rfl
@[simp] theorem setLanes_pvd (t : Thread) (r : VReg) (l : Lanes) : (t.setLanes r l).pvd = t.pvd := rfl
@[simp] theorem setLanes_eccSeen (t : Thread) (r : VReg) (l : Lanes) : (t.setLanes r l).eccSeen = t.eccSeen := rfl
@[simp] theorem setLanes_reports (t : Thread) (r : VReg) (l : Lanes) : (t.setLanes r l).reports = t.reports := rfl
@[simp] theorem setLanes_lost (t : Thread) (r : VReg) (l : Lanes) : (t.setLanes r l).lost = t.lost := rfl
@[simp] theorem setLanes_doom (t : Thread) (r : VReg) (l : Lanes) : (t.setLanes r l).doom = t.doom := rfl
@[simp] theorem setLanes_wait (t : Thread) (r : VReg) (l : Lanes) : (t.setLanes r l).wait = t.wait := rfl
@[simp] theorem setLanes_norm (t : Thread) (r : VReg) (l : Lanes) : (t.setLanes r l).norm = t.norm := rfl
@[simp] theorem setLanes_inHand (t : Thread) (r : VReg) (l : Lanes) : (t.setLanes r l).inHand = t.inHand := rfl
@[simp] theorem setLanes_rejoin (t : Thread) (r : VReg) (l : Lanes) : (t.setLanes r l).rejoin = t.rejoin := rfl
@[simp] theorem setLanes_stands (t : Thread) (r : VReg) (l : Lanes) : (t.setLanes r l).stands = t.stands := rfl
@[simp] theorem setLanes_halfway (t : Thread) (r : VReg) (l : Lanes) : (t.setLanes r l).halfway = t.halfway := rfl
@[simp] theorem setLanes_lastPc (t : Thread) (r : VReg) (l : Lanes) : (t.setLanes r l).lastPc = t.lastPc := rfl
@[simp] theorem setLanes_lateFlags (t : Thread) (r : VReg) (l : Lanes) : (t.setLanes r l).lateFlags = t.lateFlags := rfl
@[simp] theorem setLanes_leaving (t : Thread) (r : VReg) (l : Lanes) : (t.setLanes r l).leaving = t.leaving := rfl
@[simp] theorem setLanes_answer (t : Thread) (r : VReg) (l : Lanes) : (t.setLanes r l).answer = t.answer := rfl
@[simp] theorem setLanes_closed (t : Thread) (r : VReg) (l : Lanes) : (t.setLanes r l).closed = t.closed := rfl
@[simp] theorem setLanes_granted (t : Thread) (r : VReg) (l : Lanes) : (t.setLanes r l).granted = t.granted := rfl

@[simp] theorem raise_others (s : State) (f : FFlags) : (s.raise f).others = s.others := rfl
@[simp] theorem raise_mem (s : State) (f : FFlags) : (s.raise f).mem = s.mem := rfl
@[simp] theorem raise_damage (s : State) (f : FFlags) : (s.raise f).damage = s.damage := rfl
@[simp] theorem raise_cyc (s : State) (f : FFlags) : (s.raise f).cyc = s.cyc := rfl
@[simp] theorem raise_cores (s : State) (f : FFlags) : (s.raise f).cores = s.cores := rfl
@[simp] theorem raise_combs (s : State) (f : FFlags) : (s.raise f).combs = s.combs := rfl
@[simp] theorem raise_hives (s : State) (f : FFlags) : (s.raise f).hives = s.hives := rfl
@[simp] theorem raise_domains (s : State) (f : FFlags) : (s.raise f).domains = s.domains := rfl
@[simp] theorem raise_vds (s : State) (f : FFlags) : (s.raise f).vds = s.vds := rfl
@[simp] theorem raise_offers (s : State) (f : FFlags) : (s.raise f).offers = s.offers := rfl
@[simp] theorem raise_stageLinks (s : State) (f : FFlags) : (s.raise f).stageLinks = s.stageLinks := rfl
@[simp] theorem raise_reqs (s : State) (f : FFlags) : (s.raise f).reqs = s.reqs := rfl
@[simp] theorem raise_rets (s : State) (f : FFlags) : (s.raise f).rets = s.rets := rfl
@[simp] theorem raise_stamp (s : State) (f : FFlags) : (s.raise f).stamp = s.stamp := rfl
@[simp] theorem raise_period (s : State) (f : FFlags) : (s.raise f).period = s.period := rfl
@[simp] theorem raise_busy (s : State) (f : FFlags) : (s.raise f).busy = s.busy := rfl
@[simp] theorem raise_served (s : State) (f : FFlags) : (s.raise f).served = s.served := rfl
@[simp] theorem raise_watches (s : State) (f : FFlags) : (s.raise f).watches = s.watches := rfl
@[simp] theorem raise_walks (s : State) (f : FFlags) : (s.raise f).walks = s.walks := rfl
@[simp] theorem raise_fills (s : State) (f : FFlags) : (s.raise f).fills = s.fills := rfl
@[simp] theorem raise_lines (s : State) (f : FFlags) : (s.raise f).lines = s.lines := rfl
@[simp] theorem raise_firsts (s : State) (f : FFlags) : (s.raise f).firsts = s.firsts := rfl
@[simp] theorem raise_pushed (s : State) (f : FFlags) : (s.raise f).pushed = s.pushed := rfl
@[simp] theorem raise_allocHeld (s : State) (f : FFlags) : (s.raise f).allocHeld = s.allocHeld := rfl
@[simp] theorem raise_dataHeld (s : State) (f : FFlags) : (s.raise f).dataHeld = s.dataHeld := rfl
@[simp] theorem raise_spawns (s : State) (f : FFlags) : (s.raise f).spawns = s.spawns := rfl
@[simp] theorem raise_answers (s : State) (f : FFlags) : (s.raise f).answers = s.answers := rfl
@[simp] theorem raise_launches (s : State) (f : FFlags) : (s.raise f).launches = s.launches := rfl
@[simp] theorem raise_quits (s : State) (f : FFlags) : (s.raise f).quits = s.quits := rfl
@[simp] theorem raise_dones (s : State) (f : FFlags) : (s.raise f).dones = s.dones := rfl
@[simp] theorem raise_mgmt (s : State) (f : FFlags) : (s.raise f).mgmt = s.mgmt := rfl
@[simp] theorem raise_fleet (s : State) (f : FFlags) : (s.raise f).fleet = s.fleet := rfl
@[simp] theorem raise_out (s : State) (f : FFlags) : (s.raise f).out = s.out := rfl
@[simp] theorem raise_flights (s : State) (f : FFlags) : (s.raise f).flights = s.flights := rfl
@[simp] theorem raise_nextThread (s : State) (f : FFlags) : (s.raise f).nextThread = s.nextThread := rfl
@[simp] theorem raise_free (s : State) (f : FFlags) : (s.raise f).free = s.free := rfl
@[simp] theorem raise_agenda (s : State) (f : FFlags) : (s.raise f).agenda = s.agenda := rfl
@[simp] theorem raise_evTurn (s : State) (f : FFlags) : (s.raise f).evTurn = s.evTurn := rfl
@[simp] theorem raise_pos (s : State) (f : FFlags) : (s.raise f).pos = s.pos := rfl
@[simp] theorem raise_bundle (s : State) (f : FFlags) : (s.raise f).bundle = s.bundle := rfl
@[simp] theorem raise_src (s : State) (f : FFlags) : (s.raise f).src = s.src := rfl
@[simp] theorem raise_popped (s : State) (f : FFlags) : (s.raise f).popped = s.popped := rfl
@[simp] theorem raise_mark (s : State) (f : FFlags) : (s.raise f).mark = s.mark := rfl
@[simp] theorem raise_halves (s : State) (f : FFlags) : (s.raise f).halves = s.halves := rfl

@[simp] theorem countEv_others (s : State) (e n : Nat) : (s.countEv e n).others = s.others := rfl
@[simp] theorem countEv_mem (s : State) (e n : Nat) : (s.countEv e n).mem = s.mem := rfl
@[simp] theorem countEv_damage (s : State) (e n : Nat) : (s.countEv e n).damage = s.damage := rfl
@[simp] theorem countEv_cyc (s : State) (e n : Nat) : (s.countEv e n).cyc = s.cyc := rfl
@[simp] theorem countEv_cores (s : State) (e n : Nat) : (s.countEv e n).cores = s.cores := rfl
@[simp] theorem countEv_combs (s : State) (e n : Nat) : (s.countEv e n).combs = s.combs := rfl
@[simp] theorem countEv_hives (s : State) (e n : Nat) : (s.countEv e n).hives = s.hives := rfl
@[simp] theorem countEv_domains (s : State) (e n : Nat) : (s.countEv e n).domains = s.domains := rfl
@[simp] theorem countEv_vds (s : State) (e n : Nat) : (s.countEv e n).vds = s.vds := rfl
@[simp] theorem countEv_offers (s : State) (e n : Nat) : (s.countEv e n).offers = s.offers := rfl
@[simp] theorem countEv_stageLinks (s : State) (e n : Nat) : (s.countEv e n).stageLinks = s.stageLinks := rfl
@[simp] theorem countEv_reqs (s : State) (e n : Nat) : (s.countEv e n).reqs = s.reqs := rfl
@[simp] theorem countEv_rets (s : State) (e n : Nat) : (s.countEv e n).rets = s.rets := rfl
@[simp] theorem countEv_stamp (s : State) (e n : Nat) : (s.countEv e n).stamp = s.stamp := rfl
@[simp] theorem countEv_period (s : State) (e n : Nat) : (s.countEv e n).period = s.period := rfl
@[simp] theorem countEv_busy (s : State) (e n : Nat) : (s.countEv e n).busy = s.busy := rfl
@[simp] theorem countEv_served (s : State) (e n : Nat) : (s.countEv e n).served = s.served := rfl
@[simp] theorem countEv_watches (s : State) (e n : Nat) : (s.countEv e n).watches = s.watches := rfl
@[simp] theorem countEv_walks (s : State) (e n : Nat) : (s.countEv e n).walks = s.walks := rfl
@[simp] theorem countEv_fills (s : State) (e n : Nat) : (s.countEv e n).fills = s.fills := rfl
@[simp] theorem countEv_lines (s : State) (e n : Nat) : (s.countEv e n).lines = s.lines := rfl
@[simp] theorem countEv_firsts (s : State) (e n : Nat) : (s.countEv e n).firsts = s.firsts := rfl
@[simp] theorem countEv_pushed (s : State) (e n : Nat) : (s.countEv e n).pushed = s.pushed := rfl
@[simp] theorem countEv_allocHeld (s : State) (e n : Nat) : (s.countEv e n).allocHeld = s.allocHeld := rfl
@[simp] theorem countEv_dataHeld (s : State) (e n : Nat) : (s.countEv e n).dataHeld = s.dataHeld := rfl
@[simp] theorem countEv_spawns (s : State) (e n : Nat) : (s.countEv e n).spawns = s.spawns := rfl
@[simp] theorem countEv_answers (s : State) (e n : Nat) : (s.countEv e n).answers = s.answers := rfl
@[simp] theorem countEv_launches (s : State) (e n : Nat) : (s.countEv e n).launches = s.launches := rfl
@[simp] theorem countEv_quits (s : State) (e n : Nat) : (s.countEv e n).quits = s.quits := rfl
@[simp] theorem countEv_dones (s : State) (e n : Nat) : (s.countEv e n).dones = s.dones := rfl
@[simp] theorem countEv_mgmt (s : State) (e n : Nat) : (s.countEv e n).mgmt = s.mgmt := rfl
@[simp] theorem countEv_fleet (s : State) (e n : Nat) : (s.countEv e n).fleet = s.fleet := rfl
@[simp] theorem countEv_out (s : State) (e n : Nat) : (s.countEv e n).out = s.out := rfl
@[simp] theorem countEv_flights (s : State) (e n : Nat) : (s.countEv e n).flights = s.flights := rfl
@[simp] theorem countEv_nextThread (s : State) (e n : Nat) : (s.countEv e n).nextThread = s.nextThread := rfl
@[simp] theorem countEv_free (s : State) (e n : Nat) : (s.countEv e n).free = s.free := rfl
@[simp] theorem countEv_agenda (s : State) (e n : Nat) : (s.countEv e n).agenda = s.agenda := rfl
@[simp] theorem countEv_evTurn (s : State) (e n : Nat) : (s.countEv e n).evTurn = s.evTurn := rfl
@[simp] theorem countEv_pos (s : State) (e n : Nat) : (s.countEv e n).pos = s.pos := rfl
@[simp] theorem countEv_bundle (s : State) (e n : Nat) : (s.countEv e n).bundle = s.bundle := rfl
@[simp] theorem countEv_src (s : State) (e n : Nat) : (s.countEv e n).src = s.src := rfl
@[simp] theorem countEv_popped (s : State) (e n : Nat) : (s.countEv e n).popped = s.popped := rfl
@[simp] theorem countEv_mark (s : State) (e n : Nat) : (s.countEv e n).mark = s.mark := rfl
@[simp] theorem countEv_halves (s : State) (e n : Nat) : (s.countEv e n).halves = s.halves := rfl

@[simp] theorem inFlight_others (s : State)  : (s.inFlight).others = s.others := rfl
@[simp] theorem inFlight_mem (s : State)  : (s.inFlight).mem = s.mem := rfl
@[simp] theorem inFlight_damage (s : State)  : (s.inFlight).damage = s.damage := rfl
@[simp] theorem inFlight_cyc (s : State)  : (s.inFlight).cyc = s.cyc := rfl
@[simp] theorem inFlight_cores (s : State)  : (s.inFlight).cores = s.cores := rfl
@[simp] theorem inFlight_combs (s : State)  : (s.inFlight).combs = s.combs := rfl
@[simp] theorem inFlight_hives (s : State)  : (s.inFlight).hives = s.hives := rfl
@[simp] theorem inFlight_domains (s : State)  : (s.inFlight).domains = s.domains := rfl
@[simp] theorem inFlight_vds (s : State)  : (s.inFlight).vds = s.vds := rfl
@[simp] theorem inFlight_offers (s : State)  : (s.inFlight).offers = s.offers := rfl
@[simp] theorem inFlight_stageLinks (s : State)  : (s.inFlight).stageLinks = s.stageLinks := rfl
@[simp] theorem inFlight_reqs (s : State)  : (s.inFlight).reqs = s.reqs := rfl
@[simp] theorem inFlight_rets (s : State)  : (s.inFlight).rets = s.rets := rfl
@[simp] theorem inFlight_stamp (s : State)  : (s.inFlight).stamp = s.stamp := rfl
@[simp] theorem inFlight_period (s : State)  : (s.inFlight).period = s.period := rfl
@[simp] theorem inFlight_busy (s : State)  : (s.inFlight).busy = s.busy := rfl
@[simp] theorem inFlight_served (s : State)  : (s.inFlight).served = s.served := rfl
@[simp] theorem inFlight_watches (s : State)  : (s.inFlight).watches = s.watches := rfl
@[simp] theorem inFlight_walks (s : State)  : (s.inFlight).walks = s.walks := rfl
@[simp] theorem inFlight_fills (s : State)  : (s.inFlight).fills = s.fills := rfl
@[simp] theorem inFlight_lines (s : State)  : (s.inFlight).lines = s.lines := rfl
@[simp] theorem inFlight_firsts (s : State)  : (s.inFlight).firsts = s.firsts := rfl
@[simp] theorem inFlight_pushed (s : State)  : (s.inFlight).pushed = s.pushed := rfl
@[simp] theorem inFlight_allocHeld (s : State)  : (s.inFlight).allocHeld = s.allocHeld := rfl
@[simp] theorem inFlight_dataHeld (s : State)  : (s.inFlight).dataHeld = s.dataHeld := rfl
@[simp] theorem inFlight_spawns (s : State)  : (s.inFlight).spawns = s.spawns := rfl
@[simp] theorem inFlight_answers (s : State)  : (s.inFlight).answers = s.answers := rfl
@[simp] theorem inFlight_launches (s : State)  : (s.inFlight).launches = s.launches := rfl
@[simp] theorem inFlight_quits (s : State)  : (s.inFlight).quits = s.quits := rfl
@[simp] theorem inFlight_dones (s : State)  : (s.inFlight).dones = s.dones := rfl
@[simp] theorem inFlight_mgmt (s : State)  : (s.inFlight).mgmt = s.mgmt := rfl
@[simp] theorem inFlight_fleet (s : State)  : (s.inFlight).fleet = s.fleet := rfl
@[simp] theorem inFlight_out (s : State)  : (s.inFlight).out = s.out := rfl
@[simp] theorem inFlight_flights (s : State)  : (s.inFlight).flights = s.flights := rfl
@[simp] theorem inFlight_nextThread (s : State)  : (s.inFlight).nextThread = s.nextThread := rfl
@[simp] theorem inFlight_free (s : State)  : (s.inFlight).free = s.free := rfl
@[simp] theorem inFlight_agenda (s : State)  : (s.inFlight).agenda = s.agenda := rfl
@[simp] theorem inFlight_evTurn (s : State)  : (s.inFlight).evTurn = s.evTurn := rfl
@[simp] theorem inFlight_pos (s : State)  : (s.inFlight).pos = s.pos := rfl
@[simp] theorem inFlight_bundle (s : State)  : (s.inFlight).bundle = s.bundle := rfl
@[simp] theorem inFlight_src (s : State)  : (s.inFlight).src = s.src := rfl
@[simp] theorem inFlight_popped (s : State)  : (s.inFlight).popped = s.popped := rfl
@[simp] theorem inFlight_mark (s : State)  : (s.inFlight).mark = s.mark := rfl
@[simp] theorem inFlight_halves (s : State)  : (s.inFlight).halves = s.halves := rfl

@[simp] theorem request_cur (s : State) (va : Word) (ps : List Nat) (k : ReqKind) (d : XReg) : (s.request va ps k d).cur = s.cur := rfl
@[simp] theorem request_others (s : State) (va : Word) (ps : List Nat) (k : ReqKind) (d : XReg) : (s.request va ps k d).others = s.others := rfl
@[simp] theorem request_mem (s : State) (va : Word) (ps : List Nat) (k : ReqKind) (d : XReg) : (s.request va ps k d).mem = s.mem := rfl
@[simp] theorem request_damage (s : State) (va : Word) (ps : List Nat) (k : ReqKind) (d : XReg) : (s.request va ps k d).damage = s.damage := rfl
@[simp] theorem request_cyc (s : State) (va : Word) (ps : List Nat) (k : ReqKind) (d : XReg) : (s.request va ps k d).cyc = s.cyc := rfl
@[simp] theorem request_cores (s : State) (va : Word) (ps : List Nat) (k : ReqKind) (d : XReg) : (s.request va ps k d).cores = s.cores := rfl
@[simp] theorem request_combs (s : State) (va : Word) (ps : List Nat) (k : ReqKind) (d : XReg) : (s.request va ps k d).combs = s.combs := rfl
@[simp] theorem request_hives (s : State) (va : Word) (ps : List Nat) (k : ReqKind) (d : XReg) : (s.request va ps k d).hives = s.hives := rfl
@[simp] theorem request_domains (s : State) (va : Word) (ps : List Nat) (k : ReqKind) (d : XReg) : (s.request va ps k d).domains = s.domains := rfl
@[simp] theorem request_vds (s : State) (va : Word) (ps : List Nat) (k : ReqKind) (d : XReg) : (s.request va ps k d).vds = s.vds := rfl
@[simp] theorem request_offers (s : State) (va : Word) (ps : List Nat) (k : ReqKind) (d : XReg) : (s.request va ps k d).offers = s.offers := rfl
@[simp] theorem request_stageLinks (s : State) (va : Word) (ps : List Nat) (k : ReqKind) (d : XReg) : (s.request va ps k d).stageLinks = s.stageLinks := rfl
@[simp] theorem request_rets (s : State) (va : Word) (ps : List Nat) (k : ReqKind) (d : XReg) : (s.request va ps k d).rets = s.rets := rfl
@[simp] theorem request_period (s : State) (va : Word) (ps : List Nat) (k : ReqKind) (d : XReg) : (s.request va ps k d).period = s.period := rfl
@[simp] theorem request_busy (s : State) (va : Word) (ps : List Nat) (k : ReqKind) (d : XReg) : (s.request va ps k d).busy = s.busy := rfl
@[simp] theorem request_served (s : State) (va : Word) (ps : List Nat) (k : ReqKind) (d : XReg) : (s.request va ps k d).served = s.served := rfl
@[simp] theorem request_watches (s : State) (va : Word) (ps : List Nat) (k : ReqKind) (d : XReg) : (s.request va ps k d).watches = s.watches := rfl
@[simp] theorem request_walks (s : State) (va : Word) (ps : List Nat) (k : ReqKind) (d : XReg) : (s.request va ps k d).walks = s.walks := rfl
@[simp] theorem request_fills (s : State) (va : Word) (ps : List Nat) (k : ReqKind) (d : XReg) : (s.request va ps k d).fills = s.fills := rfl
@[simp] theorem request_lines (s : State) (va : Word) (ps : List Nat) (k : ReqKind) (d : XReg) : (s.request va ps k d).lines = s.lines := rfl
@[simp] theorem request_firsts (s : State) (va : Word) (ps : List Nat) (k : ReqKind) (d : XReg) : (s.request va ps k d).firsts = s.firsts := rfl
@[simp] theorem request_pushed (s : State) (va : Word) (ps : List Nat) (k : ReqKind) (d : XReg) : (s.request va ps k d).pushed = s.pushed := rfl
@[simp] theorem request_allocHeld (s : State) (va : Word) (ps : List Nat) (k : ReqKind) (d : XReg) : (s.request va ps k d).allocHeld = s.allocHeld := rfl
@[simp] theorem request_dataHeld (s : State) (va : Word) (ps : List Nat) (k : ReqKind) (d : XReg) : (s.request va ps k d).dataHeld = s.dataHeld := rfl
@[simp] theorem request_spawns (s : State) (va : Word) (ps : List Nat) (k : ReqKind) (d : XReg) : (s.request va ps k d).spawns = s.spawns := rfl
@[simp] theorem request_answers (s : State) (va : Word) (ps : List Nat) (k : ReqKind) (d : XReg) : (s.request va ps k d).answers = s.answers := rfl
@[simp] theorem request_launches (s : State) (va : Word) (ps : List Nat) (k : ReqKind) (d : XReg) : (s.request va ps k d).launches = s.launches := rfl
@[simp] theorem request_quits (s : State) (va : Word) (ps : List Nat) (k : ReqKind) (d : XReg) : (s.request va ps k d).quits = s.quits := rfl
@[simp] theorem request_dones (s : State) (va : Word) (ps : List Nat) (k : ReqKind) (d : XReg) : (s.request va ps k d).dones = s.dones := rfl
@[simp] theorem request_mgmt (s : State) (va : Word) (ps : List Nat) (k : ReqKind) (d : XReg) : (s.request va ps k d).mgmt = s.mgmt := rfl
@[simp] theorem request_fleet (s : State) (va : Word) (ps : List Nat) (k : ReqKind) (d : XReg) : (s.request va ps k d).fleet = s.fleet := rfl
@[simp] theorem request_out (s : State) (va : Word) (ps : List Nat) (k : ReqKind) (d : XReg) : (s.request va ps k d).out = s.out := rfl
@[simp] theorem request_flights (s : State) (va : Word) (ps : List Nat) (k : ReqKind) (d : XReg) : (s.request va ps k d).flights = s.flights := rfl
@[simp] theorem request_nextThread (s : State) (va : Word) (ps : List Nat) (k : ReqKind) (d : XReg) : (s.request va ps k d).nextThread = s.nextThread := rfl
@[simp] theorem request_free (s : State) (va : Word) (ps : List Nat) (k : ReqKind) (d : XReg) : (s.request va ps k d).free = s.free := rfl
@[simp] theorem request_agenda (s : State) (va : Word) (ps : List Nat) (k : ReqKind) (d : XReg) : (s.request va ps k d).agenda = s.agenda := rfl
@[simp] theorem request_evTurn (s : State) (va : Word) (ps : List Nat) (k : ReqKind) (d : XReg) : (s.request va ps k d).evTurn = s.evTurn := rfl
@[simp] theorem request_pos (s : State) (va : Word) (ps : List Nat) (k : ReqKind) (d : XReg) : (s.request va ps k d).pos = s.pos := rfl
@[simp] theorem request_bundle (s : State) (va : Word) (ps : List Nat) (k : ReqKind) (d : XReg) : (s.request va ps k d).bundle = s.bundle := rfl
@[simp] theorem request_src (s : State) (va : Word) (ps : List Nat) (k : ReqKind) (d : XReg) : (s.request va ps k d).src = s.src := rfl
@[simp] theorem request_popped (s : State) (va : Word) (ps : List Nat) (k : ReqKind) (d : XReg) : (s.request va ps k d).popped = s.popped := rfl
@[simp] theorem request_mark (s : State) (va : Word) (ps : List Nat) (k : ReqKind) (d : XReg) : (s.request va ps k d).mark = s.mark := rfl
@[simp] theorem request_halves (s : State) (va : Word) (ps : List Nat) (k : ReqKind) (d : XReg) : (s.request va ps k d).halves = s.halves := rfl

@[simp] theorem stage_cur (s : State) (m : Msg) : (s.stage m).cur = s.cur := rfl
@[simp] theorem stage_others (s : State) (m : Msg) : (s.stage m).others = s.others := rfl
@[simp] theorem stage_mem (s : State) (m : Msg) : (s.stage m).mem = s.mem := rfl
@[simp] theorem stage_damage (s : State) (m : Msg) : (s.stage m).damage = s.damage := rfl
@[simp] theorem stage_cyc (s : State) (m : Msg) : (s.stage m).cyc = s.cyc := rfl
@[simp] theorem stage_combs (s : State) (m : Msg) : (s.stage m).combs = s.combs := rfl
@[simp] theorem stage_hives (s : State) (m : Msg) : (s.stage m).hives = s.hives := rfl
@[simp] theorem stage_domains (s : State) (m : Msg) : (s.stage m).domains = s.domains := rfl
@[simp] theorem stage_vds (s : State) (m : Msg) : (s.stage m).vds = s.vds := rfl
@[simp] theorem stage_offers (s : State) (m : Msg) : (s.stage m).offers = s.offers := rfl
@[simp] theorem stage_stageLinks (s : State) (m : Msg) : (s.stage m).stageLinks = s.stageLinks := rfl
@[simp] theorem stage_reqs (s : State) (m : Msg) : (s.stage m).reqs = s.reqs := rfl
@[simp] theorem stage_rets (s : State) (m : Msg) : (s.stage m).rets = s.rets := rfl
@[simp] theorem stage_period (s : State) (m : Msg) : (s.stage m).period = s.period := rfl
@[simp] theorem stage_busy (s : State) (m : Msg) : (s.stage m).busy = s.busy := rfl
@[simp] theorem stage_served (s : State) (m : Msg) : (s.stage m).served = s.served := rfl
@[simp] theorem stage_watches (s : State) (m : Msg) : (s.stage m).watches = s.watches := rfl
@[simp] theorem stage_walks (s : State) (m : Msg) : (s.stage m).walks = s.walks := rfl
@[simp] theorem stage_fills (s : State) (m : Msg) : (s.stage m).fills = s.fills := rfl
@[simp] theorem stage_lines (s : State) (m : Msg) : (s.stage m).lines = s.lines := rfl
@[simp] theorem stage_firsts (s : State) (m : Msg) : (s.stage m).firsts = s.firsts := rfl
@[simp] theorem stage_pushed (s : State) (m : Msg) : (s.stage m).pushed = s.pushed := rfl
@[simp] theorem stage_allocHeld (s : State) (m : Msg) : (s.stage m).allocHeld = s.allocHeld := rfl
@[simp] theorem stage_dataHeld (s : State) (m : Msg) : (s.stage m).dataHeld = s.dataHeld := rfl
@[simp] theorem stage_spawns (s : State) (m : Msg) : (s.stage m).spawns = s.spawns := rfl
@[simp] theorem stage_answers (s : State) (m : Msg) : (s.stage m).answers = s.answers := rfl
@[simp] theorem stage_launches (s : State) (m : Msg) : (s.stage m).launches = s.launches := rfl
@[simp] theorem stage_quits (s : State) (m : Msg) : (s.stage m).quits = s.quits := rfl
@[simp] theorem stage_dones (s : State) (m : Msg) : (s.stage m).dones = s.dones := rfl
@[simp] theorem stage_mgmt (s : State) (m : Msg) : (s.stage m).mgmt = s.mgmt := rfl
@[simp] theorem stage_fleet (s : State) (m : Msg) : (s.stage m).fleet = s.fleet := rfl
@[simp] theorem stage_out (s : State) (m : Msg) : (s.stage m).out = s.out := rfl
@[simp] theorem stage_flights (s : State) (m : Msg) : (s.stage m).flights = s.flights := rfl
@[simp] theorem stage_nextThread (s : State) (m : Msg) : (s.stage m).nextThread = s.nextThread := rfl
@[simp] theorem stage_free (s : State) (m : Msg) : (s.stage m).free = s.free := rfl
@[simp] theorem stage_agenda (s : State) (m : Msg) : (s.stage m).agenda = s.agenda := rfl
@[simp] theorem stage_evTurn (s : State) (m : Msg) : (s.stage m).evTurn = s.evTurn := rfl
@[simp] theorem stage_pos (s : State) (m : Msg) : (s.stage m).pos = s.pos := rfl
@[simp] theorem stage_bundle (s : State) (m : Msg) : (s.stage m).bundle = s.bundle := rfl
@[simp] theorem stage_src (s : State) (m : Msg) : (s.stage m).src = s.src := rfl
@[simp] theorem stage_popped (s : State) (m : Msg) : (s.stage m).popped = s.popped := rfl
@[simp] theorem stage_mark (s : State) (m : Msg) : (s.stage m).mark = s.mark := rfl
@[simp] theorem stage_halves (s : State) (m : Msg) : (s.stage m).halves = s.halves := rfl

@[simp] theorem post_cur (s : State) (r : Out) : (s.post r).cur = s.cur := rfl
@[simp] theorem post_others (s : State) (r : Out) : (s.post r).others = s.others := rfl
@[simp] theorem post_mem (s : State) (r : Out) : (s.post r).mem = s.mem := rfl
@[simp] theorem post_damage (s : State) (r : Out) : (s.post r).damage = s.damage := rfl
@[simp] theorem post_cyc (s : State) (r : Out) : (s.post r).cyc = s.cyc := rfl
@[simp] theorem post_cores (s : State) (r : Out) : (s.post r).cores = s.cores := rfl
@[simp] theorem post_combs (s : State) (r : Out) : (s.post r).combs = s.combs := rfl
@[simp] theorem post_hives (s : State) (r : Out) : (s.post r).hives = s.hives := rfl
@[simp] theorem post_domains (s : State) (r : Out) : (s.post r).domains = s.domains := rfl
@[simp] theorem post_vds (s : State) (r : Out) : (s.post r).vds = s.vds := rfl
@[simp] theorem post_offers (s : State) (r : Out) : (s.post r).offers = s.offers := rfl
@[simp] theorem post_stageLinks (s : State) (r : Out) : (s.post r).stageLinks = s.stageLinks := rfl
@[simp] theorem post_reqs (s : State) (r : Out) : (s.post r).reqs = s.reqs := rfl
@[simp] theorem post_rets (s : State) (r : Out) : (s.post r).rets = s.rets := rfl
@[simp] theorem post_stamp (s : State) (r : Out) : (s.post r).stamp = s.stamp := rfl
@[simp] theorem post_period (s : State) (r : Out) : (s.post r).period = s.period := rfl
@[simp] theorem post_busy (s : State) (r : Out) : (s.post r).busy = s.busy := rfl
@[simp] theorem post_served (s : State) (r : Out) : (s.post r).served = s.served := rfl
@[simp] theorem post_watches (s : State) (r : Out) : (s.post r).watches = s.watches := rfl
@[simp] theorem post_walks (s : State) (r : Out) : (s.post r).walks = s.walks := rfl
@[simp] theorem post_fills (s : State) (r : Out) : (s.post r).fills = s.fills := rfl
@[simp] theorem post_lines (s : State) (r : Out) : (s.post r).lines = s.lines := rfl
@[simp] theorem post_firsts (s : State) (r : Out) : (s.post r).firsts = s.firsts := rfl
@[simp] theorem post_pushed (s : State) (r : Out) : (s.post r).pushed = s.pushed := rfl
@[simp] theorem post_allocHeld (s : State) (r : Out) : (s.post r).allocHeld = s.allocHeld := rfl
@[simp] theorem post_dataHeld (s : State) (r : Out) : (s.post r).dataHeld = s.dataHeld := rfl
@[simp] theorem post_spawns (s : State) (r : Out) : (s.post r).spawns = s.spawns := rfl
@[simp] theorem post_answers (s : State) (r : Out) : (s.post r).answers = s.answers := rfl
@[simp] theorem post_launches (s : State) (r : Out) : (s.post r).launches = s.launches := rfl
@[simp] theorem post_quits (s : State) (r : Out) : (s.post r).quits = s.quits := rfl
@[simp] theorem post_dones (s : State) (r : Out) : (s.post r).dones = s.dones := rfl
@[simp] theorem post_mgmt (s : State) (r : Out) : (s.post r).mgmt = s.mgmt := rfl
@[simp] theorem post_fleet (s : State) (r : Out) : (s.post r).fleet = s.fleet := rfl
@[simp] theorem post_nextThread (s : State) (r : Out) : (s.post r).nextThread = s.nextThread := rfl
@[simp] theorem post_free (s : State) (r : Out) : (s.post r).free = s.free := rfl
@[simp] theorem post_agenda (s : State) (r : Out) : (s.post r).agenda = s.agenda := rfl
@[simp] theorem post_evTurn (s : State) (r : Out) : (s.post r).evTurn = s.evTurn := rfl
@[simp] theorem post_pos (s : State) (r : Out) : (s.post r).pos = s.pos := rfl
@[simp] theorem post_bundle (s : State) (r : Out) : (s.post r).bundle = s.bundle := rfl
@[simp] theorem post_src (s : State) (r : Out) : (s.post r).src = s.src := rfl
@[simp] theorem post_popped (s : State) (r : Out) : (s.post r).popped = s.popped := rfl
@[simp] theorem post_mark (s : State) (r : Out) : (s.post r).mark = s.mark := rfl
@[simp] theorem post_halves (s : State) (r : Out) : (s.post r).halves = s.halves := rfl

@[simp] theorem withVcmd_num (t : Thread) (c : VCmd) : (t.withVcmd c).num = t.num := rfl
@[simp] theorem withVcmd_place (t : Thread) (c : VCmd) : (t.withVcmd c).place = t.place := rfl
@[simp] theorem withVcmd_trip (t : Thread) (c : VCmd) : (t.withVcmd c).trip = t.trip := rfl
@[simp] theorem withVcmd_x (t : Thread) (c : VCmd) : (t.withVcmd c).x = t.x := rfl
@[simp] theorem withVcmd_pw (t : Thread) (c : VCmd) : (t.withVcmd c).pw = t.pw := rfl
@[simp] theorem withVcmd_pc (t : Thread) (c : VCmd) : (t.withVcmd c).pc = t.pc := rfl
@[simp] theorem withVcmd_cb (t : Thread) (c : VCmd) : (t.withVcmd c).cb = t.cb := rfl
@[simp] theorem withVcmd_st (t : Thread) (c : VCmd) : (t.withVcmd c).st = t.st := rfl
@[simp] theorem withVcmd_taint (t : Thread) (c : VCmd) : (t.withVcmd c).taint = t.taint := rfl
@[simp] theorem withVcmd_ldo (t : Thread) (c : VCmd) : (t.withVcmd c).ldo = t.ldo := rfl
@[simp] theorem withVcmd_sto (t : Thread) (c : VCmd) : (t.withVcmd c).sto = t.sto := rfl
@[simp] theorem withVcmd_cpo (t : Thread) (c : VCmd) : (t.withVcmd c).cpo = t.cpo := rfl
@[simp] theorem withVcmd_tlo (t : Thread) (c : VCmd) : (t.withVcmd c).tlo = t.tlo := rfl
@[simp] theorem withVcmd_pend (t : Thread) (c : VCmd) : (t.withVcmd c).pend = t.pend := rfl
@[simp] theorem withVcmd_fmtA (t : Thread) (c : VCmd) : (t.withVcmd c).fmtA = t.fmtA := rfl
@[simp] theorem withVcmd_fmtB (t : Thread) (c : VCmd) : (t.withVcmd c).fmtB = t.fmtB := rfl
@[simp] theorem withVcmd_scA (t : Thread) (c : VCmd) : (t.withVcmd c).scA = t.scA := rfl
@[simp] theorem withVcmd_scB (t : Thread) (c : VCmd) : (t.withVcmd c).scB = t.scB := rfl
@[simp] theorem withVcmd_scC (t : Thread) (c : VCmd) : (t.withVcmd c).scC = t.scC := rfl
@[simp] theorem withVcmd_agv (t : Thread) (c : VCmd) : (t.withVcmd c).agv = t.agv := rfl
@[simp] theorem withVcmd_agc (t : Thread) (c : VCmd) : (t.withVcmd c).agc = t.agc := rfl
@[simp] theorem withVcmd_cen (t : Thread) (c : VCmd) : (t.withVcmd c).cen = t.cen := rfl
@[simp] theorem withVcmd_v (t : Thread) (c : VCmd) : (t.withVcmd c).v = t.v := rfl
@[simp] theorem withVcmd_streams (t : Thread) (c : VCmd) : (t.withVcmd c).streams = t.streams := rfl
@[simp] theorem withVcmd_ports (t : Thread) (c : VCmd) : (t.withVcmd c).ports = t.ports := rfl
@[simp] theorem withVcmd_result (t : Thread) (c : VCmd) : (t.withVcmd c).result = t.result := rfl
@[simp] theorem withVcmd_cmdWords (t : Thread) (c : VCmd) : (t.withVcmd c).cmdWords = t.cmdWords := rfl
@[simp] theorem withVcmd_dom (t : Thread) (c : VCmd) : (t.withVcmd c).dom = t.dom := rfl
@[simp] theorem withVcmd_botdom (t : Thread) (c : VCmd) : (t.withVcmd c).botdom = t.botdom := rfl
@[simp] theorem withVcmd_vdid (t : Thread) (c : VCmd) : (t.withVcmd c).vdid = t.vdid := rfl
@[simp] theorem withVcmd_chgvd (t : Thread) (c : VCmd) : (t.withVcmd c).chgvd = t.chgvd := rfl
@[simp] theorem withVcmd_depth (t : Thread) (c : VCmd) : (t.withVcmd c).depth = t.depth := rfl
@[simp] theorem withVcmd_top (t : Thread) (c : VCmd) : (t.withVcmd c).top = t.top := rfl
@[simp] theorem withVcmd_gates (t : Thread) (c : VCmd) : (t.withVcmd c).gates = t.gates := rfl
@[simp] theorem withVcmd_hwIndex (t : Thread) (c : VCmd) : (t.withVcmd c).hwIndex = t.hwIndex := rfl
@[simp] theorem withVcmd_hwPage (t : Thread) (c : VCmd) : (t.withVcmd c).hwPage = t.hwPage := rfl
@[simp] theorem withVcmd_blocks (t : Thread) (c : VCmd) : (t.withVcmd c).blocks = t.blocks := rfl
@[simp] theorem withVcmd_chg (t : Thread) (c : VCmd) : (t.withVcmd c).chg = t.chg := rfl
@[simp] theorem withVcmd_tcause (t : Thread) (c : VCmd) : (t.withVcmd c).tcause = t.tcause := rfl
@[simp] theorem withVcmd_epc (t : Thread) (c : VCmd) : (t.withVcmd c).epc = t.epc := rfl
@[simp] theorem withVcmd_tval (t : Thread) (c : VCmd) : (t.withVcmd c).tval = t.tval := rfl
@[simp] theorem withVcmd_est (t : Thread) (c : VCmd) : (t.withVcmd c).est = t.est := rfl
@[simp] theorem withVcmd_trapOpen (t : Thread) (c : VCmd) : (t.withVcmd c).trapOpen = t.trapOpen := rfl
@[simp] theorem withVcmd_susp (t : Thread) (c : VCmd) : (t.withVcmd c).susp = t.susp := rfl
@[simp] theorem withVcmd_evsel (t : Thread) (c : VCmd) : (t.withVcmd c).evsel = t.evsel := rfl
@[simp] theorem withVcmd_evcnt (t : Thread) (c : VCmd) : (t.withVcmd c).evcnt = t.evcnt := rfl
@[simp] theorem withVcmd_intent (t : Thread) (c : VCmd) : (t.withVcmd c).intent = t.intent := rfl
@[simp] theorem withVcmd_orphan (t : Thread) (c : VCmd) : (t.withVcmd c).orphan = t.orphan := rfl
@[simp] theorem withVcmd_deferOver (t : Thread) (c : VCmd) : (t.withVcmd c).deferOver = t.deferOver := rfl
@[simp] theorem withVcmd_deferSince (t : Thread) (c : VCmd) : (t.withVcmd c).deferSince = t.deferSince := rfl
@[simp] theorem withVcmd_worker (t : Thread) (c : VCmd) : (t.withVcmd c).worker = t.worker := rfl
@[simp] theorem withVcmd_pkt (t : Thread) (c : VCmd) : (t.withVcmd c).pkt = t.pkt := rfl
@[simp] theorem withVcmd_lcore (t : Thread) (c : VCmd) : (t.withVcmd c).lcore = t.lcore := rfl
@[simp] theorem withVcmd_pvd (t : Thread) (c : VCmd) : (t.withVcmd c).pvd = t.pvd := rfl
@[simp] theorem withVcmd_eccSeen (t : Thread) (c : VCmd) : (t.withVcmd c).eccSeen = t.eccSeen := rfl
@[simp] theorem withVcmd_reports (t : Thread) (c : VCmd) : (t.withVcmd c).reports = t.reports := rfl
@[simp] theorem withVcmd_lost (t : Thread) (c : VCmd) : (t.withVcmd c).lost = t.lost := rfl
@[simp] theorem withVcmd_doom (t : Thread) (c : VCmd) : (t.withVcmd c).doom = t.doom := rfl
@[simp] theorem withVcmd_wait (t : Thread) (c : VCmd) : (t.withVcmd c).wait = t.wait := rfl
@[simp] theorem withVcmd_norm (t : Thread) (c : VCmd) : (t.withVcmd c).norm = t.norm := rfl
@[simp] theorem withVcmd_inHand (t : Thread) (c : VCmd) : (t.withVcmd c).inHand = t.inHand := rfl
@[simp] theorem withVcmd_rejoin (t : Thread) (c : VCmd) : (t.withVcmd c).rejoin = t.rejoin := rfl
@[simp] theorem withVcmd_stands (t : Thread) (c : VCmd) : (t.withVcmd c).stands = t.stands := rfl
@[simp] theorem withVcmd_halfway (t : Thread) (c : VCmd) : (t.withVcmd c).halfway = t.halfway := rfl
@[simp] theorem withVcmd_lastPc (t : Thread) (c : VCmd) : (t.withVcmd c).lastPc = t.lastPc := rfl
@[simp] theorem withVcmd_lateFlags (t : Thread) (c : VCmd) : (t.withVcmd c).lateFlags = t.lateFlags := rfl
@[simp] theorem withVcmd_leaving (t : Thread) (c : VCmd) : (t.withVcmd c).leaving = t.leaving := rfl
@[simp] theorem withVcmd_answer (t : Thread) (c : VCmd) : (t.withVcmd c).answer = t.answer := rfl
@[simp] theorem withVcmd_closed (t : Thread) (c : VCmd) : (t.withVcmd c).closed = t.closed := rfl
@[simp] theorem withVcmd_granted (t : Thread) (c : VCmd) : (t.withVcmd c).granted = t.granted := rfl

@[simp] theorem rejoins_num (t : Thread) (w : Word) : (t.rejoins w).num = t.num := rfl
@[simp] theorem rejoins_place (t : Thread) (w : Word) : (t.rejoins w).place = t.place := rfl
@[simp] theorem rejoins_trip (t : Thread) (w : Word) : (t.rejoins w).trip = t.trip := rfl
@[simp] theorem rejoins_x (t : Thread) (w : Word) : (t.rejoins w).x = t.x := rfl
@[simp] theorem rejoins_pw (t : Thread) (w : Word) : (t.rejoins w).pw = t.pw := rfl
@[simp] theorem rejoins_pc (t : Thread) (w : Word) : (t.rejoins w).pc = t.pc := rfl
@[simp] theorem rejoins_cb (t : Thread) (w : Word) : (t.rejoins w).cb = t.cb := rfl
@[simp] theorem rejoins_st (t : Thread) (w : Word) : (t.rejoins w).st = t.st := rfl
@[simp] theorem rejoins_taint (t : Thread) (w : Word) : (t.rejoins w).taint = t.taint := rfl
@[simp] theorem rejoins_ldo (t : Thread) (w : Word) : (t.rejoins w).ldo = t.ldo := rfl
@[simp] theorem rejoins_sto (t : Thread) (w : Word) : (t.rejoins w).sto = t.sto := rfl
@[simp] theorem rejoins_cpo (t : Thread) (w : Word) : (t.rejoins w).cpo = t.cpo := rfl
@[simp] theorem rejoins_tlo (t : Thread) (w : Word) : (t.rejoins w).tlo = t.tlo := rfl
@[simp] theorem rejoins_pend (t : Thread) (w : Word) : (t.rejoins w).pend = t.pend := rfl
@[simp] theorem rejoins_fmtA (t : Thread) (w : Word) : (t.rejoins w).fmtA = t.fmtA := rfl
@[simp] theorem rejoins_fmtB (t : Thread) (w : Word) : (t.rejoins w).fmtB = t.fmtB := rfl
@[simp] theorem rejoins_scA (t : Thread) (w : Word) : (t.rejoins w).scA = t.scA := rfl
@[simp] theorem rejoins_scB (t : Thread) (w : Word) : (t.rejoins w).scB = t.scB := rfl
@[simp] theorem rejoins_scC (t : Thread) (w : Word) : (t.rejoins w).scC = t.scC := rfl
@[simp] theorem rejoins_agv (t : Thread) (w : Word) : (t.rejoins w).agv = t.agv := rfl
@[simp] theorem rejoins_agc (t : Thread) (w : Word) : (t.rejoins w).agc = t.agc := rfl
@[simp] theorem rejoins_cen (t : Thread) (w : Word) : (t.rejoins w).cen = t.cen := rfl
@[simp] theorem rejoins_v (t : Thread) (w : Word) : (t.rejoins w).v = t.v := rfl
@[simp] theorem rejoins_streams (t : Thread) (w : Word) : (t.rejoins w).streams = t.streams := rfl
@[simp] theorem rejoins_ports (t : Thread) (w : Word) : (t.rejoins w).ports = t.ports := rfl
@[simp] theorem rejoins_vcmd (t : Thread) (w : Word) : (t.rejoins w).vcmd = t.vcmd := rfl
@[simp] theorem rejoins_result (t : Thread) (w : Word) : (t.rejoins w).result = t.result := rfl
@[simp] theorem rejoins_cmdWords (t : Thread) (w : Word) : (t.rejoins w).cmdWords = t.cmdWords := rfl
@[simp] theorem rejoins_dom (t : Thread) (w : Word) : (t.rejoins w).dom = t.dom := rfl
@[simp] theorem rejoins_botdom (t : Thread) (w : Word) : (t.rejoins w).botdom = t.botdom := rfl
@[simp] theorem rejoins_vdid (t : Thread) (w : Word) : (t.rejoins w).vdid = t.vdid := rfl
@[simp] theorem rejoins_chgvd (t : Thread) (w : Word) : (t.rejoins w).chgvd = t.chgvd := rfl
@[simp] theorem rejoins_depth (t : Thread) (w : Word) : (t.rejoins w).depth = t.depth := rfl
@[simp] theorem rejoins_top (t : Thread) (w : Word) : (t.rejoins w).top = t.top := rfl
@[simp] theorem rejoins_gates (t : Thread) (w : Word) : (t.rejoins w).gates = t.gates := rfl
@[simp] theorem rejoins_hwIndex (t : Thread) (w : Word) : (t.rejoins w).hwIndex = t.hwIndex := rfl
@[simp] theorem rejoins_hwPage (t : Thread) (w : Word) : (t.rejoins w).hwPage = t.hwPage := rfl
@[simp] theorem rejoins_blocks (t : Thread) (w : Word) : (t.rejoins w).blocks = t.blocks := rfl
@[simp] theorem rejoins_chg (t : Thread) (w : Word) : (t.rejoins w).chg = t.chg := rfl
@[simp] theorem rejoins_tcause (t : Thread) (w : Word) : (t.rejoins w).tcause = t.tcause := rfl
@[simp] theorem rejoins_epc (t : Thread) (w : Word) : (t.rejoins w).epc = t.epc := rfl
@[simp] theorem rejoins_tval (t : Thread) (w : Word) : (t.rejoins w).tval = t.tval := rfl
@[simp] theorem rejoins_est (t : Thread) (w : Word) : (t.rejoins w).est = t.est := rfl
@[simp] theorem rejoins_trapOpen (t : Thread) (w : Word) : (t.rejoins w).trapOpen = t.trapOpen := rfl
@[simp] theorem rejoins_susp (t : Thread) (w : Word) : (t.rejoins w).susp = t.susp := rfl
@[simp] theorem rejoins_evsel (t : Thread) (w : Word) : (t.rejoins w).evsel = t.evsel := rfl
@[simp] theorem rejoins_evcnt (t : Thread) (w : Word) : (t.rejoins w).evcnt = t.evcnt := rfl
@[simp] theorem rejoins_intent (t : Thread) (w : Word) : (t.rejoins w).intent = t.intent := rfl
@[simp] theorem rejoins_orphan (t : Thread) (w : Word) : (t.rejoins w).orphan = t.orphan := rfl
@[simp] theorem rejoins_deferOver (t : Thread) (w : Word) : (t.rejoins w).deferOver = t.deferOver := rfl
@[simp] theorem rejoins_deferSince (t : Thread) (w : Word) : (t.rejoins w).deferSince = t.deferSince := rfl
@[simp] theorem rejoins_worker (t : Thread) (w : Word) : (t.rejoins w).worker = t.worker := rfl
@[simp] theorem rejoins_pkt (t : Thread) (w : Word) : (t.rejoins w).pkt = t.pkt := rfl
@[simp] theorem rejoins_lcore (t : Thread) (w : Word) : (t.rejoins w).lcore = t.lcore := rfl
@[simp] theorem rejoins_pvd (t : Thread) (w : Word) : (t.rejoins w).pvd = t.pvd := rfl
@[simp] theorem rejoins_eccSeen (t : Thread) (w : Word) : (t.rejoins w).eccSeen = t.eccSeen := rfl
@[simp] theorem rejoins_reports (t : Thread) (w : Word) : (t.rejoins w).reports = t.reports := rfl
@[simp] theorem rejoins_lost (t : Thread) (w : Word) : (t.rejoins w).lost = t.lost := rfl
@[simp] theorem rejoins_doom (t : Thread) (w : Word) : (t.rejoins w).doom = t.doom := rfl
@[simp] theorem rejoins_norm (t : Thread) (w : Word) : (t.rejoins w).norm = t.norm := rfl
@[simp] theorem rejoins_inHand (t : Thread) (w : Word) : (t.rejoins w).inHand = t.inHand := rfl
@[simp] theorem rejoins_stands (t : Thread) (w : Word) : (t.rejoins w).stands = t.stands := rfl
@[simp] theorem rejoins_halfway (t : Thread) (w : Word) : (t.rejoins w).halfway = t.halfway := rfl
@[simp] theorem rejoins_lastPc (t : Thread) (w : Word) : (t.rejoins w).lastPc = t.lastPc := rfl
@[simp] theorem rejoins_lateFlags (t : Thread) (w : Word) : (t.rejoins w).lateFlags = t.lateFlags := rfl
@[simp] theorem rejoins_leaving (t : Thread) (w : Word) : (t.rejoins w).leaving = t.leaving := rfl
@[simp] theorem rejoins_answer (t : Thread) (w : Word) : (t.rejoins w).answer = t.answer := rfl
@[simp] theorem rejoins_closed (t : Thread) (w : Word) : (t.rejoins w).closed = t.closed := rfl
@[simp] theorem rejoins_granted (t : Thread) (w : Word) : (t.rejoins w).granted = t.granted := rfl

@[simp] theorem retests_num (t : Thread)  : (t.retests).num = t.num := rfl
@[simp] theorem retests_place (t : Thread)  : (t.retests).place = t.place := rfl
@[simp] theorem retests_trip (t : Thread)  : (t.retests).trip = t.trip := rfl
@[simp] theorem retests_x (t : Thread)  : (t.retests).x = t.x := rfl
@[simp] theorem retests_pw (t : Thread)  : (t.retests).pw = t.pw := rfl
@[simp] theorem retests_pc (t : Thread)  : (t.retests).pc = t.pc := rfl
@[simp] theorem retests_cb (t : Thread)  : (t.retests).cb = t.cb := rfl
@[simp] theorem retests_st (t : Thread)  : (t.retests).st = t.st := rfl
@[simp] theorem retests_taint (t : Thread)  : (t.retests).taint = t.taint := rfl
@[simp] theorem retests_ldo (t : Thread)  : (t.retests).ldo = t.ldo := rfl
@[simp] theorem retests_sto (t : Thread)  : (t.retests).sto = t.sto := rfl
@[simp] theorem retests_cpo (t : Thread)  : (t.retests).cpo = t.cpo := rfl
@[simp] theorem retests_tlo (t : Thread)  : (t.retests).tlo = t.tlo := rfl
@[simp] theorem retests_pend (t : Thread)  : (t.retests).pend = t.pend := rfl
@[simp] theorem retests_fmtA (t : Thread)  : (t.retests).fmtA = t.fmtA := rfl
@[simp] theorem retests_fmtB (t : Thread)  : (t.retests).fmtB = t.fmtB := rfl
@[simp] theorem retests_scA (t : Thread)  : (t.retests).scA = t.scA := rfl
@[simp] theorem retests_scB (t : Thread)  : (t.retests).scB = t.scB := rfl
@[simp] theorem retests_scC (t : Thread)  : (t.retests).scC = t.scC := rfl
@[simp] theorem retests_agv (t : Thread)  : (t.retests).agv = t.agv := rfl
@[simp] theorem retests_agc (t : Thread)  : (t.retests).agc = t.agc := rfl
@[simp] theorem retests_cen (t : Thread)  : (t.retests).cen = t.cen := rfl
@[simp] theorem retests_v (t : Thread)  : (t.retests).v = t.v := rfl
@[simp] theorem retests_streams (t : Thread)  : (t.retests).streams = t.streams := rfl
@[simp] theorem retests_ports (t : Thread)  : (t.retests).ports = t.ports := rfl
@[simp] theorem retests_vcmd (t : Thread)  : (t.retests).vcmd = t.vcmd := rfl
@[simp] theorem retests_result (t : Thread)  : (t.retests).result = t.result := rfl
@[simp] theorem retests_cmdWords (t : Thread)  : (t.retests).cmdWords = t.cmdWords := rfl
@[simp] theorem retests_dom (t : Thread)  : (t.retests).dom = t.dom := rfl
@[simp] theorem retests_botdom (t : Thread)  : (t.retests).botdom = t.botdom := rfl
@[simp] theorem retests_vdid (t : Thread)  : (t.retests).vdid = t.vdid := rfl
@[simp] theorem retests_chgvd (t : Thread)  : (t.retests).chgvd = t.chgvd := rfl
@[simp] theorem retests_depth (t : Thread)  : (t.retests).depth = t.depth := rfl
@[simp] theorem retests_top (t : Thread)  : (t.retests).top = t.top := rfl
@[simp] theorem retests_gates (t : Thread)  : (t.retests).gates = t.gates := rfl
@[simp] theorem retests_hwIndex (t : Thread)  : (t.retests).hwIndex = t.hwIndex := rfl
@[simp] theorem retests_hwPage (t : Thread)  : (t.retests).hwPage = t.hwPage := rfl
@[simp] theorem retests_blocks (t : Thread)  : (t.retests).blocks = t.blocks := rfl
@[simp] theorem retests_chg (t : Thread)  : (t.retests).chg = t.chg := rfl
@[simp] theorem retests_tcause (t : Thread)  : (t.retests).tcause = t.tcause := rfl
@[simp] theorem retests_epc (t : Thread)  : (t.retests).epc = t.epc := rfl
@[simp] theorem retests_tval (t : Thread)  : (t.retests).tval = t.tval := rfl
@[simp] theorem retests_est (t : Thread)  : (t.retests).est = t.est := rfl
@[simp] theorem retests_trapOpen (t : Thread)  : (t.retests).trapOpen = t.trapOpen := rfl
@[simp] theorem retests_susp (t : Thread)  : (t.retests).susp = t.susp := rfl
@[simp] theorem retests_evsel (t : Thread)  : (t.retests).evsel = t.evsel := rfl
@[simp] theorem retests_evcnt (t : Thread)  : (t.retests).evcnt = t.evcnt := rfl
@[simp] theorem retests_intent (t : Thread)  : (t.retests).intent = t.intent := rfl
@[simp] theorem retests_orphan (t : Thread)  : (t.retests).orphan = t.orphan := rfl
@[simp] theorem retests_deferOver (t : Thread)  : (t.retests).deferOver = t.deferOver := rfl
@[simp] theorem retests_deferSince (t : Thread)  : (t.retests).deferSince = t.deferSince := rfl
@[simp] theorem retests_worker (t : Thread)  : (t.retests).worker = t.worker := rfl
@[simp] theorem retests_pkt (t : Thread)  : (t.retests).pkt = t.pkt := rfl
@[simp] theorem retests_lcore (t : Thread)  : (t.retests).lcore = t.lcore := rfl
@[simp] theorem retests_pvd (t : Thread)  : (t.retests).pvd = t.pvd := rfl
@[simp] theorem retests_eccSeen (t : Thread)  : (t.retests).eccSeen = t.eccSeen := rfl
@[simp] theorem retests_reports (t : Thread)  : (t.retests).reports = t.reports := rfl
@[simp] theorem retests_lost (t : Thread)  : (t.retests).lost = t.lost := rfl
@[simp] theorem retests_doom (t : Thread)  : (t.retests).doom = t.doom := rfl
@[simp] theorem retests_norm (t : Thread)  : (t.retests).norm = t.norm := rfl
@[simp] theorem retests_inHand (t : Thread)  : (t.retests).inHand = t.inHand := rfl
@[simp] theorem retests_rejoin (t : Thread)  : (t.retests).rejoin = t.rejoin := rfl
@[simp] theorem retests_stands (t : Thread)  : (t.retests).stands = t.stands := rfl
@[simp] theorem retests_halfway (t : Thread)  : (t.retests).halfway = t.halfway := rfl
@[simp] theorem retests_lastPc (t : Thread)  : (t.retests).lastPc = t.lastPc := rfl
@[simp] theorem retests_lateFlags (t : Thread)  : (t.retests).lateFlags = t.lateFlags := rfl
@[simp] theorem retests_leaving (t : Thread)  : (t.retests).leaving = t.leaving := rfl
@[simp] theorem retests_answer (t : Thread)  : (t.retests).answer = t.answer := rfl
@[simp] theorem retests_closed (t : Thread)  : (t.retests).closed = t.closed := rfl
@[simp] theorem retests_granted (t : Thread)  : (t.retests).granted = t.granted := rfl

@[simp] theorem mapThreads_mem (s : State) (f : Thread → Thread) : (s.mapThreads f).mem = s.mem := rfl
@[simp] theorem mapThreads_damage (s : State) (f : Thread → Thread) : (s.mapThreads f).damage = s.damage := rfl
@[simp] theorem mapThreads_cyc (s : State) (f : Thread → Thread) : (s.mapThreads f).cyc = s.cyc := rfl
@[simp] theorem mapThreads_cores (s : State) (f : Thread → Thread) : (s.mapThreads f).cores = s.cores := rfl
@[simp] theorem mapThreads_combs (s : State) (f : Thread → Thread) : (s.mapThreads f).combs = s.combs := rfl
@[simp] theorem mapThreads_hives (s : State) (f : Thread → Thread) : (s.mapThreads f).hives = s.hives := rfl
@[simp] theorem mapThreads_domains (s : State) (f : Thread → Thread) : (s.mapThreads f).domains = s.domains := rfl
@[simp] theorem mapThreads_vds (s : State) (f : Thread → Thread) : (s.mapThreads f).vds = s.vds := rfl
@[simp] theorem mapThreads_offers (s : State) (f : Thread → Thread) : (s.mapThreads f).offers = s.offers := rfl
@[simp] theorem mapThreads_stageLinks (s : State) (f : Thread → Thread) : (s.mapThreads f).stageLinks = s.stageLinks := rfl
@[simp] theorem mapThreads_reqs (s : State) (f : Thread → Thread) : (s.mapThreads f).reqs = s.reqs := rfl
@[simp] theorem mapThreads_rets (s : State) (f : Thread → Thread) : (s.mapThreads f).rets = s.rets := rfl
@[simp] theorem mapThreads_stamp (s : State) (f : Thread → Thread) : (s.mapThreads f).stamp = s.stamp := rfl
@[simp] theorem mapThreads_period (s : State) (f : Thread → Thread) : (s.mapThreads f).period = s.period := rfl
@[simp] theorem mapThreads_busy (s : State) (f : Thread → Thread) : (s.mapThreads f).busy = s.busy := rfl
@[simp] theorem mapThreads_served (s : State) (f : Thread → Thread) : (s.mapThreads f).served = s.served := rfl
@[simp] theorem mapThreads_watches (s : State) (f : Thread → Thread) : (s.mapThreads f).watches = s.watches := rfl
@[simp] theorem mapThreads_walks (s : State) (f : Thread → Thread) : (s.mapThreads f).walks = s.walks := rfl
@[simp] theorem mapThreads_fills (s : State) (f : Thread → Thread) : (s.mapThreads f).fills = s.fills := rfl
@[simp] theorem mapThreads_lines (s : State) (f : Thread → Thread) : (s.mapThreads f).lines = s.lines := rfl
@[simp] theorem mapThreads_firsts (s : State) (f : Thread → Thread) : (s.mapThreads f).firsts = s.firsts := rfl
@[simp] theorem mapThreads_pushed (s : State) (f : Thread → Thread) : (s.mapThreads f).pushed = s.pushed := rfl
@[simp] theorem mapThreads_allocHeld (s : State) (f : Thread → Thread) : (s.mapThreads f).allocHeld = s.allocHeld := rfl
@[simp] theorem mapThreads_dataHeld (s : State) (f : Thread → Thread) : (s.mapThreads f).dataHeld = s.dataHeld := rfl
@[simp] theorem mapThreads_spawns (s : State) (f : Thread → Thread) : (s.mapThreads f).spawns = s.spawns := rfl
@[simp] theorem mapThreads_answers (s : State) (f : Thread → Thread) : (s.mapThreads f).answers = s.answers := rfl
@[simp] theorem mapThreads_launches (s : State) (f : Thread → Thread) : (s.mapThreads f).launches = s.launches := rfl
@[simp] theorem mapThreads_quits (s : State) (f : Thread → Thread) : (s.mapThreads f).quits = s.quits := rfl
@[simp] theorem mapThreads_dones (s : State) (f : Thread → Thread) : (s.mapThreads f).dones = s.dones := rfl
@[simp] theorem mapThreads_mgmt (s : State) (f : Thread → Thread) : (s.mapThreads f).mgmt = s.mgmt := rfl
@[simp] theorem mapThreads_fleet (s : State) (f : Thread → Thread) : (s.mapThreads f).fleet = s.fleet := rfl
@[simp] theorem mapThreads_out (s : State) (f : Thread → Thread) : (s.mapThreads f).out = s.out := rfl
@[simp] theorem mapThreads_flights (s : State) (f : Thread → Thread) : (s.mapThreads f).flights = s.flights := rfl
@[simp] theorem mapThreads_nextThread (s : State) (f : Thread → Thread) : (s.mapThreads f).nextThread = s.nextThread := rfl
@[simp] theorem mapThreads_free (s : State) (f : Thread → Thread) : (s.mapThreads f).free = s.free := rfl
@[simp] theorem mapThreads_agenda (s : State) (f : Thread → Thread) : (s.mapThreads f).agenda = s.agenda := rfl
@[simp] theorem mapThreads_evTurn (s : State) (f : Thread → Thread) : (s.mapThreads f).evTurn = s.evTurn := rfl
@[simp] theorem mapThreads_pos (s : State) (f : Thread → Thread) : (s.mapThreads f).pos = s.pos := rfl
@[simp] theorem mapThreads_bundle (s : State) (f : Thread → Thread) : (s.mapThreads f).bundle = s.bundle := rfl
@[simp] theorem mapThreads_src (s : State) (f : Thread → Thread) : (s.mapThreads f).src = s.src := rfl
@[simp] theorem mapThreads_popped (s : State) (f : Thread → Thread) : (s.mapThreads f).popped = s.popped := rfl
@[simp] theorem mapThreads_mark (s : State) (f : Thread → Thread) : (s.mapThreads f).mark = s.mark := rfl
@[simp] theorem mapThreads_halves (s : State) (f : Thread → Thread) : (s.mapThreads f).halves = s.halves := rfl

@[simp] theorem event_num (t : Thread) (e n : Nat) : (t.event e n).num = t.num := by unfold Thread.event; split <;> rfl
@[simp] theorem event_place (t : Thread) (e n : Nat) : (t.event e n).place = t.place := by unfold Thread.event; split <;> rfl
@[simp] theorem event_trip (t : Thread) (e n : Nat) : (t.event e n).trip = t.trip := by unfold Thread.event; split <;> rfl
@[simp] theorem event_x (t : Thread) (e n : Nat) : (t.event e n).x = t.x := by unfold Thread.event; split <;> rfl
@[simp] theorem event_pw (t : Thread) (e n : Nat) : (t.event e n).pw = t.pw := by unfold Thread.event; split <;> rfl
@[simp] theorem event_pc (t : Thread) (e n : Nat) : (t.event e n).pc = t.pc := by unfold Thread.event; split <;> rfl
@[simp] theorem event_cb (t : Thread) (e n : Nat) : (t.event e n).cb = t.cb := by unfold Thread.event; split <;> rfl
@[simp] theorem event_st (t : Thread) (e n : Nat) : (t.event e n).st = t.st := by unfold Thread.event; split <;> rfl
@[simp] theorem event_taint (t : Thread) (e n : Nat) : (t.event e n).taint = t.taint := by unfold Thread.event; split <;> rfl
@[simp] theorem event_ldo (t : Thread) (e n : Nat) : (t.event e n).ldo = t.ldo := by unfold Thread.event; split <;> rfl
@[simp] theorem event_sto (t : Thread) (e n : Nat) : (t.event e n).sto = t.sto := by unfold Thread.event; split <;> rfl
@[simp] theorem event_cpo (t : Thread) (e n : Nat) : (t.event e n).cpo = t.cpo := by unfold Thread.event; split <;> rfl
@[simp] theorem event_tlo (t : Thread) (e n : Nat) : (t.event e n).tlo = t.tlo := by unfold Thread.event; split <;> rfl
@[simp] theorem event_pend (t : Thread) (e n : Nat) : (t.event e n).pend = t.pend := by unfold Thread.event; split <;> rfl
@[simp] theorem event_fmtA (t : Thread) (e n : Nat) : (t.event e n).fmtA = t.fmtA := by unfold Thread.event; split <;> rfl
@[simp] theorem event_fmtB (t : Thread) (e n : Nat) : (t.event e n).fmtB = t.fmtB := by unfold Thread.event; split <;> rfl
@[simp] theorem event_scA (t : Thread) (e n : Nat) : (t.event e n).scA = t.scA := by unfold Thread.event; split <;> rfl
@[simp] theorem event_scB (t : Thread) (e n : Nat) : (t.event e n).scB = t.scB := by unfold Thread.event; split <;> rfl
@[simp] theorem event_scC (t : Thread) (e n : Nat) : (t.event e n).scC = t.scC := by unfold Thread.event; split <;> rfl
@[simp] theorem event_agv (t : Thread) (e n : Nat) : (t.event e n).agv = t.agv := by unfold Thread.event; split <;> rfl
@[simp] theorem event_agc (t : Thread) (e n : Nat) : (t.event e n).agc = t.agc := by unfold Thread.event; split <;> rfl
@[simp] theorem event_cen (t : Thread) (e n : Nat) : (t.event e n).cen = t.cen := by unfold Thread.event; split <;> rfl
@[simp] theorem event_v (t : Thread) (e n : Nat) : (t.event e n).v = t.v := by unfold Thread.event; split <;> rfl
@[simp] theorem event_streams (t : Thread) (e n : Nat) : (t.event e n).streams = t.streams := by unfold Thread.event; split <;> rfl
@[simp] theorem event_ports (t : Thread) (e n : Nat) : (t.event e n).ports = t.ports := by unfold Thread.event; split <;> rfl
@[simp] theorem event_vcmd (t : Thread) (e n : Nat) : (t.event e n).vcmd = t.vcmd := by unfold Thread.event; split <;> rfl
@[simp] theorem event_result (t : Thread) (e n : Nat) : (t.event e n).result = t.result := by unfold Thread.event; split <;> rfl
@[simp] theorem event_cmdWords (t : Thread) (e n : Nat) : (t.event e n).cmdWords = t.cmdWords := by unfold Thread.event; split <;> rfl
@[simp] theorem event_dom (t : Thread) (e n : Nat) : (t.event e n).dom = t.dom := by unfold Thread.event; split <;> rfl
@[simp] theorem event_botdom (t : Thread) (e n : Nat) : (t.event e n).botdom = t.botdom := by unfold Thread.event; split <;> rfl
@[simp] theorem event_vdid (t : Thread) (e n : Nat) : (t.event e n).vdid = t.vdid := by unfold Thread.event; split <;> rfl
@[simp] theorem event_chgvd (t : Thread) (e n : Nat) : (t.event e n).chgvd = t.chgvd := by unfold Thread.event; split <;> rfl
@[simp] theorem event_depth (t : Thread) (e n : Nat) : (t.event e n).depth = t.depth := by unfold Thread.event; split <;> rfl
@[simp] theorem event_top (t : Thread) (e n : Nat) : (t.event e n).top = t.top := by unfold Thread.event; split <;> rfl
@[simp] theorem event_gates (t : Thread) (e n : Nat) : (t.event e n).gates = t.gates := by unfold Thread.event; split <;> rfl
@[simp] theorem event_hwIndex (t : Thread) (e n : Nat) : (t.event e n).hwIndex = t.hwIndex := by unfold Thread.event; split <;> rfl
@[simp] theorem event_hwPage (t : Thread) (e n : Nat) : (t.event e n).hwPage = t.hwPage := by unfold Thread.event; split <;> rfl
@[simp] theorem event_blocks (t : Thread) (e n : Nat) : (t.event e n).blocks = t.blocks := by unfold Thread.event; split <;> rfl
@[simp] theorem event_chg (t : Thread) (e n : Nat) : (t.event e n).chg = t.chg := by unfold Thread.event; split <;> rfl
@[simp] theorem event_tcause (t : Thread) (e n : Nat) : (t.event e n).tcause = t.tcause := by unfold Thread.event; split <;> rfl
@[simp] theorem event_epc (t : Thread) (e n : Nat) : (t.event e n).epc = t.epc := by unfold Thread.event; split <;> rfl
@[simp] theorem event_tval (t : Thread) (e n : Nat) : (t.event e n).tval = t.tval := by unfold Thread.event; split <;> rfl
@[simp] theorem event_est (t : Thread) (e n : Nat) : (t.event e n).est = t.est := by unfold Thread.event; split <;> rfl
@[simp] theorem event_trapOpen (t : Thread) (e n : Nat) : (t.event e n).trapOpen = t.trapOpen := by unfold Thread.event; split <;> rfl
@[simp] theorem event_susp (t : Thread) (e n : Nat) : (t.event e n).susp = t.susp := by unfold Thread.event; split <;> rfl
@[simp] theorem event_evsel (t : Thread) (e n : Nat) : (t.event e n).evsel = t.evsel := by unfold Thread.event; split <;> rfl
@[simp] theorem event_intent (t : Thread) (e n : Nat) : (t.event e n).intent = t.intent := by unfold Thread.event; split <;> rfl
@[simp] theorem event_orphan (t : Thread) (e n : Nat) : (t.event e n).orphan = t.orphan := by unfold Thread.event; split <;> rfl
@[simp] theorem event_deferOver (t : Thread) (e n : Nat) : (t.event e n).deferOver = t.deferOver := by unfold Thread.event; split <;> rfl
@[simp] theorem event_deferSince (t : Thread) (e n : Nat) : (t.event e n).deferSince = t.deferSince := by unfold Thread.event; split <;> rfl
@[simp] theorem event_worker (t : Thread) (e n : Nat) : (t.event e n).worker = t.worker := by unfold Thread.event; split <;> rfl
@[simp] theorem event_pkt (t : Thread) (e n : Nat) : (t.event e n).pkt = t.pkt := by unfold Thread.event; split <;> rfl
@[simp] theorem event_lcore (t : Thread) (e n : Nat) : (t.event e n).lcore = t.lcore := by unfold Thread.event; split <;> rfl
@[simp] theorem event_pvd (t : Thread) (e n : Nat) : (t.event e n).pvd = t.pvd := by unfold Thread.event; split <;> rfl
@[simp] theorem event_eccSeen (t : Thread) (e n : Nat) : (t.event e n).eccSeen = t.eccSeen := by unfold Thread.event; split <;> rfl
@[simp] theorem event_reports (t : Thread) (e n : Nat) : (t.event e n).reports = t.reports := by unfold Thread.event; split <;> rfl
@[simp] theorem event_lost (t : Thread) (e n : Nat) : (t.event e n).lost = t.lost := by unfold Thread.event; split <;> rfl
@[simp] theorem event_doom (t : Thread) (e n : Nat) : (t.event e n).doom = t.doom := by unfold Thread.event; split <;> rfl
@[simp] theorem event_wait (t : Thread) (e n : Nat) : (t.event e n).wait = t.wait := by unfold Thread.event; split <;> rfl
@[simp] theorem event_norm (t : Thread) (e n : Nat) : (t.event e n).norm = t.norm := by unfold Thread.event; split <;> rfl
@[simp] theorem event_inHand (t : Thread) (e n : Nat) : (t.event e n).inHand = t.inHand := by unfold Thread.event; split <;> rfl
@[simp] theorem event_rejoin (t : Thread) (e n : Nat) : (t.event e n).rejoin = t.rejoin := by unfold Thread.event; split <;> rfl
@[simp] theorem event_stands (t : Thread) (e n : Nat) : (t.event e n).stands = t.stands := by unfold Thread.event; split <;> rfl
@[simp] theorem event_halfway (t : Thread) (e n : Nat) : (t.event e n).halfway = t.halfway := by unfold Thread.event; split <;> rfl
@[simp] theorem event_lastPc (t : Thread) (e n : Nat) : (t.event e n).lastPc = t.lastPc := by unfold Thread.event; split <;> rfl
@[simp] theorem event_lateFlags (t : Thread) (e n : Nat) : (t.event e n).lateFlags = t.lateFlags := by unfold Thread.event; split <;> rfl
@[simp] theorem event_leaving (t : Thread) (e n : Nat) : (t.event e n).leaving = t.leaving := by unfold Thread.event; split <;> rfl
@[simp] theorem event_answer (t : Thread) (e n : Nat) : (t.event e n).answer = t.answer := by unfold Thread.event; split <;> rfl
@[simp] theorem event_closed (t : Thread) (e n : Nat) : (t.event e n).closed = t.closed := by unfold Thread.event; split <;> rfl
@[simp] theorem event_granted (t : Thread) (e n : Nat) : (t.event e n).granted = t.granted := by unfold Thread.event; split <;> rfl

@[simp] theorem setPred_num (t : Thread) (k : KReg) (b : Bool) : (t.setPred k b).num = t.num := by unfold Thread.setPred; split <;> rfl
@[simp] theorem setPred_place (t : Thread) (k : KReg) (b : Bool) : (t.setPred k b).place = t.place := by unfold Thread.setPred; split <;> rfl
@[simp] theorem setPred_trip (t : Thread) (k : KReg) (b : Bool) : (t.setPred k b).trip = t.trip := by unfold Thread.setPred; split <;> rfl
@[simp] theorem setPred_x (t : Thread) (k : KReg) (b : Bool) : (t.setPred k b).x = t.x := by unfold Thread.setPred; split <;> rfl
@[simp] theorem setPred_pc (t : Thread) (k : KReg) (b : Bool) : (t.setPred k b).pc = t.pc := by unfold Thread.setPred; split <;> rfl
@[simp] theorem setPred_cb (t : Thread) (k : KReg) (b : Bool) : (t.setPred k b).cb = t.cb := by unfold Thread.setPred; split <;> rfl
@[simp] theorem setPred_st (t : Thread) (k : KReg) (b : Bool) : (t.setPred k b).st = t.st := by unfold Thread.setPred; split <;> rfl
@[simp] theorem setPred_taint (t : Thread) (k : KReg) (b : Bool) : (t.setPred k b).taint = t.taint := by unfold Thread.setPred; split <;> rfl
@[simp] theorem setPred_ldo (t : Thread) (k : KReg) (b : Bool) : (t.setPred k b).ldo = t.ldo := by unfold Thread.setPred; split <;> rfl
@[simp] theorem setPred_sto (t : Thread) (k : KReg) (b : Bool) : (t.setPred k b).sto = t.sto := by unfold Thread.setPred; split <;> rfl
@[simp] theorem setPred_cpo (t : Thread) (k : KReg) (b : Bool) : (t.setPred k b).cpo = t.cpo := by unfold Thread.setPred; split <;> rfl
@[simp] theorem setPred_tlo (t : Thread) (k : KReg) (b : Bool) : (t.setPred k b).tlo = t.tlo := by unfold Thread.setPred; split <;> rfl
@[simp] theorem setPred_pend (t : Thread) (k : KReg) (b : Bool) : (t.setPred k b).pend = t.pend := by unfold Thread.setPred; split <;> rfl
@[simp] theorem setPred_fmtA (t : Thread) (k : KReg) (b : Bool) : (t.setPred k b).fmtA = t.fmtA := by unfold Thread.setPred; split <;> rfl
@[simp] theorem setPred_fmtB (t : Thread) (k : KReg) (b : Bool) : (t.setPred k b).fmtB = t.fmtB := by unfold Thread.setPred; split <;> rfl
@[simp] theorem setPred_scA (t : Thread) (k : KReg) (b : Bool) : (t.setPred k b).scA = t.scA := by unfold Thread.setPred; split <;> rfl
@[simp] theorem setPred_scB (t : Thread) (k : KReg) (b : Bool) : (t.setPred k b).scB = t.scB := by unfold Thread.setPred; split <;> rfl
@[simp] theorem setPred_scC (t : Thread) (k : KReg) (b : Bool) : (t.setPred k b).scC = t.scC := by unfold Thread.setPred; split <;> rfl
@[simp] theorem setPred_agv (t : Thread) (k : KReg) (b : Bool) : (t.setPred k b).agv = t.agv := by unfold Thread.setPred; split <;> rfl
@[simp] theorem setPred_agc (t : Thread) (k : KReg) (b : Bool) : (t.setPred k b).agc = t.agc := by unfold Thread.setPred; split <;> rfl
@[simp] theorem setPred_cen (t : Thread) (k : KReg) (b : Bool) : (t.setPred k b).cen = t.cen := by unfold Thread.setPred; split <;> rfl
@[simp] theorem setPred_v (t : Thread) (k : KReg) (b : Bool) : (t.setPred k b).v = t.v := by unfold Thread.setPred; split <;> rfl
@[simp] theorem setPred_streams (t : Thread) (k : KReg) (b : Bool) : (t.setPred k b).streams = t.streams := by unfold Thread.setPred; split <;> rfl
@[simp] theorem setPred_ports (t : Thread) (k : KReg) (b : Bool) : (t.setPred k b).ports = t.ports := by unfold Thread.setPred; split <;> rfl
@[simp] theorem setPred_vcmd (t : Thread) (k : KReg) (b : Bool) : (t.setPred k b).vcmd = t.vcmd := by unfold Thread.setPred; split <;> rfl
@[simp] theorem setPred_result (t : Thread) (k : KReg) (b : Bool) : (t.setPred k b).result = t.result := by unfold Thread.setPred; split <;> rfl
@[simp] theorem setPred_cmdWords (t : Thread) (k : KReg) (b : Bool) : (t.setPred k b).cmdWords = t.cmdWords := by unfold Thread.setPred; split <;> rfl
@[simp] theorem setPred_dom (t : Thread) (k : KReg) (b : Bool) : (t.setPred k b).dom = t.dom := by unfold Thread.setPred; split <;> rfl
@[simp] theorem setPred_botdom (t : Thread) (k : KReg) (b : Bool) : (t.setPred k b).botdom = t.botdom := by unfold Thread.setPred; split <;> rfl
@[simp] theorem setPred_vdid (t : Thread) (k : KReg) (b : Bool) : (t.setPred k b).vdid = t.vdid := by unfold Thread.setPred; split <;> rfl
@[simp] theorem setPred_chgvd (t : Thread) (k : KReg) (b : Bool) : (t.setPred k b).chgvd = t.chgvd := by unfold Thread.setPred; split <;> rfl
@[simp] theorem setPred_depth (t : Thread) (k : KReg) (b : Bool) : (t.setPred k b).depth = t.depth := by unfold Thread.setPred; split <;> rfl
@[simp] theorem setPred_top (t : Thread) (k : KReg) (b : Bool) : (t.setPred k b).top = t.top := by unfold Thread.setPred; split <;> rfl
@[simp] theorem setPred_gates (t : Thread) (k : KReg) (b : Bool) : (t.setPred k b).gates = t.gates := by unfold Thread.setPred; split <;> rfl
@[simp] theorem setPred_hwIndex (t : Thread) (k : KReg) (b : Bool) : (t.setPred k b).hwIndex = t.hwIndex := by unfold Thread.setPred; split <;> rfl
@[simp] theorem setPred_hwPage (t : Thread) (k : KReg) (b : Bool) : (t.setPred k b).hwPage = t.hwPage := by unfold Thread.setPred; split <;> rfl
@[simp] theorem setPred_blocks (t : Thread) (k : KReg) (b : Bool) : (t.setPred k b).blocks = t.blocks := by unfold Thread.setPred; split <;> rfl
@[simp] theorem setPred_chg (t : Thread) (k : KReg) (b : Bool) : (t.setPred k b).chg = t.chg := by unfold Thread.setPred; split <;> rfl
@[simp] theorem setPred_tcause (t : Thread) (k : KReg) (b : Bool) : (t.setPred k b).tcause = t.tcause := by unfold Thread.setPred; split <;> rfl
@[simp] theorem setPred_epc (t : Thread) (k : KReg) (b : Bool) : (t.setPred k b).epc = t.epc := by unfold Thread.setPred; split <;> rfl
@[simp] theorem setPred_tval (t : Thread) (k : KReg) (b : Bool) : (t.setPred k b).tval = t.tval := by unfold Thread.setPred; split <;> rfl
@[simp] theorem setPred_est (t : Thread) (k : KReg) (b : Bool) : (t.setPred k b).est = t.est := by unfold Thread.setPred; split <;> rfl
@[simp] theorem setPred_trapOpen (t : Thread) (k : KReg) (b : Bool) : (t.setPred k b).trapOpen = t.trapOpen := by unfold Thread.setPred; split <;> rfl
@[simp] theorem setPred_susp (t : Thread) (k : KReg) (b : Bool) : (t.setPred k b).susp = t.susp := by unfold Thread.setPred; split <;> rfl
@[simp] theorem setPred_evsel (t : Thread) (k : KReg) (b : Bool) : (t.setPred k b).evsel = t.evsel := by unfold Thread.setPred; split <;> rfl
@[simp] theorem setPred_evcnt (t : Thread) (k : KReg) (b : Bool) : (t.setPred k b).evcnt = t.evcnt := by unfold Thread.setPred; split <;> rfl
@[simp] theorem setPred_intent (t : Thread) (k : KReg) (b : Bool) : (t.setPred k b).intent = t.intent := by unfold Thread.setPred; split <;> rfl
@[simp] theorem setPred_orphan (t : Thread) (k : KReg) (b : Bool) : (t.setPred k b).orphan = t.orphan := by unfold Thread.setPred; split <;> rfl
@[simp] theorem setPred_deferOver (t : Thread) (k : KReg) (b : Bool) : (t.setPred k b).deferOver = t.deferOver := by unfold Thread.setPred; split <;> rfl
@[simp] theorem setPred_deferSince (t : Thread) (k : KReg) (b : Bool) : (t.setPred k b).deferSince = t.deferSince := by unfold Thread.setPred; split <;> rfl
@[simp] theorem setPred_worker (t : Thread) (k : KReg) (b : Bool) : (t.setPred k b).worker = t.worker := by unfold Thread.setPred; split <;> rfl
@[simp] theorem setPred_pkt (t : Thread) (k : KReg) (b : Bool) : (t.setPred k b).pkt = t.pkt := by unfold Thread.setPred; split <;> rfl
@[simp] theorem setPred_lcore (t : Thread) (k : KReg) (b : Bool) : (t.setPred k b).lcore = t.lcore := by unfold Thread.setPred; split <;> rfl
@[simp] theorem setPred_pvd (t : Thread) (k : KReg) (b : Bool) : (t.setPred k b).pvd = t.pvd := by unfold Thread.setPred; split <;> rfl
@[simp] theorem setPred_eccSeen (t : Thread) (k : KReg) (b : Bool) : (t.setPred k b).eccSeen = t.eccSeen := by unfold Thread.setPred; split <;> rfl
@[simp] theorem setPred_reports (t : Thread) (k : KReg) (b : Bool) : (t.setPred k b).reports = t.reports := by unfold Thread.setPred; split <;> rfl
@[simp] theorem setPred_lost (t : Thread) (k : KReg) (b : Bool) : (t.setPred k b).lost = t.lost := by unfold Thread.setPred; split <;> rfl
@[simp] theorem setPred_doom (t : Thread) (k : KReg) (b : Bool) : (t.setPred k b).doom = t.doom := by unfold Thread.setPred; split <;> rfl
@[simp] theorem setPred_wait (t : Thread) (k : KReg) (b : Bool) : (t.setPred k b).wait = t.wait := by unfold Thread.setPred; split <;> rfl
@[simp] theorem setPred_norm (t : Thread) (k : KReg) (b : Bool) : (t.setPred k b).norm = t.norm := by unfold Thread.setPred; split <;> rfl
@[simp] theorem setPred_inHand (t : Thread) (k : KReg) (b : Bool) : (t.setPred k b).inHand = t.inHand := by unfold Thread.setPred; split <;> rfl
@[simp] theorem setPred_rejoin (t : Thread) (k : KReg) (b : Bool) : (t.setPred k b).rejoin = t.rejoin := by unfold Thread.setPred; split <;> rfl
@[simp] theorem setPred_stands (t : Thread) (k : KReg) (b : Bool) : (t.setPred k b).stands = t.stands := by unfold Thread.setPred; split <;> rfl
@[simp] theorem setPred_halfway (t : Thread) (k : KReg) (b : Bool) : (t.setPred k b).halfway = t.halfway := by unfold Thread.setPred; split <;> rfl
@[simp] theorem setPred_lastPc (t : Thread) (k : KReg) (b : Bool) : (t.setPred k b).lastPc = t.lastPc := by unfold Thread.setPred; split <;> rfl
@[simp] theorem setPred_lateFlags (t : Thread) (k : KReg) (b : Bool) : (t.setPred k b).lateFlags = t.lateFlags := by unfold Thread.setPred; split <;> rfl
@[simp] theorem setPred_leaving (t : Thread) (k : KReg) (b : Bool) : (t.setPred k b).leaving = t.leaving := by unfold Thread.setPred; split <;> rfl
@[simp] theorem setPred_answer (t : Thread) (k : KReg) (b : Bool) : (t.setPred k b).answer = t.answer := by unfold Thread.setPred; split <;> rfl
@[simp] theorem setPred_closed (t : Thread) (k : KReg) (b : Bool) : (t.setPred k b).closed = t.closed := by unfold Thread.setPred; split <;> rfl
@[simp] theorem setPred_granted (t : Thread) (k : KReg) (b : Bool) : (t.setPred k b).granted = t.granted := by unfold Thread.setPred; split <;> rfl

@[simp] theorem gate_instr (c : VCmd)  : (c.gate).instr = c.instr := rfl
@[simp] theorem gate_xs (c : VCmd)  : (c.gate).xs = c.xs := rfl
@[simp] theorem gate_xt (c : VCmd)  : (c.gate).xt = c.xt := rfl
@[simp] theorem gate_rm (c : VCmd)  : (c.gate).rm = c.rm := rfl
@[simp] theorem gate_fzs (c : VCmd)  : (c.gate).fzs = c.fzs := rfl
@[simp] theorem gate_fzr (c : VCmd)  : (c.gate).fzr = c.fzr := rfl
@[simp] theorem gate_dom (c : VCmd)  : (c.gate).dom = c.dom := rfl
@[simp] theorem gate_started (c : VCmd)  : (c.gate).started = c.started := rfl
@[simp] theorem gate_descs (c : VCmd)  : (c.gate).descs = c.descs := rfl
@[simp] theorem gate_len (c : VCmd)  : (c.gate).len = c.len := rfl
@[simp] theorem gate_unread (c : VCmd)  : (c.gate).unread = c.unread := rfl
@[simp] theorem gate_done (c : VCmd)  : (c.gate).done = c.done := rfl
@[simp] theorem gate_elems (c : VCmd)  : (c.gate).elems = c.elems := rfl
@[simp] theorem gate_todo (c : VCmd)  : (c.gate).todo = c.todo := rfl
@[simp] theorem gate_waits (c : VCmd)  : (c.gate).waits = c.waits := rfl
@[simp] theorem gate_old (c : VCmd)  : (c.gate).old = c.old := rfl
@[simp] theorem gate_finished (c : VCmd)  : (c.gate).finished = c.finished := rfl

end Sys2Proof.Machine
end

