-- ==== Sys2Proof/Laws/Records.lean ====
section
/-! SUPPORT. Records kept by number: what is read after a record has been replaced. -/

namespace Sys2Proof.Machine

variable {α κ : Type} [DecidableEq κ]

/-- A lookup answers a record that has the key. -/
theorem key_getBy (key : α → κ) (k : κ) (d : α) (h : key d = k) (l : List α) : key (getBy key k d l) = k := by
  induction l with
  | nil => exact h
  | cons a r ih => unfold getBy; split <;> assumption

/-- The record put is the one found. -/
theorem getBy_putBy (key : α → κ) (a d : α) (l : List α) : getBy key (key a) d (putBy key a l) = a := by
  induction l with
  | nil => simp [putBy, getBy]
  | cons b r ih => unfold putBy; split <;> simp_all [getBy]

/-- Other records are as before. -/
theorem getBy_putBy_ne (key : α → κ) (a d : α) (k : κ) (h : k ≠ key a) (l : List α) :
    getBy key k d (putBy key a l) = getBy key k d l := by
  induction l with
  | nil => simp [putBy, getBy, h.symm]
  | cons b r ih =>
    unfold putBy
    split
    · rename_i e
      simp [getBy, h.symm, e ▸ h.symm]
    · simp [getBy, ih]

@[simp] theorem core_num (s : State) (c : CoreNo) : (s.core c).num = c := key_getBy Core.num c { num := c } rfl s.cores
@[simp] theorem comb_num (s : State) (c : CombNo) : (s.comb c).num = c := key_getBy Comb.num c { num := c } rfl s.combs
@[simp] theorem hive_num (s : State) (h : BitVec 4) : (s.hive h).num = h := key_getBy Hive.num h { num := h } rfl s.hives
@[simp] theorem domain_num (s : State) (d : DomNo) : (s.domain d).num = d := key_getBy Domain.num d { num := d } rfl s.domains
@[simp] theorem vd_num (s : State) (v : VdNo) : (s.vd v).num = v := key_getBy Vd.num v { num := v } rfl s.vds

theorem core_setCore (s : State) (k : Core) : (s.setCore k).core k.num = k := getBy_putBy _ _ _ _
theorem comb_setComb (s : State) (k : Comb) : (s.setComb k).comb k.num = k := getBy_putBy _ _ _ _
theorem hive_setHive (s : State) (h : Hive) : (s.setHive h).hive h.num = h := getBy_putBy _ _ _ _
theorem domain_setDomain (s : State) (d : Domain) : (s.setDomain d).domain d.num = d := getBy_putBy _ _ _ _
theorem vd_setVd (s : State) (v : Vd) : (s.setVd v).vd v.num = v := getBy_putBy _ _ _ _

theorem core_setCore_ne (s : State) (k : Core) (c : CoreNo) (h : c ≠ k.num) : (s.setCore k).core c = s.core c :=
  getBy_putBy_ne _ _ _ _ h _
theorem comb_setComb_ne (s : State) (k : Comb) (c : CombNo) (h : c ≠ k.num) : (s.setComb k).comb c = s.comb c :=
  getBy_putBy_ne _ _ _ _ h _
theorem hive_setHive_ne (s : State) (h : Hive) (n : BitVec 4) (e : n ≠ h.num) : (s.setHive h).hive n = s.hive n :=
  getBy_putBy_ne _ _ _ _ e _
theorem domain_setDomain_ne (s : State) (d : Domain) (n : DomNo) (h : n ≠ d.num) :
    (s.setDomain d).domain n = s.domain n := getBy_putBy_ne _ _ _ _ h _
theorem vd_setVd_ne (s : State) (v : Vd) (n : VdNo) (h : n ≠ v.num) : (s.setVd v).vd n = s.vd n :=
  getBy_putBy_ne _ _ _ _ h _

/-- A core changed in its other fields. -/
theorem core_setCore_of (s : State) (k : Core) (c : CoreNo) (h : k.num = c) : (s.setCore k).core c = k := h ▸ core_setCore s k
theorem comb_setComb_of (s : State) (k : Comb) (c : CombNo) (h : k.num = c) : (s.setComb k).comb c = k := h ▸ comb_setComb s k
theorem hive_setHive_of (s : State) (k : Hive) (c : BitVec 4) (h : k.num = c) : (s.setHive k).hive c = k := h ▸ hive_setHive s k
theorem domain_setDomain_of (s : State) (k : Domain) (c : DomNo) (h : k.num = c) : (s.setDomain k).domain c = k :=
  h ▸ domain_setDomain s k
theorem vd_setVd_of (s : State) (k : Vd) (c : VdNo) (h : k.num = c) : (s.setVd k).vd c = k := h ▸ vd_setVd s k

/-- Changing the thread in hand. -/
theorem modThread_cur (s : State) (f : Thread → Thread) : s.modThread s.cur.num f = { s with cur := f s.cur } := by
  simp [State.modThread]

/-- A changed thread is found changed, when the change keeps its number. -/
theorem thread_modThread (s : State) (n : ThreadNo) (f : Thread → Thread) (hf : ∀ t : Thread, (f t).num = t.num) :
    (s.modThread n f).thread? n = (s.thread? n).map f := by
  unfold State.modThread State.thread?
  split
  · simp_all
  · rename_i h
    dsimp only
    induction s.others with
    | nil => rfl
    | cons a r ih =>
      simp only [List.map_cons, List.find?_cons]
      by_cases e : a.num = n
      · simp [e, hf]
      · have e1 : (a.num == n) = false := by simpa using e
        simp only [e1, Bool.false_eq_true, if_false]
        exact ih

/-- The other threads are as before. -/
theorem thread_modThread_ne (s : State) (n m : ThreadNo) (f : Thread → Thread) (hf : ∀ t : Thread, (f t).num = t.num)
    (h : m ≠ n) : (s.modThread n f).thread? m = s.thread? m := by
  unfold State.modThread State.thread?
  split
  · rename_i e
    simp [hf, e, h.symm]
  · dsimp only
    split
    · rfl
    · induction s.others with
      | nil => rfl
      | cons a r ih =>
        simp only [List.map_cons, List.find?_cons]
        by_cases e : a.num = n
        · have e1 : (a.num == m) = false := by simpa [e] using h.symm
          have e2 : (a.num == n) = true := by simpa using e
          simp only [e2, if_true, hf, e1]
          exact ih
        · have e2 : (a.num == n) = false := by simpa using e
          simp only [e2, Bool.false_eq_true, if_false]
          rw [ih]

end Sys2Proof.Machine
end

