-- ==== Sys2Proof/Laws/Memory.lean ====
section
/-! SUPPORT. Memory: reading after writing, the canonical form, and that every memory operation keeps it. -/

namespace Sys2Proof.Machine

/-- Entries of a canonical list lie at or above its lower bound. -/
theorem wfFrom_mono {lo hi : Nat} (h : lo ≤ hi) {m : List Host.Cell} (w : Memory.wfFrom hi m = true) :
    Memory.wfFrom lo m = true := by
  cases m with
  | nil => rfl
  | cons c r =>
    obtain ⟨k, v⟩ := c
    simp [Memory.wfFrom] at w ⊢
    exact ⟨⟨by omega, w.1.2⟩, w.2⟩

/-- Reading below the lower bound of a canonical list finds nothing. -/
theorem memGet_below {lo a : Nat} {m : List Host.Cell} (w : Memory.wfFrom lo m = true) (h : a < lo) :
    memGet m a = unlisted := by
  induction m generalizing lo with
  | nil => rfl
  | cons c r ih =>
    obtain ⟨k, v⟩ := c
    simp [Memory.wfFrom] at w
    have : ¬ a = k := by omega
    simp [memGet, this, ih w.2 (by omega)]

theorem wfFrom_memSet {lo a : Nat} {m : List Host.Cell} (v : Byte) (w : Memory.wfFrom lo m = true) (h : lo ≤ a) :
    Memory.wfFrom lo (memSet m a v) = true := by
  induction m generalizing lo with
  | nil => unfold memSet; split <;> simp_all [Memory.wfFrom]
  | cons c r ih =>
    obtain ⟨k, u⟩ := c
    simp [Memory.wfFrom] at w
    unfold memSet
    split
    · split <;> simp_all [Memory.wfFrom]
    · split
      · split
        · exact wfFrom_mono (by omega) w.2
        · simp_all [Memory.wfFrom]
      · simp only [Memory.wfFrom, Bool.and_eq_true, decide_eq_true_eq, bne_iff_ne]
        exact ⟨w.1, ih w.2 (by omega)⟩

/-- Writing one byte keeps the canonical form. -/
theorem wf_memSet {m : List Host.Cell} (a : Nat) (v : Byte) (w : Memory.wf m = true) : Memory.wf (memSet m a v) = true :=
  wfFrom_memSet v w (Nat.zero_le a)

/-- Writing some bytes keeps the canonical form. -/
theorem wf_memSetAll (cs : List (Nat × Byte)) {m : List Host.Cell} (w : Memory.wf m = true) :
    Memory.wf (memSetAll m cs) = true := by
  induction cs generalizing m with
  | nil => exact w
  | cons c r ih => exact ih (wf_memSet c.1 c.2 w)

theorem wfFrom_filter {lo : Nat} (p : Host.Cell → Bool) {m : List Host.Cell} (w : Memory.wfFrom lo m = true) :
    Memory.wfFrom lo (m.filter p) = true := by
  induction m generalizing lo with
  | nil => rfl
  | cons c r ih =>
    obtain ⟨k, v⟩ := c
    simp [Memory.wfFrom] at w
    have h := ih w.2
    simp only [List.filter_cons]
    split
    · simp [Memory.wfFrom, w.1, h]
    · exact wfFrom_mono (by omega) h

/-- Forgetting bytes keeps the canonical form. -/
theorem wf_filter (p : Host.Cell → Bool) {m : List Host.Cell} (w : Memory.wf m = true) : Memory.wf (m.filter p) = true :=
  wfFrom_filter p w

theorem memGet_memSet_from {lo : Nat} {m : List Host.Cell} (w : Memory.wfFrom lo m = true) (a b : Nat) (v : Byte) :
    memGet (memSet m a v) b = if b = a then v else memGet m b := by
  induction m generalizing lo with
  | nil => unfold memSet; split <;> simp_all [memGet]
  | cons c r ih =>
    obtain ⟨k, u⟩ := c
    simp [Memory.wfFrom] at w
    have hr : ∀ x, x ≤ k → memGet r x = unlisted := fun x hx => memGet_below w.2 (by omega)
    unfold memSet
    split
    · rename_i hak
      split
      · rename_i hv
        by_cases hb : b = a
        · have : ¬ a = k := by omega
          simp [memGet, hb, this, hr a (by omega), hv]
        · simp [hb]
      · simp [memGet]
    · split
      · rename_i hak
        subst hak
        split
        · rename_i hv
          by_cases hb : b = a
          · simp [hb, hr a (Nat.le_refl a), hv]
          · simp [memGet, hb]
        · by_cases hb : b = a <;> simp [memGet, hb]
      · rename_i h1 h2
        by_cases hb : b = k
        · have : ¬ k = a := fun e => h2 e.symm
          simp [memGet, hb, this]
        · simp [memGet, hb, ih w.2]

/-- Reading a byte after writing one: the byte written at its address, what was there at any other. -/
theorem memGet_memSet {m : List Host.Cell} (w : Memory.wf m = true) (a b : Nat) (v : Byte) :
    memGet (memSet m a v) b = if b = a then v else memGet m b := memGet_memSet_from w a b v

/-- A write of some bytes leaves every other address alone. -/
theorem memGet_memSetAll_ne {m : List Host.Cell} (w : Memory.wf m = true) (cs : List (Nat × Byte)) (b : Nat)
    (h : b ∉ cs.map Prod.fst) : memGet (memSetAll m cs) b = memGet m b := by
  induction cs generalizing m with
  | nil => rfl
  | cons c r ih =>
    simp at h
    simp [memSetAll, ih (wf_memSet c.1 c.2 w) (by simpa using h.2), memGet_memSet w, h.1]

/-- A write of some bytes at distinct addresses is read back. -/
theorem memGet_memSetAll_mem {m : List Host.Cell} (w : Memory.wf m = true) (cs : List (Nat × Byte))
    (nd : (cs.map Prod.fst).Nodup) (c : Nat × Byte) (h : c ∈ cs) : memGet (memSetAll m cs) c.1 = c.2 := by
  induction cs generalizing m with
  | nil => cases h
  | cons d r ih =>
    simp only [List.map_cons, List.nodup_cons] at nd
    simp only [memSetAll]
    rcases List.mem_cons.mp h with e | e
    · subst e
      rw [memGet_memSetAll_ne (wf_memSet _ _ w) _ _ nd.1, memGet_memSet w]
      simp
    · exact ih (wf_memSet _ _ w) nd.2 e

/-- Two canonical memories that read alike are equal. -/
theorem wfFrom_ext {lo : Nat} {m n : List Host.Cell} (wm : Memory.wfFrom lo m = true) (wn : Memory.wfFrom lo n = true)
    (h : ∀ a, memGet m a = memGet n a) : m = n := by
  induction m generalizing lo n with
  | nil =>
    cases n with
    | nil => rfl
    | cons d s =>
      simp [Memory.wfFrom] at wn
      have := h d.1
      simp [memGet] at this
      exact absurd this.symm wn.1.2
  | cons c r ih =>
    obtain ⟨k, v⟩ := c
    simp [Memory.wfFrom] at wm
    cases n with
    | nil =>
      have := h k
      simp [memGet] at this
      exact absurd this wm.1.2
    | cons d s =>
      obtain ⟨j, u⟩ := d
      simp [Memory.wfFrom] at wn
      have hr : ∀ x, x ≤ k → memGet r x = unlisted := fun x hx => memGet_below wm.2 (by omega)
      have hs : ∀ x, x ≤ j → memGet s x = unlisted := fun x hx => memGet_below wn.2 (by omega)
      have e : k = j := by
        rcases Nat.lt_trichotomy k j with l | l | l
        · have := h k
          have hn : ¬ k = j := by omega
          simp [memGet, hn, hs k (by omega)] at this
          exact absurd this wm.1.2
        · exact l
        · have := h j
          have hn : ¬ j = k := by omega
          simp [memGet, hn, hr j (by omega)] at this
          exact absurd this.symm wn.1.2
      subst e
      have hv : v = u := by simpa [memGet] using h k
      subst hv
      congr 1
      refine ih wm.2 wn.2 fun a => ?_
      by_cases ha : a = k
      · rw [ha, hr k (Nat.le_refl k), hs k (Nat.le_refl k)]
      · simpa [memGet, ha] using h a

/-- Equal memories are equal data. -/
theorem wf_ext {m n : List Host.Cell} (wm : Memory.wf m = true) (wn : Memory.wf n = true)
    (h : ∀ a, memGet m a = memGet n a) : m = n := wfFrom_ext wm wn h

/-! ### The operations -/

@[simp] theorem trace_mem (s : State) (src : Source) (kind : Nat) (ps : List Nat) (b : Bool) :
    (s.trace src kind ps b).mem = s.mem := by
  unfold State.trace
  split
  · rfl
  · split
    · rfl
    · dsimp only
      split
      · rfl
      · split
        · rfl
        · split
          · rfl
          · split <;> rfl

theorem foldl_mem {β : Type} (f : State → β → State) (hf : ∀ s b, (f s b).mem = s.mem) (l : List β) (s : State) :
    (l.foldl f s).mem = s.mem := by
  induction l generalizing s with
  | nil => rfl
  | cons a r ih => rw [List.foldl_cons, ih, hf]

@[simp] theorem traceParts_mem (s : State) (src : Source) (kind va : Nat) (ps : List Nat) :
    (s.traceParts src kind va ps).mem = s.mem := by
  unfold State.traceParts
  split
  · exact foldl_mem _ (fun s b => trace_mem ..) _ _
  · exact foldl_mem _ (fun s b => trace_mem ..) _ _

@[simp] theorem touch_mem (s : State) (ps : List Nat) : (s.touch ps).mem = s.mem := rfl
@[simp] theorem countEcc_mem (s : State) (h : EccHome) (b : Bool) : (s.countEcc h b).mem = s.mem := rfl
@[simp] theorem telemetry_mem (s : State) (n : Nat) (l : List Word) : (s.telemetry n l).mem = s.mem := rfl
@[simp] theorem eccRecord_mem (s : State) (h : EccHome) (o e l : Nat) : (s.eccRecord h o e l).mem = s.mem := rfl

@[simp] theorem meet_mem (s : State) (hit : List Damage) : (s.meet hit).1.mem = s.mem := by
  unfold State.meet
  exact foldl_mem _ (fun s b => by simp) _ _

@[simp] theorem eccRead_mem (s : State) (ps : List Nat) : (s.eccRead ps).1.mem = s.mem := meet_mem ..
@[simp] theorem meetSpot_mem (s : State) (f : Spot → Bool) : (s.meetSpot f).1.mem = s.mem := meet_mem ..

@[simp] theorem reread_mem (s : State) (w : Watch) : (s.reread w).mem = s.mem := by simp [State.reread]

@[simp] theorem hitWatches_mem (s : State) (ps : List Nat) : (s.hitWatches ps).mem = s.mem := by
  unfold State.hitWatches
  exact foldl_mem _ (fun s b => reread_mem ..) _ _

@[simp] theorem tookTurns_mem (s : State) (n : Nat) (ps : List Nat) : (s.tookTurns n ps).mem = s.mem := by
  exact foldl_mem (fun s h => s.tookTurn n h) (fun _ _ => rfl) _ _

/-- A read changes no memory. -/
@[simp] theorem readBytes_mem (s : State) (src : Source) (kind va : Nat) (ps : List Nat) :
    (s.readBytes src kind va ps).2.2.2.mem = s.mem := by
  simp [State.readBytes]

@[simp] theorem traceRec_mem (s : State) (t : Thread) (kind : Nat) (ps : List Nat) : (s.traceRec t kind ps).mem = s.mem := by
  unfold State.traceRec
  exact foldl_mem _ (fun s b => trace_mem ..) _ _

/-- The part's reads of its records change no memory. -/
@[simp] theorem recRead_mem (s : State) (t : Thread) (a n : Nat) : (s.recRead t a n).2.mem = s.mem := by
  simp [State.recRead]

/-- A write of cells keeps the canonical form. -/
theorem wf_storeCells {s : State} (ps : List Nat) (bs : List Byte) (w : Memory.wf s.mem = true) :
    Memory.wf (s.storeCells ps bs).2.mem = true := by
  unfold State.storeCells
  split
  · exact wf_memSetAll _ w
  · simpa using w

/-- A write by bytes keeps the canonical form. -/
theorem wf_writeBytes {s : State} (src : Source) (kind va : Nat) (ps : List Nat) (bs : List Byte)
    (w : Memory.wf s.mem = true) : Memory.wf (s.writeBytes src kind va ps bs).2.mem = true := by
  have := wf_storeCells ps bs w
  unfold State.writeBytes
  split <;> simp_all

/-- A part of a store keeps the canonical form. -/
theorem wf_storePart (src : Source) (b : Bool) {r : Bool × State} (p : List Nat × List Byte) (w : Memory.wf r.2.mem = true) :
    Memory.wf (State.storePart src b r p).2.mem = true := by
  have := wf_storeCells p.1 p.2 w
  unfold State.storePart
  split <;> simp_all

/-- A store in its parts keeps the canonical form. -/
theorem wf_storeBytes {s : State} (src : Source) (va : Nat) (ps : List Nat) (bs : List Byte) (w : Memory.wf s.mem = true) :
    Memory.wf (s.storeBytes src va ps bs).2.mem = true := by
  unfold State.storeBytes
  split
  · exact wf_storePart src true _ (wf_storePart src true _ w)
  · exact wf_storePart src false _ w

/-- A write by the part itself keeps the canonical form. -/
theorem wf_physWrite {s : State} (a : Nat) (bs : List Byte) (w : Memory.wf s.mem = true) :
    Memory.wf (s.physWrite a bs).mem = true := by
  have := wf_storeCells (physRange a bs.length) bs w
  unfold State.physWrite
  dsimp only
  split <;> simp_all

/-- A write by the part to a record keeps the canonical form. -/
theorem wf_recWrite {s : State} (t : Thread) (a : Nat) (bs : List Byte) (w : Memory.wf s.mem = true) :
    Memory.wf (s.recWrite t a bs).2.mem = true := by
  have := wf_storeCells (physRange a bs.length) bs w
  unfold State.recWrite
  dsimp only
  split <;> simp_all

end Sys2Proof.Machine
end

