-- ==== Sys2Proof/Laws/Ops.lean ====
section
/-! SUPPORT. What the shared operations of words do: guards, ports, registers, accesses and the ways in which a word
ends. -/

namespace Sys2Proof.Machine

open Sys2Proof.Safety

/-! ### Guards and ports -/

theorem guarded_active {s : State} {g : KReg} (h : GuardOn s g) (r : Res) : guarded s g r = r := if_pos h

theorem guarded_false {s : State} {g : KReg} (h : s.rd.pred g = false) (r : Res) : guarded s g r = .done s := by
  simp [guarded, h]

theorem legal_fit {s : State} {srcs dsts : List XReg} (h : PortsFit s srcs dsts) (r : Res) : legal s srcs dsts r = r := by
  unfold legal
  rw [if_neg]
  rintro e
  simp only [Bool.or_eq_true, List.any_eq_true, Option.any_eq_true] at e
  rcases e with ⟨a, ha, p, hp, hq⟩ | ⟨d, hd, p, hp, hq⟩
  · simp [h.1 a ha p hp] at hq
  · simp [h.2 d hd p hp] at hq

/-- With no port bound, every word's registers fit. -/
theorem fit_unbound {s : State} (h : ∀ r, s.rd.port? r = none) (srcs dsts : List XReg) : PortsFit s srcs dsts :=
  ⟨fun a _ p e => by simp [h a] at e, fun d _ p e => by simp [h d] at e⟩

/-! ### Registers -/

theorem reads_plain {s : State} {r : XReg} (hp : s.rd.pend.getLsbD r.toNat = false) (hb : s.rd.port? r = none) :
    ReadsAs s r (s.rd.reg r) (s.rd.tainted r) s := fun k => by simp [useX, hp, hb]

theorem takes_plain {s : State} {d : XReg} (v : Word) (hp : s.rd.pend.getLsbD d.toNat = false)
    (hb : s.rd.port? d = none) : Takes s d v s := fun k => by simp [destX, destAfter, hp, hb]

theorem setX_plain {s : State} {d : XReg} (v : Word) (t : Bool) (h : s.cur.port? d = none) :
    s.setX d v t = { s with cur := s.cur.setReg d v t } := by
  simp [State.setX, h]

@[simp] theorem setReg_reg (t : Thread) (r : XReg) (v : Word) (b : Bool) : (t.setReg r v b).reg r = v := by
  simp [Thread.setReg, Thread.reg]

theorem setReg_reg_ne (t : Thread) (r q : XReg) (v : Word) (b : Bool) (h : q ≠ r) :
    (t.setReg r v b).reg q = t.reg q := by
  have : r.toNat ≠ q.toNat := fun e => h (BitVec.eq_of_toNat_eq e.symm)
  simp only [Thread.setReg, Thread.reg]
  exact Vector.getElem_set_ne _ _ this

theorem useXX_reads {s s2 : State} {a b : XReg} {x y : Word} {t : Bool} (h : ReadsTwo s a b x y t s2)
    (k : Word → Word → Bool → State → Res) : useXX s a b k = k x y t s2 := by
  obtain ⟨ta, tb, s1, h1, h2, e⟩ := h
  simp [useXX, h1 _, h2 _, e]

/-! ### Ends of words -/

theorem putX_takes {s s1 : State} {d : XReg} {v : Word} (h : Takes s d v s1) (t : Bool) :
    putX s d v t = .done (s1.setX d v t) := h _

theorem finish_done (s t : State) : finish s (.done t) = .next (t.retire none) := rfl

/-- A word alone that popped nothing: the program counter moves on by 4, or to the target. -/
theorem retire_lone {s : State} (hp : s.pos = .lone) (hq : s.popped = []) (t : Option Word) :
    s.retire t = { s with mark := .retired, popped := []
                          cur := { s.cur with pc := t.getD (s.cur.pc + 4), lastPc := s.cur.pc } } := by
  simp [State.retire, hp, State.commitPops, hq]

/-- Words of two x sources. -/
theorem binary_gives {s s2 s3 : State} {g : KReg} {d a b : XReg} {x y : Word} {t : Bool} (f : Word → Word → Word)
    (hg : GuardOn s g) (hf : PortsFit s [a, b] [d]) (hr : ReadsTwo s a b x y t s2) (ht : Takes s2 d (f x y) s3) :
    binary s g d a b f = .next ((s3.setX d (f x y) t).retire none) := by
  simp only [binary, guarded_active hg, legal_fit hf, useXX_reads hr, putX_takes ht, finish_done]

/-- Words of one x source. -/
theorem unary_gives {s s1 s3 : State} {g : KReg} {d a : XReg} {x : Word} {t : Bool} (f : Word → Word)
    (hg : GuardOn s g) (hf : PortsFit s [a] [d]) (hr : ReadsAs s a x t s1) (ht : Takes s1 d (f x) s3) :
    unary s g d a f = .next ((s3.setX d (f x) t).retire none) := by
  simp only [unary, guarded_active hg, legal_fit hf, hr _, putX_takes ht, finish_done]

/-- Words that read their destination. -/
theorem update_gives {s s1 s3 : State} {g : KReg} {d : XReg} {x : Word} {t : Bool} (f : Word → Word)
    (hg : GuardOn s g) (hf : PortsFit s [d] [d]) (hr : ReadsAs s d x t s1) (ht : Takes s1 d (f x) s3) :
    update s g d f = .next ((s3.setX d (f x) t).retire none) := by
  simp only [update, guarded_active hg, legal_fit hf, hr _, putX_takes ht, finish_done]

/-- Words of two x sources and a predicate. -/
theorem compare_gives {s s2 : State} {g k : KReg} {a b : XReg} {x y : Word} {t : Bool} (f : Word → Word → Bool)
    (hg : GuardOn s g) (hf : PortsFit s [a, b] []) (hr : ReadsTwo s a b x y t s2) :
    compare s g k a b f = .next (({ s2 with cur := s2.cur.setPred k (f x y) } : State).retire none) := by
  simp only [compare, guarded_active hg, legal_fit hf, useXX_reads hr, putK, finish_done]

/-- A guard of 0: the word retires and leaves what it found. -/
theorem finish_guarded_false {s : State} {g : KReg} (h : s.rd.pred g = false) (r : Res) :
    finish s (guarded s g r) = .next (s.retire none) := by rw [guarded_false h, finish_done]

/-! ### Words in the terms of the claims -/

theorem gives_binary {i : Instr} {s s2 : State} {g : KReg} {d a b : XReg} {x y v : Word} {t : Bool}
    (f : Word → Word → Word) (he : exec i s = binary s g d a b f) (hg : GuardOn s g) (hf : PortsFit s [a, b] [d])
    (hr : ReadsTwo s a b x y t s2) (hv : f x y = v) : Gives i s s2 d v t := by
  subst hv
  exact fun s3 ht => he.trans (binary_gives f hg hf hr ht)

theorem gives_unary {i : Instr} {s s1 : State} {g : KReg} {d a : XReg} {x v : Word} {t : Bool} (f : Word → Word)
    (he : exec i s = unary s g d a f) (hg : GuardOn s g) (hf : PortsFit s [a] [d]) (hr : ReadsAs s a x t s1)
    (hv : f x = v) : Gives i s s1 d v t := by
  subst hv
  exact fun s3 ht => he.trans (unary_gives f hg hf hr ht)

theorem gives_update {i : Instr} {s s1 : State} {g : KReg} {d : XReg} {x v : Word} {t : Bool} (f : Word → Word)
    (he : exec i s = update s g d f) (hg : GuardOn s g) (hf : PortsFit s [d] [d]) (hr : ReadsAs s d x t s1)
    (hv : f x = v) : Gives i s s1 d v t := by
  subst hv
  exact fun s3 ht => he.trans (update_gives f hg hf hr ht)

theorem givesK_compare {i : Instr} {s s2 : State} {g k : KReg} {a b : XReg} {x y : Word} {t v : Bool}
    (f : Word → Word → Bool) (he : exec i s = compare s g k a b f) (hg : GuardOn s g) (hf : PortsFit s [a, b] [])
    (hr : ReadsTwo s a b x y t s2) (hv : f x y = v) : GivesK i s s2 k v := by
  subst hv
  exact he.trans (compare_gives f hg hf hr)

theorem givesK_predicates {i : Instr} {s : State} {g k : KReg} {v : Bool} (f : Thread → Bool)
    (he : exec i s = predicates s g k f) (hg : GuardOn s g) (hv : f s.rd = v) : GivesK i s s k v := by
  subst hv
  refine he.trans ?_
  simp only [predicates, guarded_active hg, putK, finish_done]

/-! ### Runs of registers -/

theorem reads_run_nil (s : State) (r : Nat) : ReadsRun s r 0 [] s := fun _ => rfl

theorem reads_run_cons {s s1 s2 : State} {r n : Nat} {v : Word} {t : Bool} {vs : List Word}
    (h : ReadsAs s (BitVec.ofNat 4 r) v t s1) (hs : ReadsRun s1 (r + 1) n vs s2) : ReadsRun s r (n + 1) (v :: vs) s2 :=
  fun k => by simp only [useRun, h _, hs _]

theorem takes_run_nil (s : State) (d : Nat) : TakesRun s d [] s := fun _ => rfl

/-- The first register of a run is none of the ports. -/
theorem takes_run_cons {s s1 s2 : State} {d : Nat} {v : Word} {vs : List Word} (hb : s.rd.port? (BitVec.ofNat 4 d) = none)
    (h : Takes s (BitVec.ofNat 4 d) v s1) (hs : TakesRun s1 (d + 1) vs s2) : TakesRun s d (v :: vs) s2 := fun k => by
  have h' : ∀ k, destAfter s [] (BitVec.ofNat 4 d) v k = k s1 := h
  have hs' : ∀ k, destRunAfter s1 [] (d + 1) vs k = k s2 := hs
  simp only [destRun, destRunAfter, h', hb, Option.toList, List.append_nil, hs']

/-! ### Accesses -/

/-- What the checks of a granted access leave. -/
def checkedState (s : State) (kind : Acc1) (va : Word) (n : Nat) : State := cacheAccess (s.walksOf kind va n s) s.cur va n

/-- What a read finds in damaged granules changes their record and the fleet's. -/
theorem meet_eq (s : State) (hit : List Damage) :
    (s.meet hit).1 = { s with damage := (s.meet hit).1.damage, fleet := (s.meet hit).1.fleet } := by
  have key : ∀ (l : List Damage) (u : State),
      l.foldl (fun (s : State) (d : Damage) =>
        let h := s.spotHome d.spot
        (s.countEcc h.1 d.fatal).eccRecord h.1 h.2 (if d.fatal then 1 else 0) 0) u =
      { u with fleet := (l.foldl (fun (s : State) (d : Damage) =>
        let h := s.spotHome d.spot
        (s.countEcc h.1 d.fatal).eccRecord h.1 h.2 (if d.fatal then 1 else 0) 0) u).fleet } := by
    intro l
    induction l with
    | nil => exact fun _ => rfl
    | cons a r ih =>
      intro u
      rw [List.foldl_cons, ih]
      rfl
  unfold State.meet
  rw [key]

/-- The reads of a walk change nothing but lines, damage and the fleet's record. -/
theorem noteTables_eq (l : List Nat) (s : State) :
    s.noteTables l = { s with damage := (s.noteTables l).damage, fleet := (s.noteTables l).fleet, lines := (s.noteTables l).lines } := by
  induction l generalizing s with
  | nil => rfl
  | cons a r ih =>
    have e : s.noteTables (a :: r) = ((s.eccRead (physRange a 8)).1.touch (physRange a 8)).noteTables r := rfl
    rw [e, ih]
    unfold State.touch State.eccRead
    rw [meet_eq]

theorem noteWalk_eq (s : State) (c : CombNo) (d : DomNo) (va : Nat) :
    s.noteWalk c d va = { s with
      damage := (s.noteWalk c d va).damage, fleet := (s.noteWalk c d va).fleet, lines := (s.noteWalk c d va).lines } := by
  unfold State.noteWalk
  split
  · rfl
  · exact noteTables_eq _ s

/-- The walks of an access leave memory, requests and the thread's number as they are. -/
theorem walksOf_keeps (s u : State) (kind : Acc1) (va : Word) (n : Nat) :
    (s.walksOf kind va n u).mem = u.mem ∧ (s.walksOf kind va n u).reqs = u.reqs ∧ (s.walksOf kind va n u).cur.num = u.cur.num := by
  unfold State.walksOf
  dsimp only
  generalize List.filter _ _ = l
  induction l generalizing u with
  | nil => exact ⟨rfl, rfl, rfl⟩
  | cons a r ih =>
    rw [List.foldl_cons]
    obtain ⟨h1, h2, h3⟩ := ih ((u.countEv 10 1).noteWalk (combOf s.cur.core) a.1 a.2)
    rw [h1, h2, h3, noteWalk_eq]
    exact ⟨rfl, rfl, event_num ..⟩

/-- Caching a translation changes a comb and nothing else. -/
theorem cacheTr_eq (s : State) (c : CombNo) (d : DomNo) (va : Nat) (t : Tr) :
    cacheTr s c d va t = { s with combs := (cacheTr s c d va t).combs } := by
  unfold cacheTr
  split
  · dsimp only
    split <;> rfl
  · rfl

theorem cacheTr_mem (s : State) (c : CombNo) (d : DomNo) (va : Nat) (t : Tr) : (cacheTr s c d va t).mem = s.mem := by
  rw [cacheTr_eq]

theorem cacheAccess_eq (s : State) (t : Thread) (va : Word) (n : Nat) :
    cacheAccess s t va n = { s with combs := (cacheAccess s t va n).combs } := by
  have key : ∀ (l : List (DomNo × Nat)) (u : State),
      l.foldl (fun (s : State) p => cacheTr s (combOf t.core) p.1 p.2 (translate s (combOf t.core) p.1 p.2)) u =
        { u with combs := (l.foldl (fun (s : State) p => cacheTr s (combOf t.core) p.1 p.2 (translate s (combOf t.core) p.1 p.2)) u).combs } := by
    intro l
    induction l with
    | nil => exact fun _ => rfl
    | cons a r ih =>
      intro u
      rw [List.foldl_cons, ih, cacheTr_eq]
  exact key _ s

/-- The translation of an access leaves memory as it is. -/
theorem cacheAccess_mem (s : State) (t : Thread) (va : Word) (n : Nat) : (cacheAccess s t va n).mem = s.mem := by
  rw [cacheAccess_eq]

@[simp] theorem checkedState_reqs (s : State) (kind : Acc1) (va : Word) (n : Nat) : (checkedState s kind va n).reqs = s.reqs := by
  unfold checkedState
  rw [cacheAccess_eq]
  exact (walksOf_keeps ..).2.1

@[simp] theorem checkedState_mem (s : State) (kind : Acc1) (va : Word) (n : Nat) : (checkedState s kind va n).mem = s.mem := by
  unfold checkedState
  rw [cacheAccess_eq]
  exact (walksOf_keeps ..).1

@[simp] theorem checkedState_num (s : State) (kind : Acc1) (va : Word) (n : Nat) :
    (checkedState s kind va n).cur.num = s.cur.num := by
  unfold checkedState
  rw [cacheAccess_eq]
  exact (walksOf_keeps ..).2.2

/-- An access whose checks pass, with no bank in its way and no vector command's events before it. -/
theorem checked_of_checks {s : State} {kind : Acc1} {va : Word} {n : Nat} {ps : List Nat} (hg : s.cur.gated = false)
    (hc : checkAccess s s.cur kind va n = .ok ps) (hb : ps.findIdx? (s.barred s.cur.core) = none) (k : List Nat → State → Res) :
    checked s kind va n k = k ps (checkedState s kind va n) := by simp [checked, checkedState, hg, hc, hb]

/-- A relaxed access whose checks pass, with nothing in its way and no relaxed access of the thread on its bytes. -/
theorem relaxed_of_checks {s : State} {kind : Acc1} {va : Word} {n : Nat} {ps : List Nat} (hg : s.cur.gated = false)
    (hc : checkAccess s s.cur kind va n = .ok ps) (hb : ps.findIdx? (s.barred s.cur.core) = none)
    (ho : s.overlaps ps = false) : GrantsRelaxed s kind va n ps (checkedState s kind va n) := fun k => by
  have ho' : (checkedState s kind va n).overlaps ps = false := by simpa [State.overlaps] using ho
  simp [accessRelaxed, checked_of_checks hg hc hb, ho']

/-- A plain access whose checks pass, with no bank in its way, no relaxed access of the thread on its bytes and nothing
ahead of it at its homes. -/
theorem grants_of_checks {s : State} {kind : Acc1} {va : Word} {n : Nat} {ps : List Nat} (hg : s.cur.gated = false)
    (hc : checkAccess s s.cur kind va n = .ok ps) (hb : ps.findIdx? (s.barred s.cur.core) = none)
    (ho : s.overlaps ps = false) (ha : s.ahead ps = false) :
    Grants s kind va n ps (checkedState s kind va n) := fun k => by
  have ho' : (checkedState s kind va n).overlaps ps = false := by simpa [State.overlaps] using ho
  simp [access, accessRelaxed, checked_of_checks hg hc hb, ho', ha]

/-- Matrix words under a grant. -/
theorem tileMay_of_grant {s : State} {wordOk fused : Bool} {n : BitVec 4} {i : Bool × BitVec 3} {g : Grant}
    (ht : s.cur.tlo < 16) (hi : s.cur.intent = some i) (hg : (s.comb (combOf s.cur.core)).grantOf s.cur.num = some g)
    (he : g.entered < 64) (hw : wordOk = true) (hf : fused = true → g.whole = true) :
    TileMay s wordOk fused n g := fun k => by
  unfold tileIssue
  rw [if_neg (by omega), hi]
  simp only [hg]
  rw [if_neg (by omega), if_neg]
  cases fused <;> simp_all

/-- A descriptor whose access is granted. -/
theorem describes_of_grants {s s1 : State} {va : Word} {ps : List Nat} (ha : va.extractLsb' 0 6 = 0#6)
    (hg : Grants s .read va 64 ps s1) :
    Describes s va (s1.readDwords va ps).1 (s1.readDwords va ps).2 := fun k => by
  simp only [readDescriptor, ha, ne_eq, not_true_eq_false, if_false, hg _]

/-- A load at a physical address of bytes that exist, with nothing ahead of it. -/
theorem physLoad_of {s : State} {a n : Nat}
    (h : (physRange a n).all present = true ∧ s.cur.gated = false ∧ s.ahead (physRange a n) = false) (k : List Word → State → Res) :
    physLoad s a n k = k (s.readDwords (BitVec.ofNat 64 a) (physRange a n)).1 (s.readDwords (BitVec.ofNat 64 a) (physRange a n)).2 := by
  simp [physLoad, h.1, h.2.1, h.2.2]

/-- The entry that a handle names in the current domain's table, and the state once it is read. -/
def entryRead (s : State) (h : Word) : HEntry × State :=
  let slot := (h.extractLsb' 12 20).toNat
  let a := (s.domain s.cur.dom).htbase + 16 * slot
  let r := s.readDwords (BitVec.ofNat 64 a) (physRange a 16)
  (hentryOf slot (r.1.getD 0 0) (r.1.getD 1 0), r.2)

/-- A handle whose slot is in the table, and whose entry exists, is of the kind and has nothing ahead of its read. -/
theorem findsEntry_of {s : State} {h : Word} {kind : Nat}
    (hs : let slot := (h.extractLsb' 12 20).toNat
      let a := (s.domain s.cur.dom).htbase + 16 * slot
      ¬(slot = 0 ∨ (s.domain s.cur.dom).htlen ≤ slot) ∧
        ((physRange a 16).all present = true ∧ s.cur.gated = false ∧ s.ahead (physRange a 16) = false) ∧
        s.names (entryRead s h).1 h kind = true) :
    FindsEntry s h kind (entryRead s h).1 (entryRead s h).2 := fun k => by
  obtain ⟨h1, h2, h3⟩ := hs
  simp only [entryRead] at h3
  simp only [useEntry, if_neg h1, physLoad_of h2, h3, if_true, entryRead]

/-- A gate descriptor and the state once it is read. -/
def gateRead (s : State) (a : Nat) : GateDesc × State :=
  let r := s.readDwords (BitVec.ofNat 64 a) (physRange a 64)
  (gateOf a fun i => r.1.getD i 0, r.2)

theorem findsGate_of {s : State} {a : Nat} (h : (physRange a 64).all present = true ∧ s.cur.gated = false ∧ s.ahead (physRange a 64) = false) :
    FindsGate s a (gateRead s a).1 (gateRead s a).2 := fun k => by
  simp only [useGate, physLoad_of h, gateRead]

/-- Slots of which none is another's or parked. -/
theorem slotsPass_of_none {s : State} {subs : List (BitVec 2)} {ns : List (BitVec 4)}
    (h : ∀ q ∈ subs, ∀ n ∈ ns, slotReason ((s.comb (combOf s.cur.core)).acc? q n) s.cur = none) :
    SlotsPass s subs ns := fun r => by
  have : (subs.findSome? fun q => ns.findSome? fun n =>
      (slotReason ((s.comb (combOf s.cur.core)).acc? q n) s.cur).map fun r => (r, q, n)) = none := by
    simp only [List.findSome?_eq_none_iff, Option.map_eq_none_iff]
    exact h
  simp only [checkSlots, this]

end Sys2Proof.Machine
end

