-- ==== Sys2Proof/Laws/PerInstr.lean ====
section
/-! SUPPORT. The family RoundTrip: a well-formed word, encoded, decodes to itself (02_encoding.md R33 to R55), one lemma per
constructor. -/

namespace Sys2Proof.Laws.RoundTrip

/-- What is stated of an instruction: its word, lone or in a pair, decodes to it. -/
def Statement (i : Instr) : Prop :=
  ∀ (l : BitVec 1) (w : Word32), i.wf = true → i.encode l = some w → decodeWord w = .ok i

theorem high {n m : Nat} (x : BitVec n) (y : BitVec m) (lo len : Nat) (h : m ≤ lo) :
    (x ++ y).extractLsb' lo len = x.extractLsb' (lo - m) len := BitVec.extractLsb'_append_eq_of_le h

theorem low {n m : Nat} (x : BitVec n) (y : BitVec m) (lo len : Nat) (h : lo + len ≤ m) :
    (x ++ y).extractLsb' lo len = y.extractLsb' lo len := BitVec.extractLsb'_append_eq_of_add_le h

theorem whole {n : Nat} (x : BitVec n) : x.extractLsb' 0 n = x := BitVec.extractLsb'_eq_self

theorem of_class_c {i : Instr} {w : Word32} (hw : i.wf = true) (h : fld w 30 1 = 0#1) (e : decodeC w = .ok i) :
    decodeWord w = .ok i := by
  simp [decodeWord, decodeRaw, h, e, hw]

theorem of_class_a {i : Instr} {w : Word32} (hw : i.wf = true) (h : fld w 30 1 = 1#1) (e : decodeA w = .ok i) :
    decodeWord w = .ok i := by
  simp [decodeWord, decodeRaw, h, e, hw]

/-- A row of the table that has no word. -/
theorem no_word {i : Instr} (h : ∀ l, i.encode l = none) : Statement i := by
  intro l w _ e
  simp [h l] at e

theorem nop (g) : Statement (.nop g) := by
  rintro l _ hw ⟨⟩
  refine of_class_c hw ?_ ?_
  · simp (disch := decide) only [high, low, whole, Nat.reduceSub]
  · simp (disch := decide) only [needFixed, decodeC, decodeSystem, high, low, whole, Nat.reduceSub, BitVec.reduceToNat]
    rfl
theorem ret (g) : Statement (.ret g) := by
  rintro l _ hw ⟨⟩
  refine of_class_c hw ?_ ?_
  · simp (disch := decide) only [high, low, whole, Nat.reduceSub]
  · simp (disch := decide) only [needFixed, decodeC, decodeSystem, high, low, whole, Nat.reduceSub, BitVec.reduceToNat]
    rfl
theorem jx (g a) : Statement (.jx g a) := by
  rintro l _ hw ⟨⟩
  refine of_class_c hw ?_ ?_
  · simp (disch := decide) only [high, low, whole, Nat.reduceSub]
  · simp (disch := decide) only [needFixed, decodeC, decodeSystem, high, low, whole, Nat.reduceSub, BitVec.reduceToNat]
    rfl
theorem callx (g a) : Statement (.callx g a) := by
  rintro l _ hw ⟨⟩
  refine of_class_c hw ?_ ?_
  · simp (disch := decide) only [high, low, whole, Nat.reduceSub]
  · simp (disch := decide) only [needFixed, decodeC, decodeSystem, high, low, whole, Nat.reduceSub, BitVec.reduceToNat]
    rfl
theorem nap (g a) : Statement (.nap g a) := by
  rintro l _ hw ⟨⟩
  refine of_class_c hw ?_ ?_
  · simp (disch := decide) only [high, low, whole, Nat.reduceSub]
  · simp (disch := decide) only [needFixed, decodeC, decodeSystem, high, low, whole, Nat.reduceSub, BitVec.reduceToNat]
    rfl
theorem rdcyc (g d) : Statement (.rdcyc g d) := by
  rintro l _ hw ⟨⟩
  refine of_class_c hw ?_ ?_
  · simp (disch := decide) only [high, low, whole, Nat.reduceSub]
  · simp (disch := decide) only [needFixed, decodeC, decodeSystem, high, low, whole, Nat.reduceSub, BitVec.reduceToNat]
    rfl
theorem tret (g) : Statement (.tret g) := by
  rintro l _ hw ⟨⟩
  refine of_class_c hw ?_ ?_
  · simp (disch := decide) only [high, low, whole, Nat.reduceSub]
  · simp (disch := decide) only [needFixed, decodeC, decodeSystem, high, low, whole, Nat.reduceSub, BitVec.reduceToNat]
    rfl
theorem yield (g) : Statement (.yield g) := by
  rintro l _ hw ⟨⟩
  refine of_class_c hw ?_ ?_
  · simp (disch := decide) only [high, low, whole, Nat.reduceSub]
  · simp (disch := decide) only [needFixed, decodeC, decodeSystem, high, low, whole, Nat.reduceSub, BitVec.reduceToNat]
    rfl
theorem quit (g) : Statement (.quit g) := by
  rintro l _ hw ⟨⟩
  refine of_class_c hw ?_ ?_
  · simp (disch := decide) only [high, low, whole, Nat.reduceSub]
  · simp (disch := decide) only [needFixed, decodeC, decodeSystem, high, low, whole, Nat.reduceSub, BitVec.reduceToNat]
    rfl
theorem sysrd (g d i) : Statement (.sysrd g d i) := by
  rintro l _ hw ⟨⟩
  refine of_class_c hw ?_ ?_
  · simp (disch := decide) only [high, low, whole, Nat.reduceSub]
  · simp (disch := decide) only [needFixed, decodeC, high, low, whole, Nat.reduceSub, BitVec.reduceToNat]
    rfl
theorem syswr (g a i) : Statement (.syswr g a i) := by
  rintro l _ hw ⟨⟩
  refine of_class_c hw ?_ ?_
  · simp (disch := decide) only [high, low, whole, Nat.reduceSub]
  · simp (disch := decide) only [needFixed, decodeC, high, low, whole, Nat.reduceSub, BitVec.reduceToNat]
    rfl
theorem trap (g i) : Statement (.trap g i) := by
  rintro l _ hw ⟨⟩
  refine of_class_c hw ?_ ?_
  · simp (disch := decide) only [high, low, whole, Nat.reduceSub]
  · simp (disch := decide) only [needFixed, decodeC, high, low, whole, Nat.reduceSub, BitVec.reduceToNat]
    rfl
theorem brk (g i) : Statement (.brk g i) := by
  rintro l _ hw ⟨⟩
  refine of_class_c hw ?_ ?_
  · simp (disch := decide) only [high, low, whole, Nat.reduceSub]
  · simp (disch := decide) only [needFixed, decodeC, high, low, whole, Nat.reduceSub, BitVec.reduceToNat]
    rfl
theorem hcall (g i) : Statement (.hcall g i) := by
  rintro l _ hw ⟨⟩
  refine of_class_c hw ?_ ?_
  · simp (disch := decide) only [high, low, whole, Nat.reduceSub]
  · simp (disch := decide) only [needFixed, decodeC, high, low, whole, Nat.reduceSub, BitVec.reduceToNat]
    rfl
theorem b (g n f) : Statement (.b g n f) := by
  rintro l _ hw ⟨⟩
  refine of_class_c hw ?_ ?_
  · simp (disch := decide) only [high, low, whole, Nat.reduceSub]
  · simp (disch := decide) only [decodeC, high, low, whole, Nat.reduceSub, BitVec.reduceToNat]
theorem call (g n f) : Statement (.call g n f) := by
  rintro l _ hw ⟨⟩
  refine of_class_c hw ?_ ?_
  · simp (disch := decide) only [high, low, whole, Nat.reduceSub]
  · simp (disch := decide) only [decodeC, high, low, whole, Nat.reduceSub, BitVec.reduceToNat]
theorem loop (g d i) : Statement (.loop g d i) := by
  rintro l _ hw ⟨⟩
  refine of_class_c hw ?_ ?_
  · simp (disch := decide) only [high, low, whole, Nat.reduceSub]
  · simp (disch := decide) only [needFixed, decodeC, high, low, whole, Nat.reduceSub, BitVec.reduceToNat]
    rfl
theorem ldI8 (g d a r h s f) : Statement (.ldI8 g d a r h s f) := by
  rintro l _ hw ⟨⟩
  refine of_class_c hw ?_ ?_
  · simp (disch := decide) only [high, low, whole, Nat.reduceSub]
  · simp (disch := decide) only [decodeC, high, low, whole, Nat.reduceSub, BitVec.reduceToNat]
theorem ldN8 (g d a r h s f) : Statement (.ldN8 g d a r h s f) := by
  rintro l _ hw ⟨⟩
  refine of_class_c hw ?_ ?_
  · simp (disch := decide) only [high, low, whole, Nat.reduceSub]
  · simp (disch := decide) only [decodeC, high, low, whole, Nat.reduceSub, BitVec.reduceToNat]
theorem ldI16 (g d a r h s f) : Statement (.ldI16 g d a r h s f) := by
  rintro l _ hw ⟨⟩
  refine of_class_c hw ?_ ?_
  · simp (disch := decide) only [high, low, whole, Nat.reduceSub]
  · simp (disch := decide) only [decodeC, high, low, whole, Nat.reduceSub, BitVec.reduceToNat]
theorem ldN16 (g d a r h s f) : Statement (.ldN16 g d a r h s f) := by
  rintro l _ hw ⟨⟩
  refine of_class_c hw ?_ ?_
  · simp (disch := decide) only [high, low, whole, Nat.reduceSub]
  · simp (disch := decide) only [decodeC, high, low, whole, Nat.reduceSub, BitVec.reduceToNat]
theorem ldI32 (g d a r h s f) : Statement (.ldI32 g d a r h s f) := by
  rintro l _ hw ⟨⟩
  refine of_class_c hw ?_ ?_
  · simp (disch := decide) only [high, low, whole, Nat.reduceSub]
  · simp (disch := decide) only [decodeC, high, low, whole, Nat.reduceSub, BitVec.reduceToNat]
theorem ldN32 (g d a r h s f) : Statement (.ldN32 g d a r h s f) := by
  rintro l _ hw ⟨⟩
  refine of_class_c hw ?_ ?_
  · simp (disch := decide) only [high, low, whole, Nat.reduceSub]
  · simp (disch := decide) only [decodeC, high, low, whole, Nat.reduceSub, BitVec.reduceToNat]
theorem ldI64 (g d a r h s f) : Statement (.ldI64 g d a r h s f) := by
  rintro l _ hw ⟨⟩
  refine of_class_c hw ?_ ?_
  · simp (disch := decide) only [high, low, whole, Nat.reduceSub]
  · simp (disch := decide) only [decodeC, high, low, whole, Nat.reduceSub, BitVec.reduceToNat]
theorem ldc (g d a r h s f) : Statement (.ldc g d a r h s f) := by
  rintro l _ hw ⟨⟩
  refine of_class_c hw ?_ ?_
  · simp (disch := decide) only [high, low, whole, Nat.reduceSub]
  · simp (disch := decide) only [decodeC, high, low, whole, Nat.reduceSub, BitVec.reduceToNat]
theorem st8 (g d a r h s f) : Statement (.st8 g d a r h s f) := by
  rintro l _ hw ⟨⟩
  refine of_class_c hw ?_ ?_
  · simp (disch := decide) only [high, low, whole, Nat.reduceSub]
  · simp (disch := decide) only [decodeC, high, low, whole, Nat.reduceSub, BitVec.reduceToNat]
theorem st16 (g d a r h s f) : Statement (.st16 g d a r h s f) := by
  rintro l _ hw ⟨⟩
  refine of_class_c hw ?_ ?_
  · simp (disch := decide) only [high, low, whole, Nat.reduceSub]
  · simp (disch := decide) only [decodeC, high, low, whole, Nat.reduceSub, BitVec.reduceToNat]
theorem st32 (g d a r h s f) : Statement (.st32 g d a r h s f) := by
  rintro l _ hw ⟨⟩
  refine of_class_c hw ?_ ?_
  · simp (disch := decide) only [high, low, whole, Nat.reduceSub]
  · simp (disch := decide) only [decodeC, high, low, whole, Nat.reduceSub, BitVec.reduceToNat]
theorem st64 (g d a r h s f) : Statement (.st64 g d a r h s f) := by
  rintro l _ hw ⟨⟩
  refine of_class_c hw ?_ ?_
  · simp (disch := decide) only [high, low, whole, Nat.reduceSub]
  · simp (disch := decide) only [decodeC, high, low, whole, Nat.reduceSub, BitVec.reduceToNat]
theorem lea (g d a c s f) : Statement (.lea g d a c s f) := by
  rintro l _ hw ⟨⟩
  refine of_class_c hw ?_ ?_
  · simp (disch := decide) only [high, low, whole, Nat.reduceSub]
  · simp (disch := decide) only [decodeC, high, low, whole, Nat.reduceSub, BitVec.reduceToNat]
theorem wchg (g d a s f) : Statement (.wchg g d a s f) := by
  rintro l _ hw ⟨⟩
  refine of_class_c hw ?_ ?_
  · simp (disch := decide) only [high, low, whole, Nat.reduceSub]
  · simp (disch := decide) only [needFixed, decodeC, high, low, whole, Nat.reduceSub, BitVec.reduceToNat]
    rfl
theorem hop (g a s f) : Statement (.hop g a s f) := by
  rintro l _ hw ⟨⟩
  refine of_class_c hw ?_ ?_
  · simp (disch := decide) only [high, low, whole, Nat.reduceSub]
  · simp (disch := decide) only [needFixed, decodeC, high, low, whole, Nat.reduceSub, BitVec.reduceToNat]
    rfl
theorem probe (g d a s f) : Statement (.probe g d a s f) := by
  rintro l _ hw ⟨⟩
  refine of_class_c hw ?_ ?_
  · simp (disch := decide) only [high, low, whole, Nat.reduceSub]
  · simp (disch := decide) only [needFixed, decodeC, high, low, whole, Nat.reduceSub, BitVec.reduceToNat]
    rfl
theorem amo (g d a rb o w s) : Statement (.amo g d a rb o w s) := by
  rintro l _ hw ⟨⟩
  refine of_class_c hw ?_ ?_
  · simp (disch := decide) only [high, low, whole, Nat.reduceSub]
  · simp (disch := decide) only [decodeC, high, low, whole, Nat.reduceSub, BitVec.reduceToNat]
theorem rxAmo (g d a rb o w s) : Statement (.rxAmo g d a rb o w s) := by
  rintro l _ hw ⟨⟩
  refine of_class_c hw ?_ ?_
  · simp (disch := decide) only [high, low, whole, Nat.reduceSub]
  · simp (disch := decide) only [decodeC, high, low, whole, Nat.reduceSub, BitVec.reduceToNat]
theorem fence (g s) : Statement (.fence g s) := by
  rintro l _ hw ⟨⟩
  refine of_class_c hw ?_ ?_
  · simp (disch := decide) only [high, low, whole, Nat.reduceSub]
  · simp (disch := decide) only [needFixed, decodeC, high, low, whole, Nat.reduceSub, BitVec.reduceToNat]
    rfl
theorem wait (g d a c t) : Statement (.wait g d a c t) := by
  rintro l _ hw ⟨⟩
  refine of_class_c hw ?_ ?_
  · simp (disch := decide) only [high, low, whole, Nat.reduceSub]
  · simp (disch := decide) only [needFixed, decodeC, high, low, whole, Nat.reduceSub, BitVec.reduceToNat]
    rfl
theorem msend (g a rb m) : Statement (.msend g a rb m) := by
  rintro l _ hw ⟨⟩
  refine of_class_c hw ?_ ?_
  · simp (disch := decide) only [high, low, whole, Nat.reduceSub]
  · simp (disch := decide) only [needFixed, decodeC, decodeMessage, high, low, whole, Nat.reduceSub, BitVec.reduceToNat]
    rfl
theorem mrecv (g d m) : Statement (.mrecv g d m) := by
  rintro l _ hw ⟨⟩
  refine of_class_c hw ?_ ?_
  · simp (disch := decide) only [high, low, whole, Nat.reduceSub]
  · simp (disch := decide) only [needFixed, decodeC, decodeMessage, high, low, whole, Nat.reduceSub, BitVec.reduceToNat]
    rfl
theorem waitm (g) : Statement (.waitm g) := by
  rintro l _ hw ⟨⟩
  refine of_class_c hw ?_ ?_
  · simp (disch := decide) only [high, low, whole, Nat.reduceSub]
  · simp (disch := decide) only [needFixed, decodeC, decodeMessage, high, low, whole, Nat.reduceSub, BitVec.reduceToNat]
    rfl
theorem mlease (g d e p) : Statement (.mlease g d e p) := by
  rintro l _ hw ⟨⟩
  refine of_class_c hw ?_ ?_
  · simp (disch := decide) only [high, low, whole, Nat.reduceSub]
  · simp (disch := decide) only [needFixed, decodeC, high, low, whole, Nat.reduceSub, BitVec.reduceToNat]
    rfl
theorem mfree (g) : Statement (.mfree g) := by
  rintro l _ hw ⟨⟩
  refine of_class_c hw ?_ ?_
  · simp (disch := decide) only [high, low, whole, Nat.reduceSub]
  · simp (disch := decide) only [needFixed, decodeC, high, low, whole, Nat.reduceSub, BitVec.reduceToNat]
    rfl
theorem mbload (g a rb) : Statement (.mbload g a rb) := by
  rintro l _ hw ⟨⟩
  refine of_class_c hw ?_ ?_
  · simp (disch := decide) only [high, low, whole, Nat.reduceSub]
  · simp (disch := decide) only [needFixed, decodeC, high, low, whole, Nat.reduceSub, BitVec.reduceToNat]
    rfl
theorem mma (g d a rb s p) : Statement (.mma g d a rb s p) := by
  rintro l _ hw ⟨⟩
  refine of_class_c hw ?_ ?_
  · simp (disch := decide) only [high, low, whole, Nat.reduceSub]
  · simp (disch := decide) only [needFixed, decodeC, high, low, whole, Nat.reduceSub, BitVec.reduceToNat]
    rfl
theorem mmas (g d a rb s p) : Statement (.mmas g d a rb s p) := by
  rintro l _ hw ⟨⟩
  refine of_class_c hw ?_ ?_
  · simp (disch := decide) only [high, low, whole, Nat.reduceSub]
  · simp (disch := decide) only [needFixed, decodeC, high, low, whole, Nat.reduceSub, BitVec.reduceToNat]
    rfl
theorem mzero (g d s x) : Statement (.mzero g d s x) := by
  rintro l _ hw ⟨⟩
  refine of_class_c hw ?_ ?_
  · simp (disch := decide) only [high, low, whole, Nat.reduceSub]
  · simp (disch := decide) only [needFixed, decodeC, high, low, whole, Nat.reduceSub, BitVec.reduceToNat]
    rfl
theorem mdrain (g d a rb m c x s) : Statement (.mdrain g d a rb m c x s) := by
  rintro l _ hw ⟨⟩
  refine of_class_c hw ?_ ?_
  · simp (disch := decide) only [high, low, whole, Nat.reduceSub]
  · simp (disch := decide) only [needFixed, decodeC, high, low, whole, Nat.reduceSub, BitVec.reduceToNat]
    rfl
theorem magr (g a t) : Statement (.magr g a t) := by
  rintro l _ hw ⟨⟩
  refine of_class_c hw ?_ ?_
  · simp (disch := decide) only [high, low, whole, Nat.reduceSub]
  · simp (disch := decide) only [needFixed, decodeC, decodeMatrixControl, high, low, whole, Nat.reduceSub, BitVec.reduceToNat]
    rfl
theorem mstat (g d n) : Statement (.mstat g d n) := by
  rintro l _ hw ⟨⟩
  refine of_class_c hw ?_ ?_
  · simp (disch := decide) only [high, low, whole, Nat.reduceSub]
  · simp (disch := decide) only [needFixed, decodeC, decodeMatrixControl, high, low, whole, Nat.reduceSub, BitVec.reduceToNat]
    rfl
theorem mreclaim (g d n) : Statement (.mreclaim g d n) := by
  rintro l _ hw ⟨⟩
  refine of_class_c hw ?_ ?_
  · simp (disch := decide) only [high, low, whole, Nat.reduceSub]
  · simp (disch := decide) only [needFixed, decodeC, decodeMatrixControl, high, low, whole, Nat.reduceSub, BitVec.reduceToNat]
    rfl
theorem mfmt (g a t) : Statement (.mfmt g a t) := by
  rintro l _ hw ⟨⟩
  refine of_class_c hw ?_ ?_
  · simp (disch := decide) only [high, low, whole, Nat.reduceSub]
  · simp (disch := decide) only [needFixed, decodeC, decodeMatrixControl, high, low, whole, Nat.reduceSub, BitVec.reduceToNat]
    rfl
theorem xcopy (g d a rb p m c) : Statement (.xcopy g d a rb p m c) := by
  rintro l _ hw ⟨⟩
  refine of_class_c hw ?_ ?_
  · simp (disch := decide) only [high, low, whole, Nat.reduceSub]
  · simp (disch := decide) only [needFixed, decodeC, decodeCopy, high, low, whole, Nat.reduceSub, BitVec.reduceToNat]
    rfl
theorem xcopyv (g d a rb p m c) : Statement (.xcopyv g d a rb p m c) := by
  rintro l _ hw ⟨⟩
  refine of_class_c hw ?_ ?_
  · simp (disch := decide) only [high, low, whole, Nat.reduceSub]
  · simp (disch := decide) only [needFixed, decodeC, decodeCopy, high, low, whole, Nat.reduceSub, BitVec.reduceToNat]
    rfl
theorem xgather (g d a rb p m c) : Statement (.xgather g d a rb p m c) := by
  rintro l _ hw ⟨⟩
  refine of_class_c hw ?_ ?_
  · simp (disch := decide) only [high, low, whole, Nat.reduceSub]
  · simp (disch := decide) only [needFixed, decodeC, decodeCopy, high, low, whole, Nat.reduceSub, BitVec.reduceToNat]
    rfl
theorem xscatter (g d a rb p m c) : Statement (.xscatter g d a rb p m c) := by
  rintro l _ hw ⟨⟩
  refine of_class_c hw ?_ ?_
  · simp (disch := decide) only [high, low, whole, Nat.reduceSub]
  · simp (disch := decide) only [needFixed, decodeC, decodeCopy, high, low, whole, Nat.reduceSub, BitVec.reduceToNat]
    rfl
theorem xfill (g d a rb p m c) : Statement (.xfill g d a rb p m c) := by
  rintro l _ hw ⟨⟩
  refine of_class_c hw ?_ ?_
  · simp (disch := decide) only [high, low, whole, Nat.reduceSub]
  · simp (disch := decide) only [needFixed, decodeC, decodeCopy, high, low, whole, Nat.reduceSub, BitVec.reduceToNat]
    rfl
theorem xdeal (g d a rb p m c) : Statement (.xdeal g d a rb p m c) := by
  rintro l _ hw ⟨⟩
  refine of_class_c hw ?_ ?_
  · simp (disch := decide) only [high, low, whole, Nat.reduceSub]
  · simp (disch := decide) only [needFixed, decodeC, decodeCopy, high, low, whole, Nat.reduceSub, BitVec.reduceToNat]
    rfl
theorem pbind (g d a k e) : Statement (.pbind g d a k e) := by
  rintro l _ hw ⟨⟩
  refine of_class_c hw ?_ ?_
  · simp (disch := decide) only [high, low, whole, Nat.reduceSub]
  · simp (disch := decide) only [needFixed, decodeC, decodePort, high, low, whole, Nat.reduceSub, BitVec.reduceToNat]
    rfl
theorem punbind (g d) : Statement (.punbind g d) := by
  rintro l _ hw ⟨⟩
  refine of_class_c hw ?_ ?_
  · simp (disch := decide) only [high, low, whole, Nat.reduceSub]
  · simp (disch := decide) only [needFixed, decodeC, decodePort, high, low, whole, Nat.reduceSub, BitVec.reduceToNat]
    rfl
theorem spawn (g k a rb) : Statement (.spawn g k a rb) := by
  rintro l _ hw ⟨⟩
  refine of_class_c hw ?_ ?_
  · simp (disch := decide) only [high, low, whole, Nat.reduceSub]
  · simp (disch := decide) only [needFixed, decodeC, decodeSpawn, high, low, whole, Nat.reduceSub, BitVec.reduceToNat]
    rfl
theorem spawnW (g k a rb) : Statement (.spawnW g k a rb) := by
  rintro l _ hw ⟨⟩
  refine of_class_c hw ?_ ?_
  · simp (disch := decide) only [high, low, whole, Nat.reduceSub]
  · simp (disch := decide) only [needFixed, decodeC, decodeSpawn, high, low, whole, Nat.reduceSub, BitVec.reduceToNat]
    rfl
theorem kopen (g d a) : Statement (.kopen g d a) := by
  rintro l _ hw ⟨⟩
  refine of_class_c hw ?_ ?_
  · simp (disch := decide) only [high, low, whole, Nat.reduceSub]
  · simp (disch := decide) only [needFixed, decodeC, decodeKeyed, high, low, whole, Nat.reduceSub, BitVec.reduceToNat]
    rfl
theorem kclose (g d a) : Statement (.kclose g d a) := by
  rintro l _ hw ⟨⟩
  refine of_class_c hw ?_ ?_
  · simp (disch := decide) only [high, low, whole, Nat.reduceSub]
  · simp (disch := decide) only [needFixed, decodeC, decodeKeyed, high, low, whole, Nat.reduceSub, BitVec.reduceToNat]
    rfl
theorem kput (g a rb) : Statement (.kput g a rb) := by
  rintro l _ hw ⟨⟩
  refine of_class_c hw ?_ ?_
  · simp (disch := decide) only [high, low, whole, Nat.reduceSub]
  · simp (disch := decide) only [needFixed, decodeC, decodeKeyed, high, low, whole, Nat.reduceSub, BitVec.reduceToNat]
    rfl
theorem kwait (g) : Statement (.kwait g) := by
  rintro l _ hw ⟨⟩
  refine of_class_c hw ?_ ?_
  · simp (disch := decide) only [high, low, whole, Nat.reduceSub]
  · simp (disch := decide) only [needFixed, decodeC, decodeKeyed, high, low, whole, Nat.reduceSub, BitVec.reduceToNat]
    rfl
theorem kend (g) : Statement (.kend g) := by
  rintro l _ hw ⟨⟩
  refine of_class_c hw ?_ ?_
  · simp (disch := decide) only [high, low, whole, Nat.reduceSub]
  · simp (disch := decide) only [needFixed, decodeC, decodeKeyed, high, low, whole, Nat.reduceSub, BitVec.reduceToNat]
    rfl
theorem kstat (g d a rb) : Statement (.kstat g d a rb) := by
  rintro l _ hw ⟨⟩
  refine of_class_c hw ?_ ?_
  · simp (disch := decide) only [high, low, whole, Nat.reduceSub]
  · simp (disch := decide) only [needFixed, decodeC, decodeKeyed, high, low, whole, Nat.reduceSub, BitVec.reduceToNat]
    rfl
theorem gcall (g d a rb) : Statement (.gcall g d a rb) := by
  rintro l _ hw ⟨⟩
  refine of_class_c hw ?_ ?_
  · simp (disch := decide) only [high, low, whole, Nat.reduceSub]
  · simp (disch := decide) only [needFixed, decodeC, decodeGate, high, low, whole, Nat.reduceSub, BitVec.reduceToNat]
    rfl
theorem gret (g n) : Statement (.gret g n) := by
  rintro l _ hw ⟨⟩
  refine of_class_c hw ?_ ?_
  · simp (disch := decide) only [high, low, whole, Nat.reduceSub]
  · simp (disch := decide) only [needFixed, decodeC, decodeGate, high, low, whole, Nat.reduceSub, BitVec.reduceToNat]
    rfl
theorem awin (g d a rb e) : Statement (.awin g d a rb e) := by
  rintro l _ hw ⟨⟩
  refine of_class_c hw ?_ ?_
  · simp (disch := decide) only [high, low, whole, Nat.reduceSub]
  · simp (disch := decide) only [needFixed, decodeC, decodeGate, high, low, whole, Nat.reduceSub, BitVec.reduceToNat]
    rfl
theorem gstat (g d a n) : Statement (.gstat g d a n) := by
  rintro l _ hw ⟨⟩
  refine of_class_c hw ?_ ?_
  · simp (disch := decide) only [high, low, whole, Nat.reduceSub]
  · simp (disch := decide) only [needFixed, decodeC, decodeGate, high, low, whole, Nat.reduceSub, BitVec.reduceToNat]
    rfl
theorem add (g d a rb) : Statement (.add g d a rb) := by
  rintro l _ hw ⟨⟩
  refine of_class_a hw ?_ ?_
  · simp (disch := decide) only [high, low, whole, Nat.reduceSub]
  · simp (disch := decide) only [decodeA, decodeInteger, high, low, whole, Nat.reduceSub, BitVec.reduceToNat]
theorem sub (g d a rb) : Statement (.sub g d a rb) := by
  rintro l _ hw ⟨⟩
  refine of_class_a hw ?_ ?_
  · simp (disch := decide) only [high, low, whole, Nat.reduceSub]
  · simp (disch := decide) only [decodeA, decodeInteger, high, low, whole, Nat.reduceSub, BitVec.reduceToNat]
theorem mul (g d a rb) : Statement (.mul g d a rb) := by
  rintro l _ hw ⟨⟩
  refine of_class_a hw ?_ ?_
  · simp (disch := decide) only [high, low, whole, Nat.reduceSub]
  · simp (disch := decide) only [decodeA, decodeInteger, high, low, whole, Nat.reduceSub, BitVec.reduceToNat]
theorem mulhI (g d a rb) : Statement (.mulhI g d a rb) := by
  rintro l _ hw ⟨⟩
  refine of_class_a hw ?_ ?_
  · simp (disch := decide) only [high, low, whole, Nat.reduceSub]
  · simp (disch := decide) only [decodeA, decodeInteger, high, low, whole, Nat.reduceSub, BitVec.reduceToNat]
theorem mulhN (g d a rb) : Statement (.mulhN g d a rb) := by
  rintro l _ hw ⟨⟩
  refine of_class_a hw ?_ ?_
  · simp (disch := decide) only [high, low, whole, Nat.reduceSub]
  · simp (disch := decide) only [decodeA, decodeInteger, high, low, whole, Nat.reduceSub, BitVec.reduceToNat]
theorem divI (g d a rb) : Statement (.divI g d a rb) := by
  rintro l _ hw ⟨⟩
  refine of_class_a hw ?_ ?_
  · simp (disch := decide) only [high, low, whole, Nat.reduceSub]
  · simp (disch := decide) only [decodeA, decodeInteger, high, low, whole, Nat.reduceSub, BitVec.reduceToNat]
theorem divN (g d a rb) : Statement (.divN g d a rb) := by
  rintro l _ hw ⟨⟩
  refine of_class_a hw ?_ ?_
  · simp (disch := decide) only [high, low, whole, Nat.reduceSub]
  · simp (disch := decide) only [decodeA, decodeInteger, high, low, whole, Nat.reduceSub, BitVec.reduceToNat]
theorem remI (g d a rb) : Statement (.remI g d a rb) := by
  rintro l _ hw ⟨⟩
  refine of_class_a hw ?_ ?_
  · simp (disch := decide) only [high, low, whole, Nat.reduceSub]
  · simp (disch := decide) only [decodeA, decodeInteger, high, low, whole, Nat.reduceSub, BitVec.reduceToNat]
theorem remN (g d a rb) : Statement (.remN g d a rb) := by
  rintro l _ hw ⟨⟩
  refine of_class_a hw ?_ ?_
  · simp (disch := decide) only [high, low, whole, Nat.reduceSub]
  · simp (disch := decide) only [decodeA, decodeInteger, high, low, whole, Nat.reduceSub, BitVec.reduceToNat]
theorem addsatI (g d a rb) : Statement (.addsatI g d a rb) := by
  rintro l _ hw ⟨⟩
  refine of_class_a hw ?_ ?_
  · simp (disch := decide) only [high, low, whole, Nat.reduceSub]
  · simp (disch := decide) only [decodeA, decodeInteger, high, low, whole, Nat.reduceSub, BitVec.reduceToNat]
theorem addsatN (g d a rb) : Statement (.addsatN g d a rb) := by
  rintro l _ hw ⟨⟩
  refine of_class_a hw ?_ ?_
  · simp (disch := decide) only [high, low, whole, Nat.reduceSub]
  · simp (disch := decide) only [decodeA, decodeInteger, high, low, whole, Nat.reduceSub, BitVec.reduceToNat]
theorem subsatI (g d a rb) : Statement (.subsatI g d a rb) := by
  rintro l _ hw ⟨⟩
  refine of_class_a hw ?_ ?_
  · simp (disch := decide) only [high, low, whole, Nat.reduceSub]
  · simp (disch := decide) only [decodeA, decodeInteger, high, low, whole, Nat.reduceSub, BitVec.reduceToNat]
theorem subsatN (g d a rb) : Statement (.subsatN g d a rb) := by
  rintro l _ hw ⟨⟩
  refine of_class_a hw ?_ ?_
  · simp (disch := decide) only [high, low, whole, Nat.reduceSub]
  · simp (disch := decide) only [decodeA, decodeInteger, high, low, whole, Nat.reduceSub, BitVec.reduceToNat]
theorem abs (g d a) : Statement (.abs g d a) := by
  rintro l _ hw ⟨⟩
  refine of_class_a hw ?_ ?_
  · simp (disch := decide) only [high, low, whole, Nat.reduceSub]
  · simp (disch := decide) only [needFixed, decodeA, decodeInteger, high, low, whole, Nat.reduceSub, BitVec.reduceToNat]
    rfl
theorem neg (g d a) : Statement (.neg g d a) := by
  rintro l _ hw ⟨⟩
  refine of_class_a hw ?_ ?_
  · simp (disch := decide) only [high, low, whole, Nat.reduceSub]
  · simp (disch := decide) only [needFixed, decodeA, decodeInteger, high, low, whole, Nat.reduceSub, BitVec.reduceToNat]
    rfl
theorem minI (g d a rb) : Statement (.minI g d a rb) := by
  rintro l _ hw ⟨⟩
  refine of_class_a hw ?_ ?_
  · simp (disch := decide) only [high, low, whole, Nat.reduceSub]
  · simp (disch := decide) only [decodeA, decodeInteger, high, low, whole, Nat.reduceSub, BitVec.reduceToNat]
theorem maxI (g d a rb) : Statement (.maxI g d a rb) := by
  rintro l _ hw ⟨⟩
  refine of_class_a hw ?_ ?_
  · simp (disch := decide) only [high, low, whole, Nat.reduceSub]
  · simp (disch := decide) only [decodeA, decodeInteger, high, low, whole, Nat.reduceSub, BitVec.reduceToNat]
theorem minN (g d a rb) : Statement (.minN g d a rb) := by
  rintro l _ hw ⟨⟩
  refine of_class_a hw ?_ ?_
  · simp (disch := decide) only [high, low, whole, Nat.reduceSub]
  · simp (disch := decide) only [decodeA, decodeInteger, high, low, whole, Nat.reduceSub, BitVec.reduceToNat]
theorem maxN (g d a rb) : Statement (.maxN g d a rb) := by
  rintro l _ hw ⟨⟩
  refine of_class_a hw ?_ ?_
  · simp (disch := decide) only [high, low, whole, Nat.reduceSub]
  · simp (disch := decide) only [decodeA, decodeInteger, high, low, whole, Nat.reduceSub, BitVec.reduceToNat]
theorem and (g d a rb) : Statement (.and g d a rb) := by
  rintro l _ hw ⟨⟩
  refine of_class_a hw ?_ ?_
  · simp (disch := decide) only [high, low, whole, Nat.reduceSub]
  · simp (disch := decide) only [decodeA, decodeLogic, high, low, whole, Nat.reduceSub, BitVec.reduceToNat]
theorem or (g d a rb) : Statement (.or g d a rb) := by
  rintro l _ hw ⟨⟩
  refine of_class_a hw ?_ ?_
  · simp (disch := decide) only [high, low, whole, Nat.reduceSub]
  · simp (disch := decide) only [decodeA, decodeLogic, high, low, whole, Nat.reduceSub, BitVec.reduceToNat]
theorem xor (g d a rb) : Statement (.xor g d a rb) := by
  rintro l _ hw ⟨⟩
  refine of_class_a hw ?_ ?_
  · simp (disch := decide) only [high, low, whole, Nat.reduceSub]
  · simp (disch := decide) only [decodeA, decodeLogic, high, low, whole, Nat.reduceSub, BitVec.reduceToNat]
theorem andn (g d a rb) : Statement (.andn g d a rb) := by
  rintro l _ hw ⟨⟩
  refine of_class_a hw ?_ ?_
  · simp (disch := decide) only [high, low, whole, Nat.reduceSub]
  · simp (disch := decide) only [decodeA, decodeLogic, high, low, whole, Nat.reduceSub, BitVec.reduceToNat]
theorem orn (g d a rb) : Statement (.orn g d a rb) := by
  rintro l _ hw ⟨⟩
  refine of_class_a hw ?_ ?_
  · simp (disch := decide) only [high, low, whole, Nat.reduceSub]
  · simp (disch := decide) only [decodeA, decodeLogic, high, low, whole, Nat.reduceSub, BitVec.reduceToNat]
theorem mov (g d a) : Statement (.mov g d a) := by
  rintro l _ hw ⟨⟩
  refine of_class_a hw ?_ ?_
  · simp (disch := decide) only [high, low, whole, Nat.reduceSub]
  · simp (disch := decide) only [needFixed, decodeA, decodeLogic, high, low, whole, Nat.reduceSub, BitVec.reduceToNat]
    rfl
theorem sel (g d a rb p) : Statement (.sel g d a rb p) := by
  rintro l _ hw ⟨⟩
  refine of_class_a hw ?_ ?_
  · simp (disch := decide) only [high, low, whole, Nat.reduceSub]
  · simp (disch := decide) only [decodeA, decodeLogic, high, low, whole, Nat.reduceSub, BitVec.reduceToNat]
theorem shl (g d a rb) : Statement (.shl g d a rb) := by
  rintro l _ hw ⟨⟩
  refine of_class_a hw ?_ ?_
  · simp (disch := decide) only [high, low, whole, Nat.reduceSub]
  · simp (disch := decide) only [decodeA, decodeShift, high, low, whole, Nat.reduceSub, BitVec.reduceToNat]
theorem shr (g d a rb) : Statement (.shr g d a rb) := by
  rintro l _ hw ⟨⟩
  refine of_class_a hw ?_ ?_
  · simp (disch := decide) only [high, low, whole, Nat.reduceSub]
  · simp (disch := decide) only [decodeA, decodeShift, high, low, whole, Nat.reduceSub, BitVec.reduceToNat]
theorem sar (g d a rb) : Statement (.sar g d a rb) := by
  rintro l _ hw ⟨⟩
  refine of_class_a hw ?_ ?_
  · simp (disch := decide) only [high, low, whole, Nat.reduceSub]
  · simp (disch := decide) only [decodeA, decodeShift, high, low, whole, Nat.reduceSub, BitVec.reduceToNat]
theorem rot (g d a rb) : Statement (.rot g d a rb) := by
  rintro l _ hw ⟨⟩
  refine of_class_a hw ?_ ?_
  · simp (disch := decide) only [high, low, whole, Nat.reduceSub]
  · simp (disch := decide) only [decodeA, decodeShift, high, low, whole, Nat.reduceSub, BitVec.reduceToNat]
theorem clz (g d a) : Statement (.clz g d a) := by
  rintro l _ hw ⟨⟩
  refine of_class_a hw ?_ ?_
  · simp (disch := decide) only [high, low, whole, Nat.reduceSub]
  · simp (disch := decide) only [needFixed, decodeA, decodeShift, high, low, whole, Nat.reduceSub, BitVec.reduceToNat]
    rfl
theorem ctz (g d a) : Statement (.ctz g d a) := by
  rintro l _ hw ⟨⟩
  refine of_class_a hw ?_ ?_
  · simp (disch := decide) only [high, low, whole, Nat.reduceSub]
  · simp (disch := decide) only [needFixed, decodeA, decodeShift, high, low, whole, Nat.reduceSub, BitVec.reduceToNat]
    rfl
theorem popc (g d a) : Statement (.popc g d a) := by
  rintro l _ hw ⟨⟩
  refine of_class_a hw ?_ ?_
  · simp (disch := decide) only [high, low, whole, Nat.reduceSub]
  · simp (disch := decide) only [needFixed, decodeA, decodeShift, high, low, whole, Nat.reduceSub, BitVec.reduceToNat]
    rfl
theorem bswap (g d a) : Statement (.bswap g d a) := by
  rintro l _ hw ⟨⟩
  refine of_class_a hw ?_ ?_
  · simp (disch := decide) only [high, low, whole, Nat.reduceSub]
  · simp (disch := decide) only [needFixed, decodeA, decodeShift, high, low, whole, Nat.reduceSub, BitVec.reduceToNat]
    rfl
theorem padd (g d a rb w) : Statement (.padd g d a rb w) := by
  rintro l _ hw ⟨⟩
  refine of_class_a hw ?_ ?_
  · simp (disch := decide) only [high, low, whole, Nat.reduceSub]
  · simp (disch := decide) only [needFixed, decodeA, decodePacked, high, low, whole, Nat.reduceSub, BitVec.reduceToNat]
    rfl
theorem psub (g d a rb w) : Statement (.psub g d a rb w) := by
  rintro l _ hw ⟨⟩
  refine of_class_a hw ?_ ?_
  · simp (disch := decide) only [high, low, whole, Nat.reduceSub]
  · simp (disch := decide) only [needFixed, decodeA, decodePacked, high, low, whole, Nat.reduceSub, BitVec.reduceToNat]
    rfl
theorem paddsatI (g d a rb w) : Statement (.paddsatI g d a rb w) := by
  rintro l _ hw ⟨⟩
  refine of_class_a hw ?_ ?_
  · simp (disch := decide) only [high, low, whole, Nat.reduceSub]
  · simp (disch := decide) only [needFixed, decodeA, decodePacked, high, low, whole, Nat.reduceSub, BitVec.reduceToNat]
    rfl
theorem paddsatN (g d a rb w) : Statement (.paddsatN g d a rb w) := by
  rintro l _ hw ⟨⟩
  refine of_class_a hw ?_ ?_
  · simp (disch := decide) only [high, low, whole, Nat.reduceSub]
  · simp (disch := decide) only [needFixed, decodeA, decodePacked, high, low, whole, Nat.reduceSub, BitVec.reduceToNat]
    rfl
theorem pminI (g d a rb w) : Statement (.pminI g d a rb w) := by
  rintro l _ hw ⟨⟩
  refine of_class_a hw ?_ ?_
  · simp (disch := decide) only [high, low, whole, Nat.reduceSub]
  · simp (disch := decide) only [needFixed, decodeA, decodePacked, high, low, whole, Nat.reduceSub, BitVec.reduceToNat]
    rfl
theorem pminN (g d a rb w) : Statement (.pminN g d a rb w) := by
  rintro l _ hw ⟨⟩
  refine of_class_a hw ?_ ?_
  · simp (disch := decide) only [high, low, whole, Nat.reduceSub]
  · simp (disch := decide) only [needFixed, decodeA, decodePacked, high, low, whole, Nat.reduceSub, BitVec.reduceToNat]
    rfl
theorem pmaxI (g d a rb w) : Statement (.pmaxI g d a rb w) := by
  rintro l _ hw ⟨⟩
  refine of_class_a hw ?_ ?_
  · simp (disch := decide) only [high, low, whole, Nat.reduceSub]
  · simp (disch := decide) only [needFixed, decodeA, decodePacked, high, low, whole, Nat.reduceSub, BitVec.reduceToNat]
    rfl
theorem pmaxN (g d a rb w) : Statement (.pmaxN g d a rb w) := by
  rintro l _ hw ⟨⟩
  refine of_class_a hw ?_ ?_
  · simp (disch := decide) only [high, low, whole, Nat.reduceSub]
  · simp (disch := decide) only [needFixed, decodeA, decodePacked, high, low, whole, Nat.reduceSub, BitVec.reduceToNat]
    rfl
theorem pshl (g d a rb w) : Statement (.pshl g d a rb w) := by
  rintro l _ hw ⟨⟩
  refine of_class_a hw ?_ ?_
  · simp (disch := decide) only [high, low, whole, Nat.reduceSub]
  · simp (disch := decide) only [needFixed, decodeA, decodePacked, high, low, whole, Nat.reduceSub, BitVec.reduceToNat]
    rfl
theorem pshr (g d a rb w) : Statement (.pshr g d a rb w) := by
  rintro l _ hw ⟨⟩
  refine of_class_a hw ?_ ?_
  · simp (disch := decide) only [high, low, whole, Nat.reduceSub]
  · simp (disch := decide) only [needFixed, decodeA, decodePacked, high, low, whole, Nat.reduceSub, BitVec.reduceToNat]
    rfl
theorem psar (g d a rb w) : Statement (.psar g d a rb w) := by
  rintro l _ hw ⟨⟩
  refine of_class_a hw ?_ ?_
  · simp (disch := decide) only [high, low, whole, Nat.reduceSub]
  · simp (disch := decide) only [needFixed, decodeA, decodePacked, high, low, whole, Nat.reduceSub, BitVec.reduceToNat]
    rfl
theorem pcmpEq (g d a rb w) : Statement (.pcmpEq g d a rb w) := by
  rintro l _ hw ⟨⟩
  refine of_class_a hw ?_ ?_
  · simp (disch := decide) only [high, low, whole, Nat.reduceSub]
  · simp (disch := decide) only [needFixed, decodeA, decodePacked, high, low, whole, Nat.reduceSub, BitVec.reduceToNat]
    rfl
theorem pcmpLtI (g d a rb w) : Statement (.pcmpLtI g d a rb w) := by
  rintro l _ hw ⟨⟩
  refine of_class_a hw ?_ ?_
  · simp (disch := decide) only [high, low, whole, Nat.reduceSub]
  · simp (disch := decide) only [needFixed, decodeA, decodePacked, high, low, whole, Nat.reduceSub, BitVec.reduceToNat]
    rfl
theorem pcmpLtN (g d a rb w) : Statement (.pcmpLtN g d a rb w) := by
  rintro l _ hw ⟨⟩
  refine of_class_a hw ?_ ?_
  · simp (disch := decide) only [high, low, whole, Nat.reduceSub]
  · simp (disch := decide) only [needFixed, decodeA, decodePacked, high, low, whole, Nat.reduceSub, BitVec.reduceToNat]
    rfl
theorem fadd (g d a rb) : Statement (.fadd g d a rb) := by
  rintro l _ hw ⟨⟩
  refine of_class_a hw ?_ ?_
  · simp (disch := decide) only [high, low, whole, Nat.reduceSub]
  · simp (disch := decide) only [decodeA, decodeF32, high, low, whole, Nat.reduceSub, BitVec.reduceToNat]
theorem fsub (g d a rb) : Statement (.fsub g d a rb) := by
  rintro l _ hw ⟨⟩
  refine of_class_a hw ?_ ?_
  · simp (disch := decide) only [high, low, whole, Nat.reduceSub]
  · simp (disch := decide) only [decodeA, decodeF32, high, low, whole, Nat.reduceSub, BitVec.reduceToNat]
theorem fmul (g d a rb) : Statement (.fmul g d a rb) := by
  rintro l _ hw ⟨⟩
  refine of_class_a hw ?_ ?_
  · simp (disch := decide) only [high, low, whole, Nat.reduceSub]
  · simp (disch := decide) only [decodeA, decodeF32, high, low, whole, Nat.reduceSub, BitVec.reduceToNat]
theorem ffma (g d a rb) : Statement (.ffma g d a rb) := by
  rintro l _ hw ⟨⟩
  refine of_class_a hw ?_ ?_
  · simp (disch := decide) only [high, low, whole, Nat.reduceSub]
  · simp (disch := decide) only [decodeA, decodeF32, high, low, whole, Nat.reduceSub, BitVec.reduceToNat]
theorem fmin (g d a rb) : Statement (.fmin g d a rb) := by
  rintro l _ hw ⟨⟩
  refine of_class_a hw ?_ ?_
  · simp (disch := decide) only [high, low, whole, Nat.reduceSub]
  · simp (disch := decide) only [decodeA, decodeF32, high, low, whole, Nat.reduceSub, BitVec.reduceToNat]
theorem fmax (g d a rb) : Statement (.fmax g d a rb) := by
  rintro l _ hw ⟨⟩
  refine of_class_a hw ?_ ?_
  · simp (disch := decide) only [high, low, whole, Nat.reduceSub]
  · simp (disch := decide) only [decodeA, decodeF32, high, low, whole, Nat.reduceSub, BitVec.reduceToNat]
theorem fabs (g d a) : Statement (.fabs g d a) := by
  rintro l _ hw ⟨⟩
  refine of_class_a hw ?_ ?_
  · simp (disch := decide) only [high, low, whole, Nat.reduceSub]
  · simp (disch := decide) only [needFixed, decodeA, decodeF32, high, low, whole, Nat.reduceSub, BitVec.reduceToNat]
    rfl
theorem fneg (g d a) : Statement (.fneg g d a) := by
  rintro l _ hw ⟨⟩
  refine of_class_a hw ?_ ?_
  · simp (disch := decide) only [high, low, whole, Nat.reduceSub]
  · simp (disch := decide) only [needFixed, decodeA, decodeF32, high, low, whole, Nat.reduceSub, BitVec.reduceToNat]
    rfl
theorem fcvtF32I32 (g d a rb) : Statement (.fcvtF32I32 g d a rb) := by
  rintro l _ hw ⟨⟩
  refine of_class_a hw ?_ ?_
  · simp (disch := decide) only [high, low, whole, Nat.reduceSub]
  · simp (disch := decide) only [decodeA, decodeF32, high, low, whole, Nat.reduceSub, BitVec.reduceToNat]
theorem fcvtF32N32 (g d a rb) : Statement (.fcvtF32N32 g d a rb) := by
  rintro l _ hw ⟨⟩
  refine of_class_a hw ?_ ?_
  · simp (disch := decide) only [high, low, whole, Nat.reduceSub]
  · simp (disch := decide) only [decodeA, decodeF32, high, low, whole, Nat.reduceSub, BitVec.reduceToNat]
theorem fcvtI32F32 (g d a rb) : Statement (.fcvtI32F32 g d a rb) := by
  rintro l _ hw ⟨⟩
  refine of_class_a hw ?_ ?_
  · simp (disch := decide) only [high, low, whole, Nat.reduceSub]
  · simp (disch := decide) only [decodeA, decodeF32, high, low, whole, Nat.reduceSub, BitVec.reduceToNat]
theorem fcvtN32F32 (g d a rb) : Statement (.fcvtN32F32 g d a rb) := by
  rintro l _ hw ⟨⟩
  refine of_class_a hw ?_ ?_
  · simp (disch := decide) only [high, low, whole, Nat.reduceSub]
  · simp (disch := decide) only [decodeA, decodeF32, high, low, whole, Nat.reduceSub, BitVec.reduceToNat]
theorem fcvtF32B16 (g d a rb) : Statement (.fcvtF32B16 g d a rb) := by
  rintro l _ hw ⟨⟩
  refine of_class_a hw ?_ ?_
  · simp (disch := decide) only [high, low, whole, Nat.reduceSub]
  · simp (disch := decide) only [decodeA, decodeF32, high, low, whole, Nat.reduceSub, BitVec.reduceToNat]
theorem fcvtB16F32 (g d a rb) : Statement (.fcvtB16F32 g d a rb) := by
  rintro l _ hw ⟨⟩
  refine of_class_a hw ?_ ?_
  · simp (disch := decide) only [high, low, whole, Nat.reduceSub]
  · simp (disch := decide) only [decodeA, decodeF32, high, low, whole, Nat.reduceSub, BitVec.reduceToNat]
theorem addi (g d a i) : Statement (.addi g d a i) := by
  rintro l _ hw ⟨⟩
  refine of_class_a hw ?_ ?_
  · simp (disch := decide) only [high, low, whole, Nat.reduceSub]
  · simp (disch := decide) only [decodeA, high, low, whole, Nat.reduceSub, BitVec.reduceToNat]
theorem andi (g d a i) : Statement (.andi g d a i) := by
  rintro l _ hw ⟨⟩
  refine of_class_a hw ?_ ?_
  · simp (disch := decide) only [high, low, whole, Nat.reduceSub]
  · simp (disch := decide) only [decodeA, high, low, whole, Nat.reduceSub, BitVec.reduceToNat]
theorem ori (g d a i) : Statement (.ori g d a i) := by
  rintro l _ hw ⟨⟩
  refine of_class_a hw ?_ ?_
  · simp (disch := decide) only [high, low, whole, Nat.reduceSub]
  · simp (disch := decide) only [decodeA, high, low, whole, Nat.reduceSub, BitVec.reduceToNat]
theorem xori (g d a i) : Statement (.xori g d a i) := by
  rintro l _ hw ⟨⟩
  refine of_class_a hw ?_ ?_
  · simp (disch := decide) only [high, low, whole, Nat.reduceSub]
  · simp (disch := decide) only [decodeA, high, low, whole, Nat.reduceSub, BitVec.reduceToNat]
theorem shli (g d a i) : Statement (.shli g d a i) := by
  rintro l _ hw ⟨⟩
  refine of_class_a hw ?_ ?_
  · simp (disch := decide) only [high, low, whole, Nat.reduceSub]
  · simp (disch := decide) only [needFixed, decodeA, high, low, whole, Nat.reduceSub, BitVec.reduceToNat]
    rfl
theorem shri (g d a i) : Statement (.shri g d a i) := by
  rintro l _ hw ⟨⟩
  refine of_class_a hw ?_ ?_
  · simp (disch := decide) only [high, low, whole, Nat.reduceSub]
  · simp (disch := decide) only [needFixed, decodeA, high, low, whole, Nat.reduceSub, BitVec.reduceToNat]
    rfl
theorem sari (g d a i) : Statement (.sari g d a i) := by
  rintro l _ hw ⟨⟩
  refine of_class_a hw ?_ ?_
  · simp (disch := decide) only [high, low, whole, Nat.reduceSub]
  · simp (disch := decide) only [needFixed, decodeA, high, low, whole, Nat.reduceSub, BitVec.reduceToNat]
    rfl
theorem roti (g d a i) : Statement (.roti g d a i) := by
  rintro l _ hw ⟨⟩
  refine of_class_a hw ?_ ?_
  · simp (disch := decide) only [high, low, whole, Nat.reduceSub]
  · simp (disch := decide) only [needFixed, decodeA, high, low, whole, Nat.reduceSub, BitVec.reduceToNat]
    rfl
theorem extI (g d a q w) : Statement (.extI g d a q w) := by
  rintro l _ hw ⟨⟩
  refine of_class_a hw ?_ ?_
  · simp (disch := decide) only [high, low, whole, Nat.reduceSub]
  · simp (disch := decide) only [needFixed, decodeA, high, low, whole, Nat.reduceSub, BitVec.reduceToNat]
    rfl
theorem extN (g d a q w) : Statement (.extN g d a q w) := by
  rintro l _ hw ⟨⟩
  refine of_class_a hw ?_ ?_
  · simp (disch := decide) only [high, low, whole, Nat.reduceSub]
  · simp (disch := decide) only [needFixed, decodeA, high, low, whole, Nat.reduceSub, BitVec.reduceToNat]
    rfl
theorem ins (g d a q w) : Statement (.ins g d a q w) := by
  rintro l _ hw ⟨⟩
  refine of_class_a hw ?_ ?_
  · simp (disch := decide) only [high, low, whole, Nat.reduceSub]
  · simp (disch := decide) only [needFixed, decodeA, high, low, whole, Nat.reduceSub, BitVec.reduceToNat]
    rfl
theorem movi (g d h i) : Statement (.movi g d h i) := by
  rintro l _ hw ⟨⟩
  refine of_class_a hw ?_ ?_
  · simp (disch := decide) only [high, low, whole, Nat.reduceSub]
  · simp (disch := decide) only [decodeA, high, low, whole, Nat.reduceSub, BitVec.reduceToNat]
theorem movh (g d h i) : Statement (.movh g d h i) := by
  rintro l _ hw ⟨⟩
  refine of_class_a hw ?_ ?_
  · simp (disch := decide) only [high, low, whole, Nat.reduceSub]
  · simp (disch := decide) only [decodeA, high, low, whole, Nat.reduceSub, BitVec.reduceToNat]
theorem cmp (g k a rb f) : Statement (.cmp g k a rb f) := by
  rintro l _ hw ⟨⟩
  refine of_class_a hw ?_ ?_
  · simp (disch := decide) only [high, low, whole, Nat.reduceSub]
  · simp (disch := decide) only [decodeA, high, low, whole, Nat.reduceSub, BitVec.reduceToNat]
theorem fcmp (g k a rb f) : Statement (.fcmp g k a rb f) := by
  rintro l _ hw ⟨⟩
  refine of_class_a hw ?_ ?_
  · simp (disch := decide) only [high, low, whole, Nat.reduceSub]
  · simp (disch := decide) only [decodeA, high, low, whole, Nat.reduceSub, BitVec.reduceToNat]
theorem pand (g k a rb) : Statement (.pand g k a rb) := by
  rintro l _ hw ⟨⟩
  refine of_class_a hw ?_ ?_
  · simp (disch := decide) only [high, low, whole, Nat.reduceSub]
  · simp (disch := decide) only [needFixed, decodeA, decodePredicate, high, low, whole, Nat.reduceSub, BitVec.reduceToNat]
    rfl
theorem por (g k a rb) : Statement (.por g k a rb) := by
  rintro l _ hw ⟨⟩
  refine of_class_a hw ?_ ?_
  · simp (disch := decide) only [high, low, whole, Nat.reduceSub]
  · simp (disch := decide) only [needFixed, decodeA, decodePredicate, high, low, whole, Nat.reduceSub, BitVec.reduceToNat]
    rfl
theorem pxor (g k a rb) : Statement (.pxor g k a rb) := by
  rintro l _ hw ⟨⟩
  refine of_class_a hw ?_ ?_
  · simp (disch := decide) only [high, low, whole, Nat.reduceSub]
  · simp (disch := decide) only [needFixed, decodeA, decodePredicate, high, low, whole, Nat.reduceSub, BitVec.reduceToNat]
    rfl
theorem pnot (g k a) : Statement (.pnot g k a) := by
  rintro l _ hw ⟨⟩
  refine of_class_a hw ?_ ?_
  · simp (disch := decide) only [high, low, whole, Nat.reduceSub]
  · simp (disch := decide) only [needFixed, decodeA, decodePredicate, high, low, whole, Nat.reduceSub, BitVec.reduceToNat]
    rfl
theorem pmov (g k a) : Statement (.pmov g k a) := by
  rintro l _ hw ⟨⟩
  refine of_class_a hw ?_ ?_
  · simp (disch := decide) only [high, low, whole, Nat.reduceSub]
  · simp (disch := decide) only [needFixed, decodeA, decodePredicate, high, low, whole, Nat.reduceSub, BitVec.reduceToNat]
    rfl
theorem psel (g k a rb c) : Statement (.psel g k a rb c) := by
  rintro l _ hw ⟨⟩
  refine of_class_a hw ?_ ?_
  · simp (disch := decide) only [high, low, whole, Nat.reduceSub]
  · simp (disch := decide) only [needFixed, decodeA, decodePredicate, high, low, whole, Nat.reduceSub, BitVec.reduceToNat]
    rfl
theorem cmpiEq (g k a i) : Statement (.cmpiEq g k a i) := by
  rintro l _ hw ⟨⟩
  refine of_class_a hw ?_ ?_
  · simp (disch := decide) only [high, low, whole, Nat.reduceSub]
  · simp (disch := decide) only [needFixed, decodeA, high, low, whole, Nat.reduceSub, BitVec.reduceToNat]
    rfl
theorem cmpiNe (g k a i) : Statement (.cmpiNe g k a i) := by
  rintro l _ hw ⟨⟩
  refine of_class_a hw ?_ ?_
  · simp (disch := decide) only [high, low, whole, Nat.reduceSub]
  · simp (disch := decide) only [needFixed, decodeA, high, low, whole, Nat.reduceSub, BitVec.reduceToNat]
    rfl
theorem cmpiLt (g k a i) : Statement (.cmpiLt g k a i) := by
  rintro l _ hw ⟨⟩
  refine of_class_a hw ?_ ?_
  · simp (disch := decide) only [high, low, whole, Nat.reduceSub]
  · simp (disch := decide) only [needFixed, decodeA, high, low, whole, Nat.reduceSub, BitVec.reduceToNat]
    rfl
theorem cmpiLe (g k a i) : Statement (.cmpiLe g k a i) := by
  rintro l _ hw ⟨⟩
  refine of_class_a hw ?_ ?_
  · simp (disch := decide) only [high, low, whole, Nat.reduceSub]
  · simp (disch := decide) only [needFixed, decodeA, high, low, whole, Nat.reduceSub, BitVec.reduceToNat]
    rfl
theorem cmpiGt (g k a i) : Statement (.cmpiGt g k a i) := by
  rintro l _ hw ⟨⟩
  refine of_class_a hw ?_ ?_
  · simp (disch := decide) only [high, low, whole, Nat.reduceSub]
  · simp (disch := decide) only [needFixed, decodeA, high, low, whole, Nat.reduceSub, BitVec.reduceToNat]
    rfl
theorem cmpiGe (g k a i) : Statement (.cmpiGe g k a i) := by
  rintro l _ hw ⟨⟩
  refine of_class_a hw ?_ ?_
  · simp (disch := decide) only [high, low, whole, Nat.reduceSub]
  · simp (disch := decide) only [needFixed, decodeA, high, low, whole, Nat.reduceSub, BitVec.reduceToNat]
    rfl
theorem cmpiLtN (g k a i) : Statement (.cmpiLtN g k a i) := by
  rintro l _ hw ⟨⟩
  refine of_class_a hw ?_ ?_
  · simp (disch := decide) only [high, low, whole, Nat.reduceSub]
  · simp (disch := decide) only [needFixed, decodeA, high, low, whole, Nat.reduceSub, BitVec.reduceToNat]
    rfl
theorem cmpiGeN (g k a i) : Statement (.cmpiGeN g k a i) := by
  rintro l _ hw ⟨⟩
  refine of_class_a hw ?_ ?_
  · simp (disch := decide) only [high, low, whole, Nat.reduceSub]
  · simp (disch := decide) only [needFixed, decodeA, high, low, whole, Nat.reduceSub, BitVec.reduceToNat]
    rfl
theorem vadd (v a rb y) : Statement (.vadd v a rb y) := by
  rintro l _ hw ⟨⟩
  refine of_class_a hw ?_ ?_
  · simp (disch := decide) only [high, low, whole, Nat.reduceSub]
  · simp (disch := decide) only [needFixed, decodeA, decodeVArith, high, low, whole, Nat.reduceSub, BitVec.reduceToNat]
    rfl
theorem vsub (v a rb y) : Statement (.vsub v a rb y) := by
  rintro l _ hw ⟨⟩
  refine of_class_a hw ?_ ?_
  · simp (disch := decide) only [high, low, whole, Nat.reduceSub]
  · simp (disch := decide) only [needFixed, decodeA, decodeVArith, high, low, whole, Nat.reduceSub, BitVec.reduceToNat]
    rfl
theorem vmul (v a rb y) : Statement (.vmul v a rb y) := by
  rintro l _ hw ⟨⟩
  refine of_class_a hw ?_ ?_
  · simp (disch := decide) only [high, low, whole, Nat.reduceSub]
  · simp (disch := decide) only [needFixed, decodeA, decodeVArith, high, low, whole, Nat.reduceSub, BitVec.reduceToNat]
    rfl
theorem vfma (v a rb y) : Statement (.vfma v a rb y) := by
  rintro l _ hw ⟨⟩
  refine of_class_a hw ?_ ?_
  · simp (disch := decide) only [high, low, whole, Nat.reduceSub]
  · simp (disch := decide) only [needFixed, decodeA, decodeVArith, high, low, whole, Nat.reduceSub, BitVec.reduceToNat]
    rfl
theorem vmin (v a rb y) : Statement (.vmin v a rb y) := by
  rintro l _ hw ⟨⟩
  refine of_class_a hw ?_ ?_
  · simp (disch := decide) only [high, low, whole, Nat.reduceSub]
  · simp (disch := decide) only [needFixed, decodeA, decodeVArith, high, low, whole, Nat.reduceSub, BitVec.reduceToNat]
    rfl
theorem vmax (v a rb y) : Statement (.vmax v a rb y) := by
  rintro l _ hw ⟨⟩
  refine of_class_a hw ?_ ?_
  · simp (disch := decide) only [high, low, whole, Nat.reduceSub]
  · simp (disch := decide) only [needFixed, decodeA, decodeVArith, high, low, whole, Nat.reduceSub, BitVec.reduceToNat]
    rfl
theorem vabs (v a y) : Statement (.vabs v a y) := by
  rintro l _ hw ⟨⟩
  refine of_class_a hw ?_ ?_
  · simp (disch := decide) only [high, low, whole, Nat.reduceSub]
  · simp (disch := decide) only [needFixed, decodeA, decodeVArith, high, low, whole, Nat.reduceSub, BitVec.reduceToNat]
    rfl
theorem vneg (v a y) : Statement (.vneg v a y) := by
  rintro l _ hw ⟨⟩
  refine of_class_a hw ?_ ?_
  · simp (disch := decide) only [high, low, whole, Nat.reduceSub]
  · simp (disch := decide) only [needFixed, decodeA, decodeVArith, high, low, whole, Nat.reduceSub, BitVec.reduceToNat]
    rfl
theorem vand (v a rb) : Statement (.vand v a rb) := by
  rintro l _ hw ⟨⟩
  refine of_class_a hw ?_ ?_
  · simp (disch := decide) only [high, low, whole, Nat.reduceSub]
  · simp (disch := decide) only [needFixed, decodeA, decodeVLogic, high, low, whole, Nat.reduceSub, BitVec.reduceToNat]
    rfl
theorem vor (v a rb) : Statement (.vor v a rb) := by
  rintro l _ hw ⟨⟩
  refine of_class_a hw ?_ ?_
  · simp (disch := decide) only [high, low, whole, Nat.reduceSub]
  · simp (disch := decide) only [needFixed, decodeA, decodeVLogic, high, low, whole, Nat.reduceSub, BitVec.reduceToNat]
    rfl
theorem vxor (v a rb) : Statement (.vxor v a rb) := by
  rintro l _ hw ⟨⟩
  refine of_class_a hw ?_ ?_
  · simp (disch := decide) only [high, low, whole, Nat.reduceSub]
  · simp (disch := decide) only [needFixed, decodeA, decodeVLogic, high, low, whole, Nat.reduceSub, BitVec.reduceToNat]
    rfl
theorem vshl (v a rb y) : Statement (.vshl v a rb y) := by
  rintro l _ hw ⟨⟩
  refine of_class_a hw ?_ ?_
  · simp (disch := decide) only [high, low, whole, Nat.reduceSub]
  · simp (disch := decide) only [needFixed, decodeA, decodeVLogic, high, low, whole, Nat.reduceSub, BitVec.reduceToNat]
    rfl
theorem vshr (v a rb y) : Statement (.vshr v a rb y) := by
  rintro l _ hw ⟨⟩
  refine of_class_a hw ?_ ?_
  · simp (disch := decide) only [high, low, whole, Nat.reduceSub]
  · simp (disch := decide) only [needFixed, decodeA, decodeVLogic, high, low, whole, Nat.reduceSub, BitVec.reduceToNat]
    rfl
theorem vsar (v a rb y) : Statement (.vsar v a rb y) := by
  rintro l _ hw ⟨⟩
  refine of_class_a hw ?_ ?_
  · simp (disch := decide) only [high, low, whole, Nat.reduceSub]
  · simp (disch := decide) only [needFixed, decodeA, decodeVLogic, high, low, whole, Nat.reduceSub, BitVec.reduceToNat]
    rfl
theorem vsel (v a rb) : Statement (.vsel v a rb) := by
  rintro l _ hw ⟨⟩
  refine of_class_a hw ?_ ?_
  · simp (disch := decide) only [high, low, whole, Nat.reduceSub]
  · simp (disch := decide) only [needFixed, decodeA, decodeVLogic, high, low, whole, Nat.reduceSub, BitVec.reduceToNat]
    rfl
theorem vcmp (v a rb c y) : Statement (.vcmp v a rb c y) := by
  rintro l _ hw ⟨⟩
  refine of_class_a hw ?_ ?_
  · simp (disch := decide) only [high, low, whole, Nat.reduceSub]
  · simp (disch := decide) only [needFixed, decodeA, high, low, whole, Nat.reduceSub, BitVec.reduceToNat]
    rfl
theorem vcvtFromF32 (v a rb y m) : Statement (.vcvtFromF32 v a rb y m) := by
  rintro l _ hw ⟨⟩
  refine of_class_a hw ?_ ?_
  · simp (disch := decide) only [high, low, whole, Nat.reduceSub]
  · simp (disch := decide) only [needFixed, decodeA, high, low, whole, Nat.reduceSub, BitVec.reduceToNat]
    rfl
theorem vcvtToF32 (v a rb y m) : Statement (.vcvtToF32 v a rb y m) := by
  rintro l _ hw ⟨⟩
  refine of_class_a hw ?_ ?_
  · simp (disch := decide) only [high, low, whole, Nat.reduceSub]
  · simp (disch := decide) only [needFixed, decodeA, high, low, whole, Nat.reduceSub, BitVec.reduceToNat]
    rfl
theorem vex2 (v a rb s) : Statement (.vex2 v a rb s) := by
  rintro l _ hw ⟨⟩
  refine of_class_a hw ?_ ?_
  · simp (disch := decide) only [high, low, whole, Nat.reduceSub]
  · simp (disch := decide) only [needFixed, decodeA, decodeVSpecial, high, low, whole, Nat.reduceSub, BitVec.reduceToNat]
    rfl
theorem vrcp (v a) : Statement (.vrcp v a) := by
  rintro l _ hw ⟨⟩
  refine of_class_a hw ?_ ?_
  · simp (disch := decide) only [high, low, whole, Nat.reduceSub]
  · simp (disch := decide) only [needFixed, decodeA, decodeVSpecial, high, low, whole, Nat.reduceSub, BitVec.reduceToNat]
    rfl
theorem vrsq (v a) : Statement (.vrsq v a) := by
  rintro l _ hw ⟨⟩
  refine of_class_a hw ?_ ?_
  · simp (disch := decide) only [high, low, whole, Nat.reduceSub]
  · simp (disch := decide) only [needFixed, decodeA, decodeVSpecial, high, low, whole, Nat.reduceSub, BitVec.reduceToNat]
    rfl
theorem vredSum (v a y) : Statement (.vredSum v a y) := by
  rintro l _ hw ⟨⟩
  refine of_class_a hw ?_ ?_
  · simp (disch := decide) only [high, low, whole, Nat.reduceSub]
  · simp (disch := decide) only [needFixed, decodeA, decodeVSpecial, high, low, whole, Nat.reduceSub, BitVec.reduceToNat]
    rfl
theorem vredMax (v a y) : Statement (.vredMax v a y) := by
  rintro l _ hw ⟨⟩
  refine of_class_a hw ?_ ?_
  · simp (disch := decide) only [high, low, whole, Nat.reduceSub]
  · simp (disch := decide) only [needFixed, decodeA, decodeVSpecial, high, low, whole, Nat.reduceSub, BitVec.reduceToNat]
    rfl
theorem vredMin (v a y) : Statement (.vredMin v a y) := by
  rintro l _ hw ⟨⟩
  refine of_class_a hw ?_ ?_
  · simp (disch := decide) only [high, low, whole, Nat.reduceSub]
  · simp (disch := decide) only [needFixed, decodeA, decodeVSpecial, high, low, whole, Nat.reduceSub, BitVec.reduceToNat]
    rfl
theorem vbcast (v s y) : Statement (.vbcast v s y) := by
  rintro l _ hw ⟨⟩
  refine of_class_a hw ?_ ?_
  · simp (disch := decide) only [high, low, whole, Nat.reduceSub]
  · simp (disch := decide) only [needFixed, decodeA, decodeVLanes, high, low, whole, Nat.reduceSub, BitVec.reduceToNat]
    rfl
theorem vget (a s t y) : Statement (.vget a s t y) := by
  rintro l _ hw ⟨⟩
  refine of_class_a hw ?_ ?_
  · simp (disch := decide) only [high, low, whole, Nat.reduceSub]
  · simp (disch := decide) only [needFixed, decodeA, decodeVLanes, high, low, whole, Nat.reduceSub, BitVec.reduceToNat]
    rfl
theorem vperm (v a rb) : Statement (.vperm v a rb) := by
  rintro l _ hw ⟨⟩
  refine of_class_a hw ?_ ?_
  · simp (disch := decide) only [high, low, whole, Nat.reduceSub]
  · simp (disch := decide) only [needFixed, decodeA, decodeVLanes, high, low, whole, Nat.reduceSub, BitVec.reduceToNat]
    rfl
theorem vpack (v a y) : Statement (.vpack v a y) := by
  rintro l _ hw ⟨⟩
  refine of_class_a hw ?_ ?_
  · simp (disch := decide) only [high, low, whole, Nat.reduceSub]
  · simp (disch := decide) only [needFixed, decodeA, decodeVLanes, high, low, whole, Nat.reduceSub, BitVec.reduceToNat]
    rfl
theorem vunpack (v a y) : Statement (.vunpack v a y) := by
  rintro l _ hw ⟨⟩
  refine of_class_a hw ?_ ?_
  · simp (disch := decide) only [high, low, whole, Nat.reduceSub]
  · simp (disch := decide) only [needFixed, decodeA, decodeVLanes, high, low, whole, Nat.reduceSub, BitVec.reduceToNat]
    rfl
theorem vgath (v a s t y) : Statement (.vgath v a s t y) := by
  rintro l _ hw ⟨⟩
  refine of_class_a hw ?_ ?_
  · simp (disch := decide) only [high, low, whole, Nat.reduceSub]
  · simp (disch := decide) only [needFixed, decodeA, decodeVLanes, high, low, whole, Nat.reduceSub, BitVec.reduceToNat]
    rfl
theorem vscat (a rb s t y) : Statement (.vscat a rb s t y) := by
  rintro l _ hw ⟨⟩
  refine of_class_a hw ?_ ?_
  · simp (disch := decide) only [high, low, whole, Nat.reduceSub]
  · simp (disch := decide) only [needFixed, decodeA, decodeVLanes, high, low, whole, Nat.reduceSub, BitVec.reduceToNat]
    rfl
theorem vbindPop (v s) : Statement (.vbindPop v s) := by
  rintro l _ hw ⟨⟩
  refine of_class_a hw ?_ ?_
  · simp (disch := decide) only [high, low, whole, Nat.reduceSub]
  · simp (disch := decide) only [needFixed, decodeA, decodeVStreams, high, low, whole, Nat.reduceSub, BitVec.reduceToNat]
    rfl
theorem vbindPush (v s) : Statement (.vbindPush v s) := by
  rintro l _ hw ⟨⟩
  refine of_class_a hw ?_ ?_
  · simp (disch := decide) only [high, low, whole, Nat.reduceSub]
  · simp (disch := decide) only [needFixed, decodeA, decodeVStreams, high, low, whole, Nat.reduceSub, BitVec.reduceToNat]
    rfl
theorem vunbind (v) : Statement (.vunbind v) := by
  rintro l _ hw ⟨⟩
  refine of_class_a hw ?_ ?_
  · simp (disch := decide) only [high, low, whole, Nat.reduceSub]
  · simp (disch := decide) only [needFixed, decodeA, decodeVStreams, high, low, whole, Nat.reduceSub, BitVec.reduceToNat]
    rfl
theorem vfence : Statement (.vfence) := by
  rintro l _ hw ⟨⟩
  refine of_class_a hw ?_ ?_
  · simp (disch := decide) only [high, low, whole, Nat.reduceSub]
  · simp (disch := decide) only [needFixed, decodeA, decodeVStreams, high, low, whole, Nat.reduceSub, BitVec.reduceToNat]
    rfl
theorem vliveClear : Statement (.vliveClear) := no_word fun _ => rfl
theorem traceClear : Statement (.traceClear) := no_word fun _ => rfl
theorem evselWrite (a) : Statement (.evselWrite a) := no_word fun _ => rfl
theorem tinv1 (a) : Statement (.tinv1 a) := no_word fun _ => rfl
theorem tinv2 (a) : Statement (.tinv2 a) := no_word fun _ => rfl
theorem pgrep (a) : Statement (.pgrep a) := no_word fun _ => rfl
theorem plainAccessComplete (a) : Statement (.plainAccessComplete a) := no_word fun _ => rfl
theorem relaxedLoadReturn (a) : Statement (.relaxedLoadReturn a) := no_word fun _ => rfl
theorem relaxedStorePerformed (a) : Statement (.relaxedStorePerformed a) := no_word fun _ => rfl
theorem bankPortService (a) : Statement (.bankPortService a) := no_word fun _ => rfl
theorem sliceFill (a b) : Statement (.sliceFill a b) := no_word fun _ => rfl
theorem scrub (a) : Statement (.scrub a) := no_word fun _ => rfl
theorem normaliserServiceEnd (a) : Statement (.normaliserServiceEnd a) := no_word fun _ => rfl
theorem wchgWake (a) : Statement (.wchgWake a) := no_word fun _ => rfl
theorem wchgPoll (a) : Statement (.wchgPoll a) := no_word fun _ => rfl
theorem napWake (a) : Statement (.napWake a) := no_word fun _ => rfl
theorem trapEntry (a b) : Statement (.trapEntry a b) := no_word fun _ => rfl
theorem vectorBeat (a) : Statement (.vectorBeat a) := no_word fun _ => rfl
theorem vectorCommandComplete (a) : Statement (.vectorCommandComplete a) := no_word fun _ => rfl
theorem leaseGrant (a) : Statement (.leaseGrant a) := no_word fun _ => rfl
theorem leaseExpiry (a b) : Statement (.leaseExpiry a b) := no_word fun _ => rfl
theorem tileOperationStart (a) : Statement (.tileOperationStart a) := no_word fun _ => rfl
theorem tileOperationComplete (a) : Statement (.tileOperationComplete a) := no_word fun _ => rfl
theorem audit (a) : Statement (.audit a) := no_word fun _ => rfl
theorem foragerAccept (a) : Statement (.foragerAccept a) := no_word fun _ => rfl
theorem copyComplete (a) : Statement (.copyComplete a) := no_word fun _ => rfl
theorem messageDelivery (a) : Statement (.messageDelivery a) := no_word fun _ => rfl
theorem nack (a) : Statement (.nack a) := no_word fun _ => rfl
theorem messageRetry (a) : Statement (.messageRetry a) := no_word fun _ => rfl
theorem pendingReportPost (a) : Statement (.pendingReportPost a) := no_word fun _ => rfl
theorem keyedRecordArrival (a) : Statement (.keyedRecordArrival a) := no_word fun _ => rfl
theorem broodDecision (a) : Statement (.broodDecision a) := no_word fun _ => rfl
theorem idleRetirement (a) : Statement (.idleRetirement a) := no_word fun _ => rfl
theorem spawnRequest (a) : Statement (.spawnRequest a) := no_word fun _ => rfl
theorem spawnAnswer (a) : Statement (.spawnAnswer a) := no_word fun _ => rfl
theorem launchRequest (a) : Statement (.launchRequest a) := no_word fun _ => rfl
theorem slotFill (a b) : Statement (.slotFill a b) := no_word fun _ => rfl
theorem quitNotice (a) : Statement (.quitNotice a) := no_word fun _ => rfl
theorem doneMessage (a) : Statement (.doneMessage a) := no_word fun _ => rfl
theorem migrationDeparture (a) : Statement (.migrationDeparture a) := no_word fun _ => rfl
theorem migrationArrival (a) : Statement (.migrationArrival a) := no_word fun _ => rfl
theorem thermalSample (a b) : Statement (.thermalSample a b) := no_word fun _ => rfl
theorem thermalDisplacement (a b) : Statement (.thermalDisplacement a b) := no_word fun _ => rfl
theorem preemptSave (a b) : Statement (.preemptSave a b) := no_word fun _ => rfl
theorem contextResume (a b) : Statement (.contextResume a b) := no_word fun _ => rfl
theorem sliceEnd (a) : Statement (.sliceEnd a) := no_word fun _ => rfl
theorem slotHandover (a) : Statement (.slotHandover a) := no_word fun _ => rfl
theorem boostEnd (a) : Statement (.boostEnd a) := no_word fun _ => rfl
theorem budgetRenewal : Statement (.budgetRenewal) := no_word fun _ => rfl
theorem deferralExpiry (a) : Statement (.deferralExpiry a) := no_word fun _ => rfl
theorem threadUnwind (a) : Statement (.threadUnwind a) := no_word fun _ => rfl
theorem graceExpiry (a) : Statement (.graceExpiry a) := no_word fun _ => rfl
theorem abandonBudgetExpiry (a) : Statement (.abandonBudgetExpiry a) := no_word fun _ => rfl
theorem threadKill (a) : Statement (.threadKill a) := no_word fun _ => rfl
theorem domainTeardown (a) : Statement (.domainTeardown a) := no_word fun _ => rfl
theorem translationWalk (a b c) : Statement (.translationWalk a b c) := no_word fun _ => rfl
theorem rewalk (a b) : Statement (.rewalk a b) := no_word fun _ => rfl
theorem installTensor (a b) : Statement (.installTensor a b) := no_word fun _ => rfl
theorem dropHandle (a b) : Statement (.dropHandle a b) := no_word fun _ => rfl
theorem offer (a b c) : Statement (.offer a b c) := no_word fun _ => rfl
theorem importHandle (a) : Statement (.importHandle a) := no_word fun _ => rfl
theorem closeGate (a b c) : Statement (.closeGate a b c) := no_word fun _ => rfl
theorem launchPacket (a b c) : Statement (.launchPacket a b c) := no_word fun _ => rfl
theorem graphReplay (a b) : Statement (.graphReplay a b) := no_word fun _ => rfl
theorem dispatch (a) : Statement (.dispatch a) := no_word fun _ => rfl
theorem completionRecord (a b) : Statement (.completionRecord a b) := no_word fun _ => rfl
theorem createQueue (a b c) : Statement (.createQueue a b c) := no_word fun _ => rfl
theorem destroyQueue (a b c) : Statement (.destroyQueue a b c) := no_word fun _ => rfl
theorem createGraph (a b c) : Statement (.createGraph a b c) := no_word fun _ => rfl
theorem freeGraph (a b c) : Statement (.freeGraph a b c) := no_word fun _ => rfl
theorem setEventRing (a b c) : Statement (.setEventRing a b c) := no_word fun _ => rfl
theorem acknowledgeEvents (a b c) : Statement (.acknowledgeEvents a b c) := no_word fun _ => rfl
theorem setVdSchedule (a b c) : Statement (.setVdSchedule a b c) := no_word fun _ => rfl
theorem createVd (a b) : Statement (.createVd a b) := no_word fun _ => rfl
theorem destroyVd (a b) : Statement (.destroyVd a b) := no_word fun _ => rfl
theorem createDomain (a b) : Statement (.createDomain a b) := no_word fun _ => rfl
theorem pauseVd (a b) : Statement (.pauseVd a b) := no_word fun _ => rfl
theorem resumeVd (a b) : Statement (.resumeVd a b) := no_word fun _ => rfl
theorem setDataEndpoint (a b) : Statement (.setDataEndpoint a b) := no_word fun _ => rfl
theorem setRemoteEndpoint (a b) : Statement (.setRemoteEndpoint a b) := no_word fun _ => rfl
theorem remoteDataAccess (a b c d e) : Statement (.remoteDataAccess a b c d e) := no_word fun _ => rfl
theorem managementWrite (a b c) : Statement (.managementWrite a b c) := no_word fun _ => rfl
theorem gtoffWrite (a b c) : Statement (.gtoffWrite a b c) := no_word fun _ => rfl
theorem plimWrite (a b) : Statement (.plimWrite a b) := no_word fun _ => rfl
theorem feataccWrite (a b c d) : Statement (.feataccWrite a b c d) := no_word fun _ => rfl
theorem deliveryTimeout : Statement (.deliveryTimeout) := no_word fun _ => rfl
theorem claim (a b c) : Statement (.claim a b c) := no_word fun _ => rfl
theorem heartbeat (a b) : Statement (.heartbeat a b) := no_word fun _ => rfl
theorem release (a b) : Statement (.release a b) := no_word fun _ => rfl
theorem collectionWindowEnd : Statement (.collectionWindowEnd) := no_word fun _ => rfl
theorem heartbeatTimeout : Statement (.heartbeatTimeout) := no_word fun _ => rfl
theorem successorWindowEnd : Statement (.successorWindowEnd) := no_word fun _ => rfl
theorem sessionTeardown (a) : Statement (.sessionTeardown a) := no_word fun _ => rfl
theorem getVersion (a) : Statement (.getVersion a) := no_word fun _ => rfl
theorem getCapabilities (a) : Statement (.getCapabilities a) := no_word fun _ => rfl
theorem negotiateAlgorithms (a b) : Statement (.negotiateAlgorithms a b) := no_word fun _ => rfl
theorem getDigests (a) : Statement (.getDigests a) := no_word fun _ => rfl
theorem getCertificate (a b c) : Statement (.getCertificate a b c) := no_word fun _ => rfl
theorem challenge (a b) : Statement (.challenge a b) := no_word fun _ => rfl
theorem getMeasurements (a b) : Statement (.getMeasurements a b) := no_word fun _ => rfl
theorem keyExchange (a b) : Statement (.keyExchange a b) := no_word fun _ => rfl
theorem finish (a) : Statement (.finish a) := no_word fun _ => rfl
theorem endSession (a) : Statement (.endSession a) := no_word fun _ => rfl
theorem updateChunk (a b c) : Statement (.updateChunk a b c) := no_word fun _ => rfl
theorem updateVerify (a) : Statement (.updateVerify a) := no_word fun _ => rfl
theorem updateCoreSwitch (a) : Statement (.updateCoreSwitch a) := no_word fun _ => rfl
theorem slotReset (a b) : Statement (.slotReset a b) := no_word fun _ => rfl
theorem coreReset (a) : Statement (.coreReset a) := no_word fun _ => rfl
theorem combReset (a) : Statement (.combReset a) := no_word fun _ => rfl
theorem hiveReset (a) : Statement (.hiveReset a) := no_word fun _ => rfl
theorem vdReset (a) : Statement (.vdReset a) := no_word fun _ => rfl
theorem firmwareColumnReset : Statement (.firmwareColumnReset) := no_word fun _ => rfl
theorem warmReset : Statement (.warmReset) := no_word fun _ => rfl
theorem coldReset : Statement (.coldReset) := no_word fun _ => rfl
theorem resetComplete : Statement (.resetComplete) := no_word fun _ => rfl
theorem boot : Statement (.boot) := no_word fun _ => rfl
theorem powerPeriod (a) : Statement (.powerPeriod a) := no_word fun _ => rfl
theorem thermalRecord (a b) : Statement (.thermalRecord a b) := no_word fun _ => rfl
theorem thermalTrip (a) : Statement (.thermalTrip a) := no_word fun _ => rfl
theorem domainKill (a) : Statement (.domainKill a) := no_word fun _ => rfl
theorem pqheadWrite (a) : Statement (.pqheadWrite a) := no_word fun _ => rfl

end Sys2Proof.Laws.RoundTrip
end

