-- ==== Sys2Proof/Tests/Demo.lean ====
section
/-! SUPPORT. A small machine for the tests: one thread of domain 0 in a slot of the firmware column, with stage-1 tables that
map 1 GiB of the private window and 1 GiB of the image window onto the lowest physical addresses. -/

namespace Sys2Proof.Tests

open Sys2Proof.Machine
open Sys2Proof.Safety

/-- A private address of the physical byte 0x30000. -/
def dataVa : Word := 0x10000030000

/-- The registers: extremes, amounts of shifts, addresses. -/
def regsHere : Vector Word 16 :=
  #v[0, 0xFFFFFFFFFFFFFFFF, 0x8000000000000000, 1, dataVa, 64, 63, 0x7FFFFFFFFFFFFFFF, 2, 3, 0x7F800001, 0x7FC00000,
    0x3F800000, 0, 0x10000030004, 0x1000000100]

def blockHere : Block := { dom := 0, index := 0, lo := 0x40000, hi := 0x50000 }

def threadHere : Thread :=
  { num := 1, place := .slot 345 3, x := regsHere, pc := 0x1000000000, lcore := 345,
    blocks := [blockHere], hwPage := some 0x200000 }

/-- Stage-1 tables of domain 0, a dword at 0x30000, and its bitmap of save areas. -/
def tablesHere : List Host.Cell :=
  [(0x10000, 0x01), (0x10001, 0x20), (0x10002, 0x01), (0x10010, 0x01), (0x10011, 0x10), (0x10012, 0x01),
    (0x11000, 0x1F), (0x12200, 0x17),
    (0x30000, 0x88), (0x30001, 0x77), (0x30002, 0x66), (0x30003, 0x55), (0x30004, 0x44), (0x30005, 0x33), (0x30006, 0x22), (0x30007, 0x91),
    (0x30800, 0x11)]

/-- Domain 0: a handle table of 8 entries, 4 context blocks and 4 hardware pages. -/
def domainHere : Domain :=
  { num := 0, life := .live, s1root := 0x10000, tvec := 0x1000000800, dcb := 0x10000038000, htbase := 0x32000, htlen := 8
    svbase := 0x10000040000, svn := 4, hwbase := 0x200000, hwn := 4, bmap := 0x30800 }

def here : State :=
  { State.reset with
    cur := threadHere, mem := tablesHere, nextThread := 2
    domains := [domainHere]
    vds := [{ num := 0, st := 1, feat0 := 0x1F }]
    mgmt := { state := 1, colw := 1 } }

/-- The same machine with the thread changed. -/
def with' (f : Thread → Thread) : State := { here with cur := f threadHere }

/-- The state after an instruction. -/
def after (i : Instr) (s : State) : State :=
  match exec i s with
  | .next t => t
  | _ => s

theorem exec_after {i : Instr} {s : State} (h : (match exec i s with
    | .next _ => true
    | _ => false) = true) : exec i s = .next (after i s) := by
  unfold after
  split at h
  · rename_i t e
    rw [e]
  · exact absurd h (by simp)

/-! ### Hypotheses of statements, from closed computations -/

theorem reads_of {s : State} {r : XReg} {v : Word} {t : Bool}
    (h : s.rd.pend.getLsbD r.toNat = false ∧ s.rd.port? r = none ∧ s.rd.reg r = v ∧ s.rd.tainted r = t) :
    ReadsAs s r v t s := by
  obtain ⟨h1, h2, rfl, rfl⟩ := h
  exact reads_plain h1 h2

theorem takes_of {s : State} {d : XReg} {v : Word} (h : s.rd.pend.getLsbD d.toNat = false ∧ s.rd.port? d = none) :
    Takes s d v s := takes_plain v h.1 h.2

theorem fits_of {s : State} {srcs dsts : List XReg}
    (h : (srcs.all fun a => (s.rd.port? a).all fun p => !p.push) = true ∧ (dsts.all fun d => (s.rd.port? d).all Port.push) = true) :
    PortsFit s srcs dsts := by
  simp only [List.all_eq_true, Option.all_eq_true, Bool.not_eq_eq_eq_not, Bool.not_true] at h
  exact h

theorem two_of {s s1 s2 : State} {a b : XReg} {x y : Word} {ta tb : Bool} (h1 : ReadsAs s a x ta s1) (h2 : ReadsAs s1 b y tb s2) :
    ReadsTwo s a b x y (ta || tb) s2 := ⟨ta, tb, s1, h1, h2, rfl⟩

/-- The state that an access leaves whose checks have passed. -/
def granted (s : State) (kind : Acc1) (va : Word) (n : Nat) : State := checkedState s kind va n

theorem grants_of {s : State} {kind : Acc1} {va : Word} {n : Nat} {ps : List Nat}
    (h : s.cur.gated = false ∧ checkAccess s s.cur kind va n = .ok ps ∧ ps.findIdx? (s.barred s.cur.core) = none ∧
      s.overlaps ps = false ∧ s.ahead ps = false) :
    Grants s kind va n ps (granted s kind va n) := grants_of_checks h.1 h.2.1 h.2.2.1 h.2.2.2.1 h.2.2.2.2

theorem grants_relaxed_of {s : State} {kind : Acc1} {va : Word} {n : Nat} {ps : List Nat}
    (h : s.cur.gated = false ∧ checkAccess s s.cur kind va n = .ok ps ∧ ps.findIdx? (s.barred s.cur.core) = none ∧
      s.overlaps ps = false) :
    GrantsRelaxed s kind va n ps (granted s kind va n) := relaxed_of_checks h.1 h.2.1 h.2.2.1 h.2.2.2

theorem here_plain (r : XReg) : here.rd.pend.getLsbD r.toNat = false ∧ here.rd.port? r = none := by
  revert r
  decide +kernel

theorem here_untainted (r : XReg) : here.rd.tainted r = false := by
  revert r
  decide +kernel

theorem reads_here (r : XReg) : ReadsAs here r (here.cur.reg r) false here := by
  have h := reads_plain (here_plain r).1 (here_plain r).2
  rwa [here_untainted r] at h

theorem takes_here (d : XReg) (v : Word) : Takes here d v here := takes_plain v (here_plain d).1 (here_plain d).2

theorem two_here (a b : XReg) : ReadsTwo here a b (here.cur.reg a) (here.cur.reg b) false here :=
  ⟨false, false, here, reads_here a, reads_here b, rfl⟩

theorem fit_here (srcs dsts : List XReg) : PortsFit here srcs dsts := fit_unbound (fun r => (here_plain r).2) srcs dsts

end Sys2Proof.Tests
end

