-- ==== Sys2Proof/Tests/WordWitnesses.lean ====
section
/-! SUPPORT. Witnesses: states and operands that meet the hypotheses of the statements about words. -/

namespace Sys2Proof.Tests

set_option Elab.async false

open Sys2Proof.Machine
open Sys2Proof.Safety

/-! ### Integer words -/

theorem witness_WrappingArithmetic :
    GuardOn here 0 ∧ PortsFit here [1, 2] [3] ∧ ReadsTwo here 1 2 0xFFFFFFFFFFFFFFFF 0x8000000000000000 false here ∧
    PortsFit here [2] [3] ∧ ReadsAs here 2 0x8000000000000000 false here ∧ Takes here 3 0 here :=
  ⟨rfl, fit_here _ _, two_here _ _, fit_here _ _, reads_here _, takes_here _ _⟩

/-- A divisor of 0, the quotient that does not fit, and two that do. -/
theorem witness_Division :
    GuardOn here 0 ∧ PortsFit here [2, 0] [3] ∧ ReadsTwo here 2 0 0x8000000000000000 0 false here ∧
    ReadsTwo here 2 1 0x8000000000000000 0xFFFFFFFFFFFFFFFF false here ∧
    ReadsTwo here 7 1 0x7FFFFFFFFFFFFFFF 0xFFFFFFFFFFFFFFFF false here ∧ ReadsTwo here 2 3 0x8000000000000000 1 false here :=
  ⟨rfl, fit_here _ _, two_here _ _, two_here _ _, two_here _ _, two_here _ _⟩

theorem witness_SaturationAndLimits :
    GuardOn here 0 ∧ PortsFit here [7, 3] [3] ∧ ReadsTwo here 7 3 0x7FFFFFFFFFFFFFFF 1 false here ∧
    ReadsTwo here 2 3 0x8000000000000000 1 false here ∧ ReadsTwo here 0 3 0 1 false here :=
  ⟨rfl, fit_here _ _, two_here _ _, two_here _ _, two_here _ _⟩

/-- Shifts by 63 and by 64, and a word whose bits 12 to 8 are not 0. -/
theorem witness_LogicAndShifts :
    GuardOn here 0 ∧ PortsFit here [2, 5] [3] ∧ ReadsTwo here 2 5 0x8000000000000000 64 false here ∧
    ReadsTwo here 2 6 0x8000000000000000 63 false here ∧ PortsFit here [2] [3] ∧ ReadsAs here 2 0x8000000000000000 false here ∧
    (0x4C000100#32).extractLsb' 30 1 = 1#1 ∧ (0x4C000100#32).extractLsb' 26 4 = 0b0011#4 ∧ (0x4C000100#32).extractLsb' 8 5 ≠ 0#5 :=
  ⟨rfl, fit_here _ _, two_here _ _, two_here _ _, fit_here _ _, reads_here _, by decide, by decide, by decide⟩

/-- A word of zeros, one whose top bit is 1, and a field that ends at bit 63. -/
theorem witness_BitsFieldsConstants :
    GuardOn here 0 ∧ PortsFit here [0] [3] ∧ ReadsAs here 0 0 false here ∧ ReadsAs here 2 0x8000000000000000 false here ∧
    (63#6).toNat + (0#6).toNat < 64 ∧ PortsFit here [2, 3] [3] ∧ ReadsTwo here 2 3 0x8000000000000000 1 false here ∧
    PortsFit here [3] [3] ∧ ReadsAs here 3 1 false here :=
  ⟨rfl, fit_here _ _, reads_here _, reads_here _, by decide, fit_here _ _, two_here _ _, fit_here _ _, reads_here _⟩

theorem witness_PackedLanes :
    GuardOn here 0 ∧ PortsFit here [2, 5] [3] ∧ ReadsTwo here 2 5 0x8000000000000000 64 false here :=
  ⟨rfl, fit_here _ _, two_here _ _⟩

/-- Equal and unequal registers, and a signalling and a quiet NaN. -/
theorem witness_Comparisons :
    GuardOn here 0 ∧ PortsFit here [2, 2] [] ∧ ReadsTwo here 2 2 0x8000000000000000 0x8000000000000000 false here ∧
    ReadsTwo here 2 7 0x8000000000000000 0x7FFFFFFFFFFFFFFF false here ∧ ReadsAs here 1 0xFFFFFFFFFFFFFFFF false here ∧
    ReadsTwo here 10 12 0x7F800001 0x3F800000 false here ∧ ReadsTwo here 11 12 0x7FC00000 0x3F800000 false here :=
  ⟨rfl, fit_here _ _, two_here _ _, two_here _ _, reads_here _, two_here _ _, two_here _ _⟩

theorem witness_Predicates : GuardOn here 0 ∧ (1#3 : KReg) ≠ 0 ∧ (0#3 : KReg) ≠ 1 := ⟨rfl, by decide, by decide⟩

/-- Nearest even and stochastic rounding; a NaN; a result that the normaliser serves and one that it does not. -/
theorem witness_ScalarF32 :
    GuardOn here 0 ∧ PortsFit here [12, 12] [3] ∧ ReadsTwo here 12 12 0x3F800000 0x3F800000 false here ∧ PortsFit here [12, 12, 3] [3] ∧
    ReadsAs here 3 1 false here ∧ PortsFit here [12] [3] ∧ Takes here 3 1 here ∧ here.rd.rm ≠ 4#3 ∧
    (with' fun t => { t with st := 4 }).rd.rm = 4#3 ∧ (here.cur.src32 0x7F800001).isNan = true ∧
    (here.rd.fadd 0x3F800000 0x3F800000).turns = 0 ∧ (here.rd.fmul 0x3F800000 1).turns ≠ 0 :=
  ⟨rfl, fit_here _ _, two_here _ _, fit_here _ _, reads_here _, fit_here _ _, takes_here _ _, by decide +kernel⟩

/-! ### Transfers, guards, operands -/

/-- A branch that is taken and one that is not; aligned and misaligned targets; a counter that ends and one that does not. -/
theorem witness_Transfers :
    xor (here.rd.pred 0) ((0#1 : BitVec 1) == 1#1) = true ∧ xor (here.rd.pred 0) ((1#1 : BitVec 1) == 1#1) = false ∧ GuardOn here 0 ∧
    ReadsAs here 15 0x1000000100 false here ∧ ReadsAs here 3 1 false here ∧
    ReadsAs (with' fun t => t.setReg 15 2 false) 15 2 false (with' fun t => t.setReg 15 2 false) ∧ Takes here 3 0 here ∧
    ReadsAs here 5 64 false here ∧ Takes here 5 63 here ∧ here.rd.pend.getLsbD 15 = false ∧ (0x1000000100 : Word).extractLsb' 0 2 = 0#2 ∧
    (1 : Word).extractLsb' 0 2 ≠ 0#2 ∧ (2 : Word).extractLsb' 0 2 ≠ 0#2 :=
  ⟨rfl, rfl, rfl, reads_here _, reads_here _, reads_of (by decide +kernel), takes_here _ _, reads_here _, takes_here _ _,
    by decide +kernel⟩

/-- A register bound for popping the slot queue 7, and one bound as a result port. -/
def popPortHere : Port := { bound := true, push := false, kind := 0, target := 7 }
def resultPortHere : Port := { bound := true, push := false, kind := 2, target := 0 }

/-- x8 bound for popping a slot queue of two elements, of which one is popped. -/
def poppingHere : State :=
  { (here.setCore { num := 345, queues := (Vector.replicate 8 {}).set 7 { elems := [5, 6] } }) with
    popped := [(8, popPortHere, 5, 0)]
    cur := { threadHere with ports := (Vector.replicate 6 {}).set 0 popPortHere } }

/-- x13 bound as a result port with one element. -/
def resultHere : State :=
  { (with' fun t => { t with
      ports := (Vector.replicate 6 {}).set 5 resultPortHere, result := [9] }) with
    popped := [(13, resultPortHere, 9, 0)] }

/-- x8 bound for pushing to a slot queue that holds `n` elements. -/
def pushingHere (n : Nat) : State :=
  { (here.setCore { num := 345, queues := (Vector.replicate 8 {}).set 0 { elems := List.replicate n 1 } }) with
    cur := { threadHere with ports := (Vector.replicate 6 {}).set 0 { bound := true, push := true, kind := 0, target := 0 } } }

/-- x8 bound to the ring whose descriptor stands at 0x30040: base, capacity 2, HEAD and TAIL; a descriptor of 64 bytes. -/
def ringed (push : Bool) (head tail : Word) : State :=
  (with' fun t => { t with ports := (Vector.replicate 6 {}).set 0 { bound := true, push := push, kind := 1, target := 0x10000030040 } }).physWrite
    0x30040 (wordsBytes [0x10000034000, 2, head, tail])

theorem witness_GuardsAndRetirement :
    guardOf (.add 1 3 1 2) = some 1 ∧ here.rd.pred 1 = false ∧
    (poppingHere.pos ≠ .w0 ∧ poppingHere.popped = [(8, popPortHere, 5, 0)] ∧ popPortHere.kind = 0) ∧
    (resultHere.pos ≠ .w0 ∧ resultHere.popped = [(13, resultPortHere, 9, 0)] ∧ resultPortHere.kind = 2) ∧
        (match checkAccess (ringed false 7 8) (ringed false 7 8).cur .write 0x10000030050 8 with
      | .ok ps => ps == physRange 0x30050 8
      | _ => false) = true ∧
    here.popped = [] ∧ here.pos = .lone ∧ ({ here with pos := .w0 } : State).popped = [] ∧ ({ here with pos := .w1 } : State).popped = [] := by
  decide +kernel

/-- A relaxed load of the thread that its home has not performed. -/
def reqHere : Req :=
  { home := homeOf 0x30000, core := 345, slot := 3, thread := 1, dom := 0, va := dataVa, phys := physRange 0x30000 8
    kind := .load true 8, dest := 3, whole := physRange 0x30000 8 }

/-- What an access of the ring's descriptor leaves, and the next ones. -/
def ringRead (s : State) : List Word × State := (granted s .read 0x10000030040 32).readDwords 0x10000030040 (physRange 0x30040 32)
def ringElem (s : State) (kind : Acc1) (n : Nat) : State := granted (ringRead s).2 kind (0x10000034000 + BitVec.ofNat 64 (8 * n)) 8
def ringEnd (s : State) (kind : Acc1) (n at_ : Nat) : State := granted (ringElem s kind n) .write (0x10000030040 + BitVec.ofNat 64 at_) 8

/-- A ring with nothing in it and one with an element; one with room, whose next element is the last, and one that is full. -/
theorem witness_OperandForms_rings :
    Grants (ringed false 7 8) .read 0x10000030040 32 (physRange 0x30040 32) (granted (ringed false 7 8) .read 0x10000030040 32) ∧
    Grants (ringRead (ringed false 7 8)).2 .read 0x10000034008 8 (physRange 0x34008 8) (ringElem (ringed false 7 8) .read 1) ∧
    Grants (ringElem (ringed false 7 8) .read 1) .write 0x10000030050 8 (physRange 0x30050 8) (ringEnd (ringed false 7 8) .read 1 16) ∧
    Grants (ringed true 7 8) .read 0x10000030040 32 (physRange 0x30040 32) (granted (ringed true 7 8) .read 0x10000030040 32) ∧
    Grants (ringRead (ringed true 7 8)).2 .write 0x10000034000 8 (physRange 0x34000 8) (ringElem (ringed true 7 8) .write 0) ∧
    Grants (ringElem (ringed true 7 8) .write 0) .write 0x10000030058 8 (physRange 0x30058 8) (ringEnd (ringed true 7 8) .write 0 24) ∧
    (ringRead (ringed false 7 8)).1 = [0x10000034000, 2, 7, 8] ∧ (ringRead (ringed false 8 8)).1 = [0x10000034000, 2, 8, 8] ∧
    (ringRead (ringed true 6 8)).1 = [0x10000034000, 2, 6, 8] ∧
    (let s := ringed true 7 8
     (s.cur.port? 8).map Port.kind = some 1 ∧ s.damage = [] ∧
      (match checkAccess s s.cur .read 0x10000030040 32, checkAccess s s.cur .write 0x10000034000 8,
          checkAccess (s.writeNow 0x10000034000 (physRange 0x34000 8) 5) (s.writeNow 0x10000034000 (physRange 0x34000 8) 5).cur .write 0x10000030058 8 with
        | .ok ps, .ok qs, .ok ts => ps == physRange 0x30040 32 && qs == physRange 0x34000 8 && ts == physRange 0x30058 8
        | _, _, _ => false) = true) := by
  refine ⟨grants_of ?_, grants_of ?_, grants_of ?_, grants_of ?_, grants_of ?_, grants_of ?_, ?_⟩ <;> decide +kernel

/-- x8 bound as a command port that holds `n` words. -/
def commanding (n : Nat) : State := with' fun t => { t with
  ports := (Vector.replicate 6 {}).set 0 { bound := true, push := true, kind := 3, target := 0 }, cmdWords := List.replicate n 0 }

theorem witness_OperandForms :
    (with' fun t => { t with pend := 8 }).rd.pend.getLsbD (3 : XReg).toNat = true ∧
    (here.rd.pend.getLsbD (3 : XReg).toNat = false ∧ here.rd.port? 3 = none) ∧
    (poppingHere.rd.port? 8).map Port.push = some false ∧ poppingHere.popped.lookup 8 = some (popPortHere, 5, 0) ∧
    ({ poppingHere with popped := [] } : State).popped.lookup (8 : XReg) = none ∧
    ((poppingHere.core 345).queues.toList.getD 7 {}).elems = [5, 6] ∧
    (({ poppingHere with cores := [] } : State).core 345).queues.toList.getD 7 {} = {} ∧
    (resultHere.rd.port? 13).map (fun p => (p.push, p.kind)) = some (false, 2) ∧ resultHere.cur.result = [9] ∧
    ((pushingHere 15).rd.port? 8).map (fun p => (p.push, p.kind)) = some (true, 0) ∧
    (((pushingHere 15).core 345).queues.toList.getD 0 {}).elems.length = 15 ∧
    (∀ a ∈ (pushingHere 15).reqs, a.thread ≠ 1) ∧ (∃ a ∈ ({ pushingHere 15 with reqs := [reqHere] } : State).reqs, a.thread = 1) ∧
    (((pushingHere 16).core 345).queues.toList.getD 0 {}).elems.length = 16 ∧ poppingHere.cur.gated = false ∧
    (here.damage.any fun d => d.spot == .fifo 345) = false ∧
    (with' fun t => { t with vcmd := some { instr := .vfence, xs := 0, xt := 0, rm := 0, fzs := false, fzr := false, dom := 0, unread := true } }).cur.gated = true ∧
    ((commanding 6).cur.port? 8).map Port.kind = some 3 ∧ (commanding 6).cur.cmdWords.length = 6 ∧ (commanding 7).cur.cmdWords.length = 7 ∧
    copyWaits ((commanding 7).core 345) (commanding 7).cur false = false ∧
    copyWaits ((commanding 7).core 345) { (commanding 7).cur with cpo := 16 } false = true := by
  decide +kernel

theorem unbound_here : Unbound here.rd ∧ Unbound here.cur :=
  ⟨⟨fun r => (here_plain r).2, rfl⟩, ⟨fun r => (here_plain r).2, rfl⟩⟩

theorem witness_RegisterFrame :
    registerDest (.add 0 3 1 2) = some 3 ∧ Unbound here.rd ∧ Unbound here.cur ∧ here.popped = [] ∧
    f32Dest (.fadd 0 3 1 2) = some 3 :=
  ⟨rfl, unbound_here.1, unbound_here.2, rfl, rfl⟩

/-! ### Time and traps -/

/-- A copy of the thread with the tag 64. -/
def copyHere : Copy :=
  { op := 0, thread := 1, dom := 0, block := [0, 0, 0, 0, 0, 0, 0, 64], post := false, barrier := none, estimate := 0 }

/-- A core whose next VD has one slot left to take, and one whose next VD has more. -/
def handingHere (handed : BitVec 16) : State := here.setCore { num := 345, nextVd := some 1, handed := handed }

/-- A cycle to come, and one that has come with and without a copy of the tag 64; a core with and without a handover, and a
thread whose gate defers it. -/
theorem witness_TimeWords :
    GuardOn here 0 ∧ ReadsAs here 15 0x1000000100 false here ∧ ReadsAs here 5 64 false here ∧ here.cyc.toNat < 0x1000000100 ∧
    ((64 : Word).extractLsb' 8 56 ++ 0#8).toNat ≤ here.cyc.toNat ∧ (∀ k ∈ here.cores, k.copies = []) ∧
    (∃ k ∈ (here.setCore { num := 345, fifo := [copyHere] }).cores, ∃ c ∈ k.engine.toList ++ k.fifo, c.thread = 1 ∧ c.tag = 64) ∧
    (here.core 345).nextVd = none ∧ ((handingHere 0).core 345).nextVd = some 1 ∧ (handingHere 0).deferred threadHere = false ∧
    ((handingHere 0).core 345).handed ||| (1#16 <<< threadHere.slotNo.toNat) ≠ BitVec.allOnes 16 ∧
    ((handingHere 0xFFF7).core 345).handed ||| (1#16 <<< threadHere.slotNo.toNat) = BitVec.allOnes 16 :=
  ⟨rfl, reads_here _, reads_here _, by decide +kernel⟩

theorem witness_TrapWords : GuardOn here 0 ∧ (here.hypervisor here.cur.vdid).isNone = true ∧
    ((here.trapped .soft 21 (here.cur.pc + 4)).mark != .parked) = true ∧
    ((here.trapped .soft 21 (here.cur.pc + 4)).cur.num == here.cur.num) = true :=
  ⟨rfl, by decide +kernel, by decide +kernel, by decide +kernel⟩

/-- The handler of a trap runs. -/
def handlerHere : State := with' fun t => { t with
  st := 0x20, epc := 0x1000000004, est := 0xFF001F, trapOpen := 1, susp := [(0, t.ports)] }

theorem witness_Traps :
    (here.cur.hm = false ∧ (here.domain here.cur.dom).tvec ≠ 0 ∧ here.trapWaits = false ∧
      here.cur.block? here.cur.dom = some blockHere ∧ here.recBad (physRange blockHere.trapFrame 0x140) true = false ∧
      Memory.wf here.mem = true) ∧
    ((with' fun t => { t with sto := 1 }).cur.hm = false ∧ (with' fun t => { t with sto := 1 }).cur.sto ≠ 0) ∧
    (with' fun t => { t with vcmd := some { instr := .vfence, xs := 0, xt := 0, rm := 0, fzs := false, fzr := false, dom := 0, unread := true } }).cur.owes = true ∧
    (let s : State := { here with reqs := [{ reqHere with home := homeOf blockHere.trapFrame, thread := 9 }] }
     s.cur.block? s.cur.dom = some blockHere ∧ s.recBehind s.cur blockHere.trapFrame 0x140 = true) ∧
    handlerHere.cur.hm = true ∧ handlerHere.trapWaits = false ∧ (({ here with domains := [] } : State).domain here.cur.dom).tvec = 0 := by
  decide +kernel

/-- An `hcall` entry on top of the domain stack. -/
def hcallEntry : Entry :=
  { cdom := 0, gdom := 0, depth := 1, nwin := 6, grant := 0, retpc := 0x1000000004, gbase := 0, glen := 0, ecyc := 0,
    gate := 0, cframe := 0x40140 }

theorem witness_TrapReturn :
    GuardOn here 0 ∧ here.cur.hm = false ∧
    (let s := with' fun t => { t with st := 0x20, depth := 1, top := some hcallEntry }
     s.cur.hm = true ∧ (s.cur.top.any fun e => e.gate == 0) = true ∧ s.cur.trapOpen.getLsbD s.cur.depth.toNat = false) ∧
    (handlerHere.cur.hm = true ∧ (handlerHere.cur.top.any fun e => e.gate == 0) = false ∧ handlerHere.trapWaits = false ∧
      handlerHere.cur.block? handlerHere.cur.dom = some blockHere ∧
      handlerHere.recBad (physRange blockHere.trapFrame 0x140) false = false ∧
      handlerHere.cur.susp.find? (fun p => p.1 == 0) = some (0, threadHere.ports)) :=
  ⟨rfl, by decide +kernel, by decide +kernel, by decide +kernel⟩

/-! ### Memory words -/

/-- The dword of the demo memory. -/
def dataWord : Word := 0x9122334455667788

theorem witness_LoadsAndReads :
    (Instr.ldI64, 8, false, false) ∈ loadForms ∧ (Instr.ldc, 8, false, true) ∈ loadForms ∧ GuardOn here 0 ∧ PortsFit here [4] [3] ∧
    ReadsAs here 4 dataVa false here ∧ ReadsAs here 14 0x10000030004 false here ∧
    Grants here .read dataVa 8 (physRange 0x30000 8) (granted here .read dataVa 8) ∧
    Takes ((granted here .read dataVa 8).readNow dataVa (physRange 0x30000 8)).2 3 dataWord
      ((granted here .read dataVa 8).readNow dataVa (physRange 0x30000 8)).2 ∧
    GrantsRelaxed here .read dataVa 8 (physRange 0x30000 8) (granted here .read dataVa 8) ∧
    Takes (granted here .read dataVa 8) 3 0 (granted here .read dataVa 8) ∧ formedAddress here.rd.cb dataVa 8 0 0 = dataVa ∧
    (formedAddress here.rd.cb 0x10000030004 8 0 0).toNat % 8 ≠ 0 ∧ 8 ≤ (with' fun t => { t with ldo := 8 }).cur.ldo ∧ here.cur.ldo < 8 ∧
    dataVa.toNat % 8 = 0 ∧ here.fatalAt (physRange 0x30000 64) = false ∧ here.fatalAt (physRange 0x30000 8) = false ∧
    (physRange 0x30000 8).length ≤ 8 ∧ (physRange 0x30000 64).length = 64 :=
  ⟨by simp [loadForms], by simp [loadForms], rfl, fit_here _ _, reads_here _, reads_here _, grants_of (by decide +kernel),
    takes_of (by decide +kernel), grants_relaxed_of (by decide +kernel), takes_of (by decide +kernel), by decide +kernel⟩

/-- The second access lies in two pages. -/
theorem witness_Stores :
    (Instr.st64, 8) ∈ storeForms ∧ GuardOn here 0 ∧ PortsFit here [4, 1] [] ∧ ReadsAs here 4 dataVa false here ∧
    ReadsAs here 1 0xFFFFFFFFFFFFFFFF false here ∧ 8 ≤ (with' fun t => { t with sto := 8 }).cur.sto ∧ here.cur.sto < 8 ∧
    Grants here .write dataVa 8 (physRange 0x30000 8) (granted here .write dataVa 8) ∧
    Grants here .write 0x1000003FFFC 8 (physRange 0x3FFFC 8) (granted here .write 0x1000003FFFC 8) ∧
    GrantsRelaxed here .write 0x1000003FFFC 8 (physRange 0x3FFFC 8) (granted here .write 0x1000003FFFC 8) :=
  ⟨by simp [storeForms], rfl, fit_here _ _, reads_here _, reads_here _, by decide, by decide, grants_of (by decide +kernel),
    grants_of (by decide +kernel), grants_relaxed_of (by decide +kernel)⟩

theorem witness_StoreFrame :
    (Instr.st64, 8) ∈ storeForms ∧ GuardOn here 0 ∧ Unbound here.rd ∧ Unbound here.cur ∧ here.popped = [] ∧ MemoryOk here ∧
    formedAddress here.rd.cb (here.rd.reg 4) 8 0 0 = dataVa ∧
    Grants here .write dataVa 8 (physRange 0x30000 8) (granted here .write dataVa 8) ∧ here.damage = [] ∧ (physRange 0x30000 8).Nodup :=
  ⟨by simp [storeForms], rfl, unbound_here.1, unbound_here.2, rfl, (by decide +kernel : Memory.wf here.mem = true), by decide +kernel,
    grants_of (by decide +kernel), rfl, by decide +kernel⟩

theorem atomic_of {s s1 : State} {d a b : XReg} {op : BitVec 4} {va v : Word} {t : Bool} (h : ReadsTwo s a b va v t s1)
    (ho : op ≠ 9#4) : ReadsAtomic s d a b op va v 0 s1 := fun k => by simp [useAtomic, useXX_reads h, ho]

theorem cas_of {s s1 s2 : State} {d a b : XReg} {va v e : Word} {t u : Bool} (h : ReadsTwo s a b va v t s1)
    (hd : ReadsAs s1 d e u s2) : ReadsAtomic s d a b 9#4 va v e s2 := fun k => by simp [useAtomic, useXX_reads h, hd _]

theorem unbound_of {t : Thread} (h : (∀ r : XReg, t.port? r = none) ∧ t.pend = 0) : Unbound t := h

/-- An atomic's place at the home, and the machine once it has acted. -/
def atomicTurn : State := (granted here .write dataVa 8).tookTurns 345 (physRange 0x30000 8)
def atomicDone : Word × Bool × Nat × State := atomicTurn.atomicAt (granted here .write dataVa 8).source (physRange 0x30000 8) 0 1 0

/-- A request of the core stands at the dword's home. -/
def behindHere : State := { here with reqs := [{ reqHere with thread := 9 }], stamp := 1 }

/-- `add` and `cas`; misaligned, with STO at 8, with a set that has completed and one that has not, and behind another request. -/
theorem witness_AtomicWords :
    GuardOn here 0 ∧ PortsFit here [4, 3, 5] [5] ∧ PortsFit here [4, 3] [5] ∧ ReadsAtomic here 5 4 3 0 dataVa 1 0 here ∧
    ReadsAtomic here 5 4 3 9 dataVa 1 64 here ∧ ReadsAtomic here 5 14 3 0 0x10000030004 1 0 here ∧
    Grants here .write dataVa 8 (physRange 0x30000 8) (granted here .write dataVa 8) ∧
    Takes atomicDone.2.2.2 5 dataWord atomicDone.2.2.2 ∧
    Unbound (granted here .write dataVa 8).cur ∧ Unbound (granted here .write dataVa 8).rd ∧
    GrantsRelaxed here .write dataVa 8 (physRange 0x30000 8) (granted here .write dataVa 8) ∧
    GrantsRelaxed behindHere .write dataVa 8 (physRange 0x30000 8) (granted behindHere .write dataVa 8) ∧
    Takes (granted here .write dataVa 8) 5 0 (granted here .write dataVa 8) ∧ (0x10000030004 : Word).toNat % 8 ≠ 0 ∧
    8 ≤ (with' fun t => { t with sto := 8 }).cur.sto ∧ dataVa.toNat % 8 = 0 ∧ (granted here .write dataVa 8).fenceDone 5 = true ∧
    (granted (with' fun t => { t with sto := 1 }) .write dataVa 8).fenceDone 5 = false ∧
    atomicDone.1 = dataWord ∧ atomicDone.2.1 = false ∧ (granted here .write dataVa 8).fatalAt (physRange 0x30000 8) = false ∧
    (granted behindHere .write dataVa 8).fenceDone 5 = true ∧ (granted behindHere .write dataVa 8).ahead (physRange 0x30000 8) = true :=
  ⟨rfl, fit_here _ _, fit_here _ _, atomic_of (two_here 4 3) (by decide), cas_of (two_here 4 3) (reads_here 5),
    atomic_of (two_here 14 3) (by decide), grants_of (by decide +kernel), takes_of (by decide +kernel), unbound_of (by decide +kernel),
    unbound_of (by decide +kernel), grants_relaxed_of (by decide +kernel), grants_relaxed_of (by decide +kernel),
    takes_of (by decide +kernel), by decide +kernel⟩

/-- A scope that has completed and one that has not; counters at their limit and above it. -/
theorem witness_FencesAndWait :
    GuardOn here 0 ∧ here.fenceDone 10 = true ∧ here.fenceDone 7 = true ∧ (with' fun t => { t with sto := 1 }).fenceDone 5 = false ∧
    ((with' fun t => { t with ldo := 8 }).cur.ldo ≤ (8#4).toNat) ∧ ¬(with' fun t => { t with ldo := 8 }).cur.ldo ≤ (7#4).toNat := by
  refine ⟨rfl, ?_⟩
  decide +kernel

/-- The machine with `n` watch entries at the home of the dword. -/
def watchedHere (n : Nat) : State :=
  { here with watches := List.replicate n { home := homeOf 0x30000, thread := 9, addr := 0x30040, was := 0, hit := false } }

/-- A dword that differs and one that does not, with 15 and with 16 entries; where a hop stays, is refused and leaves. -/
theorem witness_WatchHopProbe :
    GuardOn here 0 ∧ PortsFit here [4, 3] [] ∧ ReadsAs here 4 dataVa false here ∧ ReadsAs here 3 1 false here ∧
    ReadsAs here 14 0x10000030004 false here ∧ Grants here .read dataVa 8 (physRange 0x30000 8) (granted here .read dataVa 8) ∧
    ReadsAs (with' fun t => t.setReg 3 dataWord false) 3 dataWord false (with' fun t => t.setReg 3 dataWord false) ∧
    PortsFit here [4] [] ∧ PortsFit here [4] [5] ∧ Takes here 5 (probeWord here here.cur dataVa) here ∧
    (formedAddress here.rd.cb 0x10000030004 8 0 0).toNat % 8 ≠ 0 ∧
    ((granted here .read dataVa 8).readNow dataVa (physRange 0x30000 8)).1 = dataWord ∧ dataWord ≠ 1 ∧
    ((watchedHere 15).watches.filter fun w => w.home == homeOf 0x30000).length < 16 ∧
    16 ≤ ((watchedHere 16).watches.filter fun w => w.home == homeOf 0x30000).length ∧ hopTarget dataVa = none ∧
    hopTarget 0x7E000AC80000 = some 345 ∧ hopTarget 0x7E0000000000 = some 0 ∧ hopTarget 0x7E000AD80000 = some 347 ∧ here.cur.core = 345 ∧
    here.inCoreSet here.cur.chgvd 0 = false ∧ here.inCoreSet here.cur.chgvd 347 = true ∧ here.heldHere = false ∧
    (with' fun t => { t with st := 0x80 }).heldHere = true ∧ here.watchChanged = false ∧
    ({ here with watches := [{ home := homeOf 0x30000, thread := 1, addr := 0x30000, was := 1, hit := true }] } : State).watchChanged = true ∧
    (probeWord here here.cur 0).getLsbD 4 = false :=
  ⟨rfl, fit_here _ _, reads_here _, reads_here _, reads_here _, grants_of (by decide +kernel), reads_of (by decide +kernel), fit_here _ _,
    fit_here _ _, takes_here _ _, by decide +kernel⟩

/-! ### System registers -/

/-- The thread in domain 5, a domain of its own. -/
def guestHere : State := with' fun t => { t with dom := 5, botdom := 5 }

theorem witness_SystemReadsAndRights :
    GuardOn here 0 ∧ PortsFit here [] [3] ∧ sysAllowed here 7 false = .illegal ∧ sysAllowed guestHere 0x41 false = .prot 0x41 ∧
    sysAllowed here 0 false = .ok () ∧ sysAllowed here 0x100 false = .ok () ∧ sysHigh here 0x100 = .ok 0 ∧ Takes here 3 0 here ∧
    here.eventAllowed = false ∧
    ({ here with vds := [{ num := 0, st := 1, evallow := Vector.replicate 4 1 }] } : State).eventAllowed = true ∧ here.cur.dom = 0 ∧
    guestHere.cur.dom ≠ 0 ∧ guestHere.cur.hm = false ∧ handlerHere.cur.hm = true :=
  ⟨rfl, fit_here _ _, rfl, rfl, rfl, rfl, rfl, takes_here _ _, by decide +kernel⟩

theorem witness_SystemWrites :
    GuardOn here 0 ∧ PortsFit here [3] [] ∧ ReadsAs here 3 1 false here ∧ sysAllowed here 7 true = .illegal ∧
    sysAllowed here 6 true = .prot 6 ∧ sysAllowed here 1 true = .ok () ∧
    sysWriteLow here 1 1 = .ok { here with cur := { here.cur with cb := 1 } } ∧ 4 < ((5 : Word).extractLsb' 0 3).toNat ∧
    ((4 : Word).extractLsb' 0 3).toNat ≤ 4 ∧ (4 : Word).getLsbD 7 = false ∧
    (with' fun t => { t with vcmd := some { instr := .vfence, xs := 0, xt := 0, rm := 0, fzs := false, fzr := false, dom := 0 } }).cur.vbusy = true ∧
    ((0x84 : Word).extractLsb' 0 3).toNat ≤ 4 ∧ (0x84 : Word).getLsbD 7 = true :=
  ⟨rfl, fit_here _ _, reads_here _, rfl, rfl, rfl, rfl, by decide +kernel⟩

/-! ### Messages -/

def msgHere : Msg :=
  { sender := 1, dom := 0, dest := 0, stage := none, payload := [7], nacks := 0, due := 0, refused := false }

def mailHere : Mail := { thread := 1, dom := 0, header := 0x100001000, payload := [7] }

/-- The machine with another core record for the thread's core. -/
def onCore (f : Core → Core) : State := here.setCore (f (here.core 345))

theorem run_here (vs : List Word) (r : Nat) (h : vs = (List.range vs.length).map fun i => here.cur.reg (BitVec.ofNat 4 (r + i))) :
    ReadsRun here r vs.length vs here := by
  induction vs generalizing r with
  | nil => exact reads_run_nil _ _
  | cons v vs ih =>
    rw [List.length_cons, List.range_succ_eq_map, List.map_cons, List.map_map, List.cons.injEq] at h
    refine reads_run_cons (v := v) (t := false) (s1 := here) ?_ (ih (r + 1) ?_)
    · rw [h.1]
      exact reads_here _
    · refine h.2.trans (List.map_congr_left fun i _ => ?_)
      simp only [Function.comp_apply, Nat.succ_eq_add_one, Nat.add_right_comm, Nat.add_assoc]

/-- A destination in the domain and one outside it; retry buffers of 31 and of 32; a mailbox with and without a message. -/
theorem witness_Messages :
    GuardOn here 0 ∧ PortsFit here [0, 1] [] ∧ ReadsAs here 0 0 false here ∧ ReadsRun here 1 1 [0xFFFFFFFFFFFFFFFF] here ∧
    ReadsAs here 1 0xFFFFFFFFFFFFFFFF false here ∧ PortsFit here [] [3, 4] ∧
    TakesRun (onCore fun k => { k with mailbox := [mailHere] }) 3 [0x100001000, 7] (onCore fun k => { k with mailbox := [mailHere] }) ∧
    destDom 0 = here.cur.dom ∧ (0 : Word).extractLsb' 14 6 = 0#6 ∧ destDom 0xFFFFFFFFFFFFFFFF ≠ here.cur.dom ∧
    ((onCore fun k => { k with retry := List.replicate 32 msgHere }).buffered 345 = 32) ∧
    ((onCore fun k => { k with retry := List.replicate 31 msgHere }).buffered 345 = 31) ∧
    (here.damage.any fun d => d.spot == .mailbox 345) = false ∧ here.oldestMail = none ∧
    (onCore fun k => { k with mailbox := [mailHere] }).oldestMail = some mailHere :=
  ⟨rfl, fit_here _ _, reads_here _, run_here [0xFFFFFFFFFFFFFFFF] 1 rfl, reads_here _, fit_here _ _,
    takes_run_cons (by decide +kernel) (takes_of (by decide +kernel)) (takes_run_cons (by decide +kernel) (takes_of (by decide +kernel))
      (takes_run_nil _ _)), by decide +kernel⟩

/-! ### Matrix words -/

def grantHere : Grant := { thread := 1, core := 345, whole := true, quarter := 0, entered := 63, since := 0, ending := false }

/-- A lease of the whole array; a handle table with entries 1 to 4 for tensors that an A operand, a B operand, a destination and a
source have. -/
def matrixHere : State :=
  ((({ (with' fun t => { t with
      intent := some (true, 0)
      x := (((t.x.set 8 0x1000).set 9 0x2000).set 10 0x3000).set 11 0x4000 |>.set 12 0x0000004001000030 }) with
    combs := [{ num := 43, grants := [grantHere] }] } : State).physWrite 0x31000 (wordsBytes
      [0x10000034000, 0x0040000000000000, 0, 0, 0x0000001000000030, 0x0000000100000001, 48, 0])).physWrite 0x31040 (wordsBytes
      [0, 0x0140000000000000, 0, 0, 0x0000001000000030, 0x0000000100000001, 48, 0])).physWrite 0x31080 (wordsBytes
      [0x10000034000, 0x2040000000000000, 0, 0, 0x0000001000000010, 0x0000000100000001, 32, 0]) |>.physWrite 0x32010 (wordsBytes
      [0x1000000000000000, 0x10000031000, 0x1000000000000000, 0x10000031040, 0x1000000000000000, 0x10000031080,
       0x1000000000000000, 0x10000031000])

theorem tile_here (wordOk fused : Bool) (n : BitVec 4) (h : wordOk = true) : TileMay matrixHere wordOk fused n grantHere :=
  tileMay_of_grant (i := (true, 0)) (by decide +kernel) rfl (by decide +kernel) (by decide) h fun _ => rfl

theorem slots_of {s : State} (h : ∀ (q : BitVec 2) (n : BitVec 4), slotReason ((s.comb (combOf s.cur.core)).acc? q n) s.cur = none)
    (subs : List (BitVec 2)) (ns : List (BitVec 4)) : SlotsPass s subs ns := slotsPass_of_none fun q _ n _ => h q n

theorem slots_here (subs : List (BitVec 2)) (ns : List (BitVec 4)) : SlotsPass matrixHere subs ns := slots_of (by decide +kernel) subs ns

theorem witness_MatrixRegisterWords :
    GuardOn here 0 ∧ PortsFit here [] [3] ∧ here.cur.intent = none ∧ here.cur.granted = false ∧ Takes matrixHere 3 2 matrixHere ∧
    PortsFit here [3] [] ∧ ReadsAs here 3 1 false here ∧ Takes here 3 (statusWord here 15) here ∧ Unbound here.rd ∧ Unbound here.cur ∧
    matrixHere.cur.intent.isSome = true ∧
    (let s : State := { matrixHere with cur := { matrixHere.cur with intent := none, granted := true } }
     s.cur.intent = none ∧ s.cur.granted = true ∧ (s.comb (combOf s.cur.core)).grantOf s.cur.num = some grantHere) ∧
    (here.comb 43).busy allSubs 15 = false ∧ (here.comb 43).busy allSubs 14 = false :=
  ⟨rfl, fit_here _ _, rfl, rfl, takes_of (by decide +kernel), fit_here _ _, reads_here _, takes_here _ _, unbound_here.1, unbound_here.2,
    by decide +kernel⟩

theorem witness_TileWords_mzero :
    GuardOn matrixHere 0 ∧ TileMay matrixHere (shapeOk 4 && !(true && (14#4).getLsbD 0) && splitAllowed matrixHere true) true 14 grantHere ∧
    SlotsPass matrixHere (shapeSubs 4 grantHere) (opSlots 14 true) ∧ (matrixHere.comb 43).busy (shapeSubs 4 grantHere) 14 = false ∧
    (matrixHere.comb 43).busy (shapeSubs 4 grantHere) (14 ^^^ 1) = false :=
  ⟨rfl, tile_here _ _ _ (by decide +kernel), slots_here _ _, by decide +kernel, by decide +kernel⟩

theorem reads_matrix (r : XReg) : ReadsAs matrixHere r (matrixHere.rd.reg r) false matrixHere := by
  have h : ∀ r : XReg, matrixHere.rd.pend.getLsbD r.toNat = false ∧ matrixHere.rd.port? r = none ∧ matrixHere.rd.tainted r = false := by
    decide +kernel
  exact reads_of ⟨(h r).1, (h r).2.1, rfl, (h r).2.2⟩

/-- The state once a descriptor is read, and its dwords. -/
def described (s : State) (va : Word) (p : Nat) : List Word × State := (granted s .read va 64).readDwords va (physRange p 64)

theorem describes_of {s : State} {va : Word} {p : Nat} (ha : va.extractLsb' 0 6 = 0#6)
    (h : s.cur.gated = false ∧ checkAccess s s.cur .read va 64 = .ok (physRange p 64) ∧
      (physRange p 64).findIdx? (s.barred s.cur.core) = none ∧ s.overlaps (physRange p 64) = false ∧ s.ahead (physRange p 64) = false) :
    Describes s va (described s va p).1 (described s va p).2 := describes_of_grants ha (grants_of h)

/-- The reads of a multiplication: two entries and two descriptors. -/
def entryA : HEntry × State := entryRead matrixHere 0x1000
def entryB : HEntry × State := entryRead entryA.2 0x2000
def descA : List Word × State := described entryB.2 0x10000031000 0x31000
def descB : List Word × State := described descA.2 0x10000031040 0x31040

theorem witness_TileWords_mma :
    GuardOn matrixHere 0 ∧ PortsFit matrixHere [8, 9] [] ∧ ReadsTwo matrixHere 8 9 0x1000 0x2000 false matrixHere ∧
    TileMay matrixHere (shapeOk 0 && !(false && (15#4).getLsbD 0) && splitAllowed matrixHere false) false 15 grantHere ∧
    FindsEntry matrixHere 0x1000 1 entryA.1 entryA.2 ∧ FindsEntry entryA.2 0x2000 1 entryB.1 entryB.2 ∧
    Describes entryB.2 0x10000031000 descA.1 descA.2 ∧ Describes descA.2 0x10000031040 descB.1 descB.2 ∧
    SlotsPass descB.2 [0] (opSlots 15 false) ∧ entryA.1.addr = 0x10000031000 ∧ entryB.1.addr = 0x10000031040 ∧
    (match tensorFor matrixHere .a 0x1000 descA.1, tensorFor matrixHere .b 0x2000 descB.1 with
      | some a, some b => multiplyFits a b 0 false
      | _, _ => false) = true ∧
    (∀ n < 16, (descB.2.comb 43).tagFor n = descB.2.cur.dom) ∧
    (descB.2.comb 43).slotsAre [0] (opSlots 15 false) (fun z => z.split == false) = true :=
  ⟨rfl, fits_of (by decide +kernel), two_of (reads_matrix 8) (reads_matrix 9), tile_here _ _ _ (by decide +kernel),
    findsEntry_of (by decide +kernel), findsEntry_of (by decide +kernel), describes_of (by decide) (by decide +kernel),
    describes_of (by decide) (by decide +kernel), slots_of (by decide +kernel) _ _, by decide +kernel⟩

/-- The reads of a load and of a drain. -/
def entrySource : HEntry × State := entryRead matrixHere 0x4000
def descSource : List Word × State := described entrySource.2 0x10000031000 0x31000
def entryDest : HEntry × State := entryRead matrixHere 0x3000
def descDest : List Word × State := described entryDest.2 0x10000031080 0x31080

theorem witness_TileWords_mbload_mdrain :
    ReadsTwo matrixHere 11 12 0x4000 0x0000004001000030 false matrixHere ∧ TileMay matrixHere true false 0 grantHere ∧
    FindsEntry matrixHere 0x4000 1 entrySource.1 entrySource.2 ∧ Describes entrySource.2 0x10000031000 descSource.1 descSource.2 ∧
    ReadsTwo matrixHere 10 0 0x3000 0 false matrixHere ∧ FindsEntry matrixHere 0x3000 1 entryDest.1 entryDest.2 ∧
    Describes entryDest.2 0x10000031080 descDest.1 descDest.2 ∧ SlotsPass descDest.2 [0] (opSlots 15 false) ∧
    entrySource.1.addr = 0x10000031000 ∧
    (match tensorFor matrixHere .source 0x4000 descSource.1 with
      | some a => !a.sp && decide (loadBytes a < 2 ^ 48) && loadFits 0x0000004001000030 (loadBytes a) allSubs
      | none => false) = true ∧
    entryDest.1.addr = 0x10000031080 ∧
    (match tensorFor matrixHere .dest 0x3000 descDest.1 with
      | some a => drainFits a 0 false
      | none => false) = true ∧
    (descDest.2.comb 43).slotsAre [0] (opSlots 15 false) (fun z => z.split == false) = true ∧
    (([0] : List (BitVec 2)).filter fun q => !((descDest.2.comb 43).slotsAre [q] (opSlots 15 false) fun z => z.i32 != some true)) = [] :=
  ⟨two_of (reads_matrix 11) (reads_matrix 12), tile_here _ _ _ rfl, findsEntry_of (by decide +kernel),
    describes_of (by decide) (by decide +kernel), two_of (reads_matrix 10) (reads_matrix 0), findsEntry_of (by decide +kernel),
    describes_of (by decide) (by decide +kernel), slots_of (by decide +kernel) _ _, by decide +kernel⟩

/-! ### Copies, ports, threads -/

/-- A block that names nothing but 64 bytes, and a barrier word. -/
def copyWordHere : State := (with' fun t => { t with x := t.x.set 9 0x10000030100 }).physWrite 0x30000 (wordsBytes
  [0x10000034000, 0x10000035000, 0x0000000100000040, 1, 0, 0, 0, 0x2A])

def copyRead : State := (described copyWordHere dataVa 0x30000).2

theorem reads_copy (r : XReg) : ReadsAs copyWordHere r (copyWordHere.rd.reg r) false copyWordHere := by
  have h : ∀ r : XReg, copyWordHere.rd.pend.getLsbD r.toNat = false ∧ copyWordHere.rd.port? r = none ∧ copyWordHere.rd.tainted r = false := by
    decide +kernel
  exact reads_of ⟨(h r).1, (h r).2.1, rfl, (h r).2.2⟩

/-- With and without a barrier; counters at their limit; a block that is not aligned; a promise to a plain register. -/
theorem witness_CopyWords :
    (Instr.xcopy, (0 : BitVec 3)) ∈ copyForms ∧ GuardOn copyWordHere 0 ∧ PortsFit copyWordHere [4, 9] [5] ∧
    ReadsAs copyWordHere 4 dataVa false copyWordHere ∧ ReadsAs copyWordHere 9 0x10000030100 false copyWordHere ∧
    ReadsAs copyWordHere 14 0x10000030004 false copyWordHere ∧
    Grants copyWordHere .read dataVa 64 (physRange 0x30000 64) (granted copyWordHere .read dataVa 64) ∧
    (∀ k, checked copyRead .write 0x10000030100 8 k = k (physRange 0x30100 8) (granted copyRead .write 0x10000030100 8)) ∧
    Takes copyRead 5 0 copyRead ∧ Takes copyRead.freeVal.2 5 0 copyRead.freeVal.2 ∧
    copyWaits (copyWordHere.core 345) copyWordHere.cur true = false ∧
    copyWaits (copyWordHere.core 345) { threadHere with cpo := 16 } false = true ∧ dataVa.extractLsb' 0 6 = 0#6 ∧
    (0x10000030004 : Word).extractLsb' 0 6 ≠ 0#6 ∧ (0x10000030100 : Word).toNat % 8 = 0 ∧ copyRead.cur.port? 5 = none :=
  ⟨by simp [copyForms], rfl, fits_of (by decide +kernel), reads_copy 4, reads_copy 9, reads_copy 14, grants_of (by decide +kernel),
    checked_of_checks rfl (by decide +kernel) (by decide +kernel), takes_of (by decide +kernel), takes_of (by decide +kernel),
    by decide +kernel⟩

/-- A ring of 2 elements at 0x30040. -/
def ringHere : State := (with' fun t => { t with x := t.x.set 9 0x10000030040 }).physWrite 0x30040 (wordsBytes
  [0x10000034000, 2, 0, 0, 0, 0, 0, 0])

/-- A free register and each kind of port; one that is bound; a queue whose end is taken. -/
theorem witness_PortWords :
    GuardOn here 0 ∧ PortsFit here [0] [] ∧ ReadsAs here 0 0 false here ∧ ReadsAs here 3 1 false here ∧
    ReadsAs ringHere 9 0x10000030040 false ringHere ∧
    Grants ringHere .read 0x10000030040 64 (physRange 0x30040 64) (granted ringHere .read 0x10000030040 64) ∧
    here.cur.pend.getLsbD (8 : XReg).toNat = false ∧ here.cur.port? 8 = none ∧ here.cur.port? 13 = none ∧ (1 : Word) ≠ 0 ∧
    (1 : Word).toNat < 8 ∧ (poppingHere.cur.port? 8).isSome = true ∧ ((here.core 345).queues.toList.getD 1 {}).popper = none ∧
    (((onCore fun k => { k with queues := Vector.replicate 8 { popper := some 1 } }).core 345).queues.toList.getD 1 {}).popper ≠ none ∧
    (0x10000030040 : Word).extractLsb' 0 6 = 0#6 ∧ ringOk (described ringHere 0x10000030040 0x30040).1 = true ∧
    ringOk (described copyWordHere dataVa 0x30000).1 = false ∧ (resultHere.cur.port? 13).map Port.kind = some 2 :=
  ⟨rfl, fit_here _ _, reads_here _, reads_here _, reads_of (by decide +kernel), grants_of (by decide +kernel), by decide +kernel⟩

/-- A spawner that names the core 347, of the column, and one that names the core 0. -/
def spawnHere : State := with' fun t => { t with x := t.x.set 9 347 }

theorem reads_spawn (r : XReg) : ReadsAs spawnHere r (spawnHere.rd.reg r) false spawnHere := by
  have h : ∀ r : XReg, spawnHere.rd.pend.getLsbD r.toNat = false ∧ spawnHere.rd.port? r = none ∧ spawnHere.rd.tainted r = false := by
    decide +kernel
  exact reads_of ⟨(h r).1, (h r).2.1, rfl, (h r).2.2⟩

theorem witness_SpawnAndQuit :
    GuardOn spawnHere 0 ∧ PortsFit spawnHere [9, 15] [] ∧ ReadsTwo spawnHere 9 15 347 0x1000000100 false spawnHere ∧
    ReadsRun spawnHere 0 4 [0, 0xFFFFFFFFFFFFFFFF, 0x8000000000000000, 1] spawnHere ∧ spawnHere.cur.answer = none ∧
    (with' fun t => { t with answer := some true }).cur.answer = some true ∧ here.cur.depth = 0 ∧ here.cur.worker = none ∧
    here.cur.ldo = 0 ∧ here.cur.sto = 0 ∧ here.cur.vbusy = false ∧ spawnHere.inCoreSet spawnHere.cur.vdid 347 = true ∧
    spawnHere.inCoreSet spawnHere.cur.vdid 0 = false ∧ (0x1000000100 : Word).extractLsb' 0 2 = 0#2 ∧ (1 : Word).extractLsb' 0 2 ≠ 0#2 ∧
    spawnHere.spawning = false ∧ ({ spawnHere with answers := [(1, true)] } : State).spawning = true ∧
    (with' fun t => { t with depth := 1 }).cur.depth ≠ 0 ∧
    (with' fun t => { t with worker := some { core := 345, stage := 0, key := none } }).cur.worker.isSome = true ∧
    (with' fun t => { t with ldo := 1 }).cur.ldo ≠ 0 :=
  ⟨rfl, fits_of (by decide +kernel), two_of (reads_spawn 9) (reads_spawn 15),
    reads_run_cons (reads_spawn 0) (reads_run_cons (reads_spawn 1) (reads_run_cons (reads_spawn 2) (reads_run_cons (reads_spawn 3)
      (reads_run_nil _ _)))),
    rfl, rfl, rfl, rfl, rfl, rfl, rfl, by decide +kernel⟩

/-! ### Keyed stages and gates -/

def stageHere : Stage :=
  { id := 0, dom := 0, vd := 0, hslot := 5, gen := 0, entry := 0x1000000100, retire := 0x1000000200, initMask := 0, initVals := [],
    spill := 0x10000039000, spn := 16, idle := 0, limit := 1, workers := [2], stBits := 0, shadow := (0, 0, 0, 0, 0) }

/-- Entry 5 of the handle table stands for the stage 0 of the core; the thread is a worker with the key 9, at a safe point. -/
def keyedHere : State :=
  { ((((onCore fun k => { k with stages := [stageHere] }).physWrite 0x32050 (wordsBytes [0x3000000000056400, 0])).physWrite 0x31800
      (wordsBytes [0x0000000000000000]))) with
    stageLinks := [(0, 5, 0)]
    domains := [{ domainHere with image := some { text := 0x1000000000, size := 0x10000, safe := 0x10000031800, safeLen := 1 } }]
    cur := { threadHere with x := threadHere.x.set 9 0x5000, worker := some { core := 345, stage := 1, key := some 9 } } }

theorem reads_keyed (r : XReg) : ReadsAs keyedHere r (keyedHere.rd.reg r) false keyedHere := by
  have h : ∀ r : XReg, keyedHere.rd.pend.getLsbD r.toNat = false ∧ keyedHere.rd.port? r = none ∧ keyedHere.rd.tainted r = false := by
    decide +kernel
  exact reads_of ⟨(h r).1, (h r).2.1, rfl, (h r).2.2⟩

/-- What entry 5 reads as; and a machine whose entry 6 is a stage of another domain. -/
def stageEntry : HEntry × State := entryRead keyedHere 0x5000
def foreignHere : State := keyedHere.physWrite 0x32060 (wordsBytes [0x3000000000556400, 0])
def foreignStage : HEntry × State := entryRead foreignHere 0x6000

theorem witness_KeyedWords :
    GuardOn here 0 ∧ here.cur.worker = none ∧ PortsFit keyedHere (9 :: (List.range 3).map fun i => (13 : XReg) + BitVec.ofNat 4 i) [3] ∧
    ReadsAs keyedHere 9 0x5000 false keyedHere ∧ ReadsRun keyedHere 13 3 [0, 0x10000030004, 0x1000000100] keyedHere ∧
    FindsEntry keyedHere 0x5000 3 stageEntry.1 stageEntry.2 ∧ (with' fun t => { t with closed := some 4 }).cur.closed = some 4 ∧
    keyedHere.cur.closed = none ∧
    (FindsEntry foreignHere 0x6000 3 foreignStage.1 foreignStage.2 ∧ foreignStage.1.odom ≠ foreignStage.2.cur.dom) ∧
    Takes stageEntry.2 3 0 stageEntry.2 ∧ ({ here with vds := [] } : State).feature 0 3 = false ∧ here.feature 0 3 = true ∧
    (13 : XReg).toNat ≤ 13 ∧ stageEntry.2.buffered 345 < 32 ∧
    (stageEntry.2.setCore { num := 345, retry := List.replicate 32 msgHere }).buffered 345 = 32 ∧
    (match kwaitCheck keyedHere { core := 345, stage := 1, key := some 9 } with
      | .ok _ => true
      | _ => false) = true ∧
    keyedHere.cur.quiet = true ∧ keyedHere.cur.vbusy = false ∧ keyedHere.cur.depth = 0 ∧
    (stageEntry.1.odom = stageEntry.2.cur.dom ∧ (stageEntry.2.stageOf 0 stageEntry.1).isSome = true ∧
      ({ stageEntry.2 with stageLinks := [] } : State).stageOf 0 stageEntry.1 = none) ∧
    (stageEntry.2.cur.worker.any fun w => w.core == stageEntry.1.core && w.stage == stageEntry.2.linkOf 0 5) = false ∧
    ((some { core := 345, stage := 0, key := none } : Option Worker).any fun w =>
      w.core == stageEntry.1.core && w.stage == stageEntry.2.linkOf 0 5) = true ∧
    7 < (8 : XReg).toNat ∧ 1 ≤ (7 : XReg).toNat ∧ (7 : XReg).toNat ≤ 7 :=
  ⟨rfl, rfl, fits_of (by decide +kernel), reads_keyed 9,
    reads_run_cons (reads_keyed 13) (reads_run_cons (reads_keyed 14) (reads_run_cons (reads_keyed 15) (reads_run_nil _ _))),
    findsEntry_of (by decide +kernel), rfl, rfl, ⟨findsEntry_of (by decide +kernel), by decide +kernel⟩, takes_of (by decide +kernel),
    by decide +kernel⟩

/-- A stage descriptor at 0x31400, whose template record lies at 0x33400. -/
def kopenHere : State := (with' fun t => { t with x := t.x.set 9 0x10000031400 }).physWrite 0x31400 (wordsBytes
  [0x1000033400, 0x10000039000, 16, 0, 6, 0, 0, 0])

/-- The machine once the descriptor is read, and once the template is; what the opening comes to. -/
def kopenFirst (s : State) : List Word × State := described s 0x10000031400 0x31400
def kopenSecond (s : State) : List Word × State :=
  (granted (kopenFirst s).2 .read 0x1000033400 128).readDwords 0x1000033400 (physRange 0x33400 128)
def kopenRead : List Word × State := kopenFirst kopenHere
def kopenTemplate : List Word × State := kopenSecond kopenHere
def opened (s : State) (c : CoreNo) (v : VdNo) : WorkerStart :=
  let u := (kopenSecond s).2
  (u.readEntries (u.domain 0) [6]).openStage (stageFrom u (u.core c) (u.domain 0) (wordAt (kopenFirst s).1) (wordAt (kopenSecond s).1))
    ((u.freeSlots c v).take 1)

/-- A domain whose hardware pages lie at absent addresses; and one of VD 1 on core 0, whose stage 2 maps neither of the pages of a
context block. -/
def kopenFails : State := { kopenHere with domains := [{ domainHere with hwbase := 0x400000000000 }] }
def cachedHere (page phys : BitVec 36) : Tlb := { dom := 0, page := page, vd := 1, ipa := phys, phys := phys, r := true, w := true, x := true }
def kopenLater : State := { kopenHere with
  domains := [{ domainHere with vd := 1 }]
  vds := [{ num := 1, st := 1, feat0 := 0x1F, combs := 1 }]
  combs := [{ num := 0, tlb := [cachedHere 0x1000003 3, cachedHere 0x100003 3] }]
  cur := { kopenHere.cur with place := .slot 0 3, vdid := 1, chgvd := 1 } }

theorem witness_KeyedWords_kopen_areas :
    (∀ s ∈ [kopenFails, kopenLater], GuardOn s 0 ∧ s.feature s.cur.vdid 3 = true ∧
      Grants s .read 0x10000031400 64 (physRange 0x31400 64) (granted s .read 0x10000031400 64) ∧
      Grants (kopenFirst s).2 .read 0x1000033400 128 (physRange 0x33400 128) (granted (kopenFirst s).2 .read 0x1000033400 128)) ∧
    (match opened kopenFails 345 0 with
      | .failed _ => true
      | _ => false) = true ∧
    (match opened kopenLater 0 1 with
      | .later 2 ms => ms.length == 2
      | _ => false) = true ∧
    1 ≤ ((kopenSecond kopenFails).2.freeSlots 345 0).length ∧ 1 ≤ ((kopenSecond kopenLater).2.freeSlots 0 1).length := by
  refine ⟨?_, by decide +kernel⟩
  simp only [List.forall_mem_cons, List.not_mem_nil, false_imp_iff, implies_true, and_true]
  exact ⟨⟨rfl, by decide +kernel, grants_of (by decide +kernel), grants_of (by decide +kernel)⟩,
    ⟨rfl, by decide +kernel, grants_of (by decide +kernel), grants_of (by decide +kernel)⟩⟩

theorem witness_KeyedWords_kopen :
    ReadsAs kopenHere 9 0x10000031400 false kopenHere ∧
    Grants kopenHere .read 0x10000031400 64 (physRange 0x31400 64) (granted kopenHere .read 0x10000031400 64) ∧
    Grants kopenRead.2 .read 0x1000033400 128 (physRange 0x33400 128) (granted kopenRead.2 .read 0x1000033400 128) ∧
    (0x10000031400 : Word).toNat % 64 = 0 ∧ dataVa.toNat % 64 = 0 ∧ (0x10000030004 : Word).toNat % 64 ≠ 0 ∧
    stageFieldsOk (kopenRead.2.domain 0) (wordAt kopenRead.1) = true ∧ wordAt kopenRead.1 0 = 0x1000033400 ∧
    stageFieldsOk (kopenRead.2.domain 0) (fun _ => 0) = false ∧ templateOk (wordAt kopenTemplate.1) = true ∧
    (kopenTemplate.2.hentry (kopenRead.2.domain 0) 6).kind = 0 ∧ templateOk (fun _ => 1) = false ∧
    (kopenTemplate.2.hentry (kopenRead.2.domain 0) 7).kind = 0 ∧ (keyedHere.hentry (keyedHere.domain 0) 5).kind ≠ 0 ∧
    (kopenTemplate.2.core 345).stages.length < 4 ∧ 1 ≤ (kopenTemplate.2.freeSlots 345 0).length ∧
    (4 ≤ ((onCore fun k => { k with stages := List.replicate 4 stageHere }).core 345).stages.length) ∧
    ((onCore fun k => { k with disabled := 0xFFFF }).freeSlots 345 0).length < 1 ∧
    presentAll ((kopenTemplate.2.domain 0).htbase + 16 * 6) 16 = true ∧
    (match opened kopenHere 345 0 with
      | .ok s => (s.rd.port? 3).isNone && !s.rd.pend.getLsbD 3
      | _ => false) = true :=
  ⟨reads_of (by decide +kernel), grants_of (by decide +kernel), grants_of (by decide +kernel), by decide +kernel⟩

end Sys2Proof.Tests
end

