-- ==== Sys2Proof/Tests/StepWitnesses.lean ====
section
/-! SUPPORT. Witnesses: states and operands that meet the hypotheses of the statements about gates, vectors and steps. -/

namespace Sys2Proof.Tests

set_option Elab.async false

open Sys2Proof.Machine
open Sys2Proof.Safety

/-- Entry 7 of the handle table is a gate of domain 6, whose descriptor lies at 0x33000; domain 7 is the VD's hypervisor. -/
def gateHere : State :=
  { (((with' fun t => { t with x := t.x.set 9 0x7000 }).physWrite 0x33000 (wordsBytes
      [0x1000000200, 0, 0, 0x0060000000022600, 0, 0, 0, 0])).physWrite 0x32070 (wordsBytes [0x2000000000000000, 0x33000])) with
    domains := [domainHere,
      { num := 6, life := .live, s1root := 0x10000, svbase := 0x100000C0000, svn := 1, bmap := 0x30810 },
      { num := 7, life := .live, hyp := true, s1root := 0x10000, tvec := 0x1000000900, svbase := 0x100000E0000, svn := 1, bmap := 0x30820 }] }

theorem gate_of {s s1 s2 s3 : State} {a b : XReg} {h : Word} {t : Bool} {e : HEntry} {gd : GateDesc} {x : BitVec 2 × Word × Word}
    (hf : PortsFit s [a] []) (hr : ReadsAs s a h t s1) (he : FindsEntry s1 h 2 e s2) (hg : FindsGate s2 e.addr.toNat gd s3)
    (hc : gateChecks s3 gd h 0 0 0 = .inl x) : ∀ k, gateFor s 0 a b k = k gd h x s3 := fun k => by
  have hf' : PortsFit s (if (0 : XReg) = 0#4 then [a] else [a, 0, b]) [] := hf
  unfold gateFor
  rw [legal_fit hf', hr _]
  simp only [useGrant, he _, hg _, hc]
  exact if_pos rfl

/-- The thread's state once it holds a block in the callee's domain. -/
def gateTaken : Option (State × Thread) :=
  match gateHere.takeBlock 345 gateHere.cur 6 with
  | .ok s t => some (s, t)
  | _ => none

def gateFrom : State := match gateTaken with
  | some (s, t) => { s with cur := t }
  | none => gateHere

def gateEntry7 : HEntry × State := entryRead gateFrom 0x7000
def gateDesc7 : GateDesc × State := gateRead gateEntry7.2 0x33000

/-- The part can write the records of a call. -/
def recordsFit (s : State) : Bool :=
  match s.cur.block? s.cur.dom, s.cur.hwPage with
  | some b, some page =>
    !s.recBad (physRange (b.caller s.cur.depth.toNat) 1536) true && !s.recBad (physRange page 16) true && s.cur.top.isNone
  | _, _ => false

theorem records_of {s : State} (h : recordsFit s = true) :
    ∃ b page, s.cur.block? s.cur.dom = some b ∧ s.cur.hwPage = some page ∧ CallRecords s b page := by
  unfold recordsFit at h
  split at h
  · rename_i b page hb hp
    simp only [Bool.and_eq_true, Bool.not_eq_eq_eq_not, Bool.not_true, Option.isNone_iff_eq_none] at h
    exact ⟨b, page, hb, hp, h.1.1, h.1.2, fun ht => by simp [h.2] at ht⟩
  · exact absurd h (by simp)

theorem gate_here : ∃ gd h x s1, (∀ k, gateFor gateFrom 0 9 0 k = k gd h x s1) ∧ gd.gdom = 6 ∧ gd.entry = 0x1000000200 ∧
    s1.popped = [] ∧ ∃ b page, s1.cur.block? s1.cur.dom = some b ∧ s1.cur.hwPage = some page ∧ CallRecords s1 b page := by
  have ha : gateEntry7.1.addr.toNat = 0x33000 := by decide +kernel
  have hg : FindsGate gateEntry7.2 gateEntry7.1.addr.toNat gateDesc7.1 gateDesc7.2 := by
    rw [ha]
    exact findsGate_of (by decide +kernel)
  exact ⟨gateDesc7.1, 0x7000, (0, 0, 0), gateDesc7.2,
    gate_of (fits_of (by decide +kernel)) (reads_of (t := false) (by decide +kernel)) (findsEntry_of (by decide +kernel)) hg (by decide +kernel),
    by decide +kernel, by decide +kernel, by decide +kernel, records_of (by decide +kernel)⟩

theorem witness_GateCalls :
    GuardOn gateHere 0 ∧ gateHere.cur.ldo = 0 ∧ gateHere.cur.sto = 0 ∧ gateHere.cur.vbusy = false ∧ here.cur.top = none ∧
    gateTarget gateHere 0 9 0 = some 6 ∧ gateHere.callWaits = false ∧ gateTaken.isSome = true ∧
    (let e : Entry := { hcallEntry with gate := 0x7000 }
     let s := with' fun t => { t with depth := 1, top := some e, st := 0x20 }
     s.cur.top = some e ∧ s.cur.hm = true ∧ e.gate ≠ 0) ∧
    (let s := with' fun t => { t with depth := 1, top := some hcallEntry }
     s.cur.top = some hcallEntry ∧ s.cur.hm = false ∧ s.cur.orphan.isSome = false ∧
      s.anyBehind s.cur (s.cur.pageRecords (s.cur.depth.toNat - 1)) = false ∧ s.recBehind s.cur hcallEntry.cframe.toNat 1536 = false ∧
      (readEntry s s.cur (s.cur.depth.toNat - 1)).1 = false ∧
      (readEntry s s.cur (s.cur.depth.toNat - 1)).2.recBad (physRange hcallEntry.cframe.toNat 1536) false = false) :=
  ⟨rfl, rfl, rfl, rfl, rfl, by decide +kernel⟩

theorem reads_gate (r : XReg) : ReadsAs gateHere r (gateHere.rd.reg r) false gateHere := by
  have h : ∀ r : XReg, gateHere.rd.pend.getLsbD r.toNat = false ∧ gateHere.rd.port? r = none ∧ gateHere.rd.tainted r = false := by
    decide +kernel
  exact reads_of ⟨(h r).1, (h r).2.1, rfl, (h r).2.2⟩

/-- No length, too long a length, two windows, no window, the image window, and a buffer; the other selectors; a hypervisor. -/
theorem witness_GateWords :
    GuardOn here 0 ∧ PortsFit here [4, 3] [5] ∧ ReadsTwo here 4 0 dataVa 0 false here ∧
    ReadsTwo here 4 1 dataVa 0xFFFFFFFFFFFFFFFF false here ∧ ReadsTwo here 4 5 dataVa 64 false here ∧
    ReadsTwo here 15 5 0x1000000100 64 false here ∧ ReadsTwo here 5 5 64 64 false here ∧ PortsFit gateHere [9] [5] ∧
    ReadsAs gateHere 9 0x7000 false gateHere ∧ FindsEntry gateFrom 0x7000 2 gateEntry7.1 gateEntry7.2 ∧
    FindsGate gateEntry7.2 0x33000 gateDesc7.1 gateDesc7.2 ∧ Takes gateDesc7.2 5 (gateWord gateDesc7.2 gateDesc7.1) gateDesc7.2 ∧
    ¬(0xFFFFFFFFFFFFFFFF : Word).toNat < 2 ^ 62 ∧ windowHere here.cur dataVa = .priv ∧ windowHere here.cur (dataVa + 64 - 1) = .priv ∧
    windowHere here.cur 0x1FFFFFFFFF = .image ∧ windowHere here.cur 0x2000000000 = .none ∧ windowHere here.cur 0x1000000100 = .image ∧
    windowHere here.cur 64 = .none ∧ windowHere here.cur (64 + 64 - 1) = .none ∧ (4#3 : BitVec 3) ≠ 2 ∧ here.lookup 0 0x7000 2 = none ∧
    ((0x7000 : Word).extractLsb' 12 20).toNat = 7 ∧ (here.domain 0).htlen = 8 ∧ (here.domain 0).htbase = 0x32000 ∧
    ((physRange 0x32070 16).all present = true ∧ here.cur.gated = false ∧ here.ahead (physRange 0x32070 16) = false ∧
      here.fatalAt (physRange 0x32070 16) = false) ∧
    (here.domain 0).htlen ≤ ((0x8000 : Word).extractLsb' 12 20).toNat ∧ ((0 : Word).extractLsb' 12 20).toNat = 0 ∧
    (gateHere.hypervisor gateHere.cur.vdid).map Domain.num = some 7 ∧ gateHere.cur.depth ≠ 8 ∧ gateHere.callWaits = false ∧
    (match gateHere.takeBlock 345 gateHere.cur 7 with
      | .ok s t => recordsFit { s with cur := t } && t.place != .gone
      | _ => false) = true :=
  ⟨rfl, fit_here _ _, two_here _ _, two_here _ _, two_here _ _, two_here _ _, two_here _ _, fits_of (by decide +kernel), reads_gate 9,
    findsEntry_of (by decide +kernel), findsGate_of (by decide +kernel), takes_of (by decide +kernel), by decide +kernel⟩

/-! ### Vector words -/

def commandHere (i : Instr) : VCmd := { instr := i, xs := 0, xt := 0, rm := 0, fzs := false, fzr := false, dom := 0 }

/-- v1 bound for pushing. -/
def pushStream : State := with' fun t => { t with streams := t.streams.set 1 { bound := true, push := true, desc := dataVa } }

theorem witness_VectorWords :
    vectorWord (.vadd 1 2 3 7) = true ∧ vectorPlain (.vadd 1 2 3 7) = true ∧ here.cur.vbusy = false ∧ PortsFit here [3, 4] [] ∧
    ReadsAs here 3 1 false here ∧ ReadsTwo here 3 4 1 dataVa false here ∧ PortsFit here [3] [5] ∧ Takes here 5 0 here ∧
    PortsFit here [4] [] ∧ ReadsAs here 4 dataVa false here ∧
    (with' fun t => { t with vcmd := some (commandHere .vfence) }).cur.vbusy = true ∧
    ((vectorRoles here.rd.rm (.vadd 1 2 3 7)).any fun o => o.illegal here.rd) = false ∧
    ((vectorRoles pushStream.rd.rm (.vadd 2 1 3 7)).any fun o => o.illegal pushStream.rd) = true ∧
    ((vectorRoles here.rd.rm (.vex2 1 2 3 3)).any fun o => o.illegal here.rd) = false ∧
    ((vectorRoles here.rd.rm (.vbcast 1 3 4)).any fun o => o.illegal here.rd) = false ∧
    ((vectorRoles here.rd.rm (.vget 2 3 5 4)).any fun o => o.illegal here.rd) = false ∧
    ((vectorRoles here.rd.rm (.vgath 1 2 3 4 4)).any fun o => o.illegal here.rd) = false ∧
    ((vectorRoles here.rd.rm (.vscat 2 3 3 4 4)).any fun o => o.illegal here.rd) = false ∧ dataVa.extractLsb' 0 6 = 0#6 ∧
    (1 : Word).extractLsb' 0 6 ≠ 0#6 :=
  ⟨rfl, rfl, rfl, fit_here _ _, reads_here _, two_here _ _, fit_here _ _, takes_here _ _, fit_here _ _, reads_here _, by decide +kernel⟩

/-! ### Steps of memory and of the units -/

def loadReq : Req :=
  { home := homeOf 0x8000000000000, core := 345, slot := 3, thread := 1, dom := 0, va := 0x7E0000000000, phys := physRange 0x8000000000000 8
    kind := .load true 8, dest := 3, whole := physRange 0x8000000000000 8 }

def loadRet : Ret := { thread := 1, isLoad := true, write := some (3, 5, false), phys := physRange 0x30000 8 }
def storeRet : Ret := { thread := 1, isLoad := false, write := none, phys := physRange 0x30000 8 }
def atomicRet : Ret := { thread := 1, isLoad := false, write := some (3, 5, false), phys := physRange 0x30000 8 }

/-- The slice of the dword's frame, and its line. -/
def sliceReq : Req := { loadReq with home := .slice 0, phys := physRange 0x30000 8, whole := physRange 0x30000 8, va := dataVa }

/-- Accesses that complete, without and with a hop that has retired; a watch hit, a poll, a nap that is over; the normaliser's oldest
thread, waiting for it or not. -/
theorem witness_MemoryEvents_waits :
    (let t : Thread := { threadHere with wait := some .access }
     (with' fun t => { t with wait := some .access }).thread? 1 = some t ∧ t.wait = some .access ∧
      t.leaving.any (fun l => here.mayMove t l.1) = false ∧
      (some (347, true)).any (fun (l : CoreNo × Bool) => here.mayMove { t with leaving := some (347, true) } l.1) = true) ∧
    (let s : State := { (with' fun t => { t with wait := some (.watch 0x30000) }) with
      watches := [{ home := .slice 0, thread := 1, addr := 0x30000, was := 0, hit := true }] }
     (s.thread? 1).map Thread.wait = some (some (.watch 0x30000)) ∧ (s.watches.any fun w => w.thread == 1 && w.hit) = true) ∧
    ((with' fun t => { t with wait := some (.poll 0x30000) }).thread? 1).map Thread.wait = some (some (.poll 0x30000)) ∧
    (((with' fun t => { t with wait := some (.sleep 0) }).thread? 1).map Thread.wait = some (some (.sleep 0)) ∧ (0 : Word).toNat ≤ here.cyc.toNat) ∧
    (let s : State := { (onCore fun k => { k with norm := [1, 2] }) with cur := { threadHere with norm := true } }
     (s.thread? 1).map Thread.norm = some true ∧ (s.core 345).norm = [1, 2]) ∧
    (let s := onCore fun k => { k with norm := [1, 2] }
     (s.thread? 1).map Thread.norm = some false ∧ (s.core 345).norm = [1, 2]) := by
  and_intros <;> decide +kernel

/-- Answers of a load, an atomic and a store. -/
theorem witness_MemoryEvents_answers :
    (here.thread? 1 = some threadHere ∧ threadHere.port? 3 = none) ∧
    ([loadRet, storeRet].find? fun x => x.thread == 1 && x.isLoad) = some loadRet ∧
    ([loadRet, atomicRet].find? fun x => x.thread == 1 && !x.isLoad) = some atomicRet ∧
    ([loadRet, storeRet].find? fun x => x.thread == 1 && !x.isLoad) = some storeRet := by
  and_intros <;> decide +kernel

/-- A request at a bank; one at a slice whose line is absent or present; a fill with no request behind it and with one; scrubs. -/
theorem witness_MemoryEvents_homes :
    (let s : State := { here with reqs := [loadReq] }
     s.damage = [] ∧ s.nextSource (.bank 0) = some (345, 1) ∧ (s.servable (.bank 0)).find? (fun q => q.core.toNat == 345) = some loadReq ∧
      WholeRequest s loadReq) ∧
    (let s : State := { here with reqs := [sliceReq] }
     s.nextSource (.slice 0) = some (345, 1) ∧ (s.servable (.slice 0)).find? (fun q => q.core.toNat == 345) = some sliceReq ∧
      s.lines.contains (0, sliceReq.line) = false ∧ ({ s with lines := [(0, sliceReq.line)] } : State).lines.contains (0, sliceReq.line) = true ∧
      WholeRequest s sliceReq) ∧
    (let s : State := { here with fills := [(0, 0x600)] }
     s.fills.contains (0, 0x600) = true ∧ s.queueAt (.slice 0) = []) ∧
    (let s : State := { here with fills := [(0, 0x600)], reqs := [sliceReq] }
     s.queueAt (.slice 0) = [sliceReq] ∧ sliceReq.line = 0x600 ∧ (s.fills.erase (0, 0x600)).contains (0, 0x600) = false ∧
      s.standsBefore sliceReq = false ∧ s.damage = [] ∧ WholeRequest s sliceReq ∧
      ({ s with
          fills := [], lines := touchLine s.lines 0 0x600
          firsts := [(0, 0x600, s.nextNumber)] } : State).standing (.slice 0) = []) ∧
    present 0 = true ∧ present (scratchBase + 2 ^ 29 - 1) = true ∧ here.queueAt (homeOf 0) = [] ∧
    ({ here with reqs := [loadReq] } : State).queueAt (homeOf scratchBase) ≠ [] := by
  unfold WholeRequest
  and_intros <;> decide +kernel

/-- Lanes of every kind: a NaN, infinities, zeros, finite numbers, small integers. -/
def lanesHere : Lanes :=
  (Vector.replicate 32 0x3F800000).set 0 0x7FC00000 |>.set 1 0x7F800000 |>.set 2 0xFF800000 |>.set 3 0 |>.set 4 0x80000000
    |>.set 5 0xBF800000 |>.set 6 0x40000000 |>.set 7 7

/-- v2 and v3 hold lanes of every kind, v4 holds one NaN in all its lanes, v5 holds 1.0 and -1.0, v6 holds zeros. -/
def lanesOf : Vector Lanes 8 :=
  (Vector.replicate 8 lanesHere).set 4 (Vector.replicate 32 0x7FC00000) |>.set 5 ((Vector.replicate 32 0x3F800000).set 9 0xBF800000)
    |>.set 6 (Vector.replicate 32 0)

/-- The machine whose comb translates the page of the data, with a thread whose command is `c`. -/
def beatThread (c : VCmd) : Thread := { threadHere with vcmd := some c, v := lanesOf }
def beatHere (c : VCmd) : State :=
  { here.setComb { here.comb 43 with tlb := [{ dom := 0, page := 0x1000003, vd := 0, ipa := 3, phys := 3, r := true, w := true, x := false }] } with
    cur := beatThread c }

def finite (x : Machine.Num) : Bool := match x with
  | .fin _ _ d => decide (0 < d)
  | _ => false

theorem finite_of {x : Machine.Num} (h : finite x = true) : isFinite x := by
  cases x <;> simp_all [isFinite, finite]

/-- A command of any word that has not begun, and one that has finished; the lanes that the clauses tell apart. -/
theorem witness_VectorBeats :
    (∀ i : Instr, BeatReady (beatHere (commandHere i)) 1 (beatThread (commandHere i)) (commandHere i)) ∧
    ({ commandHere .vfence with finished := true } : VCmd).finished = true ∧
    (let c := commandHere (.vadd 1 2 3 7)
     let t := beatThread c
     let L := laneAt c t
     let F (r : VReg) (j : Nat) : Machine.Num := decodeF .f32 (flush .f32 c.fzs (L r j).toNat)
     isFinite (F 2 8) ∧ isFinite (F 2 3) ∧ (∀ j < 32, isFinite (F 5 j)) ∧ (∀ j < 32, isFinite (F 6 j)) ∧
     ((F 2 0).isNan = true ∧ (F 2 1) = .inf false ∧ (F 2 2) = .inf true ∧ (F 2 0).isNan = true ∧ (F 2 8).isNan = false ∧
      (∀ j < 32, (F 4 j).isNan = true) ∧ (F 2 5).sign = true ∧ (F 2 4).isZero = true ∧ c.rm ≠ 4 ∧ t.port? 3 = none ∧
      valueOf (F 2 6) = 2 ∧ valueOf (F 2 5) < valueOf (F 2 8) ∧ ((List.range 32).map fun j => valueOf (F 5 j)).sum = 30 ∧
      ((List.range 32).map fun j => valueOf (F 6 j)).sum = 0 ∧ (L 2 7 : Word32) = 7)) := by
  refine ⟨fun i => ⟨rfl, rfl, rfl, rfl, rfl, rfl, rfl, rfl, rfl, ?_⟩, rfl, finite_of (by decide +kernel), finite_of (by decide +kernel),
    fun j hj => finite_of ?_, fun j hj => finite_of ?_, by decide +kernel⟩
  · show ∀ r, (threadHere.stream r).bound = false
    decide +kernel
  all_goals
    revert j hj
    decide +kernel

/-- The data's address, its elements one behind the other, and where an access to one acts. -/
def placesOf (s : State) (t : Thread) (k : Acc1) (a : Word) (n : Nat) : List Nat :=
  match elementCheck s t 0 k a n with
  | .ok ps => ps
  | _ => []

def gatherCmd (i : Instr) : VCmd := { commandHere i with xs := dataVa, xt := 2 }

/-- A gather and a scatter of two lanes, whose indexes are those of v6: the last of the two lanes writes. -/
theorem witness_VectorBeats_gather :
    ∀ p ∈ [(gatherCmd (.vgath 1 6 4 5 4), Acc1.read), (gatherCmd (.vscat 2 6 4 5 4), Acc1.write)],
    let s := beatHere p.1
    let t := beatThread p.1
    let addr (j : Nat) : Word := p.1.xs + (laneAt p.1 t 6 j).signExtend 64 * 4
    let at_ (j : Nat) : List Nat := placesOf s t p.2 (addr j) 4
    s.damage = [] ∧ (∀ j < 2, elementCheck s t p.1.dom p.2 (addr j) 4 = .ok (at_ j) ∧ (at_ j).length = 4) ∧
      s.engineBehind t.core ((List.range 2).flatMap at_) = false ∧
      ((List.range 2).filter fun j => !((List.range 2).any fun k => decide (j < k) && addr k == addr j)) = [1] ∧
      (([1] : List Nat).flatMap at_).Nodup ∧ s.engineBehind t.core (([1] : List Nat).flatMap at_) = false := by
  decide +kernel

/-- A stream of eight words, bound to a register for popping or pushing, with its descriptor in memory. -/
def streamDwords : List Word := [dataVa, 0x0000000100000008, 0x0000000400000001, 4, 0, 0, 0, 0]

def streamThread (c : VCmd) (r : Fin 8) (push : Bool) : Thread :=
  { beatThread c with streams := threadHere.streams.set r { bound := true, push := push, desc := dataVa } }

def streamHere (c : VCmd) (r : Fin 8) (push : Bool) : State := { beatHere c with cur := streamThread c r push }

def streamCmd (r : VReg) : VCmd :=
  { commandHere (.vadd 1 2 3 4) with started := true, descs := [(r, streamDwords)], len := 8 }

/-- v2 is popped, or v1 pushed to. -/
theorem witness_VectorBeats_streams :
    ∀ p ∈ [((2 : VReg), false), (1, true)],
    let c := streamCmd p.1
    let s := streamHere c p.1.toFin p.2
    let t := streamThread c p.1.toFin p.2
    let at_ (j : Nat) : List Nat := placesOf s t (if p.2 then .write else .read) (elementAt streamDwords ((t.stream p.1).pos.toNat + j)) 4
    StreamBeat s 1 t c p.1 p.2 streamDwords 8 at_ ∧ ((List.range 8).flatMap at_).Nodup ∧ ((4 : BitVec 4)).toNat ≤ 9 ∧
      (2 : VReg) ≠ 3 ∧ (1 : VReg) ≠ 2 ∧ (1 : VReg) ≠ 3 := by
  unfold StreamBeat
  decide +kernel

/-- The command's descriptor is read: a good one, and one whose type is reserved. -/
theorem witness_VectorBeats_start :
    ∀ bad ∈ [false, true],
    let c := commandHere (.vadd 1 2 3 4)
    let s := (streamHere c 2 false).physWrite 0x30000 (wordsBytes (if bad then streamDwords.set 2 0x0000000A00000001 else streamDwords))
    let t := streamThread c 2 false
    let ps := placesOf s t .read (t.stream 2).desc 64
    let ws : List Word := (List.range 8).map fun i => leWord ((List.range 8).map fun j => memGet s.mem (ps.getD (8 * i + j) 0))
    s.thread? 1 = some t ∧ t.vcmd = some c ∧ c.started = false ∧ c.finished = false ∧ c.waits = [] ∧
      (s.reqs.any fun q => q.thread == 1) = false ∧ s.damage = [] ∧
      ((vectorRoles c.rm c.instr).map fun o => o.bound t) = some [2] ∧ gatherForm c.instr = none ∧ ps.length = 64 ∧
      elementCheck s t c.dom .read (t.stream 2).desc 64 = .ok ps ∧ s.engineBehind t.core ps = false ∧ (t.stream 2).pos.toNat < 8 ∧
      ws = (if bad then streamDwords.set 2 0x0000000A00000001 else streamDwords) := by
  decide +kernel

def leaseHere : LeaseReq := { thread := 1, core := 345, whole := false, cls := 0, bypassed := 0, only := none }

/-- A grant at its limit of operations, and one that has lasted too long. -/
def fullGrant : Grant := { grantHere with entered := 64 }
def oldGrant : Grant := { grantHere with entered := 0 }

def zeroOp : TileOp :=
  { instr := .mzero 0 2 0 0, thread := 1, core := 345, dom := 0, subs := [0], a := none, b := none, pattern := 0, random := 0, rm := 0
    fzs := false, fzr := false, agv := 0x3F000000, agc := 0x8000, cen := false, started := false }

def onComb (f : Comb → Comb) : State := here.setComb (f (here.comb 43))

/-- A request that the arbiter grants, with its thread parked on it; grants whose time is over, which a request needs or none
does; operations that start and complete; an audit that is due. -/
theorem witness_TileAndCopyEvents_tiles :
    (let s : State := { (onComb fun k => { k with requests := [leaseHere] }) with cur := { threadHere with wait := some .lease } }
     (s.comb 43).nextGrant = some (0, leaseHere) ∧ (s.thread? 1).map Thread.wait = some (some .lease)) ∧
    ((onComb fun k => { k with requests := [leaseHere], grants := [fullGrant] }).comb 43).grants.find? (fun g => g.thread == 1) = some fullGrant ∧
    64 ≤ fullGrant.entered ∧ ([leaseHere].any fun r => r.needs fullGrant) = true ∧ (([] : List LeaseReq).any fun r => r.needs fullGrant) = false ∧
    (let s : State := { (onComb fun k => { k with grants := [oldGrant] }) with cyc := 65536 }
     (s.comb 43).grants.find? (fun g => g.thread == 1) = some oldGrant ∧ 65536 ≤ (s.cyc - oldGrant.since).toNat) ∧
    (({ threadHere with intent := some (true, 3) } : Thread).intent = some (true, 3)) ∧
    (let s := onComb fun k => { k with queue := [zeroOp], grants := [grantHere] }
     (s.comb 43).queue = [zeroOp] ∧ zeroOp.started = false ∧ (s.reqs.any fun q => q.thread == zeroOp.thread) = false ∧
      grantHere ∈ (s.comb 43).grants ∧
      grantHere.thread = zeroOp.thread ∧ grantHere.whole = true) ∧
    ({ grantHere with whole := false } : Grant).quarter = 0 ∧
    (let o : TileOp := { zeroOp with started := true }
     let s := onComb fun k => { k with queue := [o] }
     (s.comb 43).queue.find? (fun o => o.started && !Held.waits s o.held) = some o ∧ o.instr = .mzero 0 2 0 0 ∧ o.counted = true ∧
      s.thread? o.thread = some threadHere) ∧
    ((onComb fun k => { k with audit := some { d2 := 1, d3 := 2, d4 := 0, d5 := 0 } }).comb 43).audit.isSome = true := by
  and_intros <;> decide +kernel

/-- The operands of a product: one element in each row of A, in memory; one in each column of B, in the slices. -/
def tensorHere (fmt : BitVec 4) (base : Word) : Tensor :=
  { handle := 0, base := base, fmt := fmt, scm := 0, sp := false, scale := 0, dir := 0, d0 := 1, d1 := 16, d2 := 1, d3 := 1
    s1 := 8, s2 := 0, s3 := 0 }

def accHere (n : BitVec 4) (split : Bool) (old : Word32) : Acc :=
  { sub := 0, n := n, thread := 1, dom := 0, core := 345, slot := 3, parked := false, split := split, i32 := some false, err := false
    ecause := 0, elems := List.replicate 256 old, counts := List.replicate 256 (65535, 2) }

/-- An operation on sub-array 0 that runs. -/
def opHere (i : Instr) (a b : Option Tensor) (step : Nat) : TileOp :=
  { zeroOp with num := 7, instr := i, a := a, b := b, started := true, step := step }

/-- The comb of the thread with such an operation, its accumulators, and rows of 0x40 0x40 ... in its slices. -/
def tileHere (o : TileOp) (split : Bool) (old : Word32) : State :=
  { (onComb fun k => { k with
      queue := [o], accs := [accHere 2 split old, accHere 3 split old]
      slices := (List.range 64).map fun z => { num := BitVec.ofNat 6 z, tag := 0, rows := [(0, List.replicate 48 0x40)] } }) with
    cur := { threadHere with tlo := 1 } }

/-- A step of a product in B16 and in I8, of `mma` and of `mmas`, from an old value that is finite or a NaN: the operands are read,
every element of them is finite, and the steps left end the operation. -/
theorem witness_TileAndCopyEvents_products :
    ∀ p ∈ ([(2, .mma 0 2 0 0 0 0, 0x3F800000), (2, .mma 0 2 0 0 0 0, 0x7FC00000), (3, .mma 0 2 0 0 0 0, 0x3F800000),
      (2, .mmas 0 2 0 0 0 0, 0x3F800000)] : List (BitVec 4 × Instr × Word32)),
    let a := tensorHere p.1 dataVa
    let b := tensorHere p.1 0
    let o := opHere p.2.1 (some a) (some b) 0
    let s := tileHere o o.split p.2.2
    (s.comb 43).queue.find? (fun o => o.started && !Held.waits s o.held) = some o ∧ s.damage = [] ∧ o.shape.toNat ≤ 4 ∧ o.subs.Nodup ∧
      o.subs.length = 1 ∧ o.shape = 0 ∧ a.capped = false ∧ a.scm = 0 ∧ 0 < min a.perStep (a.d0 - o.step * a.perStep) ∧
      ((s.comb 43).acc? 0 2).any (fun r => r.elems.length == 256 && r.counts.length == 256) = true ∧
      ((s.comb 43).acc? 0 3).any (fun r => r.elems.length == 256 && finite (decodeF .f32 0x3F800000)) = true ∧
      (match readStep (o.unit s) (s.comb 43) o a b 0 with
        | .ok x _ => x.rows.length == 16 && x.cols.length == 16 &&
          (x.rows.all fun r => finite r.2 && r.1.length == 1 && r.1.all fun e => finite (decodeF .b16 (flush .b16 false e))) &&
          (x.cols.all fun r => finite r.2 && r.1.length == 1 && r.1.all fun e => finite (decodeF .b16 (flush .b16 false e)))
        | _ => false) = true ∧
      (match runSteps 43 a b (a.steps - o.step) s o with
        | .ok s1 o1 => o1.step == 1 && s1.mem == s.mem
        | _ => false) = true ∧
      ((List.range 16).all fun i1 => match engineAccess s 345 1 0 [] .read
          (a.base + BitVec.ofInt 64 (i1 * a.s1 + 0 * a.s2 + 0 * a.s3) + BitVec.ofNat 64 (48 * 0)) (1 * a.size) with
        | .ok ps => ps.length == 1 * a.size
        | _ => false) = true := by
  decide +kernel

/-- A row of A outside every window. -/
theorem witness_TileAndCopyEvents_faults :
    (let a := tensorHere 2 0x20
     let o := opHere (.mma 0 2 0 0 0 0) (some a) (some (tensorHere 2 0)) 0
     let s := tileHere o false 0
     (match runSteps 43 a (tensorHere 2 0) (a.steps - o.step) s o with
      | .bad s1 _ c => c == 1 && s1.mem == s.mem
      | _ => false) = true) ∧
    (let z := tensorHere 2 0x20
     let o := { opHere (.mbload 0 5 6) (some z) none 0 with subs := allSubs, pattern := 0x0000004001000030 }
     let s := tileHere o false 0
     (match loadFrom 43 z (pattern o.pattern) (loadBlocks z (pattern o.pattern) - o.step) (s.tagSlices 43 o) o with
      | .bad s1 _ c => c == 1 && s1.mem == s.mem
      | _ => false) = true) := by
  decide +kernel

/-- The last element of a drain, in both planes and counts, in each format of results; what it writes and where. -/
theorem witness_TileAndCopyEvents_drains :
    ∀ p ∈ ([(0, 0, 0), (0, 1, 1), (1, 2, 1), (2, 3, 1), (3, 0, 1)] : List (BitVec 2 × BitVec 2 × BitVec 1)),
    let z := tensorHere 2 dataVa
    let o := opHere (.mdrain 0 2 5 6 p.1 p.2.1 p.2.2 0) (some z) none 255
    let s := tileHere o o.split 0x3F800000
    let q := spot o.shape o.step
    let cells := cellsOf (s.comb 43) o
    let at_ := drainAddr z o.shape p.2.1 q 0
    let size := drainSize p.2.1
    (s.comb 43).queue.find? (fun o => o.started && !Held.waits s o.held) = some o ∧ o.a = some z ∧ s.damage = [] ∧ size ≤ 8 ∧
      (s.thread? o.thread).isSome = true ∧
      (match drainFrom z p.1 p.2.1 cells (shapeSize 0 - o.step) s o with
        | .ok s1 o1 => o1.step == 256 && (s1.thread? 1).isSome
        | _ => false) = true ∧
      (match (o.unit s).destScale z (q.row + 16 * q.batch) q.n with
        | .ok sc l => match drainWrites z o.shape p.2.1 q 0
            (drainPlanes o p.1 p.2.1 sc (o.i32.contains (o.sub q.k)) o.step (cells.getD o.step ⟨0, 0, 0, 0⟩)).1 (s.noteTile o l) o with
          | .ok _ _ => true
          | _ => false
        | _ => false) = true ∧
      (match engineAccess s 345 1 0 [] .write at_ size with
        | .ok ps => decide ps.Nodup && ps.length == size && !s.arrayBehind ps
        | _ => false) = true := by
  decide +kernel

/-- Cells that a drain tells apart: both planes 0, planes that agree enough and that do not, with counts and without. -/
theorem witness_TileAndCopyEvents_planes :
    (let n (w : Word32) : ℚ := valueOf (numOf w)
     finite (.fin false 1 2) = true ∧ finite (numOf 0) = true ∧ finite (numOf 0x3F800000) = true ∧ finite (numOf 0x40000000) = true ∧
      n 0 = 0 ∧ n 0x3F800000 = 1 ∧ n 0x40000000 = 2 ∧ 0 ≤ n zeroOp.agv ∧ n zeroOp.agv * (2 + 0) ≤ |(2 : ℚ) - 0| ∧
      ¬n zeroOp.agv * (2 + 1) ≤ |(2 : ℚ) - 1| ∧ zeroOp.cen = false ∧ zeroOp.agc.toNat * (3 + 0) ≤ 65535 * (max 3 0 - min 3 0) ∧
      ¬zeroOp.agc.toNat * (3 + 2) ≤ 65535 * (max 3 2 - min 3 2) ∧ (opHere (.mdrain 0 2 5 6 3 0 1 0) none none 0).split = true ∧
      (opHere (.mdrain 0 2 5 6 0 0 0 0) none none 0).split = false) := by
  decide +kernel

/-- The last block of a load: its units, a unit of the tensor and one past its end. -/
theorem witness_TileAndCopyEvents_loads :
    (let z := tensorHere 2 dataVa
     let p := pattern 0x0000004001000030
     let o := { opHere (.mbload 0 5 6) (some z) none (loadBlocks z p - 1) with subs := allSubs, pattern := 0x0000004001000030 }
     let s := tileHere o false 0
     let slice := (p.first + p.stride * (o.step % p.cyc)) % 64
     (s.comb 43).queue.find? (fun o => o.started && !Held.waits s o.held) = some o ∧ o.a = some z ∧ s.damage = [] ∧ z.capped = false ∧
      0 < z.steps ∧ 0 < min z.perStep (z.d0 - 0 * z.perStep) ∧ z.d1 * z.d2 * z.d3 = 16 ∧
      (∀ y ∈ (s.comb 43).slices, y.num.toNat = slice → y.tag = o.dom) ∧
      (match loadFrom 43 z p (loadBlocks z p - o.step) (s.tagSlices 43 o) o with
        | .ok _ o1 => o1.step == loadBlocks z p
        | _ => false) = true ∧
      (match Rd.all (fun j => loadUnit (o.unit s) z (o.step * (p.blk / 48) + j)) (List.range (p.blk / 48)) with
        | .ok us _ => us.all fun y => y.length == 48
        | _ => false) = true ∧
      (match engineAccess s 345 1 0 [] .read (z.base + BitVec.ofInt 64 (((3 % z.d1 : Nat) : Int) * z.s1) + BitVec.ofNat 64 (48 * 0)) (1 * z.size) with
        | .ok ps => ps.length == 1 * z.size && !s.arrayBehind ps
        | _ => false) = true) := by
  decide +kernel

/-- A copy of 64 bytes, one whose block is bad, and one of no bytes. -/
def goodCopy : Copy :=
  { op := 0, thread := 1, dom := 0, block := [dataVa, 0x10000035000, 0x0000000100000040, 1, 0, 0, 0, 0x2A], post := true, barrier := none
    estimate := 0 }

/-- The core's engine works at `e`. -/
def engineHere (e : Copy) : State := { (onCore fun k => { k with engine := some e }) with cur := { threadHere with cpo := 1 } }

/-- What a copy's movement has ended in. -/
def Ends (e : Copy) (f : State → Copy → Bool) : Bool := match e.perform 345 (engineHere e) with
  | .ok s1 e1 => f s1 e1
  | _ => false

/-- A core whose engine accepts; a copy and a fill that move 64 bytes; a copy that faults, one that waits for a request of its
core, one that has been performed, one whose block is bad, and one of no bytes. -/
theorem witness_TileAndCopyEvents_copies :
    (let s := onCore fun k => { k with fifo := [goodCopy] }
     (s.core 345).engine = none ∧ (s.core 345).fifo = [goodCopy] ∧ (∀ d ∈ s.damage, d.spot ≠ .fifo 345) ∧ goodCopy.bad s = false) ∧
    ({ goodCopy with op := 7 } : Copy).bad here = true ∧
    (∀ e ∈ [goodCopy, { goodCopy with op := 4 }],
      let s := engineHere e
      (s.core 345).engine = some e ∧ e.held = [] ∧ e.barrier = none ∧ e.ending = none ∧ e.desc = false ∧ e.toPort = false ∧ e.rdir = 0 ∧
        e.count ≠ 0 ∧ (s.reqs.any fun q => q.thread == e.thread && decide (q.num < e.num)) = false ∧
        Ends e (fun s1 e1 => (s1.thread? e1.thread).isSome && e1.bytes == 64 && e1.barrier.isNone && e1.op != 2 && e1.op != 3) = true) ∧
    (match ({ goodCopy with block := [0x20, 0x10000035000, 0x0000000100000040, 1, 0, 0, 0, 0x2A] } : Copy).perform 345 here with
      | .bad s1 e1 status _ => (s1.thread? e1.thread).isSome && e1.barrier.isNone && status == 1
      | _ => false) = true ∧
    (let s : State := { engineHere goodCopy with reqs := [{ sliceReq with thread := 9 }] }
     (s.reqs.any fun q => q.thread == goodCopy.thread && decide (q.num < goodCopy.num)) = false ∧
      (match goodCopy.perform 345 s with
        | .wait s1 _ => s1.mem == s.mem
        | _ => false) = true) ∧
    ({ goodCopy with ending := some (0, 0) } : Copy).ending = some (0, 0) ∧
    ({ goodCopy with op := 7, desc := true } : Copy).desc = true ∧ ({ goodCopy with block := [] } : Copy).count = 0 := by
  and_intros <;> decide +kernel

/-- The 64 bytes of a copy's one chunk, and of a fill's: where they come from and go to. -/
theorem witness_TileAndCopyEvents_chunks :
    ∀ fill ∈ [false, true],
    let e : Copy := { goodCopy with op := if fill then 4 else 0 }
    let s := engineHere e
    let l : List ((Option Word × Word) × Nat) := ((List.range 64).map fun i =>
      ((if fill then none else some (dataVa + BitVec.ofNat 64 i)), (0x10000035000 : Word) + BitVec.ofNat 64 i)).zipIdx
    let srcs : List Word := l.filterMap fun (m : (Option Word × Word) × Nat) => m.1.1
    let vas : List Word := l.map fun (m : (Option Word × Word) × Nat) => m.1.2
    s.damage = [] ∧ e.held = [] ∧ ((∀ m ∈ l, m.1.1.isSome) ∨ (∀ m ∈ l, m.1.1 = none)) ∧
      (match checkBytes (e.byteCheck s 345 .read) srcs with
        | .ok ps => !s.engineBehind 345 ps && ps.length == (if fill then 0 else l.length) &&
          (let s0 := (s.useTr 345 e.thread e.dom .read (srcs.map fun a => (a, 1))).noteReads (e.source 345) 5 [((srcs.headD 0).toNat, ps)]
           match checkBytes (e.byteCheck s0 345 .write) vas with
           | .ok qs => !s0.engineBehind 345 qs && decide qs.Nodup && qs.length == l.length
           | _ => false)
        | _ => false) = true := by
  decide +kernel

/-! ### Steps between threads -/

/-- A message to the thread itself, and one refused once. -/
def selfMsg : Msg := { msgHere with dest := 0x100000000 }
def refusedMsg : Msg := { selfMsg with refused := true }
def againMsg : Msg := { selfMsg with nacks := 1 }
/-- A message to a slot of a domain that is dead. -/
def lostMsg : Msg := { msgHere with dest := 0x0000000100500000 }

def reportHere : Report := { kind := 2, dom := 0, w0 := 7, w1 := 1 }

theorem witness_MessageEvents :
    (let s := onCore fun k => { k with retry := [selfMsg] }
     selfMsg.stage = none ∧ selfMsg ∈ (s.core 345).retry ∧
      (s.core 345).retry.find? (fun m => m.stage.isNone && !m.refused && m.nacks == 0 && s.inOrder m) = some selfMsg ∧
      s.messageFails 345 selfMsg = false ∧ s.accepts selfMsg = some threadHere) ∧
    (let s : State := { (onCore fun k => { k with retry := [selfMsg] }) with domains := [{ domainHere with life := .dying }] }
     selfMsg.nacks = 0 ∧ s.gone (destDom selfMsg.dest) = true ∧ s.accepts selfMsg = some threadHere ∧ s.refuses threadHere.core 345 2 = false ∧
      s.messageFails 345 againMsg = true ∧ s.firstOfDead 345 againMsg threadHere = false) ∧
    (let s := onCore fun k => { k with retry := [againMsg] }
     (s.core 345).retry.find? (fun m => !m.refused && m.nacks != 0 && decide (m.due.toNat ≤ s.cyc.toNat) && s.inOrder m) = some againMsg ∧
      s.messageFails 345 againMsg = false ∧ s.accepts againMsg = some threadHere) ∧
    (let s : State := { (onCore fun k => { k with retry := [selfMsg] }) with cur := { threadHere with st := 0x20 } }
     s.messageFails 345 selfMsg = false ∧ s.accepts selfMsg = none) ∧
    (let s : State := { (onCore fun k => { k with retry := [lostMsg] }) with domains := [domainHere, { num := 5, life := .dead }] }
     s.messageFails 345 lostMsg = true ∧ s.accepts lostMsg = none ∧ s.thread? lostMsg.sender = some threadHere ∧ threadHere.inSlot = true ∧
      (s.core 345).mailFree 1 = true ∧ threadHere.reports = []) ∧
    ((onCore fun k => { k with retry := [refusedMsg] }).core 345).retry.find? (fun m => m.refused) = some refusedMsg ∧
    (let t : Thread := { threadHere with reports := [reportHere] }
     (with' fun t => { t with reports := [reportHere] }).thread? 1 = some t ∧ t.inSlot = true ∧ (here.core 345).mailFree 1 = true ∧
      nextReport t = some reportHere) := by
  and_intros <;> decide +kernel

def recordMsg : Msg := { msgHere with stage := some (0, 0), payload := [9, 1, 2] }

/-- A stage of domain 0 on core 0, with a worker in slot 2 of it. -/
def workerHere : Thread :=
  { num := 2, place := .slot 0 2, wait := some .record, worker := some { core := 0, stage := 0, key := none }, hwPage := some 0x210000,
    blocks := [{ dom := 0, index := 1, lo := 0x60000, hi := 0x70000 }] }

def stagedHere (g : Stage) : State :=
  { (here.setCore { num := 0, stages := [g] }) with others := [workerHere] }

theorem witness_KeyedEvents_records :
    (let s : State := { (stagedHere stageHere).setCore { num := 345, retry := [recordMsg] } with nextThread := 3 }
     (s.core 345).retry.find? (fun m => m.stage.isSome && !m.refused && m.nacks == 0 && s.inOrder m) = some recordMsg ∧
      recordMsg.stage = some (0, 0) ∧ (s.core 0).stages.find? (fun h => h.id == 0) = some stageHere ∧ stageHere.closing = none ∧
      (s.domain 0).life = .live ∧ s.refuses 0 345 2 = false ∧ s.restarting ≠ some 0) ∧
    ({ stageHere with queue := List.replicate 127 [1, 2, 3] } : Stage).queue.length < 128 ∧
    128 ≤ ({ stageHere with queue := List.replicate 128 [1, 2, 3] } : Stage).queue.length := by
  and_intros <;> decide +kernel

def idleEntry : Brood :=
  { stage := 0, key := 9, pc := 0x1000000140, pw := 1, mask := 4, regs := [5], age := 0, life := .idle }

def queuedStage : Stage := { stageHere with queue := [[9, 1, 2]] }
def closingStage : Stage := { stageHere with closing := some 1 }

/-- What the workers of a stage on core 0 stand ready to decide with. -/
def readyAt (s : State) (g : Stage) (f : State → Bool) : Bool := match s.readyWorkers 0 g with
  | (u, t :: _) => t.num == 2 && u.damage.isEmpty && (u.thread? t.num).isSome && f u
  | _ => false

/-- A record whose key has an entry, and one whose key has none and no spilled record; a full store; an entry that a close makes
due; a stage with nothing left. -/
theorem witness_KeyedEvents_entries :
    (let s := (stagedHere queuedStage).setCore { num := 0, stages := [queuedStage], brood := [idleEntry] }
     (s.core 0).stages = [queuedStage] ∧ s.startable 0 queuedStage = [[9, 1, 2]] ∧ (s.core 0).decisions.find? (s.mayGoOn 0) = none ∧
      readyAt s queuedStage (fun u => (u.core 0).broodOf 0 9 == some idleEntry) = true) ∧
    (let s := stagedHere queuedStage
     (s.core 0).stages = [queuedStage] ∧ s.startable 0 queuedStage = [[9, 1, 2]] ∧ (s.core 0).decisions.find? (s.mayGoOn 0) = none ∧
      queuedStage.spn ≠ 0 ∧
      readyAt s queuedStage (fun u =>
        let k := u.core 0
        let fetching : State := u.setCore { k with brood := k.brood ++ [{
          stage := 0, key := 9, pc := queuedStage.entry, pw := 1, mask := queuedStage.initMask, regs := queuedStage.initVals
          age := u.cyc, life := .fetching }] }
        (k.broodOf 0 9).isNone && k.room queuedStage == some none &&
        match engineAccess fetching 0 2 0 queuedStage.held .read (queuedStage.recordAt (queuedStage.home 9)) 128 with
        | .ok ps => !u.fatalAt ps && !fetching.engineBehind 0 ps && memGet u.mem (ps.getD 23 0) == 0 && ps.length == 128
        | _ => false) = true) ∧
    (let old : Brood := { idleEntry with key := 7 }
     let k : Core := { num := 0, brood := [old, { idleEntry with age := 3 }] }
     k.room stageHere = some (some old) ∧ stageHere.limit ≤ k.brood.length) ∧
    (let old : Brood := { idleEntry with stage := 1 }
     let k : Core := { num := 0, brood := old :: List.replicate 63 { old with age := 5 } }
     k.room stageHere = some (some old) ∧ (k.brood.filter fun e => e.stage == 0).length < stageHere.limit ∧ 64 ≤ k.brood.length) ∧
    (let s := (stagedHere closingStage).setCore { num := 0, stages := [closingStage], brood := [idleEntry] }
     (s.core 0).stages.find? (s.stageDone 0) = none ∧ (s.core 0).stages = [closingStage] ∧ s.dueItems 0 closingStage = [[9, 0, 0]] ∧
      readyAt s closingStage (fun u => (u.core 0).broodOf 0 9 == some idleEntry) = true ∧ idleEntry.life = .idle) ∧
    (let s := stagedHere closingStage
     (s.core 0).stages.find? (s.stageDone 0) = some closingStage ∧ closingStage.closing = some 1 ∧ (s.thread? 1).isSome = true) := by
  and_intros <;> decide +kernel

def spawnReq (retry : Bool) : SpawnReq :=
  { spawner := 1, from_ := 345, seeds := [1, 2, 3, 4], pc := 0x1000000100, cb := 0, st := 0, shadow := (0, 0, 0, 0, 0),
    agree := (0x3F000000, 0x8000, false), dom := 0, vd := 0, retry := retry }

def launchReq : LaunchReq :=
  { vd := 0, dom := 0, pkt := 1, entry := 0x1000000100, seeds := [1, 2, 3, 4], fmtA := 0, fmtB := 0, scA := 0, scB := 0, scC := 0, left := 1 }

def partHere (quota counted children : Nat) : PktPart :=
  { vd := 0, pkt := 1, quota := quota, counted := counted, err := 0, fin := 0, count := 0, children := children, parent := none }

def quitHere : QuitNote := { dest := 345, vd := 0, pkt := 1, err := 0, fin := 0 }
def doneHere : Done := { dest := some 345, vd := 0, pkt := 1, err := 0, count := 1, fin := 0 }

/-- The core with every slot disabled, and so many requests in its store. -/
def closedCore (n : Nat) : State := onCore fun k => { k with disabled := 0xFFFF, spawnStore := List.replicate n (spawnReq false) }

/-- A core with a free slot; one with none, and a store of 31 and of 32; a core of the column that does not admit the request;
each kind of answer. -/
theorem witness_StartEvents_spawn :
    (let s : State := { here with spawns := [(345, spawnReq false)] }
     (s.spawns.find? fun p => p.1 == 345 && !p.2.refused && (p.2.nacks == 0 || p.2.due == 0)) = some (345, spawnReq false) ∧
      s.restarting ≠ some 345 ∧ here.refuses 345 345 0 = false ∧ here.openSlot 345 0 = some 0 ∧
      (match here.startThread 345 0 ((spawnReq false).thread here) with
        | .ok _ => true
        | _ => false) = true) ∧
    (closedCore 31).openSlot 345 0 = none ∧ ((closedCore 31).core 345).spawnStore.length < 32 ∧ (closedCore 31).refuses 345 345 0 = false ∧
    (closedCore 32).openSlot 345 0 = none ∧ 32 ≤ ((closedCore 32).core 345).spawnStore.length ∧
    (onCore fun k => { k with fcfw := 0 }).refuses 345 0 0 = true ∧ (spawnReq false).retry = false ∧ (spawnReq true).retry = true ∧
    (let s : State := { (with' fun t => { t with wait := some .spawn }) with answers := [(1, true)] }
     (s.thread? 1).map Thread.wait = some (some .spawn) ∧ (s.answers.find? fun a => a.1 == 1) = some (1, true)) := by
  and_intros <;> decide +kernel

/-- A request that finds no slot, and one that a slot takes. -/
theorem witness_StartEvents_launch :
    (let s : State := { (onCore fun k => { k with disabled := 0xFFFF, launchTable := List.replicate 3 launchReq }) with launches := [(345, launchReq)] }
     (s.launches.find? fun p => p.1 == 345) = some (345, launchReq) ∧ (s.core 345).launchTable.length < 4 ∧ s.openSlots 345 0 = []) ∧
    (let s := onCore fun k => { k with launchTable := [launchReq] }
     (match s.nextFor 345 0 with
      | some (.launch r) => r == launchReq && (match s.startThread 345 0 (r.thread s 345) with
        | .ok _ => true
        | _ => false)
      | _ => false) = true) := by
  and_intros <;> decide +kernel

/-- A thread that stands in a context cache, or in its save area. -/
def savedHere (p : Place) : Thread := { threadHere with num := 2, place := p }

theorem witness_StartEvents_contexts :
    (let t := savedHere (.cached 345)
     let s : State := { (onCore fun k => { k with cache := [2] }) with others := [t] }
     (match s.nextFor 345 0 with
      | some (.context u) => u == t && s.thread? 2 == some t
      | _ => false) = true ∧ t.block? t.dom = some blockHere ∧ (readEntry s t t.depth.toNat).1 = false ∧ s.resumeBehind t = false ∧
      t.place = .cached 345) ∧
    (let t := savedHere (.spilled 345)
     let s : State := { (onCore fun k => { k with spills := [2] }) with others := [t] }
     (match s.nextFor 345 0 with
      | some (.context u) => u == t && s.thread? 2 == some t
      | _ => false) = true ∧ t.block? t.dom = some blockHere ∧ (readEntry s t t.depth.toNat).1 = false ∧ s.resumeBehind t = false ∧
      t.place = .spilled 345 ∧ s.unwindTarget t = none ∧ s.recBad (physRange blockHere.running t.frameBytes) false = false) := by
  and_intros <;> decide +kernel

theorem witness_StartEvents_reports :
    (let s : State := { (onCore fun k => { k with parts := [partHere 2 0 0] }) with quits := [quitHere] }
     (s.quits.find? fun q => q.dest == 345) = some quitHere ∧ (s.core 345).parts.find? (PktPart.ofPkt 0 1) = some (partHere 2 0 0)) ∧
    (partHere 2 0 0).counted + 1 < (partHere 2 0 0).quota ∧ (partHere 1 0 0).quota ≤ (partHere 1 0 0).counted + 1 ∧ (partHere 1 0 0).children = 0 ∧
    (let s : State := { (onCore fun k => { k with parts := [partHere 1 1 1] }) with dones := [doneHere] }
     (s.dones.find? fun d => d.dest == some 345 && (s.core 345).parts.any (PktPart.ofPkt d.vd d.pkt)) = some doneHere ∧
      (s.core 345).parts.find? (PktPart.ofPkt 0 1) = some (partHere 1 1 1)) ∧
    (partHere 1 1 1).quota ≤ (partHere 1 1 1).counted ∧ (partHere 1 1 1).children - 1 = 0 ∧ (partHere 1 1 2).children - 1 ≠ 0 := by
  and_intros <;> decide +kernel

/-! ### Threads that move -/

/-- Threads that have drained, one of them a worker without a record. -/
theorem witness_MotionAndHeat_departure :
    ∀ w ∈ [Wait.leaving, .record],
    let t : Thread := { threadHere with leaving := some (347, true), wait := some w }
    let s := with' fun t => { t with leaving := some (347, true), wait := some w }
    s.thread? 1 = some t ∧ t.num = 1 ∧ t.leaving = some (347, true) ∧ t.inSlot = true ∧ (t.wait = some .leaving ∨ t.wait = some .record) ∧
      t.norm = false ∧ t.ldo = 0 ∧ t.sto = 0 ∧ t.cpo = 0 ∧ t.tlo = 0 ∧ s.buffered t.core < 32 ∧ t.block? t.dom = some blockHere ∧
      s.anyBehind t (t.pageRecords t.depth.toNat ++ t.runningRecord) = false ∧ ShelvesTop s t ∧ TravelRecord s blockHere true := by
  unfold ShelvesTop TravelRecord
  decide +kernel

/-- A thread that travels to core 347. -/
def travelling : Thread := { threadHere with place := .travelling 347 }
def travelHere : State := { here with cur := travelling }

/-- It finds a slot, or none; it is to be killed; its message has been refused, or waits for its backoff, or a NACK goes back. -/
theorem witness_MotionAndHeat_arrival :
    (travelHere.thread? 1 = some travelling ∧ travelHere.killDue travelling = false ∧ travelHere.openSlot 347 0 = some 0 ∧
      travelling.block? travelling.dom = some blockHere ∧ (readEntry travelHere travelling 0).1 = false ∧
      TravelRecord travelHere blockHere false ∧ travelHere.unwindTarget travelling = none ∧ travelling.trip.refused = false ∧
      travelling.trip.due.toNat ≤ travelHere.cyc.toNat ∧ travelling.lost = false ∧ travelHere.resumeBehind travelling = false) ∧
    (here.cyc.toNat < ({ refused := true, due := 5 } : Trip).due.toNat ∧ ({ refused := true, due := 5 } : Trip).refused = true) ∧
    (let t : Thread := { travelling with trip := { from_ := 345, refused := true } }
     let s : State := { travelHere with cur := t }
     ((s.core 345).retry.find? fun m => m.refused) = none ∧ (s.spawns.find? fun p => p.2.refused && p.2.from_ == 345) = none ∧
      (s.threads.find? fun t => t.leftFrom 345 && t.trip.refused) = some t ∧ s.thread? t.num = some t) ∧
    (let s := travelHere.setCore { num := 347, disabled := 0xFFFF, arrivals := [3, 4, 5, 6, 7, 8, 9] }
     s.killDue travelling = false ∧ s.openSlot 347 0 = none ∧ (s.core 347).arrivals.length < 8) ∧
    (let t : Thread := { travelling with doom := some false }
     let s : State := { travelHere with cur := t }
     s.thread? 1 = some t ∧ s.killDue t = true) := by
  unfold TravelRecord
  and_intros <;> decide +kernel

/-- A thread whose slot serves another VD; one whose gate defers the save; deferrals that are over and that last. -/
theorem witness_MotionAndHeat_saving :
    (let t : Thread := { threadHere with chgvd := 1 }
     let s := with' fun t => { t with chgvd := 1 }
     s.occupant 345 3 = some t ∧ s.thread? 1 = some t ∧ t.place = .slot 345 3 ∧ (s.slotVd 345 3 == some t.chgvd) = false ∧
      s.deferred t = false ∧ (s.saveQueue 345).contains t.num = false ∧
      (let u := s.setCore { s.core 345 with saves := [1] }
       (u.saveQueue 345).head? = some t.num ∧ t.savable = true ∧ u.saveBehind 345 t = false ∧ (u.core 345).cache.length < 32 ∧
        ShelvesTop u t ∧ u.orphanDue t = false) ∧
      (let v : State := { s.setCore { s.core 345 with saves := [2, 1] } with
         others := [{ threadHere with num := 2, place := .slot 345 4, chgvd := 1 }] }
       (v.saveQueue 345).contains t.num = true ∧ (v.saveQueue 345).head? ≠ some t.num)) ∧
    (let t : Thread := { threadHere with chgvd := 1, depth := 1, gates := [(1, 0x33000)] }
     let s : State := { gateHere with cur := t }
     s.occupant 345 3 = some t ∧ (s.slotVd 345 3 == some t.chgvd) = false ∧ s.deferred t = true) ∧
    (let t : Thread := { threadHere with deferSince := some 0 }
     let s : State := { here with cur := t, cyc := 65536 }
     s.thread? 1 = some t ∧ t.deferSince = some 0 ∧ 65536 ≤ (s.cyc - 0).toNat ∧ (here.cyc - 0).toNat < 65536) := by
  unfold ShelvesTop
  and_intros <;> decide +kernel

/-- Core 0 is shared; the VD 1 has work on it, and its thread waits in the cache. -/
def sharedHere (k : Core → Core) : State :=
  { here with
    cores := [k { num := 0, cache := [2] }]
    vds := [{ num := 0, st := 1 }, { num := 1, st := 1, idleSince := none }]
    others := [{ threadHere with num := 2, place := .cached 0, vdid := 1, chgvd := 1 }] }

theorem witness_MotionAndHeat_heat :
    (let k : Core := { num := 345, disabled := 0x8000 }
     k.hot.toNat ≤ (95 : BitVec 8).toNat ∧ k.disabled.getLsbD 14 = false ∧ (∀ m < 16, 14 < m → k.disabled.getLsbD m = true) ∧
      (84 : BitVec 8).toNat < k.hot.toNat ∧ (84 : BitVec 8).toNat < k.coolAt ∧ k.disabled.getLsbD 15 = true ∧
      (∀ m < 15, k.disabled.getLsbD m = false) ∧ k.coolAt ≤ (85 : BitVec 8).toNat) ∧
    (let s := (onCore fun k => { k with disabled := 8 }).setHive { num := 5, rank := [(0, 0x815B)] }
     s.occupant 345 3 = some threadHere ∧ s.thread? 1 = some threadHere ∧ (s.core 345).disabled.getLsbD 3 = true ∧ s.deferred threadHere = false ∧
      threadHere.leaving = none ∧ threadHere.portsBound = false ∧ threadHere.vlive = false ∧ s.coolCore threadHere = some 347 ∧
      threadHere.norm = false ∧ threadHere.stands = none ∧ threadHere.wait ≠ some .closing ∧ threadHere.wait ≠ some .spawn) := by
  and_intros <;> decide +kernel

theorem witness_MotionAndHeat_slices :
    (let s := sharedHere id
     s.isShared 0 = true ∧ (∀ v ∈ s.vds, v.idleSince = none ↔ s.sharedWork v = true) ∧ s.pickVd 0 = some 1 ∧
      (s.core 0).sliceVd ≠ some 1 ∧ (s.core 0).nextVd = none) ∧
    (sharedHere fun k => { k with sliceVd := some 1 }).pickVd 0 = ((sharedHere fun k => { k with sliceVd := some 1 }).core 0).sliceVd ∧
    (let s := sharedHere fun k => { k with nextVd := some 1, handed := 0x7FFF }
     (s.core 0).nextVd = some 1 ∧ s.visited (s.core 0) = some 15 ∧ s.mayHand 0 15 = true ∧
      (s.core 0).handed ||| (1#16 <<< 15) = BitVec.allOnes 16) ∧
    (let s := sharedHere fun k => { k with nextVd := some 1 }
     (s.core 0).nextVd = some 1 ∧ s.visited (s.core 0) = some 0 ∧ s.mayHand 0 0 = true ∧
      (s.core 0).handed ||| (1#16 <<< 0) ≠ BitVec.allOnes 16) ∧
    (let s : State := { (sharedHere fun k => { k with nextVd := some 1 }) with cur := { threadHere with place := .slot 0 0, ldo := 1 } }
     (s.core 0).nextVd = some 1 ∧ s.visited (s.core 0) = some 0 ∧ s.mayHand 0 0 = false) := by
  and_intros <;> decide +kernel

end Sys2Proof.Tests
end

