-- ==== Sys2Proof/Tests/HostWitnesses.lean ====
section
/-! SUPPORT. Witnesses: concrete states and operands that meet the hypotheses of the statements about the end of domains, handles,
system steps, packets, hosts, resets and boot, and about decoding and steps. -/

namespace Sys2Proof.Tests

set_option Elab.async false

open Sys2Proof.Machine
open Sys2Proof.Safety

/-! ### The end of threads and domains, the handle service, system steps -/

/-- A thread in domain 6, entered through a gate whose descriptor lies at 0x33000, whose caller is domain 5. -/
def entered (f : Thread → Thread) (callee caller : Life) (abandon : Word) : State :=
  { (here.physWrite 0x33000 (wordsBytes [0x1000000200, abandon, 0, 0x0060000000022600, 0, 0, 0, 0])) with
    domains := [domainHere, { num := 5, life := caller }, { num := 6, life := callee }]
    cur := f { threadHere with
      dom := 6, botdom := 5, depth := 1, gates := [(1, 0x33000)]
      top := some { hcallEntry with cdom := 5, gdom := 6, gate := 0x7000, cframe := 0x50000 }
      blocks := [{ blockHere with dom := 5 }] } }

def orphanOf (second : Bool) (t : Thread) : Thread := { t with orphan := some { budget := 0, since := 0, second := second } }

/-- A domain that is live and one that is not; a kill with no gate of its own to drop; a thread that waits in `kclose` for a stage
of the domain; a dying domain with nothing left. -/
theorem witness_EndEvents_domains :
    (let s : State := { here with cur := {}, domains := [domainHere, { num := 6, life := .live }] }
     (s.domain 6).life = .live ∧ (s.domain 5).life ≠ .live ∧ (5 : DomNo) ≠ 6 ∧ (s.domain 6).htlen = 0) ∧
    (let g : Stage := { closingStage with dom := 6 }
     let k : Core := { num := 0, stages := [g] }
     let s : State := { here.setCore k with domains := [domainHere, { num := 6, life := .live }] }
     (s.domain 6).life = .live ∧ k ∈ s.cores ∧ s.core k.num = k ∧ g ∈ k.stages ∧ g.closing = some 1 ∧ s.thread? 1 = some threadHere ∧
      ∀ x ∈ s.cores.flatMap Core.stages, x.closing = some 1 → x = g) ∧
    (let s : State := { here with domains := [domainHere, { num := 6, life := .dying }] }
     (s.domain 6).life = .dying ∧ s.emptied 6 = true) := by
  and_intros <;> decide +kernel

/-- Threads to be killed; orphans whose grace, or whose second budget, is spent; a thread in a dying callee. -/
theorem witness_EndEvents_threads :
    (here.thread? 1 = some threadHere ∧ threadHere.place ≠ .gone ∧ threadHere.between = true ∧ threadHere.num = 1 ∧ threadHere.depth = 0 ∧
      threadHere.place = .slot 345 3 ∧ ({ here with domains := [{ num := 0, life := .dying }] } : State).gone 0 = true ∧
      ({ here with domains := [{ num := 0, life := .dying }] } : State).killDue threadHere = true) ∧
    (let t := (entered (orphanOf true) .live .dead 0).cur
     t.inSlot = true ∧ t.graceSpent true = true ∧ t.between = true) ∧
    (let s := entered (orphanOf false) .live .dead 0
     s.thread? 1 = some s.cur ∧ s.cur.inSlot = true ∧ s.cur.graceSpent false = true ∧ s.cur.boundary = true ∧ s.cur.depth ≠ 0 ∧
      s.levelsBehind s.cur 1 = false ∧ s.abandonOf s.cur = 0) ∧
    (let s := entered (orphanOf false) .live .dead 0x1000000300
     s.abandonOf s.cur ≠ 0 ∧ s.levelsBehind s.cur 1 = false ∧ s.cur.depth = 1 ∧ (s.readLevels s.cur 1).1 = false) ∧
    (let s := entered id .dying .live 0
     s.thread? 1 = some s.cur ∧ s.cur.num = 1 ∧ s.cur.inSlot = true ∧ s.cur.boundary = true ∧ s.cur.lost = false ∧ s.cur.doom = none ∧
      s.cur.orphan = none ∧ s.cur.depth = 1 ∧ (s.cur.top.any fun e => e.gdom == 6 && e.cdom == 5 &&
        !s.recBad (physRange e.cframe.toNat 1536) false) = true ∧ s.gone 6 = true ∧ s.gone 5 = false ∧
      s.levelsBehind s.cur 0 = false) := by
  and_intros <;> decide +kernel

/-- Domain 0 serves domain 5, which has a table of 2 entries at 0x32000: entry 1 is free, or a gate of its own. x0 names an
operation, and x1 to x3 hold its operands. -/
def serviceHere (op : Word) (args : List Word) (entry : List Word) (hyp : Bool) : State :=
  { ((here.physWrite 0x32010 (wordsBytes entry)).physWrite 0x33000 (wordsBytes [0x1000000200, 0, 0, 0x0060000000022600])) with
    domains := [domainHere, { num := 5, life := .live, s1root := 0x10000, htbase := 0x32000, htlen := 2, hyp := hyp }]
    cur := { threadHere with
      x := regFile fun i => (op :: args).getD i 0
      depth := 1, top := some { hcallEntry with cdom := 5, gate := 0x7000 } } }

def freeEntry : List Word := [0, 0]
def gateEntry : List Word := [0x2000000000500000, 0x33000]
def foreignEntry : List Word := [0x2000000000600000, 0x33000]

def offerHere : Offer := { odom := 6, target := 5, name := [], w0 := 0x2000000000600000, w1 := 0x33000 }

/-- x0 to x3 are as an operation asks. -/
def askedOf (s : State) (op : Word) (args : List Word) : Prop :=
  s.serving = some 5 ∧ s.cur.reg 0 = op ∧ s.cur.reg 1 = args.getD 0 0 ∧ s.cur.reg 2 = args.getD 1 0 ∧ s.cur.reg 3 = args.getD 2 0

theorem witness_HandleService_install :
    askedOf (serviceHere 1 [0, dataVa] freeEntry false) 1 [0, dataVa] ∧ askedOf (serviceHere 1 [1, dataVa] freeEntry false) 1 [1, dataVa] ∧
    askedOf (serviceHere 6 [] freeEntry false) 6 [] ∧ askedOf (serviceHere 0 [] freeEntry false) 0 [] ∧
    dataVa.extractLsb' 0 6 = 0#6 ∧ (1 : Word).extractLsb' 0 6 ≠ 0#6 ∧
    (let s := serviceHere 1 [0, dataVa] freeEntry false
     (match checkTables s (combOf s.cur.core) 5 dataVa.toNat 64 .read with
      | .ok ps => ps == physRange 0x30000 64
      | _ => false) = true ∧ s.freeSlot (s.domain 5) = some 1 ∧ MemoryOk s ∧ s.damage = [] ∧
      (s.domain 5).htlen ≤ (2 : Word).toNat ∧ (1 : Nat) < (s.domain 5).htlen ∧ (s.hentry (s.domain 5) 1).kind = 0) ∧
    (let s := serviceHere 1 [0, dataVa] gateEntry false
     s.freeSlot (s.domain 5) = none ∧ (s.hentry (s.domain 5) 1).kind ≠ 0) := by
  unfold askedOf MemoryOk
  and_intros <;> decide +kernel

/-- A drop of an entry that stands or does not; an offer and a close of the domain's own gate, of another's, and of none. -/
theorem witness_HandleService_entries :
    (let s := serviceHere 2 [0x1000] gateEntry false
     askedOf s 2 [0x1000] ∧ s.serviceDom 5 0 = some 5 ∧ s.entryOf 5 0x2000 = none ∧ s.entryOf 5 0x1000 = some (s.hentry (s.domain 5) 1) ∧
      MemoryOk s ∧ s.damage = []) ∧
    (let s := serviceHere 3 [0x1000, 7] gateEntry false
     askedOf s 3 [0x1000, 7] ∧ s.lookup 5 0x2000 2 = none ∧ s.lookup 5 0x2000 3 = none ∧
      s.lookup 5 0x1000 2 = some (s.hentry (s.domain 5) 1) ∧ (s.hentry (s.domain 5) 1).odom = 5) ∧
    (let s := serviceHere 3 [0x1000, 7] foreignEntry false
     s.lookup 5 0x1000 2 = some (s.hentry (s.domain 5) 1) ∧ (s.hentry (s.domain 5) 1).odom ≠ 5) ∧
    ((serviceHere 2 [] gateEntry true).serviceDom 5 9 = none ∧ (serviceHere 2 [0, 0, 9] gateEntry true).cur.reg 3 = 9) := by
  unfold askedOf MemoryOk
  and_intros <;> decide +kernel

/-- A gate that is open, in each STATE that a close asks for; soft-closed and hard-closed ones; entered or not. -/
theorem witness_HandleService_close :
    (let s := serviceHere 5 [0x1000, 2] gateEntry false
     let g := s.gateDesc (s.hentry (s.domain 5) 1).addr.toNat
     askedOf s 5 [0x1000, 2] ∧ g.state = 0 ∧ g.inside = 0 ∧ (2 : Word).toNat ≤ 2 ∧ ¬((2 : Word) = 0 ∧ g.state = 0) ∧ (2 : Nat) < (3 : Word).toNat ∧
      MemoryOk s) ∧
    (let s := serviceHere 5 [0x1000, 2] gateEntry false
     ((s.physWrite 0x33018 (wordsBytes [0x0060000000022601])).gateDesc 0x33000).state = 1 ∧
      ((s.physWrite 0x33018 (wordsBytes [0x0060000000022602])).gateDesc 0x33000).state = 2 ∧
      ((s.physWrite 0x33020 (wordsBytes [0x100000000])).gateDesc 0x33000).inside = 1) := by
  unfold askedOf MemoryOk
  and_intros <;> decide +kernel

theorem witness_HandleService_import :
    (let s : State := { serviceHere 4 [6] freeEntry false with offers := [offerHere] }
     askedOf s 4 [6] ∧ (s.offers.find? fun o => o.odom.setWidth 64 == 6 && o.target == 5 && o.name == nameFrom s 4096 0) = some offerHere ∧
      s.freeSlot (s.domain 5) = some 1 ∧ MemoryOk s ∧ s.damage = []) ∧
    (serviceHere 4 [6] freeEntry false).offers = [] ∧
    (let s : State := { serviceHere 4 [6] gateEntry false with offers := [offerHere] }
     (s.offers.find? fun o => o.odom.setWidth 64 == 6 && o.target == 5 && o.name == nameFrom s 4096 0) = some offerHere ∧
      s.freeSlot (s.domain 5) = none) := by
  unfold askedOf MemoryOk
  and_intros <;> decide +kernel

def pageHere (mapped : Bool) : PageReq :=
  { req := 1, ipa := 3, level := 3, kind := 0, core := 345, dom := 0, va := dataVa, thread := 1, cyc := 0, posted := true, mapped := mapped }

def pagedHere (mapped : Bool) : State :=
  { here with vds := [{ num := 0, st := 1, pend := [pageHere mapped] }], cur := { threadHere with wait := some (.page 0 3 dataVa) } }

/-- A walk of the pool for the page of the dword, which nothing waits for any more. -/
def walkHere : Walk :=
  { hive := 5, combs := [43], dom := 0, page := 0x1000003, thread := 1, core := 345, va := dataVa, kind := 0 }

theorem witness_SystemSteps_registers :
    here.cur.vbusy = false ∧ (∀ i < here.fselVd.queueSize, present (here.fselVd.pqbase.toNat + 32 * i) = true) ∧
    (here.hselDomain (here.core 345).hsel).map Domain.num = some 0 ∧
    (0x100000 : Word).extractLsb' 0 16 = 0 ∧ (1 : Word).extractLsb' 0 16 = 1 ∧
    (let w : Word := 0x100000001
     w.extractLsb' 2 6 = 0 ∧ w.extractLsb' 8 6 = (0 : VdNo) ∧ w.extractLsb' 14 18 = 0 ∧ w.extractLsb' 0 2 = 1 ∧
      ((pagedHere false).vd 0).pend.find? (fun p => p.req == w.extractLsb' 32 32 && !p.mapped) = some (pageHere false)) ∧
    (0x100000002 : Word).extractLsb' 0 2 = 2 ∧ ((pagedHere false).thread? 1).map Thread.wait = some (some (.page 0 3 dataVa)) ∧
    ((pagedHere true).vd 0).pend.find? PageReq.mapped = some (pageHere true) ∧ (pageHere true).ipa = 3 ∧ (pageHere true).ipa ≠ 4 := by
  and_intros <;> decide +kernel

/-- A walk that has not been asked for before, and one of the pool. -/
theorem witness_SystemSteps_walks :
    (here.thread? 1 = some threadHere ∧ windowOf dataVa.toNat = .priv ∧ here.walks = [] ∧
      (match translate here (combOf threadHere.core) 0 dataVa.toNat with
        | .ok p _ _ _ => p == 0x30000
        | _ => false) = true) ∧
    (let s : State := { here with walks := [walkHere] }
     s.walks = [walkHere] ∧ walkHere.thread = 1 ∧ walkHere.page.toNat = dataVa.toNat / 65536 ∧ walkHere.held = none ∧ s.walkers walkHere = [] ∧
      (match s.walk walkHere with
        | .ok p _ _ _ => p == 0x30000
        | _ => false) = true) := by
  and_intros <;> decide +kernel

/-! ### Packets -/

/-- A launch packet for the core 0, and a replay packet of graph 0. -/
def launchPkt : Packet := [0x0100000000000001, 0x0000100000000000, 0x100000, 1, 2, 3, 4, 0, 0, 0, 0, 0, 0x1000, 0, 0, 0]
def replayPkt : Packet := [0x0101000000000002, 0, 0, 1, 2, 3, 4, 0, 0, 0, 0, 0, 0x1000, 0, 0, 0]

def queueOf (l : List Packet) : PktQueue := { num := 0, prio := 0, packets := l }
def graphHere : Graph := { num := 0, packets := [launchPkt], patches := [], sets := [] }

def activeHere : Active :=
  { pkt := 1, queue := 0, caddr := 0x1000, cep := 0, launch := launchPkt, cores := [], allCores := [0], chain := [], graph := none, err := 0,
    count := 0, fin := 0, partial_ := false, waiting := true }

/-- Host 3 controls the part; VD 1 runs, with a launch domain 5 that has an image entry at slot 1. -/
def hosted (f : Vd → Vd) : State :=
  { (here.physWrite 0x32010 (wordsBytes [0x4000000000500000, 0x1000000000])) with
    vds := [{ num := 0, st := 1 }, f { num := 1, st := 1, feat0 := 0x1F, ringLog := 4, combs := 1 }]
    domains := [domainHere, { num := 5, vd := 1, life := .live, launch := true, s1root := 0x10000, htbase := 0x32000, htlen := 2 }]
    mgmt := { state := 2, chost := 3, colw := 1, term := 1 } }

theorem witness_PacketEvents_launch :
    (let q := queueOf (List.replicate 255 launchPkt)
     let s := hosted fun v => { v with queues := [q] }
     (s.vd 1).st ≠ 0#2 ∧ s.controls 3 = true ∧ s.frontDown = false ∧ launchPkt.length = 16 ∧ pkKind launchPkt ≠ 2#8 ∧
      ((s.vd 1).queues.find? fun x => x.num == pkQueue launchPkt) = some q ∧ q.packets ≠ [] ∧ q.packets.length < 256) ∧
    (([] : Packet).length = 0 ∧ 2048 < (List.replicate 2049 (0 : Word)).length ∧ ([0] : Packet).length ≠ 16 ∧ 1 ≤ ([0] : Packet).length ∧
      ∀ v : VdNo, (0 : BitVec 16) ≠ 0x100 + v.setWidth 16) ∧ (((hosted id).vd 1).queues.find? fun x => x.num == pkQueue launchPkt) = none ∧
    (let s := hosted fun v => { v with queues := [queueOf [launchPkt]] }
     (s.vd 1).active = [] ∧ (s.vd 1).mayDispatch = true ∧ (s.vd 1).nextQueue = some (queueOf [launchPkt]) ∧ pkKind launchPkt = 0#8 ∧
      packetCores launchPkt = [0] ∧ (s.launchDomain 1).map Domain.num = some 5 ∧ (s.imageEntry 1 launchPkt).isSome = true ∧
      (s.vd 1).queues.find? (fun x => x.num == 0) = some (queueOf [launchPkt])) := by
  and_intros <;> decide +kernel

theorem witness_PacketEvents_others :
    (let s := hosted fun v => { v with queues := [queueOf [replayPkt]], graphs := [graphHere] }
     (s.vd 1).active = [] ∧ (s.vd 1).mayDispatch = true ∧ (s.vd 1).nextQueue = some (queueOf [replayPkt]) ∧ pkKind replayPkt = 1#8 ∧
      (s.vd 1).queues.find? (fun x => x.num == 0) = some (queueOf [replayPkt]) ∧
      ((s.vd 1).graphs.find? fun g => g.num.toNat == (pkGraph replayPkt).toNat) = some graphHere ∧ graphHere.freeSet = some 0 ∧
      (graphHere.packets.zipIdx.map fun x => patched graphHere (patchValues replayPkt) x.2 x.1) = [launchPkt] ∧
      s.launchFault 1 launchPkt = none) ∧
    (let m : Done := { doneHere with dest := none, vd := 1 }
     let s : State := { (hosted fun v => { v with active := [activeHere] }) with dones := [m] }
     (s.dones.find? fun m => m.dest.isNone && m.vd == 1 && m.pkt == activeHere.pkt) = some m ∧ (s.vd 1).active = [activeHere] ∧
      activeHere.chain = [] ∧ activeHere.graph = none ∧ activeHere.partial_ = false ∧ activeHere.rest = false ∧
      (s.vd 1).destroying = [] ∧ activeHere.caddr ≠ 0) := by
  and_intros <;> decide +kernel

/-- A control packet of an operation. -/
def controlPkt (op : Word) (rest : List Word) : Packet := ([0x0102000000000001, op] ++ rest ++ List.replicate 16 0).take 16

/-- The form of an operation's packet. -/
def formOf (p : Packet) (op : Nat) : Bool :=
  p.length == 16 && pkVer p == 1#8 && pkKind p == 2#8 && (pkw p 0).extractLsb' 36 12 == 0#12 && pkNum p != 0 && (pkOp p).toNat == op &&
    (pkw p 1).extractLsb' 8 56 == 0#56 && (pkw p 13).extractLsb' 16 48 == 0#48 && pkw p 14 == 0 && pkw p 15 == 0

theorem witness_ControlOperations :
    ((hosted id).vd 1).st ≠ 0#2 ∧ (hosted id).controls 3 = true ∧ (hosted id).frontDown = false ∧
    (([1, 2, 3, 4, 5, 6, 7] : List Nat).all fun op => formOf (controlPkt (BitVec.ofNat 64 op) []) op && !formOf launchPkt op) = true ∧
    (((hosted id).vd 1).graphs.any fun g => g.freeing.contains 1) = false := by
  and_intros <;> decide +kernel

theorem witness_ControlOperations_queues :
    (((hosted id).vd 1).queues.any fun x => x.num == 0) = false ∧ (((hosted id).vd 1).queues.find? fun x => x.num == 0) = none ∧
    (let s := (hosted fun v => { v with queues := [queueOf []] }).packetSent 1 1
     (s.vd 1).queues.find? (fun x => x.num == 0) = some (queueOf []) ∧ (queueOf []).packets = [] ∧ (s.vd 1).active = [] ∧
      (s.vd 1).destroying = [] ∧ (s.vd 1).ringProd - (s.vd 1).ringCons < (s.vd 1).ringSize) := by
  and_intros <;> decide +kernel

/-- Packets of graph 0 in the memory of domain 0's VD, whose stage 2 is bypassed. -/
theorem witness_ControlOperations_graphs :
    (let p := controlPkt 3 [63, 0, 1, 0, 64]
     (pkw p 2).toNat ≤ 63 ∧ 1 ≤ (pkw p 4).toNat ∧ (pkw p 4).toNat ≤ 256 ∧ (pkw p 6).toNat ≤ 64) ∧
    ((hosted id).feature 1 0 = true ∧ (hosted fun v => { v with feat0 := 0 }).feature 1 0 = false) ∧
    ((hosted fun v => { v with graphs := [graphHere] }).vd 1).graphs.find? (fun g => g.num.toNat == (0 : Word).toNat) = some graphHere ∧
    graphHere.sets = [] ∧ ({ graphHere with sets := [(0, [])] } : Graph).sets ≠ [] ∧
    (here.vdDwords 0 0x30000 16).isSome = true ∧ (here.vdDwords 0 0x30000 1).isSome = true ∧
    ([0x0001000100000000] : List Word).all (patchOk 2) = true := by
  and_intros <;> decide +kernel

theorem witness_ControlOperations_ring :
    (pkw (controlPkt 5 [0, 4]) 3).toNat = 4 ∧ (pkw (controlPkt 5 [0, 3]) 3).toNat < 4 ∧ 16 < (pkw (controlPkt 5 [0, 17]) 3).toNat ∧
    (let s := hosted fun v => { v with ringProd := 2, ringCons := 1 }
     (s.vd 1).ringCons ≤ (pkw (controlPkt 6 [2]) 2).toNat ∧ (pkw (controlPkt 6 [2]) 2).toNat ≤ (s.vd 1).ringProd ∧ (s.vd 1).ringOver = 0 ∧
      (pkw (controlPkt 6 [0]) 2).toNat < (s.vd 1).ringCons ∧ (s.vd 1).ringProd < (pkw (controlPkt 6 [3]) 2).toNat) ∧
    (let w := pkw (controlPkt 7 [0x101]) 2
     w.extractLsb' 6 2 = 0 ∧ w.extractLsb' 24 40 = 0 ∧ w.extractLsb' 8 8 ≠ 0 ∧ ((hosted id).vd (w.extractLsb' 0 6)).st ≠ 0) := by
  and_intros <;> decide +kernel

/-! ### Hosts -/

theorem witness_VdManagement :
    (hosted id).controls 3 = true ∧ (hosted id).frontDown = false ∧
    (([8, 9, 10, 11, 12, 13] : List Nat).all fun op => formOf (controlPkt (BitVec.ofNat 64 op) [1]) op && !formOf launchPkt op) = true ∧
    launchPkt.length = 16 ∧
    pkVd (controlPkt 8 [1]) = 1 ∧ ((hosted id).vd 1).st ≠ 0 ∧ ((hosted id).vd 2).st = 0 ∧
    (let p := controlPkt 8 [2, 2, 0]
     (pkw p 2).extractLsb' 6 58 = 0 ∧ pkw p 5 = 0 ∧ (pkw p 6).extractLsb' 12 52 = 0 ∧
      ∀ i < 128, (pkw p 4 ++ pkw p 3).getLsbD i = true →
        (hosted id).partition? (BitVec.ofNat 7 i) = none ∧ (hosted id).columnComb (BitVec.ofNat 7 i) = false) ∧
    ((hosted id).mgmt.state ≠ 3 ∧ (hosted id).mgmt.reset = none) := by
  and_intros <;> decide +kernel

theorem witness_VdManagement_domains :
    ((hosted id).domain (pkDom (controlPkt 10 [0x50001]))).life = .live ∧ ((hosted id).domain (pkDom (controlPkt 10 [0x60001]))).life = .absent ∧
    ((hosted fun v => { v with quota := 2 }).domains.filter fun d => d.vd == 1 && (d.life == .live || d.life == .dying)).length <
      (2 : BitVec 12).toNat ∧
    MemoryOk (hosted id) ∧ (hosted id).damage = [] ∧
    (let w := pkw (controlPkt 10 [0x60001]) 2
     w.extractLsb' 6 10 = 0 ∧ w.extractLsb' 28 2 = 0 ∧ w.extractLsb' 30 34 = 0) ∧
    ((0x101 : Word).getLsbD 8 = true ∧ (1 : Word).getLsbD 8 = false) ∧
    (let w := pkw (controlPkt 12 [0x10050001]) 2
     w.extractLsb' 6 2 = 0 ∧ w.extractLsb' 14 2 = 0 ∧ w.extractLsb' 30 34 = 0 ∧ w.extractLsb' 28 2 ≠ 3 ∧ w.extractLsb' 28 2 ≠ 0 ∧
      (hosted id).livesIn 1 (pkDom (controlPkt 12 [0x10050001])) = true ∧ (hosted id).livesIn 1 (pkDom (controlPkt 12 [0x10060001])) = false) ∧
    (pkw (controlPkt 12 [1]) 2).extractLsb' 28 2 = 0 ∧
    (let p := controlPkt 13 [0x10050001, 0, 0xFFFF]
     (pkw p 2).extractLsb' 6 2 = 0 ∧ (pkw p 2).extractLsb' 31 33 = 0 ∧ (pkw p 4).extractLsb' 16 48 = 0 ∧ (pkw p 2).extractLsb' 28 2 = 1 ∧
      (hosted id).livesIn 1 (pkDom p) = true) ∧
    (let d (w : Word) : DomNo := pkDom (controlPkt 13 [w])
     (pkw (controlPkt 13 [0x50001]) 2).extractLsb' 28 2 = 0 ∧ ((hosted id).domain (d 0x50001)).vd = 1 ∧
      ((hosted id).domain (d 0x50001)).life ≠ .absent ∧ ((hosted id).domain (d 1)).vd ≠ 1 ∧
      ((hosted id).domain (d 0x60001)).life = .absent) := by
  unfold MemoryOk
  and_intros <;> decide +kernel

/-- The initial state of a domain lies where the deployment places its dwords: at the start of the block, its first is read. -/
theorem witness_VdManagement_state (h : Config.statePlace 0 = 0) :
    (here.vdDword 0 (0x30000 + 8 * Config.statePlace 0)).isSome = true := by
  rw [h]
  decide +kernel

def endpointHere (rights : BitVec 2) : DataEp := { entry := 63, dom := 0, rights := rights, base := dataVa, len := 64 }

/-- A read and a write of the last bytes of an endpoint's range, in VD 0; and what is denied. -/
theorem witness_VdManagement_endpoint :
    (let s : State := { here with vds := [{ num := 0, st := 1, feat0 := 0x1F, dataEps := [endpointHere 2] }] }
     (s.vd 0).st ≠ 0 ∧ ((s.vd 0).dataEps.find? fun e => e.entry == 62) = none ∧ ((s.vd 0).dataEps.find? fun e => e.entry == 63) = some (endpointHere 2) ∧
      s.feature 0 4 = true ∧ (56 : Word).toNat + 8 ≤ (endpointHere 2).len.toNat ∧ (endpointHere 2).len.toNat < (56 : Word).toNat + 9 ∧ s.damage = [] ∧
      ([.read, .write] : List Acc1).all (fun k =>
        match dataChecks s 0 k ((List.range 8).map fun i => dataVa + 56 + BitVec.ofNat 64 i) with
        | .ok ps => ps == physRange 0x30038 8
        | _ => false) = true) ∧
    (0x1000 + 64 * (0 : VdNo).setWidth 16 + (63 : BitVec 6).setWidth 16 : BitVec 16) = 0x103F ∧
    windowOf (dataVa + 56).toNat = windowOf (dataVa + 56 + BitVec.ofNat 64 (8 - 1)).toNat ∧
    windowOf (0x1FFFFFFFF8 : Word).toNat ≠ windowOf ((0x1FFFFFFFF8 : Word) + BitVec.ofNat 64 (9 - 1)).toNat ∧
    (List.replicate 8 (0 : Byte)).length = 8 ∧ (8 : Nat) ≤ 2 ^ 32 ∧ (2 : Nat) ^ 32 < 2 ^ 32 + 1 ∧ (Delivery.ordered ≠ .unordered) ∧
    (endpointHere 1).rights ≠ 2 ∧ ({ here with vds := [{ num := 0, st := 1 }] } : State).feature 0 4 = false := by
  decide +kernel

theorem witness_RegionWrites :
    here.controls 3 = false ∧ (hosted id).controls 3 = true ∧ ((hosted id).vd 1).st ≠ 0 ∧
    (0 : Word).toNat < ((hosted fun v => { v with gtoff := 1 }).vd 1).gtime.toNat ∧ ((hosted id).vd 1).gtime.toNat ≤ (0 : Word).toNat ∧
    ((hosted fun v => { v with firstPkt := true }).vd 1).firstPkt = true ∧ ((hosted id).vd 1).firstPkt = false ∧
    (0x1F : BitVec 16).toNat < 0x20 ∧
    here.flights = [] ∧
    (let f : Flight := { record := .record 0 0 0 [], since := 0 }
     let s : State := { here with flights := [{ f with since := 1 }, f], cyc := 3000000000 }
     (s.flights.find? fun f => decide (3000000000 ≤ (s.cyc - f.since).toNat)) = some f ∧ here.mgmt.dropped ≠ BitVec.allOnes 32) := by
  decide +kernel

/-- Host 3 has a session. -/
def sessionHere : Session := { conn := 7, cert := [], host := some 3 }

def openPart (m : Mgmt → Mgmt) : State := { here with mgmt := m { state := 1, colw := 1, term := 1, sessions := [sessionHere] }, cyc := 900000000 }

/-- A message of a host: TYPE, PRIO and TERM. -/
def electionMsg (type prio term : Nat) : Word := BitVec.ofNat 64 (type * 2 ^ 56 + prio * 2 ^ 32 + term)

/-- Claims, heartbeats and releases; claims that lose, join a window, or preempt; windows and times that are over, and not. -/
theorem witness_Elections :
    (let d := electionMsg 1 5 1
     d.extractLsb' 56 8 = 1 ∧ d.extractLsb' 32 8 = 5 ∧ d.extractLsb' 0 32 = 1 ∧ (electionMsg 2 0 1).extractLsb' 56 8 = 2 ∧
      (electionMsg 3 0 1).extractLsb' 56 8 = 3) ∧
    (let s := openPart id
     s.mgmt.state = 1 ∧ s.claimValid 4 5 1 = false ∧ s.mgmt.claims = none) ∧
    (openPart fun m => { m with claims := some [{ host := 3, prio := 5 }] }).mgmt.claims = some [{ host := 3, prio := 5 }] ∧
    (let s := openPart fun m => { m with state := 2, chost := 3, cprio := 5 }
     s.mgmt.state = 2 ∧ s.mgmt.state ≠ 1 ∧ (5 : BitVec 8).toNat ≤ s.mgmt.cprio.toNat ∧ s.mgmt.cprio.toNat < (6 : BitVec 8).toNat ∧
      s.controls 3 = true ∧ (electionMsg 2 0 1).extractLsb' 0 32 = s.mgmt.term ∧ (electionMsg 2 0 2).extractLsb' 0 32 ≠ s.mgmt.term ∧
      (s.mgmt.sessions.find? fun y => y.conn == 7) = some sessionHere ∧ sessionHere.host = some 3 ∧
      900000000 ≤ (s.cyc - s.mgmt.beat).toNat) ∧
    (let s := openPart fun m => { m with state := 2, beat := 1 }
     (s.cyc - s.mgmt.beat).toNat < 900000000) ∧
    (let s := openPart fun m => { m with claims := some [{ host := 3, prio := 5 }], opened := 750000000, released := 600000000 }
     150000000 ≤ (s.cyc - s.mgmt.opened).toNat ∧ 300000000 ≤ (s.cyc - s.mgmt.released).toNat) := by
  and_intros <;> decide +kernel

/-- The certificate of a host's session gives it a priority, whatever the deployment's table says: with one, its claim is valid. -/
theorem witness_Elections_valid (mx : BitVec 8) (h : Config.hostPrio here.fleet.active [] = some mx) :
    (openPart id).claimValid 3 mx 1 = true ∧ (openPart fun m => { m with state := 2, chost := 3, cprio := 5 }).claimValid 3 mx 1 = true := by
  have e (m : Mgmt) (ht : m.term = 1) (hs : (m.state != 1#8 || m.succ.all fun h => h == 3) = true)
      (hc : m.session? 3 = some sessionHere) : ({ here with mgmt := m, cyc := 900000000 } : State).claimValid 3 mx 1 = true := by
    have hb : ((m.session? 3).bind fun x => Config.hostPrio here.fleet.active x.cert) = some mx := by
      rw [hc]
      exact h
    show (((m.session? 3).bind fun x => Config.hostPrio here.fleet.active x.cert).any (fun y => decide (mx.toNat ≤ y.toNat)) &&
      1 == m.term && (m.state != 1#8 || m.succ.all fun h => h == 3)) = true
    rw [hb, ht, hs]
    simp
  exact ⟨e _ rfl (by decide +kernel) (by decide +kernel), e _ rfl (by decide +kernel) (by decide +kernel)⟩

theorem witness_SpdmAndUpdate :
    here.spdmUp = true ∧ here.mgmt.sessions.length < 16 ∧ (here.mgmt.sessions.any fun x => x.conn == 7) = false ∧ 5 < (6 : BitVec 8).toNat ∧
    (let s := openPart fun m => { m with sessions := List.replicate 16 sessionHere }
     16 ≤ s.mgmt.sessions.length) ∧
    (let x : Session := { conn := 8, cert := [], host := none }
     let s := openPart fun m => { m with sessions := [sessionHere, x] }
     (s.mgmt.sessions.find? fun x => x.conn == 8 && x.host.isNone) = some x ∧ s.mgmt.freeHost = some 0 ∧
      (s.mgmt.sessions.find? fun x => x.conn == 7) = some sessionHere) := by
  and_intros <;> decide +kernel

/-- An update's chunks: one that begins it, one that goes on, one of another session, one of a second update, one that is too long;
its check; a core that is switched, the last or not. -/
theorem witness_SpdmAndUpdate_update :
    (let controller (s : State) : Bool := (s.mgmt.sessions.find? fun x => x.conn == 7).any fun x => x.host.any s.controls
     let s := openPart fun m => { m with state := 2, chost := 3 }
     s.spdmUp = true ∧ controller s = true ∧ controller (openPart id) = false ∧ s.fleet.updst ≠ 1 ∧ s.fleet.updst ≠ 2 ∧ s.fleet.updst ≠ 3 ∧
      0 ≤ s.fleet.inactive.length ∧ ([] : List Byte).length ≤ 15360 ∧ 15360 < (List.replicate 15361 (0 : Byte)).length) ∧
    (let f : Fleet := { updst := 1, begun := some 7 }
     f.updst = 1 ∧ f.begun = some 7 ∧ (7 : Nat) ≠ 8 ∧ f.based = false ∧ ({ f with based := true } : Fleet).based = true) ∧
    (({ updst := 2 } : Fleet).updst = 2 ∧ ({ updst := 3 } : Fleet).updst = 3 ∧ here.fleet.updst ≠ 3) ∧
    (let s : State := { here with fleet := { updst := 3 } }
     s.fleet.updst = 3 ∧ (s.column.find? fun c => !s.fleet.switched.contains c).isSome = true ∧ s.thread? 1 = some threadHere ∧
      (s.column.all fun k => ([s.column.headD 0] : List CoreNo).contains k) = false) ∧
    (let s : State := { here with fleet := { updst := 3, switched := here.column.drop 1 } }
     (s.column.find? fun c => !s.fleet.switched.contains c) = some (s.column.headD 0) ∧
      (s.column.all fun k => (s.fleet.switched ++ [s.column.headD 0]).contains k) = true) := by
  and_intros <;> decide +kernel

/-- A part with no thread that may take a reset, one with failed cells, and one that updates; a VD that is absent, and resets that
run. -/
theorem witness_ResetEvents_requests :
    (let s : State := { here with cur := {}, damage := [{ spot := .mem 0, fatal := false, lasting := true }], fleet := { updst := 3 } }
     s.mgmt.reset = none ∧ s.mgmt.state ≠ 3 ∧ s.threads = [] ∧ (s.domain 0).life = .live ∧ s.fleet.updst = 3) ∧
    ({ here with mgmt := { state := 3 } } : State).mgmt.state = 3 ∧
    (let r : Reset := { kind := 2, target := 345, since := 0 }
     ({ here with mgmt := { reset := some r } } : State).mgmt.reset = some r ∧ r.kind ≠ 5) ∧
    (let r : Reset := { kind := 5, target := 2, since := 0 }
     r.kind = 5 ∧ r.target ≠ (1 : VdNo).setWidth 16 ∧ (here.vd 0).st ≠ 0 ∧ (here.vd 1).st = 0) := by
  and_intros <;> decide +kernel

/-- The ends of a core's reset, with a doomed thread and without; of a slot's, empty or with a thread that drains; of a VD's. -/
theorem witness_ResetEvents_ends :
    (let r : Reset := { kind := 2, target := 345, since := 0 }
     r.kind ≠ 1 ∧ r.kind ≠ 5 ∧ r.kind.toNat ≤ 4 ∧ 2 ≤ r.kind.toNat ∧ (∀ t ∈ here.threads, t.doom = none ∨ r.covers t.core = false) ∧
      (let t : Thread := { threadHere with doom := some true }
       t ∈ ({ here with cur := t } : State).threads ∧ t.doom ≠ none ∧ r.covers t.core = true)) ∧
    (let r : Reset := { kind := 1, target := 345, since := 0 }
     r.kind = 1 ∧ here.occupant (r.target.extractLsb' 0 10) (r.target.extractLsb' 10 4) = none) ∧
    (let r : Reset := { kind := 1, target := 0x0D59, since := 0 }
     let s := with' fun t => { t with ldo := 1 }
     s.occupant (r.target.extractLsb' 0 10) (r.target.extractLsb' 10 4) = some { threadHere with ldo := 1 } ∧
      ({ threadHere with ldo := 1 } : Thread).savable = false) ∧
    (let r : Reset := { kind := 5, target := 1, since := 0 }
     let s : State := { hosted id with mgmt := { reset := some r }, domains := [domainHere, { num := 5, vd := 1, life := .dead }] }
     s.mgmt.reset = some r ∧ r.kind = 5 ∧ (∀ d ∈ s.domainsOf 1, d.life = .dead) ∧ (s.vd 1).doomed = false) ∧
    ((hosted fun v => { v with doomed := true }).vd 1).doomed = true := by
  and_intros <;> decide +kernel

theorem witness_BootPowerHeat :
    State.reset.mgmt.state = 0 ∧ State.reset.mgmt.reset = none ∧
    (let f : Fleet := { plim := 2400, tlvl := 2 }
     f.plim.toNat < (2401 : BitVec 16).toNat ∧ f.tlvl.toNat < 3 ∧ (2299 : BitVec 16).toNat + 100 < f.plim.toNat ∧ f.tlvl ≠ 0 ∧
      f.plim.toNat ≤ (2300 : BitVec 16).toNat + 100 ∧ (2300 : BitVec 16).toNat ≤ f.plim.toNat) ∧
    3 ≤ ({ tlvl := 3 } : Fleet).tlvl.toNat := by
  and_intros <;> decide +kernel

/-- Whether the part boots rests on the deployment's signatures and table: either clause of the boot has its images. -/
theorem witness_BootPowerHeat_boot (b : List Byte) (x : Bool) :
    (Config.tableReadable b = false → bootFailure b x = some 1) ∧
    (Config.tableReadable b = true → Config.signatureOk (tableOf b) = false → bootFailure b x = some 2) ∧
    (Config.tableReadable b = true → Config.signatureOk (tableOf b) = true → tableGood b = true → Config.signatureOk (imageOf b) = true →
      bootFailure b true = none ∧ bootFailure b false = some 5) := by
  and_intros <;> intros <;> simp_all [bootFailure]

/-! ### Decoding, steps and the whole machine -/

theorem witness_DecodeEncode : (Instr.ldI64 7 2 4 0 0 0 1023).wf = true ∧
    (Instr.ldI64 7 2 4 0 0 0 1023).encode 0 = some 0x16E483FF#32 ∧ (Instr.ldI64 7 2 4 0 0 0 1023).encode 1 = some 0x96E483FF#32 := by
  decide +kernel

/-- The state in which the thread of core 345 issues on the core's turn, and the one its bundle runs from, with the dword fetched. -/
def turning (s : State) : State := ((({ s with agenda := [] } : State).settle).passes 0).letGo 345

def fetching (s : State) : State × Word :=
  let p := (turning s).focus s.cur.num
  let t := p.cur
  let k := combOf t.core
  let g : State := { p with
    cur := { t with wait := none, inHand := none, stands := none }, pos := .lone, src := none, popped := [], mark := .retired
    bundle := 0 }
  let h := if cachedPage g k t.dom imageBase then g else (g.countEv 10 1).noteWalk k t.dom imageBase
  let bits := leWord ((physRange placeCode 8).map (memGet (turning s).mem))
  ({ (cacheTr h k t.dom imageBase (translate g k t.dom imageBase)).touch (physRange placeCode 8) with
    pos := .lone, src := none, popped := [], mark := .retired, bundle := bundleBits false bits }, bits)

/-- The hypotheses of a turn, at a thread in slot 0 of core 345 whose program counter is the first address of the image window. -/
def turnHolds (s : State) : Prop :=
  let a : State := ({ s with agenda := [] } : State).settle
  let s0 := turning s
  let p := s0.focus s.cur.num
  s.agenda = [.turn 345] ∧ s.mgmt.state ≠ 3 ∧ a.untilIssue 345 = some 0 ∧ s0.damage = [] ∧ s0.forages 345 = false ∧
  s0.readySlots 345 = [0] ∧ (s0.occupant 345 0).map Thread.num = some s.cur.num ∧ p.cur.wait = none ∧
  p.cur.halfway = false ∧ p.cur.pc.toNat = imageBase ∧ windowOf imageBase = .image ∧
  (let g : State := { p with
     cur := { p.cur with wait := none, inHand := none, stands := none }, pos := .lone, src := none, popped := [], mark := .retired
     bundle := 0 }
   match checkTables g (combOf p.cur.core) p.cur.dom imageBase 8 .fetch with
    | .ok ps => ps == physRange placeCode 8 && !ps.any (g.barred p.cur.core) && !g.fillsAt ps
    | _ => false) = true

/-- A bundle has left a next state, and has issued or not. -/
def issues (s : State) (r : Out1) : Option Bool :=
  match r with
  | .next u => some !((u.keepBundle (fetching s).2).notIssued s.cur.num)
  | _ => none

/-- At the program counter: a lone `nop`; a pair of a `nop` and a `pmov k0,k0`; a word that reads a pending register; a word that is
ILLEGAL; words that are no bundle. -/
def loneHere : State := State.reset.withFetchWord 32 0x80000000
def pairedHere : State := State.reset.withFetchWord 32 0
def pendingHere : State :=
  let s := State.reset.withFetchWord 32 0x960A8001
  { s with cur := { s.cur with pend := 0xFFFF } }
def illegalHere : State := State.reset.withFetchWord 32 0xFFFFFFFF
def misframedHere : State := loneHere.physWrite placeCode (wordsBytes [0])

theorem witness_StepRunsDecoded_turns :
    turnHolds loneHere ∧ turnHolds pairedHere ∧ turnHolds pendingHere ∧ turnHolds illegalHere ∧ turnHolds misframedHere := by
  unfold turnHolds
  and_intros <;> decide +kernel

theorem witness_StepRunsDecoded_bundles :
    decodeBundle false (fetching loneHere).2 = .ok (.lone (.nop 0)) ∧ issues loneHere (exec (.nop 0) (fetching loneHere).1) = some true ∧
    decodeBundle false (fetching pairedHere).2 = .ok (.pair (.nop 0) (.pmov 0 0 0)) ∧
    issues pairedHere (runPair (fetching pairedHere).1 (.nop 0) (.pmov 0 0 0)) = some true ∧
    (match decodeBundle false (fetching pendingHere).2 with
      | .ok (.lone i) => issues pendingHere (exec i (fetching pendingHere).1)
      | _ => none) = some false ∧
    decodeBundle false (fetching illegalHere).2 = .error .illegal ∧ decodeBundle false (fetching misframedHere).2 = .error .misframe ∧
    ({ here with agenda := [.event .boot] } : State).agenda = [.event .boot] ∧
    Machine.Instr.whileHalted .coldReset = true ∧ Machine.Instr.whileHalted .boot = false ∧
    ({ here with mgmt := { state := 3 } } : State).mgmt.state = 3 := by
  and_intros <;> decide +kernel

/-- What a word of a pair leaves, on the machine of the tests with registers pending and with x8 bound as a queue port to push. -/
def pairWord (p : Pos) (pend : BitVec 16) (push : Bool) (i : Instr) (s : State := here) : Option (Mark × Option Wait) :=
  match exec i { s with
    pos := p, src := none, popped := [], mark := .retired
    cur := { threadHere with pend := pend, ports := (Vector.replicate 6 {}).set 0 { bound := push, push := push, kind := 0, target := 0 } } } with
  | .next u => some (u.mark, u.cur.wait)
  | _ => none

/-- Domain 0 in VD 1, whose stage 2 maps nothing. -/
def unmappedHere : State := { here with domains := [{ domainHere with vd := 1 }], vds := [{ num := 1, st := 1 }] }

/-- x8 is bound to push to a slot queue: a relaxed store in word 0, and then a push in word 1, which waits for it. -/
def pushedHere : State :=
  with' fun t => { t with ports := (Vector.replicate 6 {}).set 0 { bound := true, push := true, kind := 0, target := 0 } }

/-- A pair whose word 0 has acted, and whose word 1 is tried again. -/
def halfHere : State :=
  let t : Thread := { threadHere with halfway := true }
  { here with cur := t, halves := [threadHere] }

/-- Words of either place that retire, wait, trap, miss a page and park; a word 1 that waits for what word 0 has done, and one that is
tried again and retires or traps. -/
theorem witness_PairRule :
    (∀ r, here.cur.port? r = none) ∧ here.cur.pend = 0 ∧ here.cur.place ≠ .gone ∧ here.cur.pred 0 = true ∧ (3 : XReg) ≠ 5 ∧
    pairWord .w0 0 false (.add 0 3 1 4) = some (.retired, none) ∧ pairWord .w0 2 false (.add 0 3 1 4) = some (.parked, some .cond) ∧
    pairWord .w0 0 false (.mzero 0 2 7 0) = some (.trapped .tileform, none) ∧ pairWord .w1 0 false (.mzero 0 2 7 0) = some (.trapped .tileform, none) ∧
    pairWord .w0 0 false (.mlease 0 1 0 0) = some (.parked, some .lease) ∧ pairWord .w1 0 false (.mlease 0 1 0 0) = some (.parked, some .lease) ∧
    (pairWord .w0 0 false (.ldI64 0 3 4 0 0 0 0) unmappedHere).map Prod.fst = some .parked ∧
    ((pairWord .w1 0 false (.ldI64 0 3 4 0 0 0 0) unmappedHere).bind Prod.snd).any (fun w => w matches .page _ _ _) = true ∧
    pairWord .w0 0 false (.trap 0 21) = some (.trapped .soft, none) ∧ pairWord .w0 0 true (.add 0 3 8 4) = some (.trapped .illegal, none) ∧
    pairWord .w1 0 false (.add 0 5 1 4) = some (.retired, none) ∧ pairWord .w1 2 false (.add 0 5 1 4) = some (.parked, some .cond) ∧
    pairWord .w1 0 false (.ldI64 0 3 1 0 0 0 0) = some (.trapped .prot, none) ∧
    pairWord .w1 0 true (.add 0 5 8 4) = some (.trapped .illegal, none) ∧
    (here.cur.halfway = false ∧ here.cur.lost = false ∧
      pairWord .w0 0 true (.st64 0 3 4 1 0 0 0) = some (.retired, none) ∧ pairWord .w1 0 true (.add 0 8 1 4) = some (.retired, none) ∧
      (match exec (.st64 0 3 4 1 0 0 0) { pushedHere with pos := .w0, src := none, popped := [], mark := .retired } with
        | .next r0 => r0.mark == .retired && r0.cur.num == pushedHere.cur.num && r0.cur.place != .gone && !r0.cur.lost &&
          (match exec (.nop 0) { r0 with pos := .w1, src := some pushedHere.cur, mark := .retired } with
            | .next r => r.mark == .retired
            | _ => false) &&
          (match exec (.add 0 8 1 4) { r0 with pos := .w1, src := some pushedHere.cur, mark := .retired } with
            | .next r => r.onHold
            | _ => false)
        | _ => false) = true) ∧
    (halfHere.cur.halfway = true ∧ (halfHere.halves.find? fun t => t.num == halfHere.cur.num) = some threadHere ∧
      ([(.nop 0, Mark.retired), (.trap 0 21, .trapped .soft)] : List (Instr × Mark)).all fun p =>
        match exec p.1 { halfHere with
          pos := .w1, src := some threadHere, popped := [], mark := .retired
          cur := { halfHere.cur with pc := threadHere.pc, halfway := false }
          halves := halfHere.halves.filter fun t => t.num != threadHere.num } with
        | .next r => r.mark == p.2
        | _ => false) := by
  and_intros <;> decide +kernel

theorem witness_ResetState : (1 : DomNo) ≠ 0 ∧ (1 : VdNo) ≠ 0 := by decide

theorem witness_MemoryPreserved : MemoryOk loneHere ∧ (match step loneHere with
    | .next _ => true
    | _ => false) = true := by
  unfold MemoryOk
  decide +kernel

end Sys2Proof.Tests
end

