-- ==== Sys2Proof/Tests/Slice0.lean ====
section
/-! SUPPORT. Decode tests (every word of the opcode table once, and one word of each layout written out field by field from R41
to R54), the smoke test of well-formedness, and single steps with results worked out from the spec. -/

namespace Sys2Proof.Tests

set_option Elab.async false

open Sys2Proof.Machine
open Sys2Proof.Safety

/-! ### Words -/

/-- Each word decodes to its instruction, which is well-formed and encodes to the word again. -/
def readsAs (l : List (Word32 × Instr)) : Bool :=
  l.all fun p => decide ((decodeWord p.1).toOption = some p.2) && p.2.wf && decide (p.2.encode ((p.1).extractLsb' 31 1) = some p.1)

/-! The words of the opcode table's rows, their free fields filled with values of their ranges. -/

theorem test_words_system : readsAs
    [(0x80200000#32, .nop 1), (0x80200001#32, .ret 1), (0x80A02002#32, .jx 5 1), (0x8020A003#32, .callx 1 5),
     (0x80E06004#32, .nap 7 3), (0x80760005#32, .rdcyc 3 11), (0x80A00006#32, .tret 5), (0x80600007#32, .yield 3),
     (0x80E00008#32, .quit 7)] = true := by decide +kernel

theorem test_words_systemAndLoads : readsAs
    [(0x81FE0043#32, .sysrd 7 15 67), (0x8260E045#32, .syswr 3 7 69), (0x8320056B#32, .trap 1 1387),
     (0x846019D9#32, .brk 3 6617), (0x85E00D3D#32, .hcall 7 3389), (0x86B8B797#32, .b 5 1 571287),
     (0x87FF2EF7#32, .call 7 1 995063), (0x886A18D9#32, .loop 3 5 6361), (0x906FB7B1#32, .ldI8 3 7 13 1 0 1 945),
     (0x916FF517#32, .ldN8 3 7 15 1 0 1 279), (0x9272379B#32, .ldI16 3 9 1 1 0 1 923),
     (0x93F6B523#32, .ldN16 7 11 5 1 0 1 291), (0x9477F7F7#32, .ldI32 3 11 15 1 0 1 1015),
     (0x95F27405#32, .ldN32 7 9 3 1 0 1 5)] = true := by decide +kernel

theorem test_words_memory : readsAs
    [(0x96A63611#32, .ldI64 5 3 1 1 0 1 529), (0x97E6D533#32, .ldc 7 3 6 1 0 1 307),
     (0x983B3563#32, .st8 1 13 9 1 0 1 355), (0x9963F557#32, .st16 3 1 15 1 0 1 343),
     (0x9A3375B1#32, .st32 1 9 11 1 0 1 433), (0x9B3277CB#32, .st64 1 9 3 1 0 1 971),
     (0x9C338295#32, .lea 1 9 12 0 0 661), (0x9DA3673D#32, .wchg 5 1 11 1 829), (0x9E6021FD#32, .hop 3 1 0 509),
     (0x9FB16525#32, .probe 5 8 11 1 293), (0xA02DEB3A#32, .amo 1 6 15 5 9 1 10),
     (0xA1A3EF43#32, .rxAmo 5 1 15 7 10 0 3), (0xA2200008#32, .fence 1 8), (0xA370F078#32, .wait 3 8 7 16 15)] = true := by decide +kernel

theorem test_words_matrix : readsAs
    [(0xA8FA00D0#32, .mlease 7 13 1 5), (0xA9200000#32, .mfree 1), (0xAA212800#32, .mbload 1 9 4),
     (0xABAE7A50#32, .mma 5 7 3 13 1 1), (0xAC7AE370#32, .mmas 3 13 7 1 5 3), (0xADFA0120#32, .mzero 7 13 4 1),
     (0xAE3EAF84#32, .mdrain 1 15 5 7 3 0 0 2)] = true := by decide +kernel

theorem test_words_message : readsAs
    [(0xA4A03803#32, .msend 5 1 12 3), (0xA4720046#32, .mrecv 3 9 6), (0xA4A00080#32, .waitm 5)] = true := by decide +kernel

theorem test_words_matrixControl : readsAs
    [(0xAF206010#32, .magr 1 3 2), (0xAF2EA040#32, .mstat 1 7 5), (0xAF3EA080#32, .mreclaim 1 15 5),
     (0xAF61A0E0#32, .mfmt 3 13 4)] = true := by decide +kernel

theorem test_words_copy : readsAs
    [(0xB0737A38#32, .xcopy 3 9 11 13 1 1 1), (0xB0F23E78#32, .xcopyv 7 9 1 15 1 1 1),
     (0xB0FB9EB8#32, .xgather 7 13 12 15 1 1 1), (0xB0FF7AF8#32, .xscatter 7 15 11 13 1 1 1),
     (0xB0BAE738#32, .xfill 5 13 7 3 1 1 1), (0xB06B7D78#32, .xdeal 3 5 11 14 1 1 1)] = true := by decide +kernel

theorem test_words_port : readsAs
    [(0xB1BB6080#32, .pbind 5 13 11 2 0), (0xB1F20100#32, .punbind 7 9)] = true := by decide +kernel

theorem test_words_spawn : readsAs
    [(0xB2E36800#32, .spawn 7 1 11 4), (0xB2A7E201#32, .spawnW 5 3 15 1)] = true := by decide +kernel

theorem test_words_keyed : readsAs
    [(0xB3762000#32, .kopen 3 11 1), (0xB3F36040#32, .kclose 7 9 11), (0xB3A0FA80#32, .kput 5 7 13),
     (0xB32000C0#32, .kwait 1), (0xB3E00100#32, .kend 7), (0xB3A36F40#32, .kstat 5 1 11 7)] = true := by decide +kernel

theorem test_words_gate : readsAs
    [(0xB86B2E00#32, .gcall 3 5 9 7), (0xB8200070#32, .gret 1 6), (0xB8E73E84#32, .awin 7 3 9 15 2),
     (0xB86F60D0#32, .gstat 3 7 11 2)] = true := by decide +kernel

theorem test_words_integer1 : readsAs
    [(0xC0A76400#32, .add 5 3 11 2), (0xC0A85A01#32, .sub 5 4 2 13), (0xC0BBE602#32, .mul 5 13 15 3),
     (0xC03EBA03#32, .mulhI 1 15 5 13), (0xC0EBF404#32, .mulhN 7 5 15 10), (0xC062F605#32, .divI 3 1 7 11),
     (0xC03F6A06#32, .divN 1 15 11 5), (0xC0FF3A07#32, .remI 7 15 9 13), (0xC07F2208#32, .remN 3 15 9 1),
     (0xC07EF609#32, .addsatI 3 15 7 11), (0xC0AFE20A#32, .addsatN 5 7 15 1), (0xC07E380B#32, .subsatI 3 15 1 12),
     (0xC06FE20C#32, .subsatN 3 7 15 1), (0xC02DE00D#32, .abs 1 6 15)] = true := by decide +kernel

theorem test_words_integer2 : readsAs
    [(0xC072200E#32, .neg 3 9 1), (0xC0330A0F#32, .minI 1 9 8 5), (0xC0F38C10#32, .maxI 7 9 12 6),
     (0xC037FA11#32, .minN 1 11 15 13), (0xC0637212#32, .maxN 3 1 11 9)] = true := by decide +kernel

theorem test_words_logic : readsAs
    [(0xC135A600#32, .and 1 10 13 3), (0xC1A7B201#32, .or 5 3 13 9), (0xC16BF202#32, .xor 3 5 15 9),
     (0xC17AA203#32, .andn 3 13 5 1), (0xC133A604#32, .orn 1 9 13 3), (0xC1F3A005#32, .mov 7 9 13),
     (0xC1F72409#32, .sel 7 11 9 2 1)] = true := by decide +kernel

theorem test_words_shift : readsAs
    [(0xC27AB600#32, .shl 3 13 5 11), (0xC2FF6401#32, .shr 7 15 11 2), (0xC23B2A02#32, .sar 1 13 9 5),
     (0xC2A33603#32, .rot 5 1 9 11), (0xC23F6004#32, .clz 1 15 11), (0xC23F6005#32, .ctz 1 15 11),
     (0xC2E2A006#32, .popc 7 1 5), (0xC2F72007#32, .bswap 7 11 9)] = true := by decide +kernel

theorem test_words_packed : readsAs
    [(0xC3373A00#32, .padd 1 11 9 13 0), (0xC327AC01#32, .psub 1 3 13 6 0), (0xC37A3602#32, .paddsatI 3 13 1 11 0),
     (0xC3A2F203#32, .paddsatN 5 1 7 9 0), (0xC336C604#32, .pminI 1 11 6 3 0), (0xC3F3EC05#32, .pminN 7 9 15 6 0),
     (0xC3B7B206#32, .pmaxI 5 11 13 9 0), (0xC377B807#32, .pmaxN 3 11 13 12 0), (0xC3BFA808#32, .pshl 5 15 13 4 0),
     (0xC3762809#32, .pshr 3 11 1 4 0), (0xC3F7F80A#32, .psar 7 11 15 12 0), (0xC373E20B#32, .pcmpEq 3 9 15 1 0),
     (0xC33AAE0C#32, .pcmpLtI 1 13 5 7 0), (0xC32FBE0D#32, .pcmpLtN 1 7 13 15 0)] = true := by decide +kernel

theorem test_words_f32 : readsAs
    [(0xC4B6F200#32, .fadd 5 11 7 9), (0xC426FA01#32, .fsub 1 3 7 13), (0xC4B36202#32, .fmul 5 9 11 1),
     (0xC4BBE403#32, .ffma 5 13 15 2), (0xC47B6A04#32, .fmin 3 13 11 5), (0xC4BB7205#32, .fmax 5 13 11 9),
     (0xC4AE6006#32, .fabs 5 7 3), (0xC47A2007#32, .fneg 3 13 1), (0xC4F66A10#32, .fcvtF32I32 7 11 3 5),
     (0xC4BE3211#32, .fcvtF32N32 5 15 1 9), (0xC4337E12#32, .fcvtI32F32 1 9 11 15),
     (0xC43FA413#32, .fcvtN32F32 1 15 13 2), (0xC46BF214#32, .fcvtF32B16 3 5 15 9),
     (0xC463B215#32, .fcvtB16F32 3 1 13 9)] = true := by decide +kernel

theorem test_words_immediates : readsAs
    [(0xC8B2E5B5#32, .addi 5 9 7 1461), (0xC9783E8D#32, .andi 3 12 1 7821), (0xCAFAB10B#32, .ori 7 13 5 4363),
     (0xCB7AAB13#32, .xori 3 13 5 2835), (0xCC3B208F#32, .shli 1 13 9 143), (0xCDAF60AF#32, .shri 5 7 11 175),
     (0xCE76E085#32, .sari 3 11 7 133), (0xCF73608D#32, .roti 3 9 11 141), (0xD06FA46E#32, .extI 3 7 13 17 46),
     (0xD16F6F03#32, .extN 3 7 11 60 3), (0xD2A28845#32, .ins 5 1 4 33 5), (0xD4A6CCFD#32, .movi 5 3 0 52477),
     (0xD5FA152B#32, .movh 7 13 0 5419), (0xD8E6740A#32, .cmp 7 1 9 13 10)] = true := by decide +kernel

theorem test_words_compares : readsAs
    [(0xD93F6C04#32, .fcmp 1 7 13 11 4), (0xE0E640A1#32, .cmpiEq 7 1 9 161), (0xE17EC03F#32, .cmpiNe 3 7 11 63),
     (0xE27F43E5#32, .cmpiLt 3 7 13 997), (0xE3F443F5#32, .cmpiLe 7 5 1 1013), (0xE466C0D9#32, .cmpiGt 3 1 11 217),
     (0xE565431F#32, .cmpiGe 3 1 5 799), (0xE6E6C289#32, .cmpiLtN 7 1 11 649), (0xE73642C9#32, .cmpiGeN 1 5 9 713),
     (0xF2748067#32, .vcmp 3 5 1 6 7), (0xF3E5804C#32, .vcvtFromF32 7 1 3 9 4), (0xF4A58047#32, .vcvtToF32 5 1 3 8 7)] = true := by decide +kernel

theorem test_words_predicate : readsAs
    [(0xDA2C9400#32, .pand 1 3 2 5), (0xDAED1480#32, .por 7 3 4 5), (0xDA7D1500#32, .pxor 3 7 4 5),
     (0xDAB84180#32, .pnot 5 6 1), (0xDA744200#32, .pmov 3 5 1), (0xDAED8684#32, .psel 7 3 6 1 4)] = true := by decide +kernel

theorem test_words_vArith : readsAs
    [(0xF0E50007#32, .vadd 7 1 2 7), (0xF0E68015#32, .vsub 7 1 5 5), (0xF0678026#32, .vmul 3 1 7 6),
     (0xF0A78034#32, .vfma 5 1 7 4), (0xF0FA8043#32, .vmin 7 6 5 3), (0xF0350051#32, .vmax 1 5 2 1),
     (0xF0780066#32, .vabs 3 6 6), (0xF0740072#32, .vneg 3 5 2)] = true := by decide +kernel

theorem test_words_vLogic : readsAs
    [(0xF1AF8000#32, .vand 5 3 7), (0xF1BD8010#32, .vor 5 7 3), (0xF12E0020#32, .vxor 1 3 4),
     (0xF13E8035#32, .vshl 1 7 5 5), (0xF1A88043#32, .vshr 5 2 1 3), (0xF1E50054#32, .vsar 7 1 2 4),
     (0xF16B8060#32, .vsel 3 2 7)] = true := by decide +kernel

theorem test_words_vSpecial : readsAs
    [(0xF52D4007#32, .vex2 1 3 2 8), (0xF5640017#32, .vrcp 3 1), (0xF5AC0027#32, .vrsq 5 3),
     (0xF5EC0035#32, .vredSum 7 3 5), (0xF53C0046#32, .vredMax 1 7 6), (0xF5340057#32, .vredMin 1 5 7)] = true := by decide +kernel

theorem test_words_vLanes : readsAs
    [(0xF6E06803#32, .vbcast 7 13 3), (0xF6044E95#32, .vget 1 9 13 5), (0xF6778020#32, .vperm 3 5 7),
     (0xF6A80039#32, .vpack 5 2 9), (0xF6BC0046#32, .vunpack 5 7 6), (0xF66415D7#32, .vgath 3 1 2 11 7),
     (0xF6149DE4#32, .vscat 5 1 3 11 4)] = true := by decide +kernel

theorem test_words_vStreams : readsAs
    [(0xF7A04800#32, .vbindPop 5 9), (0xF7E05801#32, .vbindPush 7 11), (0xF7200002#32, .vunbind 1),
     (0xF7000003#32, .vfence)] = true := by decide +kernel

/-! One word of each layout, its fields one after another as R41 gives them. -/

/-- R45 (CR), R46 (CI), R44 (CB): `nop`; `trap 21`; `b` four words back when k1 is 0. -/
theorem test_layout_control :
    readsAs [(0b1#1 ++ 0b0#1 ++ 0x00#6 ++ 0#3 ++ 0#4 ++ 0#4 ++ 0#4 ++ 0x000#9, .nop 0),
      (0b1#1 ++ 0b0#1 ++ 0x03#6 ++ 0#3 ++ 0#4 ++ 0#4 ++ 21#13, .trap 0 21),
      (0b1#1 ++ 0b0#1 ++ 0x06#6 ++ 1#3 ++ 1#1 ++ 0xFFFFC#20, .b 1 1 (-4))] = true := by decide +kernel

/-- R47 (CM): a relaxed 32-bit store at cb + x6 × 4 + 4 × 4; `lea.32`, whose scale takes the places of rx and hop. -/
theorem test_layout_memory :
    readsAs [(0b1#1 ++ 0b0#1 ++ 0x1A#6 ++ 0#3 ++ 3#4 ++ 6#4 ++ 1#1 ++ 0#1 ++ 1#1 ++ 4#10, .st32 0 3 6 1 0 1 4),
      (0b1#1 ++ 0b0#1 ++ 0x1C#6 ++ 0#3 ++ 3#4 ++ 4#4 ++ 0b10#2 ++ 0#1 ++ 3#10, .lea 0 3 4 2 0 3)] = true := by decide +kernel

/-- R48 (CT): an atomic, a message, a lease, a tile operation, a drain, a copy, a port, a spawn, a keyed word, a gate word. -/
theorem test_layout_mode9 :
    readsAs [(0b1#1 ++ 0b0#1 ++ 0x20#6 ++ 0#3 ++ 4#4 ++ 7#4 ++ 9#4 ++ 0#4 ++ 1#1 ++ 5#4, .amo 0 4 7 9 0 1 5),
      (0b1#1 ++ 0b0#1 ++ 0x24#6 ++ 0#3 ++ 0#4 ++ 3#4 ++ 4#4 ++ 0b000#3 ++ 0#3 ++ 1#3, .msend 0 3 4 1),
      (0b1#1 ++ 0b0#1 ++ 0x28#6 ++ 0#3 ++ 5#4 ++ 0#4 ++ 0#4 ++ 0b01#2 ++ 0#3 ++ 0#4, .mlease 0 5 1 0),
      (0b1#1 ++ 0b0#1 ++ 0x2B#6 ++ 0#3 ++ 1#4 ++ 0#4 ++ 2#4 ++ 0b010#3 ++ 0b00#2 ++ 0#4, .mma 0 1 0 2 2 0),
      (0b1#1 ++ 0b0#1 ++ 0x2E#6 ++ 0#3 ++ 2#4 ++ 3#4 ++ 9#4 ++ 0b11#2 ++ 0b10#2 ++ 1#1 ++ 0b000#3 ++ 0#1, .mdrain 0 2 3 9 3 2 1 0),
      (0b1#1 ++ 0b0#1 ++ 0x30#6 ++ 0#3 ++ 5#4 ++ 1#4 ++ 9#4 ++ 0b000#3 ++ 1#1 ++ 1#1 ++ 1#1 ++ 0#3, .xcopy 0 5 1 9 1 1 1),
      (0b1#1 ++ 0b0#1 ++ 0x31#6 ++ 0#3 ++ 8#4 ++ 2#4 ++ 0#4 ++ 0#1 ++ 0b00#2 ++ 1#1 ++ 0#5, .pbind 0 8 2 0 1),
      (0b1#1 ++ 0b0#1 ++ 0x32#6 ++ 0#3 ++ 0#1 ++ 3#3 ++ 4#4 ++ 5#4 ++ 0#8 ++ 0#1, .spawn 0 3 4 5),
      (0b1#1 ++ 0b0#1 ++ 0x33#6 ++ 0#3 ++ 5#4 ++ 1#4 ++ 0#4 ++ 0b000#3 ++ 0#6, .kopen 0 5 1),
      (0b1#1 ++ 0b0#1 ++ 0x38#6 ++ 0#3 ++ 0#4 ++ 0#4 ++ 0#4 ++ 0b001#3 ++ 4#3 ++ 0#3, .gret 0 4)] = true := by decide +kernel

/-- R51 (AR), R52 (AI, AL), R53 (AP), R54 (AV). -/
theorem test_layout_arithmetic :
    readsAs [(0b1#1 ++ 0b1#1 ++ 0x00#6 ++ 0#3 ++ 3#4 ++ 0#4 ++ 1#4 ++ 0x000#9, .add 0 3 0 1),
      (0b1#1 ++ 0b1#1 ++ 0x01#6 ++ 2#3 ++ 3#4 ++ 4#4 ++ 5#4 ++ 0x00E#9, .sel 2 3 4 5 6),
      (0b1#1 ++ 0b1#1 ++ 0x03#6 ++ 0#3 ++ 3#4 ++ 4#4 ++ 5#4 ++ 0b000#3 ++ 1#1 ++ 0x03#5, .paddsatN 0 3 4 5 1),
      (0b1#1 ++ 0b1#1 ++ 0x04#6 ++ 0#3 ++ 3#4 ++ 4#4 ++ 5#4 ++ 0x003#9, .ffma 0 3 4 5),
      (0b0#1 ++ 0b1#1 ++ 0x08#6 ++ 0#3 ++ 5#4 ++ 5#4 ++ 1#13, .addi 0 5 5 1),
      (0b1#1 ++ 0b1#1 ++ 0x15#6 ++ 0#3 ++ 5#4 ++ 1#1 ++ 0xABCD#16, .movh 0 5 1 0xABCD),
      (0b1#1 ++ 0b1#1 ++ 0x22#6 ++ 0#3 ++ 1#3 ++ 5#4 ++ 0#4 ++ 32#10, .cmpiLt 0 1 5 32),
      (0b1#1 ++ 0b1#1 ++ 0x1A#6 ++ 0#3 ++ 1#3 ++ 0#1 ++ 2#3 ++ 0#1 ++ 3#3 ++ 0b101#3 ++ 0#4 ++ 4#3, .psel 0 1 2 3 4),
      (0b1#1 ++ 0b1#1 ++ 0x30#6 ++ 1#3 ++ 2#3 ++ 3#3 ++ 0#4 ++ 0#4 ++ 0b000#3 ++ 7#4, .vadd 1 2 3 7),
      (0b1#1 ++ 0b1#1 ++ 0x36#6 ++ 2#3 ++ 1#3 ++ 0#3 ++ 4#4 ++ 5#4 ++ 0b101#3 ++ 7#4, .vgath 2 1 4 5 7)] = true := by decide +kernel

/-- The spec's example words (R33 to R67 and the rules of the instructions). -/
theorem test_words_examples :
    readsAs [(0xA2000005#32, .fence 0 5), (0x9B064000#32, .st64 0 3 2 0 0 0 0), (0x811C0043#32, .sysrd 0 14 67),
      (0x82006000#32, .syswr 0 3 0), (0x84000007#32, .brk 0 7), (0x9D068000#32, .wchg 0 3 4 0 0), (0x9E008000#32, .hop 0 4 0 0),
      (0x9F068000#32, .probe 0 3 4 0 0), (0xA4080043#32, .mrecv 0 4 3), (0xB30C2540#32, .kstat 0 6 1 2),
      (0xB80A8C00#32, .gcall 0 5 4 6), (0xB80A2482#32, .awin 0 5 1 2 1), (0xB80C00C8#32, .gstat 0 6 0 1)] = true := by decide +kernel

/-- R35, R37: words of zeros never run; a pair opens with class C; both words of a pair may not write one register. -/
theorem test_bundles :
    decodeBundle false 0 = .error .misframe ∧ decodeBundle false (BitVec.allOnes 64) = .error .illegal ∧
    decodeBundle false 0x00000000_480AA001#64 = .error .misframe ∧ decodeBundle true 0x480AA001_16048001#64 = .error .misframe ∧
    decodeBundle false 0x480AA001_160A8001#64 = .error .illegal ∧
    decodeBundle false 0x480AA001_16048001#64 = .ok (.pair (.ldI64 0 2 4 0 0 0 1) (.addi 0 5 5 1)) := by decide +kernel

/-! ### Well-formedness -/

/-- A term that each check refuses. -/
theorem test_ill_formed :
    (([.fence 0 11, .amo 0 4 7 9 11 1 5, .amo 0 4 7 9 10 1 5, .amo 0 4 7 9 0 1 11, .rxAmo 0 4 7 9 15 0 0, .wait 0 9 0 0 0, .wait 0 0 9 0 0,
      .wait 0 0 0 17 0, .wait 0 0 0 0 17, .msend 0 3 15 1, .mrecv 0 15 1, .mlease 0 5 2 0, .magr 0 4 3, .mfmt 0 4 5] : List Instr).all
      fun i => !i.wf) = true ∧
    (([.xcopy 0 5 1 0 0 0 0, .xcopyv 0 0 1 9 0 0 0, .pbind 0 7 2 0 1, .pbind 0 14 2 0 1, .pbind 0 8 2 2 1, .pbind 0 8 2 3 0, .punbind 0 14,
      .gret 0 7, .awin 0 5 1 2 0, .awin 0 5 1 2 3, .gstat 0 6 1 3, .gstat 0 6 0 5, .kput 0 1 14, .kstat 0 5 1 8, .gcall 0 0 4 6,
      .extI 0 3 4 60 10, .extN 0 3 4 63 1, .ins 0 3 4 1 63] : List Instr).all
      fun i => !i.wf) = true ∧
    (([.cmp 0 1 2 3 11, .fcmp 0 1 2 3 5, .vadd 1 2 3 8, .vfma 1 2 3 3, .vabs 1 2 1, .vshl 1 2 3 6, .vcmp 1 2 3 6 5, .vcvtFromF32 1 2 0 7 0,
      .vcvtToF32 1 2 0 4 5, .vredSum 1 2 6, .vget 1 2 3 6, .vpack 1 2 4, .vgath 2 1 4 5 6, .sysrd 0 3 7] : List Instr).all
      fun i => !i.wf) = true := by decide +kernel

/-! ### Single steps

The machine `here` runs domain 0 with x1 = −1, x2 = the most negative number, x3 = 1, x4 = the address of 0x9122334455667788,
x5 = 64, x6 = 63, x7 = the largest number, x8 = 2, x9 = 3, x10 a signalling NaN, x12 = 1.0, x15 in the image window. -/

/-- x(r) after an instruction. -/
def x (i : Instr) (r : XReg) : Word := (after i here).cur.reg r

/-- The dword at 0x30000 after an instruction. -/
def wordAfter (i : Instr) : Word := leWord ((physRange 0x30000 8).map (memGet (after i here).mem))

/-- R80: −1 × −1. -/
theorem test_products : [x (.add 0 3 1 3) 3, x (.mul 0 3 1 1) 3, x (.mulhI 0 3 1 1) 3, x (.mulhN 0 3 1 1) 3, x (.abs 0 3 2) 3] =
    [0, 1, 0, 0xFFFFFFFFFFFFFFFE, 0x8000000000000000] := by decide +kernel

/-- R81: the overflow of signed division, and division by 0. -/
theorem test_division : [x (.divI 0 3 2 1) 3, x (.remI 0 3 2 1) 3, x (.divN 0 3 6 0) 3, x (.remN 0 3 6 0) 3] =
    [0x8000000000000000, 0, 0xFFFFFFFFFFFFFFFF, 63] := by decide +kernel

/-- R82. -/
theorem test_saturation : [x (.addsatI 0 3 7 3) 3, x (.addsatN 0 3 1 3) 3, x (.subsatI 0 3 2 3) 3, x (.subsatN 0 3 3 5) 3] =
    [0x7FFFFFFFFFFFFFFF, 0xFFFFFFFFFFFFFFFF, 0x8000000000000000, 0] := by decide +kernel

/-- R86: shifts by 64 and by 63; a rotation by 64 leaves its source. -/
theorem test_shifts : [x (.shl 0 3 1 5) 3, x (.shr 0 3 2 6) 3, x (.sar 0 3 2 5) 3, x (.rot 0 3 2 5) 3, x (.roti 0 3 2 1) 3] =
    [0, 1, 0xFFFFFFFFFFFFFFFF, 0x8000000000000000, 1] := by decide +kernel

/-- R87: counts of zeros of 0 and of 1. -/
theorem test_counts : [x (.clz 0 3 0) 3, x (.ctz 0 3 0) 3, x (.popc 0 3 1) 3, x (.clz 0 5 3) 5] = [64, 64, 64, 63] := by decide +kernel

/-- R88, R89: the field of bit 63, an insertion that keeps the other bits, and constants. -/
theorem test_fields : [x (.extI 0 3 2 63 0) 3, x (.extN 0 3 2 63 0) 3, x (.ins 0 8 1 4 3) 8, x (.movi 0 3 1 0x8000) 3, x (.movh 0 3 0 0xABCD) 3,
    x (.movh 0 1 1 0x1234) 1] =
    [0xFFFFFFFFFFFFFFFF, 1, 0xF2, 0xFFFFFFFFFFFF8000, 0x1ABCD, 0xFFFFFFFF1234FFFF] := by decide +kernel

/-- R92: lanes do not carry into each other. -/
theorem test_lanes : [x (.padd 0 3 1 3 0) 3, x (.padd 0 3 1 3 1) 3, x (.paddsatN 0 3 1 3 0) 3, x (.pcmpLtI 0 3 1 3 0) 3] =
    [0xFFFFFFFFFFFFFF00, 0xFFFFFFFFFFFF0000, 0xFFFFFFFFFFFFFFFF, 0xFFFFFFFFFFFFFFFF] := by decide +kernel

/-- R76, R77: −1 is less than 1 as signed and not as natural. -/
theorem test_compares : [(after (.cmp 0 1 1 3 2) here).cur.pred 1, (after (.cmp 0 1 1 3 6) here).cur.pred 1,
    (after (.cmpiLt 0 1 3 (-1)) here).cur.pred 1, (after (.cmpiLtN 0 1 3 (-1)) here).cur.pred 1] = [true, false, false, true] := by
  decide +kernel

/-- R93 to R97: 1 + 1; a signalling NaN gives the quiet one and sets NV (R12); 1.0 as an integer. -/
theorem test_f32 : [x (.fadd 0 3 12 12) 3, x (.fmul 0 3 10 12) 3, x (.fcvtI32F32 0 3 12 0) 3, x (.fneg 0 3 12) 3, x (.fcvtF32I32 0 3 1 0) 3] =
    [0x40000000, 0x7FC00000, 1, 0xBF800000, 0xBF800000] ∧ (after (.fmul 0 3 10 12) here).cur.st.getLsbD 20 = true := by decide +kernel

/-- R102: the highest byte of the dword, signed and natural; R47: a scaled offset. -/
theorem test_loads : [x (.ldI8 0 3 4 0 0 0 7) 3, x (.ldN8 0 3 4 0 0 0 7) 3, x (.ldI32 0 3 4 0 0 0 1) 3, x (.ldI64 0 3 4 0 0 0 0) 3] =
    [0xFFFFFFFFFFFFFF91, 0x91, 0xFFFFFFFF91223344, 0x9122334455667788] := by decide +kernel

/-- R102, R109: a store of 16 bits; an atomic add and a failing compare-and-swap. -/
theorem test_stores :
    wordAfter (.st16 0 1 4 0 0 0 1) = 0x91223344FFFF7788 ∧
    x (.amo 0 3 4 9 0 1 0) 3 = 0x9122334455667788 ∧ wordAfter (.amo 0 3 4 9 0 1 0) = 0x912233445566778B ∧
    (after (.amo 0 3 4 9 9 1 0) here).mem = here.mem := by decide +kernel

/-- R90, R47: the address of `lea.32`. -/
theorem test_lea : x (.lea 0 3 4 2 0 3) 3 = dataVa + 12 := by decide +kernel

/-- R71 to R73: a branch not taken and taken, a return, a loop that ends. -/
theorem test_transfers :
    ([.b 0 1 4, .b 0 0 4, .ret 0, .loop 0 3 (-1), .loop 0 8 (-1), .call 0 0 2] : List Instr).map (fun i => (after i here).cur.pc) =
      [0x1000000004, 0x1000000010, 0x1000000100, 0x1000000004, 0xFFFFFFFFC, 0x1000000008] ∧ x (.call 0 0 2) 15 = 0x1000000004 := by
  decide +kernel

/-- R217 to R219: `trap 21` retires, `brk 7` does not. -/
theorem test_traps :
    (let t := (after (.trap 0 21) here).cur
     t.pc = 0x1000000800 ∧ t.hm = true ∧ t.tcause = 16 ∧ t.tval = 21 ∧ t.epc = 0x1000000004) ∧
    (let t := (after (.brk 0 7) here).cur
     t.pc = 0x1000000800 ∧ t.hm = true ∧ t.tcause = 15 ∧ t.tval = 7 ∧ t.epc = 0x1000000000) := by decide +kernel

/-- R99: an unmapped window raises PROT with the address; R58: a misaligned atomic raises ALIGN. -/
theorem test_access_traps :
    (let t := (after (.ldI64 0 3 1 0 0 0 0) here).cur
     t.tcause = 7 ∧ t.tval = 0xFFFFFFFFFFFFFFFF) ∧
    (let t := (after (.amo 0 3 4 9 0 1 0) (with' fun t => { t with x := t.x.set 4 (dataVa + 4) })).cur
     t.tcause = 14 ∧ t.tval = dataVa + 4) := by decide +kernel

/-- R8: `pw` takes k1 to k7; R26: the dom register in domain 0; R13: a reserved RM raises ILLEGAL. -/
theorem test_system :
    (after (.syswr 0 0 4) here).cur.pw = 1 ∧ (after (.syswr 0 1 4) here).cur.pw = 0xFF ∧ x (.sysrd 0 3 5) 3 = (0 : Word) ∧
    (after (.syswr 0 7 0) here).cur.tcause = 1 := by decide +kernel

/-- R43: under a false guard a word only retires. -/
theorem test_guard : (after (.add 1 3 1 1) here).cur.x = here.cur.x ∧ (after (.add 1 3 1 1) here).cur.pc = 0x1000000004 := by decide +kernel

/-- The machine fetches and runs a placed word: `addi x5,x5,1` (R33 to R35). -/
theorem test_first_step :
    (match step (State.reset.withFetchWord 32 0xC80AA001) with
      | .next t => t.cur.reg 5 == 1 && t.cur.pc == 0x1000000004
      | _ => false) = true := by decide +kernel

end Sys2Proof.Tests
end

section
/-! PROOF. What a cold reset leaves (R5, R384): the record that each lookup finds in the reset state, and the obligation about it. -/

namespace Sys2Proof.Machine
open Sys2Proof.Safety

/-- Memory with nothing listed is in canonical form (log entry 4). -/
theorem memoryOk_reset : MemoryOk State.reset := rfl

/-- The thread in hand at reset stands nowhere, so no thread exists. -/
@[simp] theorem threads_reset : State.reset.threads = [] := rfl

/-- No core and no comb is listed at reset, so each has its reset values. -/
@[simp] theorem core_reset (c : CoreNo) : State.reset.core c = { num := c } := rfl
@[simp] theorem comb_reset (m : CombNo) : State.reset.comb m = { num := m } := rfl

/-- Domain 0 is live at once, in VD 0 (log entry 1); every other domain is absent. -/
theorem domain_reset_zero : State.reset.domain 0 = { num := 0, life := .live } := rfl
theorem domain_reset_of_ne {n : DomNo} (h : n ≠ 0) : State.reset.domain n = { num := n } := if_neg h.symm

/-- VD 0 runs; every other VD is absent. -/
theorem vd_reset_zero : State.reset.vd 0 = { num := 0, st := 1 } := rfl
theorem vd_reset_of_ne {v : VdNo} (h : v ≠ 0) : State.reset.vd v = { num := v } := if_neg h.symm

/-- Running or absent, a VD has the reset values of its share and feature registers (R350, R376). -/
theorem vd_reset_registers (v : VdNo) :
    (State.reset.vd v).weight = 16 ∧ (State.reset.vd v).cap = 256 ∧ (State.reset.vd v).gtoff = 0 ∧
      (State.reset.vd v).feat0 = 0 := by
  rcases eq_or_ne v 0 with rfl | h
  · rw [vd_reset_zero]
    exact ⟨rfl, rfl, rfl, rfl⟩
  · rw [vd_reset_of_ne h]
    exact ⟨rfl, rfl, rfl, rfl⟩

/-- Settles O58: `domain_reset_zero`, `vd_reset_zero`, `core_reset` and their like say which record each lookup finds; the registers
outside these records, and those of a new thread, are read off the state. -/
theorem resetState : Obligations.ResetState := by
  unfold Obligations.ResetState
  have otherDomains : ∀ n, n ≠ 0 → (State.reset.domain n).life = .absent := fun n h => by rw [domain_reset_of_ne h]
  have otherVds : ∀ v, v ≠ 0 → (State.reset.vd v).st = 0 := fun v h => by rw [vd_reset_of_ne h]
  refine ⟨memoryOk_reset, rfl, threads_reset, rfl, rfl, ?_, ?_, otherDomains, ?_, otherVds, vd_reset_registers,
    rfl, rfl, rfl, rfl, rfl, rfl, fun c => ?_, fun m => ?_, rfl, rfl, rfl, rfl, rfl⟩
  · rw [domain_reset_zero]
  · rw [domain_reset_zero]
  · rw [vd_reset_zero]
  · rw [core_reset]
    exact ⟨rfl, rfl, rfl, rfl, rfl, rfl⟩
  · rw [comb_reset]
    exact ⟨rfl, rfl, rfl, rfl⟩

end Sys2Proof.Machine
end

section
/-! PROOF. The system registers (R12 to R14, R28, R29, R214): who may read and write them, what `sysrd` answers and what
`syswr` changes. -/

namespace Sys2Proof.Machine
open Sys2Proof.Safety

/-! ### Rights -/

/-- Below 0x100 an assigned index is open to the modes that reach as far as `sysModes` asks. -/
theorem sysAllowed_low {s : State} {i r w : Nat} (hi : i < 0x100) (h : sysModes i = some (r, w)) (write : Bool) :
    sysAllowed s i write =
      if (if write then w else r) ≤ s.sysMode then .ok () else .prot (BitVec.ofNat 64 i) := by
  simp [sysAllowed, hi, h]

/-- An index below 0x100 that is not assigned is ILLEGAL in every mode. -/
theorem sysAllowed_unassigned {s : State} {i : Nat} (hi : i < 0x100) (h : sysModes i = none) (write : Bool) :
    sysAllowed s i write = .illegal := by
  simp [sysAllowed, hi, h]

/-- Every mode reaches as far as ordinary code. -/
@[simp] theorem one_le_sysMode (s : State) : 1 ≤ s.sysMode := by
  unfold State.sysMode
  split_ifs <;> omega

/-- No mode may write a register that is read-only. -/
@[simp] theorem not_four_le_sysMode (s : State) : ¬4 ≤ s.sysMode := by
  unfold State.sysMode
  split_ifs <;> omega

/-- As far as the handler reaches the domain's trap handler, and domain 0. -/
theorem two_le_sysMode_iff (s : State) : 2 ≤ s.sysMode ↔ s.cur.hm = true ∨ s.cur.dom = 0 := by
  unfold State.sysMode
  split_ifs with hd hm
  · exact iff_of_true (by omega) (.inr hd)
  · exact iff_of_true (by omega) (.inl hm)
  · exact iff_of_false (by omega) (not_or.mpr ⟨hm, hd⟩)

theorem three_le_sysMode_iff (s : State) : 3 ≤ s.sysMode ↔ s.cur.dom = 0 := by
  unfold State.sysMode
  split_ifs with hd hm
  · exact iff_of_true (by omega) hd
  · exact iff_of_false (by omega) hd
  · exact iff_of_false (by omega) hd

/-! ### Reading -/

theorem exec_sysrd (g : KReg) (d : XReg) (i : BitVec 13) (s : State) : exec (.sysrd g d i) s = execSysrd g d i s := rfl

/-- What a read of evcnt leaves: EVZ is set where the event is not allowed (R382). -/
def State.afterEvcnt (s : State) : State :=
  if s.eventAllowed then s else { s with cur := { s.cur with st := putBit s.cur.st 16 true } }

/-- A refused read traps: with the bundle where the index is not assigned, with the index where the mode does not reach. -/
theorem sysrd_illegal {s : State} {g : KReg} {d : XReg} {i : BitVec 13} (hg : GuardOn s g) (hf : PortsFit s [] [d])
    (ha : sysAllowed s i.toNat false = .illegal) : exec (.sysrd g d i) s = .next (s.trapped .illegal s.bundle s.cur.pc) := by
  simp only [exec_sysrd, execSysrd, guarded_active hg, legal_fit hf, ha, finish, id]

theorem sysrd_prot {s : State} {g : KReg} {d : XReg} {i : BitVec 13} {v : Word} (hg : GuardOn s g) (hf : PortsFit s [] [d])
    (ha : sysAllowed s i.toNat false = .prot v) : exec (.sysrd g d i) s = .next (s.trapped .prot v s.cur.pc) := by
  simp only [exec_sysrd, execSysrd, guarded_active hg, legal_fit hf, ha, finish, id]

theorem sysrd_low_gives {s : State} {g : KReg} {d : XReg} {i : BitVec 13} (hg : GuardOn s g) (hf : PortsFit s [] [d])
    (ha : sysAllowed s i.toNat false = .ok ()) (hi : i.toNat < 0x100) (h51 : i ≠ 0x51) :
    Gives (.sysrd g d i) s s d (sysLow s i.toNat) false := by
  have hn : ¬(i.toNat = 0x51 ∧ (!s.eventAllowed) = true) := fun h => h51 (BitVec.eq_of_toNat_eq h.1)
  intro s3 ht
  simp only [Retires, exec_sysrd, execSysrd, guarded_active hg, legal_fit hf, ha, if_pos hi, if_neg hn, putX_takes ht,
    finish_done]

theorem sysrd_high_gives {s : State} {g : KReg} {d : XReg} {i : BitVec 13} {v : Word} (hg : GuardOn s g)
    (hf : PortsFit s [] [d]) (ha : sysAllowed s i.toNat false = .ok ()) (hi : 0x100 ≤ i.toNat)
    (hv : sysHigh s i.toNat = .ok v) : Gives (.sysrd g d i) s s d v false := by
  intro s3 ht
  simp only [Retires, exec_sysrd, execSysrd, guarded_active hg, legal_fit hf, ha, if_neg (Nat.not_lt.mpr hi), hv,
    putX_takes ht, finish_done]

/-- Every mode may read evcnt, which is 0 for an event that the VD's allow-list leaves out. -/
theorem sysrd_evcnt_gives {s : State} {g : KReg} {d : XReg} (hg : GuardOn s g) (hf : PortsFit s [] [d]) :
    Gives (.sysrd g d 0x51) s s.afterEvcnt d (if s.eventAllowed then s.rd.evcnt else 0) false := by
  have ha : sysAllowed s (0x51 : BitVec 13).toNat false = .ok () := by
    rw [sysAllowed_low (r := 1) (w := 4) (by decide) (by decide)]
    simp
  have hv : sysLow s (0x51 : BitVec 13).toNat = if s.eventAllowed then s.rd.evcnt else 0 := rfl
  have hs : (if (0x51 : BitVec 13).toNat = 0x51 ∧ (!s.eventAllowed) = true then
      { s with cur := { s.cur with st := putBit s.cur.st stEVZ true } } else s) = s.afterEvcnt := by
    cases h : s.eventAllowed <;> simp [State.afterEvcnt, h, stEVZ]
  intro s3 ht
  simp only [Retires, exec_sysrd, execSysrd, guarded_active hg, legal_fit hf, ha, hs, hv,
    if_pos (show (0x51 : BitVec 13).toNat < 0x100 by decide), putX_takes ht, finish_done]

/-- Settles O24: each way that `sysrd` ends, the value of each register, and the rights by the groups of `sysModes`. -/
theorem systemReadsAndRights : Obligations.SystemReadsAndRights := by
  unfold Obligations.SystemReadsAndRights
  refine ⟨fun s g d i hg hf => ?_, fun s i hi => ?_⟩
  · refine ⟨sysrd_illegal hg hf, fun v => sysrd_prot hg hf, sysrd_low_gives hg hf, fun v => sysrd_high_gives hg hf, fun he => ?_,
      fun he => ?_, rfl, rfl, rfl, rfl, rfl, rfl, rfl, rfl, rfl, rfl, rfl, rfl, rfl, rfl, rfl, rfl, rfl, rfl, rfl, rfl, rfl, rfl⟩
    · simpa [State.afterEvcnt, he] using sysrd_evcnt_gives hg hf
    · simpa [State.afterEvcnt, he] using sysrd_evcnt_gives hg hf
  · have everyone : ∀ i ∈ [0, 1, 4, 0x50], sysModes i = some (1, 1) := by decide
    have readers : ∀ i ∈ [2, 3, 5, 6, 8, 9, 0xA, 0xB, 0xC, 0xD, 0xE, 0xF, 0x10, 0x11, 0x51, 0x52], sysModes i = some (1, 4) := by
      decide
    have stack : ∀ i ∈ [0x18, 0x19, 0x1A, 0x1B, 0x1C, 0x1D, 0x1E, 0x1F], sysModes i = some (3, 4) := by decide
    have handlers : ∀ i ∈ [0x40, 0x42, 0x44], sysModes i = some (2, 2) := by decide
    have causes : ∀ i ∈ [0x41, 0x43], sysModes i = some (2, 4) := by decide
    have unassigned : ∀ i < 0x100, i ∉ [0, 1, 2, 3, 4, 5, 6, 8, 9, 0xA, 0xB, 0xC, 0xD, 0xE, 0xF, 0x10, 0x11, 0x18, 0x19, 0x1A, 0x1B,
        0x1C, 0x1D, 0x1E, 0x1F, 0x40, 0x41, 0x42, 0x43, 0x44, 0x45, 0x50, 0x51, 0x52] → sysModes i = none := by
      decide +kernel
    have base : sysModes 0x45 = some (1, 2) := by decide
    have byMode {i r w : Nat} (hi : i < 0x100) (h : sysModes i = some (r, w)) := sysAllowed_low (s := s) hi h
    simp only [← two_le_sysMode_iff]
    refine ⟨fun h => ?_, fun h => ?_, fun h => ?_, fun h => ?_, fun h => ?_, ?_, fun h => ?_⟩
    · simp [byMode hi (everyone i h)]
    · simp [byMode hi (readers i h)]
    · simp [byMode hi (stack i h), three_le_sysMode_iff]
    · simp +contextual [byMode hi (handlers i h)]
    · simp +contextual [byMode hi (causes i h)]
    · rintro rfl
      simp +contextual [byMode hi base]
    · simp [sysAllowed_unassigned hi (unassigned i hi h)]

/-! ### Writing -/

theorem exec_syswr (g : KReg) (a : XReg) (i : BitVec 13) (s : State) : exec (.syswr g a i) s = execSyswr g a i s := rfl

section
variable {s s1 : State} {g : KReg} {a : XReg} {i : BitVec 13} {v : Word} {t : Bool}

theorem syswr_illegal (hg : GuardOn s g) (hf : PortsFit s [a] []) (hr : ReadsAs s a v t s1)
    (ha : sysAllowed s1 i.toNat true = .illegal) : exec (.syswr g a i) s = .next (s.trapped .illegal s.bundle s.cur.pc) := by
  simp only [exec_syswr, execSyswr, guarded_active hg, legal_fit hf, hr _, ha, finish, id]

theorem syswr_prot {x : Word} (hg : GuardOn s g) (hf : PortsFit s [a] []) (hr : ReadsAs s a v t s1)
    (ha : sysAllowed s1 i.toNat true = .prot x) : exec (.syswr g a i) s = .next (s.trapped .prot x s.cur.pc) := by
  simp only [exec_syswr, execSyswr, guarded_active hg, legal_fit hf, hr _, ha, finish, id]

/-- The reset registers alone may end the thread itself. -/
theorem isReset_eq_false (h1 : i ≠ 0x120) (h2 : i ≠ 0x830) : isReset i.toNat = false := by
  have n1 : i.toNat ≠ 0x120 := fun h => h1 (BitVec.eq_of_toNat_eq h)
  have n2 : i.toNat ≠ 0x830 := fun h => h2 (BitVec.eq_of_toNat_eq h)
  simp [isReset, n1, n2]

theorem syswr_retires {s2 : State} (hg : GuardOn s g) (hf : PortsFit s [a] []) (hr : ReadsAs s a v t s1)
    (ha : sysAllowed s1 i.toNat true = .ok ()) (hi : isReset i.toNat = false)
    (hw : (if i.toNat < 0x100 then sysWriteLow s1 i.toNat v else sysWriteHigh s1 i.toNat v) = .ok s2) :
    Retires (.syswr g a i) s s2 := by
  simp only [Retires, exec_syswr, execSyswr, guarded_active hg, legal_fit hf, hr _, ha, hi, Bool.false_eq_true, if_false, hw,
    finish_done]

end

/-! ### What st and est take (R12 to R14) -/

/-- Bit `j` of a status word after a write that leaves VLIVE alone: RM, FZS and FZR are taken, a written 1 clears a sticky flag. -/
theorem writtenSt_bit (st v : Word) (j : Nat) :
    (st &&& ~~~(v &&& 0xFF0000#64) &&& ~~~0x1F#64 ||| (v &&& 0x1F#64)).getLsbD j =
      if j < 5 then v.getLsbD j else if 16 ≤ j ∧ j < 24 then st.getLsbD j && !v.getLsbD j else st.getLsbD j := by
  rcases Nat.lt_or_ge j 64 with h | h
  · have low : (0x1F#64).getLsbD j = decide (j < 5) := by interval_cases j <;> decide
    have sticky : (0xFF0000#64).getLsbD j = decide (16 ≤ j ∧ j < 24) := by interval_cases j <;> decide
    simp only [BitVec.getLsbD_or, BitVec.getLsbD_and, BitVec.getLsbD_not, low, sticky, h, decide_true, Bool.true_and]
    split_ifs <;> simp [*]
  · rw [BitVec.getLsbD_of_ge _ _ h, BitVec.getLsbD_of_ge v _ h, BitVec.getLsbD_of_ge st _ h]
    simp

/-- Bit `j` of est after a write: its flags, RM, FZS and FZR are taken. -/
theorem writtenEst_bit (est v : Word) (j : Nat) :
    (est &&& ~~~0xFF001F#64 ||| (v &&& 0xFF001F#64)).getLsbD j =
      if j < 5 ∨ (16 ≤ j ∧ j < 24) then v.getLsbD j else est.getLsbD j := by
  rcases Nat.lt_or_ge j 64 with h | h
  · have taken : (0xFF001F#64).getLsbD j = decide (j < 5 ∨ (16 ≤ j ∧ j < 24)) := by interval_cases j <;> decide
    simp only [BitVec.getLsbD_or, BitVec.getLsbD_and, BitVec.getLsbD_not, taken, h, decide_true, Bool.true_and]
    split_ifs <;> simp [*]
  · rw [BitVec.getLsbD_of_ge _ _ h, BitVec.getLsbD_of_ge v _ h, BitVec.getLsbD_of_ge est _ h]
    simp

/-- A reserved RM is ILLEGAL. -/
theorem writeSt_reserved {s : State} {v : Word} (hr : 4 < (v.extractLsb' 0 3).toNat) : writeSt s v = .illegal := if_pos hr

theorem writeEst_reserved {s : State} {v : Word} (hr : 4 < (v.extractLsb' 0 3).toNat) : writeEst s v = .illegal := if_pos hr

/-- A 0 in VLIVE waits for the vector command (R14). -/
theorem writeSt_waits {s : State} {v : Word} (hr : (v.extractLsb' 0 3).toNat ≤ 4) (hv : v.getLsbD 7 = false)
    (hb : s.cur.vbusy = true) : writeSt s v = .wait := by
  have hw : (!v.getLsbD stVLIVE && s.cur.vbusy) = true := by rw [stVLIVE, hv, hb]; rfl
  rw [writeSt, if_neg (Nat.not_lt.mpr hr), if_pos hw]

/-- A write with a valid RM and 1 in VLIVE changes st alone. -/
theorem writeSt_keep {s : State} {v : Word} (hr : (v.extractLsb' 0 3).toNat ≤ 4) (hv : v.getLsbD 7 = true) :
    writeSt s v = .ok { s with cur := { s.cur with
      st := s.cur.st &&& ~~~(v &&& 0xFF0000#64) &&& ~~~0x1F#64 ||| (v &&& 0x1F#64) } } := by
  have hw : ¬(!v.getLsbD stVLIVE && s.cur.vbusy) = true := by rw [stVLIVE, hv]; simp
  rw [writeSt, if_neg (Nat.not_lt.mpr hr), if_neg hw, if_pos (show v.getLsbD stVLIVE = true from hv)]

theorem writeEst_valid {s : State} {v : Word} (hr : (v.extractLsb' 0 3).toNat ≤ 4) :
    writeEst s v = .ok { s with cur := { s.cur with est := s.cur.est &&& ~~~0xFF001F#64 ||| (v &&& 0xFF001F#64) } } :=
  if_neg (Nat.not_lt.mpr hr)

/-- An address of a bundle: the lowest two bits are dropped. -/
theorem and_not_three (v : Word) : v &&& ~~~3#64 = v.extractLsb' 2 62 ++ 0#2 := by
  refine BitVec.eq_of_getLsbD_eq fun j hj => ?_
  have three : (3#64).getLsbD j = decide (j < 2) := by interval_cases j <;> decide
  have joined := BitVec.getLsbD_append (x := v.extractLsb' 2 62) (y := 0#2) (i := j)
  rw [BitVec.getLsbD_and, BitVec.getLsbD_not, three]
  refine Eq.trans ?_ joined.symm
  rcases Nat.lt_or_ge j 2 with h | h
  · simp [h]
  · simp [Nat.not_lt.mpr h, hj, show j - 2 < 62 by omega, Nat.add_sub_cancel' h]

/-- The predicate word: k0 is 1 (R8). -/
theorem or_one_eq_append (v : Word) : v.extractLsb' 0 8 ||| 1 = v.extractLsb' 1 7 ++ 1#1 := by
  refine BitVec.eq_of_getLsbD_eq fun j hj => ?_
  have one : (1 : BitVec (7 + 1)).getLsbD j = decide (j < 1) := by interval_cases j <;> decide
  have joined := BitVec.getLsbD_append (x := v.extractLsb' 1 7) (y := 1#1) (i := j)
  rw [BitVec.getLsbD_or, one]
  refine Eq.trans ?_ joined.symm
  rcases Nat.lt_or_ge j 1 with h | h
  · simp [Nat.lt_one_iff.mp h]
  · simp [Nat.not_lt.mpr h, hj, show j - 1 < 7 by omega, Nat.add_sub_cancel' h]

/-- Settles O25: each way that `syswr` ends, then what each register takes, st and est bit by bit. -/
theorem systemWrites : Obligations.SystemWrites := by
  unfold Obligations.SystemWrites
  refine ⟨fun s s1 g a i v t hg hf hr => ⟨syswr_illegal hg hf hr, fun x => syswr_prot hg hf hr, fun s2 ha h1 h2 hw =>
    syswr_retires hg hf hr ha (isReset_eq_false h1 h2) hw⟩, fun s v => ?_⟩
  refine ⟨rfl, ?_, ?_, ?_, rfl, rfl, fun h => ?_, fun hr hv hb => ?_, fun hr hv => ?_, fun hr => ?_⟩
  · rw [← or_one_eq_append]
    rfl
  · rw [← and_not_three]
    rfl
  · rw [← and_not_three]
    rfl
  · exact ⟨writeSt_reserved h, writeEst_reserved h⟩
  · exact writeSt_waits hr hv hb
  · exact ⟨_, writeSt_keep hr hv, rfl, fun j => writtenSt_bit _ v j⟩
  · exact ⟨_, writeEst_valid hr, rfl, fun j => writtenEst_bit _ v j⟩

end Sys2Proof.Machine
end

section
/-! PROOF. Two claims about rings that fail of a memory out of its canonical form (log entry 4): writing 0 to a byte puts no cell
into the list and drops none that stands behind a cell of a higher address, so that the byte reads as before. -/

namespace Sys2Proof.Machine
open Sys2Proof.Safety

/-- x8 bound to the ring whose descriptor lies at address 0x10000030040: the way in, or the way out. -/
def strayPort (push : Bool) : Port := { bound := true, push := push, kind := 1, target := 0x10000030040 }

/-- A thread with x8 bound to a ring. The comb holds the page of the window `priv` that maps to the frame at 0x30000, so that no
table is read. The descriptor names elements from 0x34000 on; two cells, of HEAD and of element 0, stand out of order. -/
def strayRing (push : Bool) : State :=
  { State.reset with
    cur := { num := 1, place := .slot 345 3, ports := (Vector.replicate 6 {}).set 0 (strayPort push) }
    mem := [(0x30041, 0x40), (0x30042, 0x03), (0x30045, 0x01), (0x40000, 1), (0x30050, 9), (0x34000, 9)]
    combs := [{ num := combOf 345, tlb := [
      { dom := 0, page := 0x1000003, vd := 0, ipa := 3, phys := 3, r := true, w := true, x := false }] }] }

/-- The canonical form that every step keeps (log entry 4) excludes this memory, but the clauses do not ask for it. -/
theorem strayRing_not_memoryOk (push : Bool) : ¬MemoryOk (strayRing push) := by
  unfold MemoryOk
  decide +revert

/-- The bundle that is retiring has popped the ring's element, and HEAD was the greatest number: HEAD becomes 0. -/
def strayPop : State := { strayRing false with popped := [(8, strayPort false, 0, BitVec.allOnes 64)] }

/-- HEAD's lowest byte still reads 9 after the retirement that stores 0 there. -/
theorem strayPop_retire_head : memGet (strayPop.retire none).mem 0x30050 = 9 := by decide +kernel

/-- Refutes O11: the clause on the HEAD that a pop stores has no premise that memory is canonical. In `strayPop` it asks that HEAD
reads 0, where it reads 9. -/
theorem not_guardsAndRetirement : ¬Obligations.GuardsAndRetirement := by
  rintro ⟨-, popped, -⟩
  have access : checkAccess strayPop strayPop.cur .write ((strayPort false).target + 16) 8 = .ok (physRange 0x30050 8) := by
    decide +kernel
  obtain ⟨-, -, -, -, ring⟩ := popped strayPop none 8 0 (BitVec.allOnes 64) (strayPort false) (by decide) rfl
  obtain ⟨-, -, stored⟩ := ring _ rfl access rfl
  have head : memGet (strayPop.retire none).mem 0x30050 = 0 := stored (by decide) rfl 0 (by decide)
  rw [strayPop_retire_head] at head
  exact absurd head (by decide)

/-- The element's lowest byte still reads 9 after a push of 0. -/
theorem strayRing_push_element : memGet ((strayRing true).setX 8 0 false).mem 0x34000 = 9 := by decide +kernel

/-- Refutes O12: the clause on a push to a ring has no premise that memory is canonical. In `strayRing true` it asks that the
element reads 0 after a push of 0, where it reads 9. -/
theorem not_operandForms : ¬Obligations.OperandForms := by
  rintro ⟨-, writes⟩
  obtain ⟨-, -, -, -, ring, -⟩ := writes (strayRing true) 8 0 false
  have descriptor : checkAccess (strayRing true) (strayRing true).cur .read (strayPort true).target 32 = .ok (physRange 0x30040 32) := by
    decide +kernel
  have push := ring (strayPort true) (physRange 0x30040 32) (physRange 0x34000 8) (physRange 0x30058 8) rfl rfl rfl descriptor
  obtain ⟨-, -, -, stored⟩ := push (by decide +kernel) (by decide +kernel) rfl rfl rfl (by decide) (by decide)
  have element : memGet ((strayRing true).setX 8 0 false).mem 0x34000 = 0 := stored (by decide) 0 (by decide)
  rw [strayRing_push_element] at element
  exact absurd element (by decide)

end Sys2Proof.Machine
end

section
/-! PROOF. What the part's own accesses to memory touch (R240, R302, R305, R306, R113): memory and damage, lines, turns, watches,
records of errors and the trace rings of cores, and nothing else. -/

namespace Sys2Proof.Machine
open Sys2Proof.Safety

/-! ### The frame of an access -/

/-- The state without what an access of the part may touch beside the cores. -/
def State.aside (s : State) : State :=
  { s with mem := [], damage := [], fleet := {}, pushed := [], lines := [], watches := [], served := [], cores := [] }

/-- A core without its trace ring. -/
def Core.untraced (k : Core) : Core := { k with trRing := [], trHead := 0, trLost := 0 }

/-- `u` is `s` after accesses of the part: of the cores the trace rings alone may differ. -/
structure Accessed (s u : State) : Prop where
  aside : u.aside = s.aside
  core : ∀ c, (u.core c).untraced = (s.core c).untraced

namespace Accessed

theorem refl (s : State) : Accessed s s := ⟨rfl, fun _ => rfl⟩

theorem trans {s t u : State} (h : Accessed s t) (h' : Accessed t u) : Accessed s u :=
  ⟨h'.aside.trans h.aside, fun c => (h'.core c).trans (h.core c)⟩

theorem foldl {β : Type} {f : State → β → State} (hf : ∀ s b, Accessed s (f s b)) (l : List β) (s : State) :
    Accessed s (l.foldl f s) := by
  induction l generalizing s with
  | nil => exact refl s
  | cons a r ih => exact (hf s a).trans (ih (f s a))

/-- The cores are left as they are. -/
theorem of_cores {s u : State} (ha : u.aside = s.aside) (hc : u.cores = s.cores) : Accessed s u :=
  ⟨ha, fun c => by simp only [State.core, hc]⟩

/-- One core is left as it is but for its trace ring. -/
theorem setCore (s : State) {c : CoreNo} {k : Core} (hn : k.num = c) (hk : k.untraced = (s.core c).untraced) :
    Accessed s (s.setCore k) := by
  refine ⟨rfl, fun d => ?_⟩
  rcases eq_or_ne d c with rfl | h
  · rw [core_setCore_of s k d hn, hk]
  · rw [core_setCore_ne s k d (hn ▸ h)]

section
variable {s u : State} (h : Accessed s u)
include h

theorem cur : u.cur = s.cur := (congrArg State.cur h.aside :)
theorem others : u.others = s.others := (congrArg State.others h.aside :)
theorem answers : u.answers = s.answers := (congrArg State.answers h.aside :)
theorem domains : u.domains = s.domains := (congrArg State.domains h.aside :)

theorem thread? (n : ThreadNo) : u.thread? n = s.thread? n := by simp only [State.thread?, h.cur, h.others]
theorem cache (c : CoreNo) : (u.core c).cache = (s.core c).cache := (congrArg Core.cache (h.core c) :)
theorem spills (c : CoreNo) : (u.core c).spills = (s.core c).spills := (congrArg Core.spills (h.core c) :)

end

end Accessed

/-! ### The accesses -/

theorem accessed_trace (s : State) (src : Source) (kind : Nat) (ps : List Nat) (b : Bool) : Accessed s (s.trace src kind ps b) := by
  unfold State.trace
  split
  · exact .refl s
  · split
    · exact .refl s
    · dsimp only
      split
      · exact .refl s
      · split_ifs
        · exact .refl s
        all_goals exact .setCore s (core_num ..) rfl

theorem accessed_meet (s : State) (hit : List Damage) : Accessed s (s.meet hit).1 := by
  rw [meet_eq]
  exact .of_cores rfl rfl

theorem accessed_eccRead (s : State) (ps : List Nat) : Accessed s (s.eccRead ps).1 := accessed_meet ..

theorem accessed_touch (s : State) (ps : List Nat) : Accessed s (s.touch ps) := .of_cores rfl rfl

theorem accessed_tookTurns (s : State) (n : Nat) (ps : List Nat) : Accessed s (s.tookTurns n ps) :=
  .foldl (f := fun s h => s.tookTurn n h) (fun _ _ => .of_cores rfl rfl) _ _

theorem accessed_traceRec (s : State) (t : Thread) (kind : Nat) (ps : List Nat) : Accessed s (s.traceRec t kind ps) :=
  .foldl (fun _ _ => accessed_trace ..) _ _

theorem accessed_reread (s : State) (w : Watch) : Accessed s (s.reread w) :=
  (((accessed_eccRead s _).trans (accessed_touch ..)).trans (accessed_trace ..)).trans (.of_cores rfl rfl)

theorem accessed_hitWatches (s : State) (ps : List Nat) : Accessed s (s.hitWatches ps) := .foldl accessed_reread _ _

theorem accessed_storeCells (s : State) (ps : List Nat) (bs : List Byte) : Accessed s (s.storeCells ps bs).2 := by
  unfold State.storeCells
  split
  · exact .of_cores rfl rfl
  · exact accessed_meet ..

theorem accessed_physWrite (s : State) (a : Nat) (bs : List Byte) : Accessed s (s.physWrite a bs) := by
  have stored := accessed_storeCells s (physRange a bs.length) bs
  unfold State.physWrite
  dsimp only
  split
  · next s1 e => rwa [e] at stored
  · next s1 e =>
    rw [e] at stored
    exact stored.trans ((accessed_touch ..).trans (accessed_hitWatches ..))

theorem accessed_recRead (s : State) (t : Thread) (a n : Nat) : Accessed s (s.recRead t a n).2 :=
  (((accessed_eccRead s _).trans (accessed_touch ..)).trans (accessed_tookTurns ..)).trans (accessed_traceRec ..)

theorem accessed_readEntry (s : State) (t : Thread) (d : Nat) : Accessed s (readEntry s t d).2 := by
  unfold readEntry
  split
  · exact .refl s
  · split_ifs
    · exact .refl s
    · exact accessed_recRead ..

/-! ### Reading finds what stood there before -/

theorem foldl_field {β γ : Type} (p : State → γ) {f : State → β → State} (hf : ∀ s b, p (f s b) = p s) (l : List β)
    (s : State) : p (l.foldl f s) = p s := by
  induction l generalizing s with
  | nil => rfl
  | cons a r ih => rw [List.foldl_cons, ih, hf]

/-- Correcting single-bit errors leaves the uncorrectable ones where they are. -/
theorem fatalAt_meet (s : State) (hit : List Damage) (ps : List Nat) : (s.meet hit).1.fatalAt ps = s.fatalAt ps := by
  have kept := foldl_field State.damage (f := fun (s : State) (d : Damage) =>
    (s.countEcc (s.spotHome d.spot).1 d.fatal).eccRecord (s.spotHome d.spot).1 (s.spotHome d.spot).2
      (if d.fatal then 1 else 0) 0) (fun _ _ => rfl) hit s
  unfold State.meet State.fatalAt
  dsimp only
  rw [kept, List.any_filter]
  congr 1
  funext d
  cases d.fatal <;> simp

/-- Two states in which a read of bytes finds the same. -/
def SameBytes (s u : State) : Prop := u.mem = s.mem ∧ ∀ ps, u.fatalAt ps = s.fatalAt ps

namespace SameBytes

theorem refl (s : State) : SameBytes s s := ⟨rfl, fun _ => rfl⟩

theorem trans {s t u : State} (h : SameBytes s t) (h' : SameBytes t u) : SameBytes s u :=
  ⟨h'.1.trans h.1, fun ps => (h'.2 ps).trans (h.2 ps)⟩

/-- Memory and damage are left as they are. -/
theorem of_damage {s u : State} (hm : u.mem = s.mem) (hd : u.damage = s.damage) : SameBytes s u :=
  ⟨hm, fun ps => by simp only [State.fatalAt, hd]⟩

section
variable {s u : State} (h : SameBytes s u)
include h

theorem physRead (a n : Nat) : u.physRead a n = s.physRead a n := by simp only [State.physRead, State.peek, h.1, h.2]
theorem recWord (a : Nat) : u.recWord a = s.recWord a := funext fun _ => h.physRead _ _
theorem gateDesc (a : Nat) : u.gateDesc a = s.gateDesc a := by simp only [State.gateDesc, h.physRead]
theorem entryAt (t : Thread) (d : Nat) : entryAt u t d = Machine.entryAt s t d := by simp only [Machine.entryAt, h.physRead]
theorem recBad (ps : List Nat) : u.recBad ps false = s.recBad ps false := by simp only [State.recBad, h.2]; rfl

end

end SameBytes

theorem trace_damage (s : State) (src : Source) (kind : Nat) (ps : List Nat) (b : Bool) :
    (s.trace src kind ps b).damage = s.damage := by
  unfold State.trace
  split
  · rfl
  · split
    · rfl
    · dsimp only
      split
      · rfl
      · split_ifs <;> rfl

theorem sameBytes_recRead (s : State) (t : Thread) (a n : Nat) : SameBytes s (s.recRead t a n).2 := by
  refine SameBytes.trans (t := (s.eccRead (physRange a n)).1) ⟨meet_mem .., fatalAt_meet s _⟩ (.of_damage (by simp) ?_)
  unfold State.recRead State.traceRec State.tookTurns
  rw [foldl_field State.damage fun s b => trace_damage ..,
    foldl_field State.damage (f := fun s h => s.tookTurn t.core.toNat h) fun _ _ => rfl]
  rfl

theorem sameBytes_readEntry (s : State) (t : Thread) (d : Nat) : SameBytes s (readEntry s t d).2 := by
  unfold readEntry
  split
  · exact .refl s
  · split_ifs
    · exact .refl s
    · exact sameBytes_recRead ..

end Sys2Proof.Machine
end

section
/-! PROOF. The steps of the system registers, of page replies and of walks (R14, R255, R339, R340, R366 to R369, R388). -/

namespace Sys2Proof.Machine
open Sys2Proof.Safety

/-! ### Registers -/

theorem putBit_false_getLsbD (w : Word) {i : Nat} (hi : i < 64) : (putBit w i false).getLsbD i = false := by
  simp [putBit, hi]

/-- R14: clearing VLIVE gives up the vector registers and the streams. -/
theorem clearVlive_cur (s : State) :
    s.clearVlive.cur.vlive = false ∧ (∀ r, s.clearVlive.cur.lanes r = Vector.replicate 32 0) ∧
      ∀ r, (s.clearVlive.cur.stream r).bound = false := by
  refine ⟨putBit_false_getLsbD _ (by decide), fun r => ?_, fun r => ?_⟩
  · exact Vector.getElem_replicate _
  · exact congrArg Stream.bound (Vector.getElem_replicate _)

theorem exec_vliveClear {s : State} (hb : s.cur.vbusy = false) : exec .vliveClear s = .next s.clearVlive := by
  show execVliveClear s = _
  simp [execVliveClear, hb]

/-! ### Translations that are dropped -/

theorem dropTlb_tlb {s : State} {p : Tlb → Bool} {q : Tlb2 → Bool} {k : Comb} (hk : k ∈ (s.dropTlb p q).combs) :
    (∀ e ∈ k.tlb, p e = false) ∧ ∀ e ∈ k.tlb2, q e = false := by
  simp only [State.dropTlb, List.mem_map] at hk
  obtain ⟨m, -, rfl⟩ := hk
  exact ⟨fun e he => by simpa using (List.mem_filter.mp he).2, fun e he => by simpa using (List.mem_filter.mp he).2⟩

/-- R366: what `tinv1` in a domain leaves. -/
theorem exec_tinv1 {s u : State} {d : Domain} {v : Word} (hd : s.hselDomain (s.core s.cur.core).hsel = some d)
    (hu : s.invalidate1 d.num v = some u) : exec (.tinv1 v) s = .next u := by
  show execTinv1 v s = _
  simp [execTinv1, hd, hu]

theorem exec_tinv2 {s u : State} {v : Word} (hu : s.invalidate2 s.fselVd.num v = some u) : exec (.tinv2 v) s = .next u := by
  show execTinv2 v s = _
  simp [execTinv2, hu]

theorem tinv1_page {s : State} {d : Domain} {v : Word} (hd : s.hselDomain (s.core s.cur.core).hsel = some d)
    (hv : v.extractLsb' 0 16 = 0) : ∃ u, exec (.tinv1 v) s = .next u ∧ u.mem = s.mem ∧
      ∀ k ∈ u.combs, ∀ e ∈ k.tlb, ¬(e.dom = d.num ∧ e.page.extractLsb' 0 32 = v.extractLsb' 16 32) := by
  refine ⟨_, exec_tinv1 hd (if_pos hv), rfl, fun k hk e he => ?_⟩
  simpa using (dropTlb_tlb hk).1 e he

theorem tinv1_all {s : State} {d : Domain} {v : Word} (hd : s.hselDomain (s.core s.cur.core).hsel = some d)
    (hv : v.extractLsb' 0 16 = 1) : ∃ u, exec (.tinv1 v) s = .next u ∧ u.mem = s.mem ∧
      ∀ k ∈ u.combs, ∀ e ∈ k.tlb, e.dom ≠ d.num := by
  have not0 : ¬v.extractLsb' 0 16 = 0#16 := by rw [hv]; decide
  refine ⟨_, exec_tinv1 hd ((if_neg not0).trans (if_pos hv)), rfl, fun k hk e he => ?_⟩
  simpa using (dropTlb_tlb hk).1 e he

theorem tinv2_page {s : State} {v : Word} (hv : v.extractLsb' 0 16 = 0) :
    ∃ u, exec (.tinv2 v) s = .next u ∧ u.mem = s.mem ∧ ∀ k ∈ u.combs,
      (∀ e ∈ k.tlb, ¬(e.vd = s.fselVd.num ∧ e.ipa = v.extractLsb' 16 36)) ∧
      ∀ e ∈ k.tlb2, ¬(e.vd = s.fselVd.num ∧ e.ipa = v.extractLsb' 16 36) := by
  refine ⟨_, exec_tinv2 (if_pos hv), rfl, fun k hk => ⟨fun e he ⟨hvd, hipa⟩ => ?_, fun e he => ?_⟩⟩
  · simpa [hvd, hipa] using (dropTlb_tlb hk).1 e he
  · simpa using (dropTlb_tlb hk).2 e he

theorem tinv2_all {s : State} {v : Word} (hv : v.extractLsb' 0 16 = 1) :
    ∃ u, exec (.tinv2 v) s = .next u ∧ u.mem = s.mem ∧ ∀ k ∈ u.combs,
      (∀ e ∈ k.tlb, e.vd ≠ s.fselVd.num) ∧ ∀ e ∈ k.tlb2, e.vd ≠ s.fselVd.num := by
  have not0 : ¬v.extractLsb' 0 16 = 0#16 := by rw [hv]; decide
  refine ⟨_, exec_tinv2 ((if_neg not0).trans (if_pos hv)), rfl, fun k hk => ⟨fun e he => ?_, fun e he => ?_⟩⟩
  · simpa using (dropTlb_tlb hk).1 e he
  · simpa using (dropTlb_tlb hk).2 e he

/-! ### Records of requests -/

/-- R367: posting records leaves the thread in hand and pqhead as they are, where every place of the queue is present. -/
theorem postRecords_keeps (v : VdNo) (fuel : Nat) (s : State)
    (hp : ∀ i < (s.vd v).queueSize, present ((s.vd v).pqbase.toNat + 32 * i) = true) :
    (postRecords v fuel s).cur = s.cur ∧ ((postRecords v fuel s).vd v).pqhead = (s.vd v).pqhead := by
  induction fuel generalizing s with
  | zero => exact ⟨rfl, rfl⟩
  | succ fuel ih =>
    unfold postRecords
    dsimp only
    split
    · exact ⟨rfl, rfl⟩
    · next p _ =>
      split_ifs with full place
      · exact ⟨rfl, rfl⟩
      · have wrote := accessed_physWrite s
          ((s.vd v).pqbase.toNat + 32 * ((s.vd v).pqtail.toNat % (s.vd v).queueSize)) ((p.words v).flatMap fun w => wordBytes w 8)
        refine (ih _ ?_).imp (·.trans wrote.cur) (·.trans ?_)
        · rwa [vd_setVd_of _ _ _ (by exact vd_num s v)]
        · rw [vd_setVd_of _ _ _ (by exact vd_num s v)]
      · exact absurd (hp _ (Nat.mod_lt _ (by simp [Vd.queueSize]))) place

/-! ### Those who wait for a page -/

/-- A change of every thread that keeps the numbers is found at each. -/
theorem thread_mapThreads (s : State) (f : Thread → Thread) (hf : ∀ t, (f t).num = t.num) (n : ThreadNo) :
    (s.mapThreads f).thread? n = (s.thread? n).map f := by
  have find : (s.others.map f).find? (fun t => t.num == n) = (s.others.find? fun t => t.num == n).map f := by
    rw [List.find?_map]
    simp only [Function.comp_def, hf]
  simp only [State.thread?, State.mapThreads, hf, find]
  split <;> rfl

theorem onPage_num {t : Thread} {v : VdNo} {p : BitVec 36 → Bool} {f : Word → Thread → Thread}
    (hf : ∀ a, (f a t).num = t.num) : (t.onPage v p f).num = t.num := by
  unfold Thread.onPage
  split
  · split_ifs
    · exact hf _
    · rfl
  · rfl

theorem onPage_hit {t : Thread} {v : VdNo} {p : BitVec 36 → Bool} {f : Word → Thread → Thread} {q : BitVec 36} {a : Word}
    (hw : t.wait = some (.page v q a)) (hq : p q = true) : t.onPage v p f = f a t := by
  simp [Thread.onPage, hw, hq]

theorem onPage_miss {t : Thread} {v : VdNo} {p : BitVec 36 → Bool} {f : Word → Thread → Thread} {q : BitVec 36} {a : Word}
    (hw : t.wait = some (.page v q a)) (hq : p q = false) : t.onPage v p f = t := by
  simp [Thread.onPage, hw, hq]

theorem mapHeld_thread? (s : State) (f : Held → Held) (n : ThreadNo) : (s.mapHeld f).thread? n = s.thread? n := rfl

/-- Freeing a request leaves a thread that waits for a page of a pending request, this one's among them. -/
theorem freePend_thread? {s : State} {v : VdNo} {req : BitVec 32} {n : ThreadNo} {t : Thread} {q : BitVec 36} {a : Word}
    (ht : s.thread? n = some t) (hw : t.wait = some (.page v q a)) (hq : ∃ p ∈ (s.vd v).pend, p.ipa = q) :
    (s.freePend v req).thread? n = some t := by
  have kept : ((s.vd v).pend.any fun p => p.ipa == q) = true := by simpa using hq
  unfold State.freePend
  rw [thread_mapThreads _ _ fun t => onPage_num fun _ => rfl]
  show (s.thread? n).map _ = _
  rw [ht, Option.map_some, onPage_miss hw (by simp [kept])]

theorem freePend_pend (s : State) (v : VdNo) (req : BitVec 32) :
    ((s.freePend v req).vd v).pend = (s.vd v).pend.filter fun p => p.req != req :=
  congrArg Vd.pend (vd_setVd_of s { s.vd v with pend := (s.vd v).pend.filter fun p => p.req != req } v (vd_num s v))

/-- What a page's reply makes of those that wait for it: its request is freed, what is held for the page changes by `h`, and of
the threads that wait for it, `f` (R368, R369). -/
def State.answerPage (s : State) (v : VdNo) (p : PageReq) (h : Held → Held) (f : Word → Thread → Thread) : State :=
  ((s.freePend v p.req).mapHeld h).mapThreads fun t => t.onPage v (· == p.ipa) f

theorem answerPage_pend (s : State) (v : VdNo) (p : PageReq) (h : Held → Held) (f : Word → Thread → Thread) :
    ∀ q ∈ ((s.answerPage v p h f).vd v).pend, q.req ≠ p.req := by
  intro q hq
  have hq : q ∈ ((s.freePend v p.req).vd v).pend := hq
  rw [freePend_pend] at hq
  simpa using (List.mem_filter.mp hq).2

theorem answerPage_thread? {s : State} {v : VdNo} {p : PageReq} {h : Held → Held} {f : Word → Thread → Thread} {n : ThreadNo}
    {t : Thread} {a : Word} (hp : p ∈ (s.vd v).pend) (hf : ∀ a t, (f a t).num = t.num) (ht : s.thread? n = some t)
    (hw : t.wait = some (.page v p.ipa a)) : (s.answerPage v p h f).thread? n = some (f a t) := by
  unfold State.answerPage
  rw [thread_mapThreads _ _ fun t => onPage_num fun a => hf a t, mapHeld_thread?, freePend_thread? ht hw ⟨p, hp, rfl⟩,
    Option.map_some, onPage_hit (p := (· == p.ipa)) hw (beq_self_eq_true _)]

/-- A reply that refuses: those that wait for the page fail (R369). -/
def State.refusePage (s : State) (v : VdNo) (p : PageReq) : State :=
  s.answerPage v p (fun h => h.refuse v p.ipa) fun a u => { u with wait := some (.refused a) }

/-- A reply that mapped acts: those that wait for the page go on (R368). -/
def State.releasePage (s : State) (v : VdNo) (p : PageReq) : State :=
  s.answerPage v p (fun h => h.release v p.ipa) fun _ u => u.rejoins s.cyc

/-! ### Commands whose walks fail -/

/-- `u` has the memory and the VDs of `s`, and each thread waits for what it waited for and has its registers. -/
structure KeepsWaits (s u : State) : Prop where
  mem : u.mem = s.mem
  vds : u.vds = s.vds
  waits : ∀ n, (u.thread? n).map (fun t => (t.wait, t.x)) = (s.thread? n).map fun t => (t.wait, t.x)

namespace KeepsWaits

theorem refl (s : State) : KeepsWaits s s := ⟨rfl, rfl, fun _ => rfl⟩

theorem trans {s t u : State} (h : KeepsWaits s t) (h' : KeepsWaits t u) : KeepsWaits s u :=
  ⟨h'.mem.trans h.mem, h'.vds.trans h.vds, fun n => (h'.waits n).trans (h.waits n)⟩

theorem foldl {β : Type} {f : State → β → State} (hf : ∀ s b, KeepsWaits s (f s b)) (l : List β) (s : State) :
    KeepsWaits s (l.foldl f s) := by
  induction l generalizing s with
  | nil => exact refl s
  | cons a r ih => exact (hf s a).trans (ih (f s a))

/-- Memory, VDs and threads are left as they are. -/
theorem of_threads {s u : State} (hm : u.mem = s.mem) (hv : u.vds = s.vds) (hc : u.cur = s.cur) (ho : u.others = s.others) :
    KeepsWaits s u := ⟨hm, hv, fun n => by simp only [State.thread?, hc, ho]⟩

/-- One thread changes, but not in what it waits for, nor in its registers. -/
theorem modThread (s : State) (n : ThreadNo) {f : Thread → Thread}
    (hf : ∀ t : Thread, (f t).num = t.num ∧ (f t).wait = t.wait ∧ (f t).x = t.x) : KeepsWaits s (s.modThread n f) := by
  have num : ∀ t : Thread, (f t).num = t.num := fun t => (hf t).1
  refine ⟨?_, ?_, fun m => ?_⟩
  · unfold State.modThread; split <;> rfl
  · unfold State.modThread; split <;> rfl
  · rcases eq_or_ne m n with rfl | h
    · rw [thread_modThread _ _ _ num, Option.map_map]
      exact congrArg (Option.map · _) (funext fun t => Prod.ext (hf t).2.1 (hf t).2.2)
    · rw [thread_modThread_ne _ _ _ _ num h]

theorem thread? {s u : State} (h : KeepsWaits s u) {n : ThreadNo} {t : Thread} (ht : s.thread? n = some t) :
    ∃ y, u.thread? n = some y ∧ y.wait = t.wait ∧ y.x = t.x := by
  have key := h.waits n
  rw [ht, Option.map_some, Option.map_eq_some_iff] at key
  obtain ⟨y, hy, e⟩ := key
  exact ⟨y, hy, congrArg Prod.fst e, congrArg Prod.snd e⟩

end KeepsWaits

theorem keepsWaits_postReport (s : State) (n : ThreadNo) (kind : BitVec 4) (dm : DomNo) (w0 w1 : Word) :
    KeepsWaits s (s.postReport n kind dm w0 w1) := by
  unfold State.postReport
  split
  · exact .refl s
  · dsimp only
    split
    · split
      · refine .trans (.of_threads ?_ ?_ ?_ ?_) (.modThread _ n fun t => ⟨rfl, rfl, rfl⟩) <;> rfl
      · exact .of_threads rfl rfl rfl rfl
    · refine .modThread s n fun t => ?_
      split_ifs <;> exact ⟨rfl, rfl, rfl⟩

theorem keepsWaits_setVcmd (s : State) (n : ThreadNo) (c : VCmd) : KeepsWaits s (s.setVcmd n c) :=
  .modThread s n fun _ => ⟨rfl, rfl, rfl⟩

theorem keepsWaits_vectorStop (s : State) (n : ThreadNo) (c : VCmd) (cause lanes : Nat) (a : Word) :
    KeepsWaits s (s.vectorStop n c cause lanes a) :=
  (keepsWaits_postReport ..).trans (keepsWaits_setVcmd ..)

/-- The lanes of a gather that read 0 are of the v registers. -/
theorem keepsWaits_failLanes (s : State) (n : ThreadNo) (c : VCmd) (bad : List (Nat × Nat × Word)) :
    KeepsWaits s (s.failLanes n c bad) := by
  have zeroed : ∀ (f : Thread → Nat → Thread), (∀ u j, (f u j).num = u.num ∧ (f u j).wait = u.wait ∧ (f u j).x = u.x) →
      ∀ (l : List Nat) (u : Thread), (l.foldl f u).num = u.num ∧ (l.foldl f u).wait = u.wait ∧ (l.foldl f u).x = u.x := by
    intro f hf l
    induction l with
    | nil => exact fun u => ⟨rfl, rfl, rfl⟩
    | cons a r ih =>
      intro u
      obtain ⟨h1, h2, h3⟩ := hf u a
      rw [List.foldl_cons, (ih _).1, (ih _).2.1, (ih _).2.2]
      exact ⟨h1, h2, h3⟩
  unfold State.failLanes
  split_ifs
  · exact .refl s
  · refine .trans (.modThread s n fun u => zeroed _ (fun u j => ?_) _ u) (keepsWaits_postReport ..)
    split <;> exact ⟨rfl, rfl, rfl⟩

theorem keepsWaits_vectorFail (s : State) (n : ThreadNo) (p : WalkPage) (cause : Nat) : KeepsWaits s (s.vectorFail n p cause) := by
  unfold State.vectorFail
  split
  · exact .refl s
  · split
    · exact .refl s
    · dsimp only
      split
      · exact .refl s
      · split
        · exact (keepsWaits_failLanes ..).trans (keepsWaits_setVcmd ..)
        · split
          · exact keepsWaits_vectorStop ..
          · split
            · exact .refl s
            · exact keepsWaits_vectorStop ..

theorem keepsWaits_failWalk (s : State) (w : Walk) (cause : Nat) : KeepsWaits s (s.failWalk w cause) :=
  .trans (t := { s with walks := s.walks.erase w }) (.of_threads rfl rfl rfl rfl)
    (.foldl (fun s n => keepsWaits_vectorFail s n w.key cause) _ _)

/-! ### Page replies -/

theorem exec_pgrep {s u : State} {w : Word} (h : s.pageReply w = some u) : exec (.pgrep w) s = .next u := by
  show execPgrep w s = _
  simp [execPgrep, h]

/-- The request that a reply answers is the one it names. -/
theorem req_of_find? {l : List PageReq} {req : BitVec 32} {p : PageReq}
    (hp : l.find? (fun p => p.req == req && !p.mapped) = some p) : p.req = req := by
  have found := List.find?_some hp
  simp only [Bool.and_eq_true, beq_iff_eq] at found
  exact found.1

section
variable {s : State} {w : Word} {p : PageReq} (h2 : w.extractLsb' 2 6 = 0) (h14 : w.extractLsb' 14 18 = 0)
  (hp : (s.vd (w.extractLsb' 8 6)).pend.find? (fun p => p.req == w.extractLsb' 32 32 && !p.mapped) = some p)
include h2 h14 hp

/-- R368: a reply that maps marks the request, behind those that were answered before. -/
theorem pageReply_maps (ha : w.extractLsb' 0 2 = 1) :
    s.pageReply w = some (s.setVd { s.vd (w.extractLsb' 8 6) with
      pend := (s.vd (w.extractLsb' 8 6)).pend.filter (fun q => q.req != w.extractLsb' 32 32) ++ [{ p with mapped := true }] }) := by
  have form : ¬(w.extractLsb' 14 18 ≠ 0#18 ∨ w.extractLsb' 2 6 ≠ 0#6 ∨ w.extractLsb' 0 2 = 0#2 ∨ w.extractLsb' 0 2 = 3#2) := by
    simp [h2, h14, ha]
  simp only [State.pageReply, if_neg form, hp]
  exact if_pos ha

/-- R369: after a reply that refuses, the walks that the request stopped fail. -/
theorem pageReply_refuses (ha : w.extractLsb' 0 2 = 2) :
    let s1 := s.refusePage (w.extractLsb' 8 6) p
    s.pageReply w =
      some ((s1.walks.filter fun x => x.heldFor (w.extractLsb' 8 6) p.ipa).foldl (fun (s : State) x => s.failWalk x 3) s1) := by
  have form : ¬(w.extractLsb' 14 18 ≠ 0#18 ∨ w.extractLsb' 2 6 ≠ 0#6 ∨ w.extractLsb' 0 2 = 0#2 ∨ w.extractLsb' 0 2 = 3#2) := by
    simp [h2, h14, ha]
  have req := req_of_find? hp
  have not1 : ¬w.extractLsb' 0 2 = 1#2 := by rw [ha]; decide
  simp only [State.pageReply, if_neg form, hp, if_neg not1, State.refusePage, State.answerPage, req]

end

/-! ### Walks -/

/-- The page of an address of the window `priv` has a number of 36 bits. -/
theorem page_lt_of_priv {a : Nat} (h : windowOf a = .priv) : a / 65536 < 2 ^ 36 := by
  unfold windowOf at h
  split_ifs at h
  omega

/-- R365: a page that is cached is in the comb's translation cache. -/
theorem cacheTr_cached (s : State) (c : CombNo) (d : DomNo) {va : Nat} (page : Nat) (r : Rights) (ipa : Nat)
    (ts : List (Nat × Nat × Rights × Nat)) (hva : va / 65536 < 2 ^ 36) :
    (((cacheTr s c d va (.ok page r ipa ts)).comb c).tlb.any fun e => e.dom == d && e.page.toNat == va / 65536) = true := by
  unfold cacheTr
  dsimp only
  split
  · next e he =>
    rw [comb_setComb_of _ _ _ (by exact comb_num s c)]
    simp only [List.any_cons, List.find?_some he, Bool.true_or]
  · rw [comb_setComb_of _ _ _ (by exact comb_num s c)]
    have : BitVec.toNat (BitVec.ofNat 36 (va / 65536)) = va / 65536 := by
      rw [BitVec.toNat_ofNat, Nat.mod_eq_of_lt hva]
    simp [this]

/-- R339: without a walk of the pool for the page, what a thread's own walk finds is cached. -/
theorem exec_translationWalk_own {s : State} {n : ThreadNo} {t : Thread} {va : Word} {k : BitVec 2} {page : Nat} {r : Rights}
    {ipa : Nat} {ts : List (Nat × Nat × Rights × Nat)} (ht : s.thread? n = some t) (hwin : windowOf va.toNat = .priv)
    (hw : ∀ w ∈ s.walks, w.page.toNat ≠ va.toNat / 65536) (htr : translate s (combOf t.core) t.dom va.toNat = .ok page r ipa ts) :
    exec (.translationWalk n va k) s =
      .next (cacheTr (s.noteWalk (combOf t.core) t.dom va.toNat) (combOf t.core) t.dom va.toNat (.ok page r ipa ts)) := by
  have none_mine : ∀ f : Walk → Bool, (s.walks.any fun w => w.page.toNat == va.toNat / 65536 && f w) = false := fun f => by
    simpa using fun w hm e => absurd e (hw w hm)
  show execTranslationWalk n va k s = _
  simp only [execTranslationWalk, none_mine, ht, hwin, htr]

/-- What a walk reads changes lines, damage and the fleet's record. -/
theorem walkReads_eq (s : State) (w : Walk) : s.walkReads w = { s with
    damage := (s.walkReads w).damage, fleet := (s.walkReads w).fleet, lines := (s.walkReads w).lines } := by
  unfold State.walkReads
  split
  · exact noteWalk_eq ..
  · exact noteTables_eq ..

/-- A page is cached in combs, which changes nothing but combs. -/
theorem foldl_cacheTr_eq (cs : List CombNo) (d : DomNo) (va : Nat) (tr : Tr) (s : State) :
    cs.foldl (fun (s : State) c => cacheTr s c d va tr) s =
      { s with combs := (cs.foldl (fun (s : State) c => cacheTr s c d va tr) s).combs } := by
  induction cs generalizing s with
  | nil => rfl
  | cons c cs ih => rw [List.foldl_cons, ih, cacheTr_eq]

/-- R340: a walk that maps its page, and that no command waits for, ends. -/
theorem endWalk_ok {s : State} {w : Walk} {page : Nat} {r : Rights} {ipa : Nat} {ts : List (Nat × Nat × Rights × Nat)}
    (hheld : w.held = none) (hnone : s.walkers w = []) (hwalk : s.walk w = .ok page r ipa ts) :
    (s.endWalk w).walks = s.walks.erase w ∧ (s.endWalk w).mem = s.mem ∧ (s.endWalk w).cur = s.cur := by
  simp only [State.endWalk, hheld, hwalk, hnone, List.foldlM_nil, Option.getD_some, Option.pure_def]
  rw [foldl_cacheTr_eq, walkReads_eq]
  exact ⟨rfl, rfl, rfl⟩

/-- R339: the only walk of the pool, for the page of the thread's address, ends. -/
theorem exec_translationWalk_only {s : State} {w : Walk} {va : Word} {k : BitVec 2} (hs : s.walks = [w])
    (hpage : w.page.toNat = va.toNat / 65536) (hheld : w.held = none) :
    exec (.translationWalk w.thread va k) s = .next (s.endWalk w) := by
  have may : s.mayWalk w = true := by simp [State.mayWalk, hs, hheld]
  show execTranslationWalk w.thread va k s = _
  simp [execTranslationWalk, hs, hpage, may]

/-! ### The steps -/

theorem traceClear_core (s : State) :
    (s.setCore (s.core s.cur.core).emptyTrace).core s.cur.core = (s.core s.cur.core).emptyTrace :=
  core_setCore_of _ _ _ (core_num s s.cur.core)

/-- R367: a write of pqhead takes the value and posts the records that have room now. -/
theorem writePqhead_keeps {s : State} {v : VdNo} {w : Word}
    (hp : ∀ i < (s.vd v).queueSize, present ((s.vd v).pqbase.toNat + 32 * i) = true) :
    (s.writePqhead v w).cur = s.cur ∧ ((s.writePqhead v w).vd v).pqhead = w := by
  have written := vd_setVd_of s { s.vd v with pqhead := w } v (vd_num ..)
  obtain ⟨cur, head⟩ := postRecords_keeps v 64 (s.setVd { s.vd v with pqhead := w }) (by rw [written]; exact hp)
  exact ⟨cur, head.trans (congrArg Vd.pqhead written)⟩

/-- R369: a reply that refuses a page frees its request, and the threads that wait for the page fail. -/
theorem pgrep_refuses {s : State} {w : Word} {p : PageReq} (h2 : w.extractLsb' 2 6 = 0) (h14 : w.extractLsb' 14 18 = 0)
    (hp : (s.vd (w.extractLsb' 8 6)).pend.find? (fun p => p.req == w.extractLsb' 32 32 && !p.mapped) = some p)
    (ha : w.extractLsb' 0 2 = 2) :
    ∃ u, exec (.pgrep w) s = .next u ∧ (∀ q ∈ (u.vd (w.extractLsb' 8 6)).pend, q.req ≠ p.req) ∧ u.mem = s.mem ∧
      ∀ n t a, s.thread? n = some t → t.wait = some (.page (w.extractLsb' 8 6) p.ipa a) → ∃ y, u.thread? n = some y ∧
        y.wait = some (.refused a) ∧ y.x = t.x := by
  generalize hv : w.extractLsb' 8 6 = v at hp
  have reply := pageReply_refuses h2 h14 (hv ▸ hp) ha
  rw [hv] at reply
  have kept := KeepsWaits.foldl (f := fun (s : State) x => s.failWalk x 3) (fun s x => keepsWaits_failWalk s x 3)
    ((s.refusePage v p).walks.filter fun x => x.heldFor v p.ipa) (s.refusePage v p)
  refine ⟨_, exec_pgrep reply, ?_, kept.mem, fun n t a ht hw => ?_⟩
  · simp only [State.vd, kept.vds]
    exact answerPage_pend s v p _ _
  · exact kept.thread? (answerPage_thread? (List.mem_of_find?_eq_some hp) (fun _ _ => rfl) ht hw)

/-- R340: the oldest reply that mapped acts; of the walks nothing is said here. -/
theorem exec_rewalk {s : State} {v : VdNo} {p : PageReq} (hp : (s.vd v).pend.find? PageReq.mapped = some p) :
    ∃ ws, exec (.rewalk v p.ipa) s = .next { s.releasePage v p with walks := ws } := by
  show ∃ ws, execRewalk v p.ipa s = .next { s.releasePage v p with walks := ws }
  simp only [execRewalk, hp, ne_eq, not_true_eq_false, if_false]
  exact ⟨_, rfl⟩

theorem exec_rewalk_other {s : State} {v : VdNo} {page : BitVec 36} {p : PageReq}
    (hp : (s.vd v).pend.find? PageReq.mapped = some p) (hne : p.ipa ≠ page) : exec (.rewalk v page) s = .next s := by
  show execRewalk v page s = _
  simp only [execRewalk, hp, if_pos hne]

/-- Settles O45: each step is read through what it leaves (`clearVlive_cur`, `dropTlb_tlb`, `postRecords_keeps`,
`answerPage_thread?`, `KeepsWaits`, `cacheTr_cached`, `endWalk_ok`). -/
theorem systemSteps : Obligations.SystemSteps := by
  unfold Obligations.SystemSteps
  refine ⟨fun s hb => ?_, fun s => ?_, fun s v => rfl, fun s d v hd => ⟨tinv1_page hd, tinv1_all hd⟩,
    fun s v => ⟨tinv2_page, tinv2_all⟩, ?_, fun s v hp => ?_, ?_, ?_, ?_⟩
  · obtain ⟨vlive, lanes, streams⟩ := clearVlive_cur s
    exact ⟨s.clearVlive, exec_vliveClear hb, vlive, lanes, streams, rfl, rfl⟩
  · refine ⟨_, rfl, ?_⟩
    rw [traceClear_core]
    exact ⟨rfl, rfl, rfl, rfl, rfl⟩
  · rintro s w v p h2 rfl h14 hp
    refine ⟨fun ha => ⟨_, exec_pgrep (pageReply_maps h2 h14 hp ha), rfl, rfl, ?_⟩, pgrep_refuses h2 h14 hp⟩
    rw [vd_setVd_of _ _ _ (by exact vd_num ..), req_of_find? hp]
  · have own : s.vd s.fselVd.num = s.fselVd := congrArg s.vd (vd_num ..)
    exact ⟨_, rfl, writePqhead_keeps (by rwa [own])⟩
  · intro s v page p hp
    refine ⟨exec_rewalk_other hp, ?_⟩
    rintro rfl
    obtain ⟨ws, answered⟩ := exec_rewalk hp
    exact ⟨_, answered, answerPage_pend s v p (·.release v p.ipa) fun _ u => u.rejoins s.cyc, rfl, fun n t x ht hw =>
      ⟨_, answerPage_thread? (List.mem_of_find?_eq_some hp) (fun _ _ => rfl) ht hw, rfl, rfl, rfl⟩⟩
  · intro s n t va k page r ipa ts ht hwin hw htr
    refine ⟨_, exec_translationWalk_own ht hwin hw htr, ?_, ?_, cacheTr_cached _ _ _ _ _ _ _ (page_lt_of_priv hwin)⟩
    · rw [cacheTr_eq, noteWalk_eq]
    · rw [cacheTr_eq, noteWalk_eq]
  · rintro s w n va k page r ipa ts hs rfl hpage hheld hnone hwalk
    obtain ⟨walks, mem, cur⟩ := endWalk_ok hheld hnone hwalk
    refine ⟨_, exec_translationWalk_only hs hpage hheld, ?_, mem, cur⟩
    rw [walks, hs, List.erase_cons_head]

end Sys2Proof.Machine
end

section
/-! PROOF. How threads start in slots, take slots again, and are counted at their end (R11, R193, R290 to R293, R361). -/

namespace Sys2Proof.Machine
open Sys2Proof.Safety

/-! ### Register files -/

/-- Register `r` of a file given by a function. -/
theorem regFile_getElem (f : Nat → Word) (r : XReg) : (regFile f)[r.toNat]'r.isLt = f r.toNat := by
  simp [regFile]

/-! ### What the part's tables cost a thread that starts -/

theorem modThread_answers (s : State) (n : ThreadNo) (f : Thread → Thread) : (s.modThread n f).answers = s.answers := by
  unfold State.modThread
  split <;> rfl

theorem modThread_mem (s : State) (n : ThreadNo) (f : Thread → Thread) : (s.modThread n f).mem = s.mem := by
  unfold State.modThread
  split <;> rfl

theorem modThread_cores (s : State) (n : ThreadNo) (f : Thread → Thread) : (s.modThread n f).cores = s.cores := by
  unfold State.modThread
  split <;> rfl

theorem postReport_answers (s : State) (n : ThreadNo) (kind : BitVec 4) (dm : DomNo) (w0 w1 : Word) :
    (s.postReport n kind dm w0 w1).answers = s.answers := by
  unfold State.postReport
  split
  · rfl
  · dsimp only
    split
    · split
      · exact modThread_answers ..
      · rfl
    · exact modThread_answers ..

theorem partRead_answers (s : State) (n : ThreadNo) (dm : DomNo) (a k : Nat) : (s.partRead n dm a k).answers = s.answers := by
  have read := ((accessed_eccRead s (physRange a k)).trans (accessed_touch _ (physRange a k))).answers
  unfold State.partRead
  dsimp only
  split
  · exact (postReport_answers ..).trans read
  · exact read

theorem partWrite_answers (s : State) (n : ThreadNo) (dm : DomNo) (a : Nat) (bs : List Byte) :
    (s.partWrite n dm a bs).answers = s.answers := by
  unfold State.partWrite
  split
  · exact (accessed_physWrite ..).answers
  · exact (postReport_answers ..).trans (accessed_physWrite ..).answers

theorem cacheTr_answers (s : State) (c : CombNo) (d : DomNo) (va : Nat) (t : Tr) : (cacheTr s c d va t).answers = s.answers := by
  rw [cacheTr_eq]

/-- `u` is `t` but for its hardware page and its context blocks. -/
def Thread.SavesIn (t u : Thread) : Prop := ∃ i a bs, u = { t with hwIndex := i, hwPage := a, blocks := bs }

/-- R356: a hardware page is taken. -/
theorem allocPage_ok {s u : State} {t v : Thread} {d : DomNo} (h : allocPage s t d = .ok u v) :
    u.answers = s.answers ∧ t.SavesIn v := by
  unfold allocPage at h
  dsimp only at h
  split at h
  · cases h
  · split at h
    · cases h
      refine ⟨?_, ⟨_, _, _, rfl⟩⟩
      rw [partWrite_answers, State.setBmap, partWrite_answers, partRead_answers]
    · cases h

/-- R356: a context block is taken, unless the thread has one. -/
theorem allocBlock_ok {s u : State} {c : CombNo} {t v : Thread} {d : DomNo} (h : allocBlock s c t d = .ok u v) :
    u.answers = s.answers ∧ t.SavesIn v := by
  have missed : ∀ ms, blockMiss s ms ≠ .ok u v := fun ms => by unfold blockMiss; split <;> nofun
  unfold allocBlock at h
  dsimp only at h
  split at h
  · cases h
    exact ⟨rfl, _, _, _, rfl⟩
  · split at h
    · cases h
    · split at h
      · cases h
      · split at h
        · exact absurd h (missed _)
        · exact absurd h (missed _)
        · exact absurd h (missed _)
        · split at h
          · cases h
            refine ⟨?_, ⟨_, _, _, rfl⟩⟩
            rw [partWrite_answers, State.setBmap, partWrite_answers, partRead_answers, cacheTr_answers, cacheTr_answers]
          · cases h
        · cases h

theorem takeBlock_ok {s u : State} {c : CoreNo} {t v : Thread} {d : DomNo} (h : s.takeBlock c t d = .ok u v) :
    u.answers = s.answers ∧ t.SavesIn v := by
  unfold State.takeBlock at h
  split at h
  · cases h
  · cases h
  · next s1 t1 alloc =>
    dsimp only at h
    split at h
    · cases h
      exact allocBlock_ok alloc
    · split at h <;> cases h
  · dsimp only at h
    split at h <;> cases h

/-- R11: a thread that has started stands in the slot, with a number of its own and a place to be saved, and otherwise as the
request has it. -/
theorem startThread_ok {s u : State} {c : CoreNo} {n : SlotNo} {t : Thread} (h : s.startThread c n t = .ok u) :
    u.answers = s.answers ∧ u.nextThread = s.freshNumber + 1 ∧
      ∃ v ∈ u.others, Thread.SavesIn { t with num := s.freshNumber, place := .slot c n } v := by
  unfold State.startThread at h
  dsimp only at h
  split at h
  · cases h
  · cases h
  · cases h
  · next s1 t1 page =>
    split at h
    · cases h
    · cases h
    · cases h
    · next s2 t2 block =>
      cases h
      obtain ⟨ans1, i, a, bs, rfl⟩ := allocPage_ok page
      obtain ⟨ans2, i', a', bs', rfl⟩ := takeBlock_ok block
      exact ⟨ans2.trans ans1, rfl, _, List.mem_append_right _ (List.mem_singleton_self _), _, _, _, rfl⟩

/-! ### Parts of packets -/

/-- A change of parts that keeps whose they are is found in the part of a packet. -/
theorem find?_map_ofPkt {v : VdNo} {p : BitVec 32} {f : PktPart → PktPart} (hf : ∀ q, (f q).ofPkt v p = q.ofPkt v p)
    {l : List PktPart} {q : PktPart} (h : l.find? (PktPart.ofPkt v p) = some q) :
    (l.map f).find? (PktPart.ofPkt v p) = some (f q) := by
  rw [List.find?_map, show PktPart.ofPkt v p ∘ f = PktPart.ofPkt v p from funext hf, h, Option.map_some]

section
variable {s : State} {c : CoreNo} {v : VdNo} {p : BitVec 32}

theorem settlePart_keeps (s : State) (c : CoreNo) (v : VdNo) (p : BitVec 32) :
    (s.settlePart c v p).mem = s.mem ∧ (s.settlePart c v p).quits = s.quits := by
  unfold State.settlePart
  dsimp only
  split
  · exact ⟨rfl, rfl⟩
  · split <;> exact ⟨rfl, rfl⟩

variable {q : PktPart} (h : (s.core c).parts.find? (PktPart.ofPkt v p) = some q)
include h

theorem settlePart_waits (hq : q.counted < q.quota ∨ q.children ≠ 0) : s.settlePart c v p = s := by
  have not_done : ¬(decide (q.counted ≥ q.quota) && decide (q.children = 0)) = true := by
    simp only [Bool.and_eq_true, decide_eq_true_eq]
    omega
  simp only [State.settlePart, h, if_neg not_done]

theorem settlePart_reports (hq : q.quota ≤ q.counted) (hc : q.children = 0) :
    (s.settlePart c v p).dones = s.dones ++ [{ dest := q.parent, vd := v, pkt := p, err := q.err, count := q.count, fin := q.fin }] := by
  have done : (decide (q.counted ≥ q.quota) && decide (q.children = 0)) = true := by simp [hq, hc]
  simp only [State.settlePart, h, if_pos done]

end

/-- A core's part of a packet changes, and reports when it is done (R292, R293). -/
def State.partChanged (s : State) (c : CoreNo) (v : VdNo) (p : BitVec 32) (g : PktPart → PktPart) : State :=
  (s.setCore { s.core c with parts := (s.core c).parts.map fun q => if q.ofPkt v p then g q else q }).settlePart c v p

theorem partChanged_leaves {s : State} {c : CoreNo} {v : VdNo} {p : BitVec 32} {g : PktPart → PktPart} {q : PktPart}
    (hg : ∀ q, (g q).ofPkt v p = q.ofPkt v p) (h : (s.core c).parts.find? (PktPart.ofPkt v p) = some q) :
    ((g q).counted < (g q).quota ∨ (g q).children ≠ 0 →
        ((s.partChanged c v p g).core c).parts.find? (PktPart.ofPkt v p) = some (g q) ∧ (s.partChanged c v p g).dones = s.dones) ∧
      ((g q).quota ≤ (g q).counted → (g q).children = 0 → (s.partChanged c v p g).dones = s.dones ++ [{
        dest := (g q).parent, vd := v, pkt := p, err := (g q).err, count := (g q).count, fin := (g q).fin }]) := by
  have found := find?_map_ofPkt (f := fun q => if q.ofPkt v p then g q else q) (fun q => by split; exacts [hg q, rfl]) h
  rw [if_pos (List.find?_some h)] at found
  have parts : ((s.setCore { s.core c with parts := (s.core c).parts.map fun q => if q.ofPkt v p then g q else q }).core c).parts =
      (s.core c).parts.map fun q => if q.ofPkt v p then g q else q := by
    rw [core_setCore_of _ _ _ (by exact core_num s c)]
  rw [← parts] at found
  refine ⟨fun hw => ?_, settlePart_reports found⟩
  rw [State.partChanged, settlePart_waits found hw]
  exact ⟨found, rfl⟩

theorem partChanged_mem (s : State) (c : CoreNo) (v : VdNo) (p : BitVec 32) (g : PktPart → PktPart) :
    (s.partChanged c v p g).mem = s.mem := (settlePart_keeps ..).1

theorem partChanged_quits (s : State) (c : CoreNo) (v : VdNo) (p : BitVec 32) (g : PktPart → PktPart) :
    (s.partChanged c v p g).quits = s.quits := (settlePart_keeps ..).2

/-- R292: what a quit notice makes of a part. -/
def PktPart.withQuit (q : PktPart) (err : BitVec 16) (fin : Word) : PktPart :=
  { q with counted := q.counted + 1, count := q.count + 1, err := q.err ||| err, fin := wordMax q.fin fin }

theorem exec_quitNotice {s : State} {c : CoreNo} {q : QuitNote} (hq : (s.quits.find? fun q => q.dest == c) = some q) :
    exec (.quitNotice c) s =
      .next (({ s with quits := s.quits.erase q } : State).partChanged c q.vd q.pkt fun p => p.withQuit q.err q.fin) := by
  show execQuitNotice c s = _
  simp only [execQuitNotice, hq]
  rfl

/-- R293: what a done message makes of a part. -/
def PktPart.withDone (q : PktPart) (d : Done) : PktPart :=
  { q with children := q.children - 1, err := q.err ||| d.err, count := q.count + d.count, fin := wordMax q.fin d.fin }

theorem exec_doneMessage {s : State} {c : CoreNo} {d : Done}
    (hd : (s.dones.find? fun d => d.dest == some c && (s.core c).parts.any (PktPart.ofPkt d.vd d.pkt)) = some d) :
    exec (.doneMessage c) s =
      .next (({ s with dones := s.dones.erase d } : State).partChanged c d.vd d.pkt fun p => p.withDone d) := by
  show execDoneMessage c s = _
  simp only [execDoneMessage, hd]
  rfl

/-! ### Taking a slot again -/

/-- A lookup does not see a change of other records. -/
theorem getBy_map {α κ : Type} [DecidableEq κ] {key : α → κ} {k : κ} {d : α} {f : α → α} (hn : ∀ a, key (f a) = key a)
    (hk : ∀ a, key a = k → f a = a) (l : List α) : getBy key k d (l.map f) = getBy key k d l := by
  induction l with
  | nil => rfl
  | cons a r ih =>
    simp only [List.map_cons, getBy, hn, ih]
    split
    · exact hk a ‹_›
    · rfl

theorem core_map_others {s : State} {c : CoreNo} {f : Core → Core} (hn : ∀ k, (f k).num = k.num)
    (hk : ∀ k : Core, k.num = c → f k = k) : ({ s with cores := s.cores.map f } : State).core c = s.core c :=
  getBy_map hn hk s.cores

/-- R189: messages that move change mailboxes alone. -/
theorem moveMail_core (s : State) (n : ThreadNo) (c : CoreNo) :
    ∃ ms, (s.moveMail n c).core c = { s.core c with mailbox := ms } := by
  unfold State.moveMail
  dsimp only
  rw [core_setCore_of _ _ _ (by exact core_num ..), core_map_others]
  · exact ⟨_, rfl⟩
  · exact fun k => by split <;> rfl
  · exact fun k hk => if_pos hk

theorem moveMail_cache (s : State) (n : ThreadNo) (c : CoreNo) : ((s.moveMail n c).core c).cache = (s.core c).cache := by
  obtain ⟨ms, e⟩ := moveMail_core s n c
  rw [e]

theorem moveMail_spills (s : State) (n : ThreadNo) (c : CoreNo) : ((s.moveMail n c).core c).spills = (s.core c).spills := by
  obtain ⟨ms, e⟩ := moveMail_core s n c
  rw [e]

/-- The state in which a thread that leaves a core's lists is to take a slot. -/
def State.unlisted (s : State) (c : CoreNo) (m : ThreadNo) : State :=
  s.setCore { s.core c with
    arrivals := (s.core c).arrivals.filter (fun k => k != m), cache := (s.core c).cache.filter (fun k => k != m)
    spills := (s.core c).spills.filter (fun k => k != m) }

theorem takeFrom_eq {s : State} {c : CoreNo} {n : SlotNo} {t : Thread} (hb : s.resumeBehind t = false) :
    s.takeFrom c n t = (s.unlisted c t.num).occupy c n t := by
  simp only [State.takeFrom, hb, State.unlisted]
  rfl

theorem unlisted_core (s : State) (c : CoreNo) (m : ThreadNo) :
    (s.unlisted c m).core c = { s.core c with
      arrivals := (s.core c).arrivals.filter (fun k => k != m), cache := (s.core c).cache.filter (fun k => k != m)
      spills := (s.core c).spills.filter (fun k => k != m) } :=
  core_setCore_of _ _ _ (by exact core_num ..)

theorem sameBytes_unlisted (s : State) (c : CoreNo) (m : ThreadNo) : SameBytes s (s.unlisted c m) := .of_damage rfl rfl

/-- Whether an entry can be read back is a matter of the bytes. -/
theorem SameBytes.readEntry_fst {s u : State} (h : SameBytes s u) (t : Thread) (d : Nat) :
    (readEntry u t d).1 = (readEntry s t d).1 := by
  unfold readEntry
  split
  · rfl
  · split
    · rfl
    · exact h.recBad _

/-- So is, with the domains, how far a thread must be unwound. -/
theorem SameBytes.unwindTarget {s u : State} (h : SameBytes s u) (hd : u.domains = s.domains) (t : Thread) :
    u.unwindTarget t = s.unwindTarget t := by
  simp only [State.unwindTarget, State.mustLeave, h.entryAt, h.gateDesc, State.gone, State.domain, hd]

/-- R324: of a cached context nothing is read back. -/
theorem readBackDue_cached {s : State} {t : Thread} {b : Block} {k : CoreNo} (hb : t.block? t.dom = some b)
    (hp : t.place = .cached k) : ∃ vs, s.readBackDue t = (false, { s with vds := vs }, id) := by
  unfold State.readBackDue
  split
  · exact ⟨_, rfl⟩
  · simp only [State.readBack, hb, hp]
    exact ⟨s.vds, rfl⟩

/-- R361: of a spilled context the running frame is read back. -/
theorem readBackDue_spilled {s : State} {t : Thread} {b : Block} {k : CoreNo} (hb : t.block? t.dom = some b)
    (hp : t.place = .spilled k) (hu : s.unwindTarget t = none) (hbad : s.recBad (physRange b.running t.frameBytes) false = false) :
    ∃ vs, s.readBackDue t = (false, { (s.recRead t b.running t.frameBytes).2 with vds := vs },
      fun u => u.resumed ((s.recRead t b.running t.frameBytes).2.recWord b.running)) := by
  have sound : (s.recRead t b.running t.frameBytes).1 = false := hbad
  unfold State.readBackDue
  rw [hu]
  simp only [State.readBack, hb, hp, ← sound]
  exact ⟨_, rfl⟩

section
variable {s u : State} {c k : CoreNo} {n : SlotNo} {t : Thread} {vs : List Vd} {f : Thread → Thread}

/-- R288, R361: what a thread that takes a slot again finds, once its entry and its record have been read soundly. -/
theorem occupy_seats (hp : t.place = .cached k ∨ t.place = .spilled k) (ht : s.thread? t.num = some t)
    (he : (readEntry s t t.depth.toNat).1 = false)
    (hr : (readEntry s t t.depth.toNat).2.readBackDue t = (false, { u with vds := vs }, f)) (hf : ∀ v, (f v).num = v.num)
    (ha : Accessed s u) (hb : SameBytes s u) :
    (s.occupy c n t).mem = s.mem ∧ ((s.occupy c n t).core c).cache = (s.core c).cache ∧
      ((s.occupy c n t).core c).spills = (s.core c).spills ∧
      (s.occupy c n t).thread? t.num =
        some (({ f t with top := entryAt s t t.depth.toNat } : Thread).seated c n s.cyc) := by
  have read : SameBytes s { u with vds := vs } := hb.trans (.of_damage rfl rfl)
  have seated : s.occupy c n t = (({ u with vds := vs } : State).modThread t.num fun v =>
      ({ f v with top := entryAt s t t.depth.toNat } : Thread).seated c n s.cyc).moveMail t.num c := by
    unfold State.occupy
    rcases hp with hp | hp
    · simp only [hp, he, hr, read.entryAt, Bool.or_self, Bool.false_eq_true, if_false]
    · simp only [hp, he, hr, read.entryAt, Bool.or_self, Bool.false_eq_true, if_false]
  rw [seated]
  refine ⟨(modThread_mem ..).trans hb.1, ?_, ?_, ?_⟩
  · rw [moveMail_cache, State.core, modThread_cores]
    exact ha.cache c
  · rw [moveMail_spills, State.core, modThread_cores]
    exact ha.spills c
  · show State.thread? (State.modThread _ _ _) _ = _
    rw [thread_modThread _ _ _ (by exact hf)]
    show (u.thread? t.num).map _ = _
    rw [ha.thread?, ht, Option.map_some]

end

/-- R290, R361: both steps seat the context that the slot takes next. -/
theorem exec_takes_context {s : State} {c : CoreNo} {n : SlotNo} {t : Thread} (hn : s.nextFor c n = some (.context t))
    (hb : s.resumeBehind t = false) {i : Instr} (hi : i ∈ ([.slotFill c n, .contextResume c n] : List Instr)) :
    exec i s = .next ((s.unlisted c t.num).occupy c n t) := by
  rw [← takeFrom_eq hb]
  rcases List.mem_pair.mp hi with rfl | rfl
  · show execSlotFill c n s = _
    simp only [execSlotFill, hn]
  · show execContextResume c n s = _
    simp only [execContextResume, hn]

section
variable {s : State} {c k : CoreNo} {n : SlotNo} {t : Thread} {b : Block} (ht : s.thread? t.num = some t)
  (hb : t.block? t.dom = some b) (he : (readEntry s t t.depth.toNat).1 = false)
include ht hb he

/-- R361: a cached context takes a slot with what it held. -/
theorem occupy_cached (hp : t.place = .cached k) :
    ((s.unlisted c t.num).occupy c n t).mem = s.mem ∧ t.num ∉ (((s.unlisted c t.num).occupy c n t).core c).cache ∧
      ((s.unlisted c t.num).occupy c n t).thread? t.num = some { t with
        place := .slot c n, st := t.st ||| t.lateFlags, lateFlags := 0, rejoin := some s.cyc
        top := entryAt s t t.depth.toNat } := by
  obtain ⟨vs, read⟩ := readBackDue_cached (s := (readEntry (s.unlisted c t.num) t t.depth.toNat).2) hb hp
  have same := sameBytes_unlisted s c t.num
  obtain ⟨mem, cache, -, found⟩ := occupy_seats (s := s.unlisted c t.num) (c := c) (n := n) (.inl hp) ht
    ((same.readEntry_fst ..).trans he) read (fun _ => rfl) (accessed_readEntry ..) (sameBytes_readEntry ..)
  refine ⟨mem, ?_, ?_⟩
  · rw [cache, unlisted_core]
    simp
  · rw [found, same.entryAt]
    rfl

/-- R361: a spilled context takes a slot with what its block holds. -/
theorem occupy_spilled (hp : t.place = .spilled k) (hu : s.unwindTarget t = none)
    (hbad : s.recBad (physRange b.running t.frameBytes) false = false) :
    ((s.unlisted c t.num).occupy c n t).mem = s.mem ∧ t.num ∉ (((s.unlisted c t.num).occupy c n t).core c).spills ∧
      ((s.unlisted c t.num).occupy c n t).thread? t.num = some (({ t.resumed (s.recWord b.running) with
        top := entryAt s t t.depth.toNat } : Thread).seated c n s.cyc) := by
  have same := sameBytes_unlisted s c t.num
  have entry := same.trans (sameBytes_readEntry (s.unlisted c t.num) t t.depth.toNat)
  have frame := sameBytes_recRead (readEntry (s.unlisted c t.num) t t.depth.toNat).2 t b.running t.frameBytes
  have domains := (accessed_readEntry (s.unlisted c t.num) t t.depth.toNat).domains
  obtain ⟨vs, read⟩ := readBackDue_spilled (s := (readEntry (s.unlisted c t.num) t t.depth.toNat).2) hb hp
    ((entry.unwindTarget domains t).trans hu) ((entry.recBad _).trans hbad)
  obtain ⟨mem, -, spills, found⟩ := occupy_seats (s := s.unlisted c t.num) (c := c) (n := n) (.inr hp) ht
    ((same.readEntry_fst ..).trans he) read
    (fun v => by unfold Thread.resumed; dsimp only; split <;> rfl) ((accessed_readEntry ..).trans (accessed_recRead ..))
    ((sameBytes_readEntry ..).trans frame)
  refine ⟨mem, ?_, ?_⟩
  · rw [spills, unlisted_core]
    simp
  · rw [found, (entry.trans frame).recWord, same.entryAt]
    rfl

end

/-! ### Requests -/

/-- R291: a launch request for which no slot is free enters the table, and the core has its part of the packet. -/
theorem exec_launchRequest_enters {s : State} {c : CoreNo} {r : LaunchReq} (hr : (s.launches.find? fun p => p.1 == c) = some (c, r))
    (hlen : (s.core c).launchTable.length < 4) (hopen : s.openSlots c r.vd = []) :
    ∃ q : PktPart, exec (.launchRequest c) s = .next (({ s with launches := s.launches.erase (c, r) } : State).setCore { s.core c with
        launchTable := (s.core c).launchTable ++ [{ r with came := s.cyc }], parts := (s.core c).parts ++ [q] }) ∧
      q.vd = r.vd ∧ q.pkt = r.pkt ∧ q.quota = r.left ∧ q.counted = 0 := by
  show ∃ q : PktPart, execLaunchRequest c s = _ ∧ _
  simp only [execLaunchRequest, hr, if_neg (Nat.not_le.mpr hlen), hopen, List.take_nil, List.foldl_nil]
  exact ⟨_, rfl, rfl, rfl, rfl, rfl⟩

/-- R291: a thread of a launch request that has started is one less to start. -/
theorem exec_slotFill_launches {s s1 : State} {c : CoreNo} {n : SlotNo} {r : LaunchReq} (hn : s.nextFor c n = some (.launch r))
    (hs : s.startThread c n (r.thread s c) = .ok s1) : ∃ k, exec (.slotFill c n) s = .next (s1.setCore k) := by
  show ∃ k, execSlotFill c n s = _
  simp only [execSlotFill, hn, State.startLaunch, hs]
  exact ⟨_, rfl⟩

section
variable {s : State} {c : CoreNo} {r : SpawnReq} (hr : s.restarting ≠ some c)
  (hf : (s.spawns.find? fun p => p.1 == c && !p.2.refused && (p.2.nacks == 0 || p.2.due == 0)) = some (c, r))
include hr hf

/-- R193: a request that the column admits and for which a slot is free starts its thread. -/
theorem exec_spawnRequest_starts {n : SlotNo} {s2 : State} (hadm : s.refuses c r.from_ 0 = false)
    (hopen : ({ s with spawns := s.spawns.erase (c, r) } : State).openSlot c r.vd = some n)
    (hs : ({ s with spawns := s.spawns.erase (c, r) } : State).startThread c n
      (r.thread { s with spawns := s.spawns.erase (c, r) }) = .ok s2) :
    exec (.spawnRequest c) s = .next (s2.answerSpawn r true) := by
  show execSpawnRequest c s = _
  simp only [execSpawnRequest, beq_eq_false_iff_ne.mpr hr, hf, hadm, hopen, hs, Bool.false_eq_true, if_false]

/-- R193: without a free slot it is stored. -/
theorem exec_spawnRequest_stores (hadm : s.refuses c r.from_ 0 = false)
    (hopen : ({ s with spawns := s.spawns.erase (c, r) } : State).openSlot c r.vd = none)
    (hlen : (s.core c).spawnStore.length < 32) :
    exec (.spawnRequest c) s = .next ((({ s with spawns := s.spawns.erase (c, r) } : State).setCore { s.core c with
      spawnStore := (s.core c).spawnStore ++ [{ r with came := s.cyc }] }).answerSpawn r true) := by
  show execSpawnRequest c s = _
  simp only [execSpawnRequest, beq_eq_false_iff_ne.mpr hr, hf, hadm, hopen, Bool.false_eq_true, if_false]
  exact if_pos hlen

/-- R193, R354: one that is not admitted, or finds the store full, is refused: it comes again, or its spawner has the answer. -/
theorem exec_spawnRequest_refused (hturned : s.refuses c r.from_ 0 = true ∨
      ({ s with spawns := s.spawns.erase (c, r) } : State).openSlot c r.vd = none ∧ 32 ≤ (s.core c).spawnStore.length) :
    exec (.spawnRequest c) s = .next (if r.retry then
        { s with spawns := s.spawns.map fun p => if p = (c, r) then (c, { r with refused := true }) else p }
      else ({ s with spawns := s.spawns.erase (c, r) } : State).answerSpawn r false) := by
  show execSpawnRequest c s = _
  have refuse : ∀ a b : State, (if r.retry then .next a else .next b : Out1) = .next (if r.retry then a else b) := fun a b =>
    (apply_ite _ _ _ _).symm
  simp only [execSpawnRequest, beq_eq_false_iff_ne.mpr hr, hf, Bool.false_eq_true, if_false, refuse]
  rcases hturned with hadm | ⟨hopen, hlen⟩
  · rw [if_pos hadm]
  · have full : ¬(s.core c).spawnStore.length < 32 := Nat.not_lt.mpr hlen
    simp only [hopen]
    split
    · rfl
    · exact if_neg full

end

/-! ### The steps -/

/-- Settles O41: a thread that starts is what `startThread_ok` says, one that takes a slot again what `occupy_cached` and
`occupy_spilled` say, and `settlePart_mapped` says what comes of a core's part of a packet. -/
theorem startEvents : Obligations.StartEvents := by
  unfold Obligations.StartEvents
  refine ⟨?_, ?_, ?_, ?_, ?_, ?_, ?_⟩
  · intro s c r hf hr s1 admitted turned
    refine ⟨fun n s2 hadm hopen hs => ?_, fun hadm hopen hlen => ?_, fun hturned hretry => ?_, fun hturned hretry => ?_⟩
    · obtain ⟨answers, -, -, started, i, a, bs, rfl⟩ := startThread_ok hs
      exact ⟨_, _, exec_spawnRequest_starts hr hf hadm hopen hs, congrArg (· ++ [(r.spawner, true)]) answers, started, rfl, rfl,
        rfl, rfl, rfl, fun q => regFile_getElem _ q, rfl, rfl⟩
    · refine ⟨_, exec_spawnRequest_stores hr hf hadm hopen hlen, ?_, rfl, rfl⟩
      show (State.core (State.setCore _ _) c).spawnStore = _
      rw [core_setCore_of _ _ _ (by exact core_num s c)]
    · rw [exec_spawnRequest_refused hr hf hturned, hretry]
      rfl
    · refine ⟨_, exec_spawnRequest_refused hr hf hturned, ?_⟩
      rw [if_pos hretry]
      exact ⟨List.mem_map.mpr ⟨(c, r), List.mem_of_find?_eq_some hf, if_pos rfl⟩, rfl⟩
  · intro s n t b ht hw ha
    refine ⟨_, show execSpawnAnswer n s = _ by simp only [execSpawnAnswer, ha]; rfl, ?_, modThread_answers ..⟩
    rw [thread_modThread _ _ _ fun t => by split <;> rfl]
    show (s.thread? n).map _ = _
    rw [ht, Option.map_some, if_pos hw]
    rfl
  · intro s c r hr hlen hopen
    obtain ⟨q, entered, part⟩ := exec_launchRequest_enters hr hlen hopen
    refine ⟨_, q, entered, rfl, ?_⟩
    rw [core_setCore_of _ _ _ (by exact core_num s c)]
    obtain ⟨hvd, hpkt, hquota, hcounted⟩ := part
    exact ⟨rfl, rfl, hvd, hpkt, hquota, hcounted, rfl⟩
  · intro s s1 c n r hn hs
    obtain ⟨k, launched⟩ := exec_slotFill_launches hn hs
    obtain ⟨-, next, -, started, i, a, bs, rfl⟩ := startThread_ok hs
    exact ⟨_, _, launched, started, rfl, next, rfl, rfl, rfl, rfl, rfl, rfl, fun q => regFile_getElem _ q, rfl, rfl, rfl, rfl⟩
  · intro s c k n t b hn ht hb he hbehind i hi
    have taken := exec_takes_context hn hbehind hi
    refine ⟨fun hp => ⟨_, taken, occupy_cached ht hb he hp⟩, fun hp hu hbad => ?_⟩
    obtain ⟨mem, spills, found⟩ := occupy_spilled (c := c) (n := n) ht hb he hp hu hbad
    exact ⟨_, _, taken, mem, spills, found, rfl, rfl, rfl, fun r => regFile_getElem _ r, rfl, rfl⟩
  · intro s c q p hq hp
    obtain ⟨waits, reports⟩ := partChanged_leaves (s := { s with quits := s.quits.erase q }) (g := fun p => p.withQuit q.err q.fin)
      (fun _ => rfl) hp
    exact ⟨_, exec_quitNotice hq, partChanged_quits .., partChanged_mem .., waits, reports⟩
  · intro s c d p hd hp
    obtain ⟨waits, reports⟩ := partChanged_leaves (s := { s with dones := s.dones.erase d }) (g := fun p => p.withDone d)
      (fun _ => rfl) hp
    exact ⟨_, exec_doneMessage hd, partChanged_mem .., waits, reports⟩

end Sys2Proof.Machine
end

section
/-! PROOF. Decoding (R33 to R67): what the encoder writes is what the decoder reads, some words written out, and the pair that writes
one register twice. -/

namespace Sys2Proof.Laws.RoundTrip

/-- A well-formed word, encoded, decodes to itself: the rows in the order of the opcode table. -/
theorem decode_encode (i : Instr) : Statement i :=
  Instr.casesOn (motive := Statement) i
    nop ret jx callx nap rdcyc tret yield quit sysrd syswr trap brk hcall b call loop ldI8 ldN8 ldI16 ldN16 ldI32 ldN32
    ldI64 ldc st8 st16 st32 st64 lea wchg hop probe amo rxAmo fence wait msend mrecv waitm mlease mfree mbload mma mmas
    mzero mdrain magr mstat mreclaim mfmt xcopy xcopyv xgather xscatter xfill xdeal pbind punbind spawn spawnW kopen kclose
    kput kwait kend kstat gcall gret awin gstat add sub mul mulhI mulhN divI divN remI remN addsatI addsatN subsatI subsatN
    abs neg minI maxI minN maxN and or xor andn orn mov sel shl shr sar rot clz ctz popc bswap padd psub paddsatI paddsatN
    pminI pminN pmaxI pmaxN pshl pshr psar pcmpEq pcmpLtI pcmpLtN fadd fsub fmul ffma fmin fmax fabs fneg fcvtF32I32
    fcvtF32N32 fcvtI32F32 fcvtN32F32 fcvtF32B16 fcvtB16F32 addi andi ori xori shli shri sari roti extI extN ins movi movh
    cmp fcmp pand por pxor pnot pmov psel cmpiEq cmpiNe cmpiLt cmpiLe cmpiGt cmpiGe cmpiLtN cmpiGeN vadd vsub vmul vfma vmin
    vmax vabs vneg vand vor vxor vshl vshr vsar vsel vcmp vcvtFromF32 vcvtToF32 vex2 vrcp vrsq vredSum vredMax vredMin
    vbcast vget vperm vpack vunpack vgath vscat vbindPop vbindPush vunbind vfence vliveClear traceClear evselWrite tinv1
    tinv2 pgrep plainAccessComplete relaxedLoadReturn relaxedStorePerformed bankPortService sliceFill scrub
    normaliserServiceEnd wchgWake wchgPoll napWake trapEntry vectorBeat vectorCommandComplete leaseGrant leaseExpiry
    tileOperationStart tileOperationComplete audit foragerAccept copyComplete messageDelivery nack messageRetry
    pendingReportPost keyedRecordArrival broodDecision idleRetirement spawnRequest spawnAnswer launchRequest slotFill
    quitNotice doneMessage migrationDeparture migrationArrival thermalSample thermalDisplacement preemptSave contextResume
    sliceEnd slotHandover boostEnd budgetRenewal deferralExpiry threadUnwind graceExpiry abandonBudgetExpiry threadKill
    domainTeardown translationWalk rewalk installTensor dropHandle offer importHandle closeGate launchPacket graphReplay
    dispatch completionRecord createQueue destroyQueue createGraph freeGraph setEventRing acknowledgeEvents setVdSchedule
    createVd destroyVd createDomain pauseVd resumeVd setDataEndpoint setRemoteEndpoint remoteDataAccess managementWrite
    gtoffWrite plimWrite feataccWrite deliveryTimeout claim heartbeat release collectionWindowEnd heartbeatTimeout
    successorWindowEnd sessionTeardown getVersion getCapabilities negotiateAlgorithms getDigests getCertificate challenge
    getMeasurements keyExchange finish endSession updateChunk updateVerify updateCoreSwitch slotReset coreReset combReset
    hiveReset vdReset firmwareColumnReset warmReset coldReset resetComplete boot powerPeriod thermalRecord thermalTrip
    domainKill pqheadWrite

end Sys2Proof.Laws.RoundTrip

namespace Sys2Proof

/-- R37: two words that write one register are no pair. -/
theorem decodePair_conflict {w0 w1 : Word32} {i0 i1 : Instr} (h0 : decodeWord w0 = .ok i0) (h1 : decodeWord w1 = .ok i1)
    (h : pairConflict i0 i1 = true) : decodePair w0 w1 = .error .illegal := by
  simp [decodePair, h0, h1, h]

/-- Settles O55: `decode_encode` collects the lemmas of the rows. -/
theorem decodeEncode : Obligations.DecodeEncode := by
  unfold Obligations.DecodeEncode
  exact fun l i w hwf he => Laws.RoundTrip.decode_encode i l w hwf he

/-- Settles O54: the decoder is evaluated on each word; the pair is an `ld` and an `addi` that both write x5. -/
theorem decodeSamples : Obligations.DecodeSamples := by
  unfold Obligations.DecodeSamples
  have word0 : decodeWord 0x160A8001#32 = .ok (.ldI64 0 5 4 0 0 0 1) := rfl
  have word1 : decodeWord 0x480AA001#32 = .ok (.addi 0 5 5 1) := rfl
  exact ⟨rfl, rfl, rfl, rfl, rfl, rfl, rfl, rfl, rfl, rfl, rfl, rfl, rfl, rfl, rfl, rfl, rfl, decodePair_conflict word0 word1 rfl⟩

end Sys2Proof
end

section
/-! PROOF. The frame of the words with one x destination (R36, R37, R93, R98): each ends in `putX` or `putF`, which, where no port is
bound, write one register, and flags and the normaliser's queue. -/

namespace Sys2Proof.Machine
open Sys2Proof.Safety

/-! ### Registers of a thread with no port bound and none pending -/

/-- Bit `q` of the mask of register `r` stands for another register. -/
theorem regMask_getLsbD_ne {r q : XReg} (h : q ≠ r) : (1#16 <<< r.toNat).getLsbD q.toNat = false := by
  have : q.toNat ≠ r.toNat := fun e => h (BitVec.eq_of_toNat_eq e)
  rw [BitVec.getLsbD_shiftLeft, BitVec.getLsbD_one]
  grind

theorem setReg_tainted_ne (t : Thread) (r q : XReg) (v : Word) (b : Bool) (h : q ≠ r) :
    (t.setReg r v b).tainted q = t.tainted q := by
  have inFile : q.toNat < 16 := q.isLt
  cases b
  · simp only [Thread.setReg, Thread.tainted, Bool.false_eq_true, if_false, BitVec.getLsbD_and, BitVec.getLsbD_not,
      regMask_getLsbD_ne h, inFile, decide_true, Bool.not_false, Bool.and_true]
  · simp only [Thread.setReg, Thread.tainted, if_true, BitVec.getLsbD_or, regMask_getLsbD_ne h, Bool.or_false]

theorem readsAs_unbound {s : State} (h : Unbound s.rd) (r : XReg) : ReadsAs s r (s.rd.reg r) (s.rd.tainted r) s :=
  reads_plain (by simp [h.2]) (h.1 r)

theorem readsTwo_unbound {s : State} (h : Unbound s.rd) (a b : XReg) :
    ReadsTwo s a b (s.rd.reg a) (s.rd.reg b) (s.rd.tainted a || s.rd.tainted b) s :=
  ⟨_, _, s, readsAs_unbound h a, readsAs_unbound h b, rfl⟩

theorem takes_unbound {s : State} (h : Unbound s.rd) (d : XReg) (v : Word) : Takes s d v s :=
  takes_plain v (by simp [h.2]) (h.1 d)

theorem legal_unbound {s : State} (h : Unbound s.rd) (srcs dsts : List XReg) (r : Res) : legal s srcs dsts r = r :=
  legal_fit (fit_unbound h.1 srcs dsts) r

/-! ### Which words end in `putX` and in `putF` -/

/-- The word's outcome is that of writing some value and taint to x(d), under some guard. -/
def WritesX (s : State) (d : XReg) (o : Out1) : Prop := ∃ g v b, o = finish s (guarded s g (putX s d v b))

/-- The word's outcome is that of writing some F32 result to x(d), under some guard. -/
def WritesF (s : State) (d : XReg) (o : Out1) : Prop := ∃ g r b, o = finish s (guarded s g (putF s d r b))

section
variable {s : State} (h : Unbound s.rd) (g : KReg) (d a b : XReg)
include h

theorem binary_writesX (f : Word → Word → Word) : WritesX s d (binary s g d a b f) :=
  ⟨g, _, _, by rw [binary, legal_unbound h, useXX_reads (readsTwo_unbound h a b)]⟩

theorem unary_writesX (f : Word → Word) : WritesX s d (unary s g d a f) :=
  ⟨g, _, _, by rw [unary, legal_unbound h, readsAs_unbound h a]⟩

theorem update_writesX (f : Word → Word) : WritesX s d (update s g d f) :=
  ⟨g, _, _, by rw [update, legal_unbound h, readsAs_unbound h d]⟩

theorem execIns_writesX (q w : BitVec 6) : WritesX s d (execIns g d a q w s) :=
  ⟨g, _, _, by rw [execIns, legal_unbound h, useXX_reads (readsTwo_unbound h a d)]⟩

theorem execLea_writesX (c : BitVec 2) (e : BitVec 1) (f : BitVec 10) : WritesX s d (execLea g d a c e f s) :=
  ⟨g, _, _, by rw [execLea, legal_unbound h, useAddress, readsAs_unbound h a]⟩

theorem binaryF_writesF (f : Thread → Word → Word → FResult) : WritesF s d (binaryF s g d a b f) :=
  ⟨g, _, _, by rw [binaryF, legal_unbound h, useXX_reads (readsTwo_unbound h a b)]⟩

/-- R97: x(b) is read only under stochastic rounding. -/
theorem convertF_writesF (f : Thread → Word → Word → FResult) : WritesF s d (convertF s g d a b f) := by
  by_cases stoch : modeOf s.rd.rm = .stoch
  · exact ⟨g, _, _, by rw [convertF, legal_unbound h, if_pos stoch, useXX_reads (readsTwo_unbound h a b)]⟩
  · exact ⟨g, _, _, by rw [convertF, legal_unbound h, if_neg stoch, readsAs_unbound h a]⟩

theorem execFfma_writesF : WritesF s d (execFfma g d a b s) :=
  ⟨g, _, _, by rw [execFfma, legal_unbound h, useXX_reads (readsTwo_unbound h a b), readsAs_unbound h d]⟩

theorem execFcvtF32B16_writesF : WritesF s d (execFcvtF32B16 g d a b s) :=
  ⟨g, _, _, by rw [execFcvtF32B16, legal_unbound h, readsAs_unbound h a]⟩

end

theorem exec_writesX {i : Instr} {d : XReg} {s : State} (h : Unbound s.rd) (hi : registerDest i = some d) :
    WritesX s d (exec i s) := by
  cases i with
  | sel | add | sub | mul | mulhI | mulhN | divI | divN | remI | remN | addsatI | addsatN | subsatI | subsatN | minI |
    maxI | minN | maxN | and | or | xor | andn | orn | shl | shr | sar | rot | padd | psub | paddsatI | paddsatN | pminI |
    pminN | pmaxI | pmaxN | pshl | pshr | psar | pcmpEq | pcmpLtI | pcmpLtN =>
    cases hi
    exact binary_writesX h ..
  | abs | neg | mov | clz | ctz | popc | extI | bswap | fabs | fneg | extN | addi | andi | ori | xori | shli | shri | sari |
    roti =>
    cases hi
    exact unary_writesX h ..
  | movh =>
    cases hi
    exact update_writesX h ..
  | ins =>
    cases hi
    exact execIns_writesX h ..
  | lea =>
    cases hi
    exact execLea_writesX h ..
  | movi | rdcyc =>
    cases hi
    exact ⟨_, _, _, rfl⟩
  | _ => cases hi

theorem exec_writesF {i : Instr} {d : XReg} {s : State} (h : Unbound s.rd) (hi : f32Dest i = some d) :
    WritesF s d (exec i s) := by
  cases i with
  | fadd | fsub | fmul | fmin | fmax =>
    cases hi
    simp only [exec, execFadd, execFsub, execFmul, execFmin, execFmax]
    exact binaryF_writesF h ..
  | fcvtF32I32 | fcvtF32N32 | fcvtI32F32 | fcvtN32F32 | fcvtB16F32 =>
    cases hi
    simp only [exec, execFcvtF32I32, execFcvtF32N32, execFcvtI32F32, execFcvtN32F32, execFcvtB16F32]
    exact convertF_writesF h ..
  | ffma =>
    cases hi
    exact execFfma_writesF h ..
  | fcvtF32B16 _ _ _ b =>
    cases hi
    exact execFcvtF32B16_writesF h (b := b) ..
  | _ => cases hi

/-! ### Retirement -/

theorem commitPops_of_nil {u : State} (hq : u.popped = []) : u.commitPops = u := by
  rw [State.commitPops, hq, List.foldl_nil, ← hq]

/-- Retirement moves the thread's place alone, where the bundle has popped nothing (R36). -/
theorem retire_place {u : State} (hq : u.popped = []) (target : Option Word) :
    ∃ pc last, u.retire target = { u with mark := .retired, cur := { u.cur with pc := pc, lastPc := last } } := by
  simp only [State.retire, commitPops_of_nil hq]
  split
  · exact ⟨_, _, rfl⟩
  · exact ⟨_, _, rfl⟩
  · exact ⟨u.cur.pc, u.cur.lastPc, rfl⟩

/-- A word under a guard takes effect and retires, or only retires (R8, R43). -/
theorem finish_guarded_done {s u : State} {r : Res} (g : KReg) (hr : r = .done u) :
    finish s (guarded s g r) = .next (u.retire none) ∨ finish s (guarded s g r) = .next (s.retire none) := by
  cases hg : s.rd.pred g with
  | true => exact .inl (by rw [guarded_active hg, hr, finish_done])
  | false => exact .inr (finish_guarded_false hg r)

/-! ### Words that end in `putX` -/

/-- The registers of a thread but x(d), and their taint, stand as they were. -/
def RegsBut (d : XReg) (t u : Thread) : Prop := ∀ r, r ≠ d → u.reg r = t.reg r ∧ u.tainted r = t.tainted r

theorem regsBut_setReg (t : Thread) (d : XReg) (v : Word) (b : Bool) : RegsBut d t (t.setReg d v b) :=
  fun r hr => ⟨setReg_reg_ne t d r v b hr, setReg_tainted_ne t d r v b hr⟩

/-- Up to its retirement, a word changes x(d) and its taint at most. -/
def XFrame (d : XReg) (s u : State) : Prop :=
  RegsBut d s.cur u.cur ∧ u = { s with cur := { s.cur with x := u.cur.x, taint := u.cur.taint } }

theorem XFrame.refl (d : XReg) (s : State) : XFrame d s s := ⟨fun _ _ => ⟨rfl, rfl⟩, rfl⟩

theorem putX_unbound {s : State} (hr : Unbound s.rd) (hc : Unbound s.cur) (d : XReg) (v : Word) (b : Bool) :
    putX s d v b = .done { s with cur := s.cur.setReg d v b } := by
  rw [putX_takes (takes_unbound hr d v), setX_plain v b (hc.1 d)]

theorem WritesX.frame {s : State} {d : XReg} {o : Out1} (hr : Unbound s.rd) (hc : Unbound s.cur) (h : WritesX s d o) :
    ∃ u, XFrame d s u ∧ o = .next (u.retire none) := by
  obtain ⟨g, v, b, rfl⟩ := h
  rcases finish_guarded_done g (putX_unbound hr hc d v b) with written | skipped
  · exact ⟨_, ⟨regsBut_setReg s.cur d v b, rfl⟩, written⟩
  · exact ⟨s, .refl d s, skipped⟩

/-! ### Words that end in `putF` -/

/-- R12, R93: the sticky flags of scalar F32 arithmetic are bits 17 to 20 of st. -/
theorem flagBits_getLsbD (f : FFlags) {j : Nat} (hj : j < 17 ∨ 20 < j) : f.bits.getLsbD j = false := by
  have clear : ∀ i : Nat, 17 ≤ i → i ≤ 20 → (1#64 <<< i).getLsbD j = false := fun i h1 h2 => by
    rw [BitVec.getLsbD_shiftLeft, BitVec.getLsbD_one]
    grind
  have nv : (0x100000#64).getLsbD j = false := clear 20 (by omega) (by omega)
  have of : (0x080000#64).getLsbD j = false := clear 19 (by omega) (by omega)
  have uf : (0x040000#64).getLsbD j = false := clear 18 (by omega) (by omega)
  have nx : (0x020000#64).getLsbD j = false := clear 17 (by omega) (by omega)
  simp [FFlags.bits, BitVec.getLsbD_or, apply_ite (BitVec.getLsbD · j), nv, of, uf, nx]

/-- Up to its retirement, a scalar F32 word changes x(d) and its taint, sticky flags (R93), the queue of a normaliser and the count of
its turns (R98) at most. -/
def F32Frame (d : XReg) (s u : State) : Prop :=
  RegsBut d s.cur u.cur ∧
  (∀ j, (s.cur.st.getLsbD j = true → u.cur.st.getLsbD j = true) ∧ (j < 17 ∨ 20 < j → u.cur.st.getLsbD j = s.cur.st.getLsbD j)) ∧
  (∀ c, u.core c = { s.core c with norm := (u.core c).norm }) ∧
  u = { s with
    cores := u.cores
    cur := { s.cur with
      x := u.cur.x, taint := u.cur.taint, st := u.cur.st, norm := u.cur.norm, evcnt := u.cur.evcnt } }

theorem F32Frame.refl (d : XReg) (s : State) : F32Frame d s s :=
  ⟨fun _ _ => ⟨rfl, rfl⟩, fun _ => ⟨id, fun _ => rfl⟩, fun _ => rfl, rfl⟩

/-- The result is written and its flags are set. -/
theorem f32Frame_write (d : XReg) (s : State) (v : Word) (b : Bool) (f : FFlags) :
    F32Frame d s (({ s with cur := s.cur.setReg d v b } : State).raise f) := by
  refine ⟨regsBut_setReg s.cur d v b, fun j => ⟨fun hj => ?_, fun hj => ?_⟩, fun _ => rfl, rfl⟩
  · show (s.cur.st ||| f.bits).getLsbD j = true
    rw [BitVec.getLsbD_or, hj, Bool.true_or]
  · show (s.cur.st ||| f.bits).getLsbD j = _
    rw [BitVec.getLsbD_or, flagBits_getLsbD f hj, Bool.or_false]

/-- The core with the thread in hand queued for its normaliser. -/
def State.normQueued (s : State) : Core :=
  { s.core s.cur.core with norm := (s.core s.cur.core).norm ++ [s.cur.num] }

/-- The thread in hand is queued for its core's normaliser and waits for it, and its turns are counted (R98). -/
def State.joinNorm (s : State) (turns : Nat) : State :=
  let u := (s.setCore s.normQueued).countEv 9 turns
  { u with cur := { u.cur with norm := true } }

theorem joinNorm_core (s : State) (turns : Nat) (c : CoreNo) :
    (s.joinNorm turns).core c = { s.core c with norm := ((s.joinNorm turns).core c).norm } := by
  have num : s.normQueued.num = s.cur.core := core_num s s.cur.core
  rw [show (s.joinNorm turns).core c = (s.setCore s.normQueued).core c from rfl]
  by_cases hc : c = s.cur.core
  · rw [hc, core_setCore_of _ _ _ num]
    rfl
  · rw [core_setCore_ne _ _ _ (num ▸ hc)]

theorem event_evcnt_only (t : Thread) (e n : Nat) : t.event e n = { t with evcnt := (t.event e n).evcnt } := by
  unfold Thread.event
  split <;> rfl

theorem joinNorm_cur (s : State) (turns : Nat) :
    (s.joinNorm turns).cur = { s.cur with norm := true, evcnt := (s.joinNorm turns).cur.evcnt } := by
  show { s.cur.event 9 turns with norm := true } = { s.cur with norm := true, evcnt := (s.cur.event 9 turns).evcnt }
  rw [event_evcnt_only]

theorem F32Frame.joinNorm {d : XReg} {s u : State} (h : F32Frame d s u) (turns : Nat) : F32Frame d s (u.joinNorm turns) := by
  obtain ⟨regs, flags, cores, rest⟩ := h
  have cur := joinNorm_cur u turns
  refine ⟨by rw [cur]; exact regs, by rw [cur]; exact flags, fun c => by rw [joinNorm_core, cores c], ?_⟩
  rw [show u.joinNorm turns = { u with cores := (u.joinNorm turns).cores, cur := (u.joinNorm turns).cur } from rfl, cur, rest]

/-- The result is written, its flags are set, and where the word needs the normaliser its thread waits for it. -/
theorem putF_unbound {s : State} (hr : Unbound s.rd) (hc : Unbound s.cur) (d : XReg) (r : FResult) (b : Bool) :
    ∃ u, F32Frame d s u ∧ putF s d r b = .done u := by
  have written := f32Frame_write d s r.value b r.flags
  rw [putF, takes_unbound hr d r.value, setX_plain _ _ (hc.1 d)]
  by_cases turns : r.turns = 0
  · exact ⟨_, written, if_pos turns⟩
  · exact ⟨_, written.joinNorm r.turns, if_neg turns⟩

theorem WritesF.frame {s : State} {d : XReg} {o : Out1} (hr : Unbound s.rd) (hc : Unbound s.cur) (h : WritesF s d o) :
    ∃ u, F32Frame d s u ∧ o = .next (u.retire none) := by
  obtain ⟨g, r, b, rfl⟩ := h
  obtain ⟨u, frame, done⟩ := putF_unbound hr hc d r b
  rcases finish_guarded_done g done with written | skipped
  · exact ⟨u, frame, written⟩
  · exact ⟨s, .refl d s, skipped⟩

/-- Settles O13: the words are those that end in `putX` or `putF` (`exec_writesX`, `exec_writesF`); what these leave is
`WritesX.frame` and `WritesF.frame`, and `retire_place` moves the thread on. -/
theorem registerFrame : Obligations.RegisterFrame := by
  unfold Obligations.RegisterFrame
  intro i d s hr hc hq
  refine ⟨fun hi => ?_, fun hi => ?_⟩
  · obtain ⟨u, ⟨regs, rest⟩, ends⟩ := (exec_writesX hr hi).frame hr hc
    have popped : u.popped = [] := by rw [rest]; exact hq
    obtain ⟨pc, last, retired⟩ := retire_place popped none
    rw [retired] at ends
    exact ⟨_, ends, rfl, regs, by rw [rest]⟩
  · obtain ⟨u, ⟨regs, flags, cores, rest⟩, ends⟩ := (exec_writesF hr hi).frame hr hc
    have popped : u.popped = [] := by rw [rest]; exact hq
    obtain ⟨pc, last, retired⟩ := retire_place popped none
    rw [retired] at ends
    exact ⟨_, ends, rfl, regs, flags, cores, by rw [rest]⟩

end Sys2Proof.Machine
end

section
/-! PROOF. Pairs (R36, R38, R40, R248): which of its two words' outcomes decides, and what a pair of plain words leaves. -/

namespace Sys2Proof.Machine
open Sys2Proof.Safety

/-! ### What has become of a word -/

theorem isTrap_iff {m : Mark} {c : Cause} : m.isTrap c = true ↔ m = .trapped c := beq_iff_eq

theorem onCond_iff {s : State} : s.onCond = true ↔ s.mark = .parked ∧ s.cur.wait = some .cond := by
  simp [State.onCond]

theorem onTrap_iff {s : State} :
    s.onTrap = true ↔ (∃ c, s.mark = .trapped c) ∨ (s.mark = .parked ∧ ∃ v q va, s.cur.wait = some (.page v q va)) := by
  unfold State.onTrap
  split
  · simp_all
  · split <;> simp_all
  · simp_all

theorem onHold_of_ne_parked {s : State} (h : s.mark ≠ .parked) : s.onHold = false := by
  simp [State.onHold, h]

theorem mark_of_onHold {s : State} (h : s.onHold = true) : s.mark = .parked := by
  simp only [State.onHold, Bool.and_eq_true, beq_iff_eq] at h
  exact h.1

/-- The hop hint that a bundle's end may drop is no part of a thread's registers (R115). -/
theorem settleHint_eq (s : State) :
    ∃ leaving wait, s.settleHint = { s with cur := { s.cur with leaving := leaving, wait := wait } } := by
  unfold State.settleHint
  split
  · exact ⟨_, _, rfl⟩
  · exact ⟨s.cur.leaving, s.cur.wait, rfl⟩

/-! ### A pair from its beginning -/

/-- The state before the bundle, on which a word of the pair is tried (R36). -/
def State.tries (s : State) (p : Pos) : State := { s with pos := p, src := none, popped := [], mark := .retired }

/-- What word 0 has left, on which word 1 acts with its operands as they were before the bundle (R36). -/
def State.forSecond (s r0 : State) : State := { r0 with pos := .w1, src := some s.cur, mark := .retired }

/-- Word 1 acts on what word 0 has left. -/
def pairActs (s r0 : State) (j : Instr) : Out1 :=
  match exec j (s.forSecond r0) with
  | .next r =>
    if r.mark == .retired then .next r.settleHint
    else if r.onHold then .next (r0.halve s.cur r.cur.stands r.stamp)
    else .next ((s.tries .w1).parked .cond)
  | x => x

theorem pairActs_retired {s r0 r : State} {j : Instr} (h : exec j (s.forSecond r0) = .next r) (hm : r.mark = .retired) :
    pairActs s r0 j = .next r.settleHint := by
  simp [pairActs, h, hm]

theorem pairActs_onHold {s r0 r : State} {j : Instr} (h : exec j (s.forSecond r0) = .next r) (hr : r.onHold = true) :
    pairActs s r0 j = .next (r0.halve s.cur r.cur.stands r.stamp) := by
  simp [pairActs, h, hr, mark_of_onHold hr]

section
variable {s r0 r1 : State} {i j : Instr} (hh : s.cur.halfway = false) (h0 : exec i (s.tries .w0) = .next r0)
  (h1 : exec j (s.tries .w1) = .next r1)
include hh h0 h1

/-- R40: the order in which the outcomes of the two words decide. -/
theorem runPair_order :
    runPair s i j =
      if r0.mark.isTrap .illegal then .next r0
      else if r1.mark.isTrap .illegal then .next r1
      else if r0.onCond then .next r0
      else if r1.onCond then .next r1
      else if r0.mark.isTrap .tileform then .next r0
      else if r1.mark.isTrap .tileform then .next r1
      else if r0.onTrap then .next r0
      else if r1.onTrap then .next r1
      else if r0.mark != .retired then .next r0
      else if r1.mark != .retired then .next r1
      else if r0.cur.num != s.cur.num || r0.cur.place == .gone || r0.cur.lost then .next r0
      else pairActs s r0 j := by
  simp only [State.tries] at h0 h1
  simp only [runPair, hh, Bool.false_eq_true, if_false, h0, h1, pairActs, State.tries, State.forSecond] <;> rfl

/-- R36: both words retire where they are tried, and the thread is still there: word 1 acts on what word 0 has left. -/
theorem runPair_acts (m0 : r0.mark = .retired) (m1 : r1.mark = .retired) (num : r0.cur.num = s.cur.num)
    (stays : r0.cur.place ≠ .gone) (kept : r0.cur.lost = false) : runPair s i j = pairActs s r0 j := by
  rw [runPair_order hh h0 h1]
  simp [Mark.isTrap, State.onCond, State.onTrap, m0, m1, num, stays, kept]

end

/-! ### Word 1 tried again -/

/-- The state in which word 1 of a half-done bundle is tried again: every operand as it was before the bundle (R36). -/
def State.again (s : State) (before : Thread) : State :=
  { s with
    pos := .w1, src := some before, popped := [], mark := .retired
    cur := { s.cur with pc := before.pc, halfway := false }, halves := s.halves.filter fun t => t.num != before.num }

theorem runPair_again {s : State} {before : Thread} (i j : Instr) (hh : s.cur.halfway = true)
    (hb : (s.halves.find? fun t => t.num == s.cur.num) = some before) : runPair s i j = secondWord s before j := by
  simp [runPair, hh, hb]

theorem secondWord_retired {s r : State} {before : Thread} {j : Instr} (h : exec j (s.again before) = .next r)
    (hm : r.mark = .retired) :
    secondWord s before j =
      .next ({ r with cur := { r.cur with pc := s.cur.pc, wait := before.wait } } : State).settleHint := by
  simp only [State.again] at h
  simp [secondWord, h, hm, onHold_of_ne_parked (s := r) (by simp [hm])]

theorem secondWord_trapped {s r : State} {before : Thread} {j : Instr} (h : exec j (s.again before) = .next r) {c : Cause}
    (hm : r.mark = .trapped c) : secondWord s before j = .next r := by
  simp only [State.again] at h
  simp [secondWord, h, hm, onHold_of_ne_parked (s := r) (by simp [hm])]

/-! ### A pair of integer words -/

/-- A word of two x sources whose guard is 1. -/
theorem binary_unbound {s : State} (hr : Unbound s.rd) (hc : Unbound s.cur) {g : KReg} (hg : GuardOn s g) (d a b : XReg)
    (f : Word → Word → Word) :
    binary s g d a b f = .next (({ s with
      cur := s.cur.setReg d (f (s.rd.reg a) (s.rd.reg b)) (s.rd.tainted a || s.rd.tainted b) } : State).retire none) := by
  rw [binary_gives f hg (fit_unbound hr.1 _ _) (readsTwo_unbound hr a b) (takes_unbound hr d _), setX_plain _ _ (hc.1 d)]

/-- Word 1 retires, where the bundle has popped nothing: the place of the thread is word 0's (R36). -/
theorem retire_second {s : State} (hp : s.pos = .w1) (hq : s.popped = []) (target : Option Word) :
    s.retire target = { s with mark := .retired } := by
  simp only [State.retire, hp, commitPops_of_nil hq]

/-- R36: the values of both words are those before the bundle, and the program counter passes both. -/
theorem runPair_add_sub {s : State} {g h : KReg} (hc : Unbound s.cur) (stays : s.cur.place ≠ .gone) (hh : s.cur.halfway = false)
    (kept : s.cur.lost = false) (hg : s.cur.pred g = true) (hgh : s.cur.pred h = true) (d e a b x y : XReg) :
    let v0 := s.cur.reg a + s.cur.reg b
    let v1 := s.cur.reg x - s.cur.reg y
    let t0 := s.cur.tainted a || s.cur.tainted b
    let t1 := s.cur.tainted x || s.cur.tainted y
    let w0 : Thread := { s.cur.setReg d v0 t0 with pc := s.cur.pc + 8, lastPc := s.cur.pc }
    ∃ leaving wait, runPair s (.add g d a b) (.sub h e x y) = .next { s with
      pos := .w1, src := some s.cur, popped := [], mark := .retired
      cur := { w0.setReg e v1 t1 with leaving := leaving, wait := wait } } := by
  intro v0 v1 t0 t1 w0
  have first : exec (.add g d a b) (s.tries .w0) = .next { s.tries .w0 with cur := w0 } :=
    binary_unbound (s := s.tries .w0) hc hc hg d a b (· + ·)
  have alone : exec (.sub h e x y) (s.tries .w1) = .next { s.tries .w1 with cur := s.cur.setReg e v1 t1 } :=
    (binary_unbound (s := s.tries .w1) hc hc hgh e x y (· - ·)).trans (by rw [retire_second rfl rfl]; rfl)
  have second := binary_unbound (s := s.forSecond { s.tries .w0 with cur := w0 }) hc hc hgh e x y (· - ·)
  rw [retire_second rfl rfl] at second
  have pair := (runPair_acts hh first alone rfl rfl rfl stays kept).trans (pairActs_retired second rfl)
  obtain ⟨leaving, wait, settled⟩ := settleHint_eq _
  rw [settled] at pair
  exact ⟨leaving, wait, pair⟩

/-- Settles O57: `runPair_add_sub` is a pair of plain words, `runPair_order` the order of R40, `pairActs` and `secondWord` what
becomes of word 1 once word 0 has acted. -/
theorem pairRule : Obligations.PairRule := by
  unfold Obligations.PairRule
  refine ⟨?_, ?_, ?_⟩
  · intro s g h d e a b x y hc stays hh kept hg hgh hde
    obtain ⟨leaving, wait, pair⟩ := runPair_add_sub hc stays hh kept hg hgh d e a b x y
    have first (t : Thread) (v : Word) := setReg_reg t d v (s.cur.tainted a || s.cur.tainted b)
    have second (t : Thread) (v : Word) := setReg_reg t e v (s.cur.tainted x || s.cur.tainted y)
    have firstKeeps (t : Thread) (r : XReg) (v : Word) := setReg_reg_ne t d r v (s.cur.tainted a || s.cur.tainted b)
    have secondKeeps (t : Thread) (r : XReg) (v : Word) := setReg_reg_ne t e r v (s.cur.tainted x || s.cur.tainted y)
    exact ⟨_, pair, rfl, (secondKeeps _ d _ hde).trans (first ..), second ..,
      fun r hd he => (secondKeeps _ r _ he).trans (firstKeeps _ r _ hd), rfl, rfl, rfl⟩
  · intro s r0 r1 i j hh h0 h1 ill waits form stops
    have illegal (x : State) : x.mark.isTrap .illegal = true ↔ ill x := isTrap_iff
    have cond (x : State) : x.onCond = true ↔ waits x := onCond_iff
    have tileform (x : State) : x.mark.isTrap .tileform = true ↔ form x := isTrap_iff
    have trap (x : State) : x.onTrap = true ↔ stops x := onTrap_iff
    have order := runPair_order hh h0 h1
    simp only [← illegal, ← cond, ← tileform, ← trap]
    refine ⟨fun a => ?_, fun a b => ?_, fun a b => ⟨fun c => ?_, fun c d => ?_, fun c d => ⟨fun e => ?_, fun e f => ?_,
      fun e f => ⟨fun g => ?_, fun g h => ?_, fun g h k => ?_, fun k l h => ?_⟩⟩⟩, fun m0 m1 num stays kept r hr => ?_⟩
    · rw [order, if_pos a]
    · rw [order, if_neg a, if_pos b]
    · rw [order, if_neg a, if_neg b, if_pos c]
    · rw [order, if_neg a, if_neg b, if_neg c, if_pos d]
    · rw [order, if_neg a, if_neg b, if_neg c, if_neg d, if_pos e]
    · rw [order, if_neg a, if_neg b, if_neg c, if_neg d, if_neg e, if_pos f]
    · rw [order, if_neg a, if_neg b, if_neg c, if_neg d, if_neg e, if_neg f, if_pos g]
    · rw [order, if_neg a, if_neg b, if_neg c, if_neg d, if_neg e, if_neg f, if_neg g, if_pos h]
    · rw [order, if_neg a, if_neg b, if_neg c, if_neg d, if_neg e, if_neg f, if_neg g, if_neg h, if_pos (by rw [k]; rfl)]
    · have g : ¬r0.onTrap = true := by simp [State.onTrap, k]
      rw [order, if_neg a, if_neg b, if_neg c, if_neg d, if_neg e, if_neg f, if_neg g, if_neg h, if_neg (by rw [k]; decide),
        if_pos (by rw [l]; rfl)]
    · rw [runPair_acts hh h0 h1 m0 m1 num stays kept]
      exact ⟨pairActs_retired hr, fun held => ⟨_, pairActs_onHold hr held, rfl, rfl, rfl, rfl, rfl, rfl⟩⟩
  · intro s r b i j hh hb hr
    rw [runPair_again i j hh hb]
    exact ⟨secondWord_retired hr, fun c => secondWord_trapped hr⟩

end Sys2Proof.Machine
end

section
/-! PROOF. A claim about a turn that fails: a bundle that does not issue leaves its thread waiting for its condition (R281), and the
claim has it leave everything as it was. -/

namespace Sys2Proof.Machine
open Sys2Proof.Safety

/-- R105: a word waits before issue, with nothing done, while its source is pending; x0 to x7 are never bound (R23). -/
theorem exec_addi_pending {s : State} {r : XReg} (i : BitVec 13) (low : r.toNat < 8) (hp : s.rd.pend.getLsbD r.toNat = true) :
    exec (.addi 0 r r i) s = .next (s.parked .cond) := by
  have unbound : s.rd.port? r = none := if_neg (by omega)
  have fits : PortsFit s [r] [r] := ⟨by simp [unbound], by simp [unbound]⟩
  simp only [exec, execAddi, unary, guarded_active (s := s) (g := 0) rfl, legal_fit fits, useX, if_pos hp, finish]

/-- At the program counter of the one thread of core 345 stands a lone `addi x5,x5,1`, and x5 is pending. -/
def pendingSource : State :=
  let s := State.reset.withFetchWord 32 0xC80AA001
  { s with cur := { s.cur with pend := 0xFFFF } }

/-- The state in which core 345 takes its turn: the thread waits for nothing yet. -/
def pendingTurn : State := (({ pendingSource with agenda := [] } : State).settle.passes 0).letGo 345

theorem pendingTurn_waits_not : pendingTurn.cur.wait = none := by decide +kernel

theorem pendingTurn_focus : pendingTurn.focus pendingSource.cur.num = pendingTurn := if_pos (by decide +kernel)

/-- The turn parks the thread until its register is there. -/
theorem step_pendingSource_waits :
    (match step pendingSource with
      | .next u => u.cur.wait
      | _ => none) = some .cond := by decide +kernel

/-- Refutes O56: where a bundle does not issue, the clause has the step leave the state in which the core took its turn, whose thread
waits for nothing (`pendingTurn_waits_not`); after the step of `pendingSource` the thread waits (`step_pendingSource_waits`). -/
theorem not_stepRunsDecoded : ¬Obligations.StepRunsDecoded := by
  rintro ⟨turns, -⟩
  have ready : ∀ va, (pendingTurn.focus pendingSource.cur.num).cur.wait ≠ some (.refused va) := by
    rw [pendingTurn_focus, pendingTurn_waits_not]
    simp
  -- The hypotheses of the clause about the turn, before and after `ready`, are closed: they are evaluated.
  obtain ⟨lone, -⟩ := turns pendingSource [] 345 0 0 [] pendingSource.cur (physRange placeCode 8) (by decide +kernel)
    (by decide +kernel) (by decide +kernel) (by decide +kernel) (by decide +kernel) (by decide +kernel) (by decide +kernel)
    ready (by decide +kernel) (by decide +kernel) (by decide +kernel) (by decide +kernel) (by decide +kernel)
  obtain ⟨-, stands⟩ := lone (.addi 0 5 5 1) (by decide +kernel) _ (exec_addi_pending 1 (by decide) (by decide +kernel))
  have same : step pendingSource = .next pendingTurn := stands (by decide +kernel) rfl
  have waits := step_pendingSource_waits
  rw [same] at waits
  exact absurd (pendingTurn_waits_not.symm.trans waits) (by simp)

end Sys2Proof.Machine
end

section
/-! PROOF. Integer arithmetic (R80 to R83): wrapping, division, saturation, and the smaller or larger of two. -/

namespace Sys2Proof.Machine
open Sys2Proof.Safety

/-- The upper half of an exact signed product, which 128 bits hold. -/
theorem highHalf_signed (x y : Word) :
    highHalf (x.signExtend 128 * y.signExtend 128) = BitVec.ofInt 64 (x.toInt * y.toInt / 2 ^ 64) := by
  have hx := BitVec.toInt_signExtend_of_le (x := x) (v := 128) (by decide)
  have hy := BitVec.toInt_signExtend_of_le (x := y) (v := 128) (by decide)
  have wide : x.signExtend 128 * y.signExtend 128 = BitVec.ofInt 128 (x.toInt * y.toInt) := by
    rw [BitVec.ofInt_mul, ← hx, ← hy, BitVec.ofInt_toInt, BitVec.ofInt_toInt]
  apply BitVec.eq_of_toNat_eq
  rw [highHalf, wide, BitVec.extractLsb'_toNat, BitVec.toNat_ofInt, BitVec.toNat_ofInt, Nat.shiftRight_eq_div_pow]
  generalize x.toInt * y.toInt = p
  omega

/-- The upper half of an exact natural product. -/
theorem highHalf_natural (x y : Word) :
    highHalf (x.setWidth 128 * y.setWidth 128) = BitVec.ofNat 64 (x.toNat * y.toNat / 2 ^ 64) := by
  have small : x.toNat * y.toNat < 2 ^ 128 := by
    calc x.toNat * y.toNat < 2 ^ 64 * 2 ^ 64 := Nat.mul_lt_mul'' x.isLt y.isLt
      _ = 2 ^ 128 := by decide
  have hx := Nat.mod_eq_of_lt (Nat.lt_trans x.isLt (by decide : 2 ^ 64 < 2 ^ 128))
  have hy := Nat.mod_eq_of_lt (Nat.lt_trans y.isLt (by decide : 2 ^ 64 < 2 ^ 128))
  apply BitVec.eq_of_toNat_eq
  rw [highHalf, BitVec.extractLsb'_toNat, BitVec.toNat_mul, BitVec.toNat_setWidth, BitVec.toNat_setWidth, hx, hy,
    Nat.mod_eq_of_lt small, BitVec.toNat_ofNat, Nat.shiftRight_eq_div_pow]

/-- The sign bit tells whether the value is negative. -/
theorem abs_eq (x : Word) : (if x.msb then 0 - x else x) = if 0 ≤ x.toInt then x else 0 - x := by
  by_cases h : 0 ≤ x.toInt
  · rw [if_pos h, if_neg (by simpa [BitVec.msb_eq_toInt] using h)]
  · rw [if_neg h, if_pos (by simpa [BitVec.msb_eq_toInt] using h)]

/-- Settles O1: the words are `binary` and `unary` words; `highHalf_signed`, `highHalf_natural` and `abs_eq` are their values
where these are not written as in R80. -/
theorem wrappingArithmetic : Obligations.WrappingArithmetic := by
  unfold Obligations.WrappingArithmetic
  refine ⟨fun s s2 g d a b x y t hg hf hr => ?_, fun s s1 g d a x t i hg hf hr => ?_, fun g d a b => ⟨rfl, rfl⟩⟩
  · exact ⟨gives_binary _ rfl hg hf hr rfl, gives_binary _ rfl hg hf hr rfl, gives_binary _ rfl hg hf hr rfl,
      gives_binary _ rfl hg hf hr (highHalf_signed x y), gives_binary _ rfl hg hf hr (highHalf_natural x y)⟩
  · exact ⟨gives_unary _ rfl hg hf hr (abs_eq x), gives_unary _ rfl hg hf hr rfl, gives_unary _ rfl hg hf hr rfl⟩

/-! ### Division (R81) -/

/-- Two words that write one register cannot share a bundle (R39). -/
theorem pairConflict_of_dests {i j : Instr} {e : Dest} (hi : i.dests = [e]) (hj : j.dests = [e]) :
    pairConflict i j = true := by
  rw [pairConflict, hi, hj]
  simp

/-- Settles O2: the words compute `divI`, `divN`, `remI` and `remN`, whose cases are those of R81. -/
theorem division : Obligations.Division := by
  unfold Obligations.Division
  intro s s2 g d a b n m t hg hf hr
  refine ⟨fun h0 => ?_, fun h0 => ?_, fun hn hm => ?_, fun h0 _ => ?_, rfl, ?_, ?_⟩
  · subst h0
    exact ⟨gives_binary _ rfl hg hf hr rfl, gives_binary _ rfl hg hf hr rfl, gives_binary _ rfl hg hf hr rfl,
      gives_binary _ rfl hg hf hr rfl⟩
  · have rest : n.toNat % m.toNat = n.toNat - n.toNat / m.toNat * m.toNat := by
      rw [Nat.mod_eq_sub_div_mul]
    exact ⟨gives_binary divN rfl hg hf hr (if_neg h0), gives_binary remN rfl hg hf hr (by rw [remN, if_neg h0, rest])⟩
  · subst hn hm
    exact ⟨gives_binary divI rfl hg hf hr (by decide), gives_binary remI rfl hg hf hr (by decide)⟩
  · have rest : n.toInt.tmod m.toInt = n.toInt - n.toInt.tdiv m.toInt * m.toInt := by
      rw [Int.tmod_def, Int.mul_comm]
    exact ⟨gives_binary divI rfl hg hf hr (if_neg h0), gives_binary remI rfl hg hf hr (by rw [remI, if_neg h0, rest])⟩
  · exact pairConflict_of_dests (e := .x d) rfl rfl
  · exact pairConflict_of_dests (e := .x d) rfl rfl

/-! ### Saturation and limits (R82, R83) -/

/-- A clamp to a range that is not empty. -/
theorem clampInt_eq {lo hi : Int} (h : lo ≤ hi) (v : Int) : clampInt lo hi v = max lo (min hi v) := by
  unfold clampInt
  grind

theorem clampI_eq (v : Int) : clampI v = BitVec.ofInt 64 (max (-2 ^ 63) (min (2 ^ 63 - 1) v)) := by
  rw [clampI, clampInt_eq (by decide)]

theorem clampN_eq (v : Int) : clampN v = BitVec.ofInt 64 (max 0 (min (2 ^ 64 - 1) v)) := by
  rw [clampN, clampInt_eq (by decide)]

/-- The smaller of two by some order is one of them, and its value is the smaller one. -/
theorem smaller_spec {α : Type} [LinearOrder α] (f : Word → α) (x y : Word) :
    ((if f x ≤ f y then x else y) = x ∨ (if f x ≤ f y then x else y) = y) ∧
      f (if f x ≤ f y then x else y) = min (f x) (f y) := by
  split_ifs with h
  · exact ⟨.inl rfl, (min_eq_left h).symm⟩
  · exact ⟨.inr rfl, (min_eq_right (le_of_not_ge h)).symm⟩

theorem larger_spec {α : Type} [LinearOrder α] (f : Word → α) (x y : Word) :
    ((if f x ≤ f y then y else x) = x ∨ (if f x ≤ f y then y else x) = y) ∧
      f (if f x ≤ f y then y else x) = max (f x) (f y) := by
  split_ifs with h
  · exact ⟨.inr rfl, (max_eq_right h).symm⟩
  · exact ⟨.inl rfl, (max_eq_left (le_of_not_ge h)).symm⟩

/-- Settles O3: the saturating words clamp once (`clampI_eq`, `clampN_eq`); the others choose by the signed or natural order
(`smaller_spec`, `larger_spec`). -/
theorem saturationAndLimits : Obligations.SaturationAndLimits := by
  unfold Obligations.SaturationAndLimits
  refine ⟨fun s s2 g d a b x y t hg hf hr => ?_, fun s s2 g d a b x y t hg hf hr => ?_⟩
  · exact ⟨gives_binary _ rfl hg hf hr (clampI_eq _), gives_binary _ rfl hg hf hr (clampN_eq _),
      gives_binary _ rfl hg hf hr (clampI_eq _), gives_binary _ rfl hg hf hr (clampN_eq _), rfl⟩
  · exact ⟨⟨_, gives_binary _ rfl hg hf hr rfl, smaller_spec BitVec.toInt x y⟩,
      ⟨_, gives_binary _ rfl hg hf hr rfl, larger_spec BitVec.toInt x y⟩,
      ⟨_, gives_binary _ rfl hg hf hr rfl, smaller_spec BitVec.toNat x y⟩,
      ⟨_, gives_binary _ rfl hg hf hr rfl, larger_spec BitVec.toNat x y⟩, rfl⟩

end Sys2Proof.Machine
end

section
/-! PROOF. Logic, `sel`, shifts and rotations (R84 to R86). -/

namespace Sys2Proof.Machine
open Sys2Proof.Safety

/-- R86: the amount is the low byte of the register. -/
theorem amount_eq (y : Word) : amount y = y.toNat % 256 := by
  rw [amount, BitVec.extractLsb'_toNat, Nat.shiftRight_zero]

/-- R86: of the immediate forms of shifts, majors 0x0C to 0x0F, bits 12 to 8 are 0. -/
theorem shiftImmediate_reserved {w : Word32} (hc : w.extractLsb' 30 1 = 1#1) (hm : w.extractLsb' 26 4 = 0b0011#4)
    (hz : w.extractLsb' 8 5 ≠ 0#5) : ∃ e, decodeWord w = .error e := by
  have major : (fld w 24 6).toNat = 0x0C ∨ (fld w 24 6).toNat = 0x0D ∨ (fld w 24 6).toNat = 0x0E ∨ (fld w 24 6).toNat = 0x0F := by
    have high := congrArg BitVec.toNat hm
    simp only [BitVec.extractLsb'_toNat, Nat.shiftRight_eq_div_pow, BitVec.toNat_ofNat] at high ⊢
    omega
  have refused : decodeA w = .error .reserved := by
    rcases major with m | m | m | m <;> simp [decodeA, m, needFixed, hz]
  exact ⟨.reserved, by simp [decodeWord, decodeRaw, hc, refused]⟩

/-- The last nine bits of a word, as two fields or as one. -/
theorem append_split (x : BitVec 23) (u : BitVec 6) (v : BitVec 3) : (x ++ u ++ v : BitVec 32) = x ++ (u ++ v : BitVec 9) :=
  BitVec.append_assoc

/-- R85: the operation code of `sel` holds the number of its predicate. -/
theorem selCode (p : KReg) : (1#6 ++ p : BitVec 9) = 0x008#9 + p.setWidth 9 := by
  revert p
  decide

/-- Settles O4: logic and shifts are `binary` and `unary` words, whose amounts are those of `amount_eq`. -/
theorem logicAndShifts : Obligations.LogicAndShifts := by
  unfold Obligations.LogicAndShifts
  refine ⟨⟨fun s s2 g p d a b x y t hg hf hr => ?_, fun s s1 g d a x t i hg hf hr => ?_⟩,
    fun s s2 g d a b x y t hg hf hr => ?_, fun s s1 g d a x t i hg hf hr => ?_, fun s g p d a b i => ?_,
    fun w hc hm hz => shiftImmediate_reserved hc hm hz⟩
  · exact ⟨gives_binary _ rfl hg hf hr rfl, gives_binary _ rfl hg hf hr rfl, gives_binary _ rfl hg hf hr rfl,
      gives_binary _ rfl hg hf hr rfl, gives_binary _ rfl hg hf hr rfl, gives_binary _ rfl hg hf hr rfl⟩
  · exact ⟨gives_unary _ rfl hg hf hr rfl, gives_unary _ rfl hg hf hr rfl, gives_unary _ rfl hg hf hr rfl,
      gives_unary _ rfl hg hf hr rfl⟩
  · rw [← amount_eq y]
    exact ⟨gives_binary _ rfl hg hf hr rfl, gives_binary _ rfl hg hf hr rfl, gives_binary _ rfl hg hf hr rfl,
      gives_binary _ rfl hg hf hr rfl⟩
  · exact ⟨gives_unary _ rfl hg hf hr rfl, gives_unary _ rfl hg hf hr rfl, gives_unary _ rfl hg hf hr rfl,
      gives_unary _ rfl hg hf hr rfl⟩
  · refine ⟨rfl, ?_, ?_, rfl, rfl⟩
    · rw [← selCode, ← append_split]
      rfl
    · simp only [List.map_cons, List.map_nil, List.cons.injEq, and_true]
      exact ⟨congrArg some (append_split _ 0#6 0#3), congrArg some (append_split _ 0#6 1#3),
        congrArg some (append_split _ 0#6 2#3), congrArg some (append_split _ 0#6 3#3),
        congrArg some (append_split _ 0#6 4#3), congrArg some (append_split _ 0#6 5#3)⟩

end Sys2Proof.Machine
end

section
/-! PROOF. Bit counts, byte reversal, bit fields, constants and `lea` (R87 to R90). -/

namespace Sys2Proof.Machine
open Sys2Proof.Safety

/-! ### Counts of bits and the order of bytes (R87) -/

/-- Among `n` positions from `i` on, `countWhile` counts those before the first in which `p` fails. -/
theorem countWhile_spec (p : Nat → Bool) (n i : Nat) :
    countWhile p n i ≤ n ∧ (∀ j < countWhile p n i, p (i + j) = true) ∧
      (countWhile p n i < n → p (i + countWhile p n i) = false) := by
  induction n generalizing i with
  | zero => exact ⟨le_refl 0, fun j hj => absurd hj (Nat.not_lt_zero j), fun h => absurd h (lt_irrefl 0)⟩
  | succ n ih =>
    obtain ⟨bound, before, first⟩ := ih (i + 1)
    by_cases hp : p i = true
    · rw [countWhile, if_pos hp]
      refine ⟨by omega, fun j hj => ?_, fun h => ?_⟩
      · cases j with
        | zero => exact hp
        | succ j => rw [Nat.add_comm j 1, ← Nat.add_assoc]; exact before j (by omega)
      · rw [Nat.add_comm _ 1, ← Nat.add_assoc]; exact first (by omega)
    · rw [countWhile, if_neg hp]
      exact ⟨Nat.zero_le _, fun j hj => absurd hj (Nat.not_lt_zero j), fun _ => by simpa using hp⟩

theorem leadingZeros_spec (x : Word) :
    leadingZeros x ≤ 64 ∧ (∀ i < leadingZeros x, x.getLsbD (63 - i) = false) ∧
      (leadingZeros x < 64 → x.getLsbD (63 - leadingZeros x) = true) := by
  simpa [leadingZeros] using countWhile_spec (fun i => !x.getLsbD (63 - i)) 64 0

theorem trailingZeros_spec (x : Word) :
    trailingZeros x ≤ 64 ∧ (∀ i < trailingZeros x, x.getLsbD i = false) ∧
      (trailingZeros x < 64 → x.getLsbD (trailingZeros x) = true) := by
  simpa [trailingZeros] using countWhile_spec (fun i => !x.getLsbD i) 64 0

/-- The bits of a number in its bytes. -/
theorem leWord_getLsbD (bs : List Byte) (k : Nat) (hk : k < 64) : (leWord bs).getLsbD k = (bs.getD (k / 8) 0).getLsbD (k % 8) := by
  induction bs generalizing k with
  | nil => simp [leWord]
  | cons b r ih =>
    rw [leWord, BitVec.getLsbD_or, BitVec.getLsbD_shiftLeft, BitVec.getLsbD_setWidth]
    by_cases h : k < 8
    · simp [h, hk, Nat.div_eq_of_lt h, Nat.mod_eq_of_lt h]
    · have next : k / 8 = (k - 8) / 8 + 1 := by omega
      have last : k % 8 = (k - 8) % 8 := by omega
      have above : b.getLsbD k = false := BitVec.getLsbD_of_ge b k (by omega)
      rw [ih (k - 8) (by omega), next, last, above, List.getD_cons_succ]
      simp [h, hk]

/-- Byte `i` of a number is the byte in place `i`. -/
theorem lane_leWord (bs : List Byte) {i : Nat} (hi : i < 8) : lane 8 i (leWord bs) = bs.getD i 0 := by
  apply BitVec.eq_of_getLsbD_eq
  intro j hj
  rw [lane, BitVec.getLsbD_extractLsb', leWord_getLsbD bs _ (by omega)]
  have place : (8 * i + j) / 8 = i := by omega
  have bit : (8 * i + j) % 8 = j := by omega
  simp [hj, place, bit]

theorem lane_byteSwap (x : Word) {i : Nat} (hi : i < 8) : lane 8 i (byteSwap x) = lane 8 (7 - i) x := by
  have len : (wordBytes x 8).length = 8 := by simp [wordBytes]
  have back : 8 - 1 - i = 7 - i := by omega
  have inside : 7 - i < 8 := by omega
  rw [byteSwap, lane_leWord _ hi, List.getD_eq_getElem?_getD, List.getElem?_reverse (by omega), len, back]
  simp [wordBytes, lane, inside]

/-! ### Bit fields (R88) -/

theorem extractSigned_getLsbD (x : Word) (q w : Nat) {j : Nat} (hj : j < 64) :
    ((x.extractLsb' q (w + 1)).signExtend 64).getLsbD j = x.getLsbD (q + min j w) := by
  rw [BitVec.getLsbD_signExtend, BitVec.msb_eq_getLsbD_last, BitVec.getLsbD_extractLsb', BitVec.getLsbD_extractLsb']
  rcases Nat.lt_or_ge w j with above | inside
  · simp [hj, min_eq_right (Nat.le_of_lt above), show ¬ j < w + 1 by omega]
  · simp [hj, min_eq_left inside, show j < w + 1 by omega]

theorem extractNatural_getLsbD (x : Word) (q w : Nat) {j : Nat} (hj : j < 64) :
    ((x.extractLsb' q (w + 1)).setWidth 64).getLsbD j = (decide (j ≤ w) && x.getLsbD (q + j)) := by
  rw [BitVec.getLsbD_setWidth, BitVec.getLsbD_extractLsb']
  simp [hj]

/-- The field takes the low bits of the source; the other bits stand. -/
theorem insertField_getLsbD (old x : Word) (q w : Nat) (h : q + w < 64) {j : Nat} (hj : j < 64) :
    (insertField old x q w).getLsbD j = if q ≤ j ∧ j ≤ q + w then x.getLsbD (j - q) else old.getLsbD j := by
  have mask : ((BitVec.allOnes 64 >>> (63 - w)) <<< q).getLsbD j = decide (q ≤ j ∧ j ≤ q + w) := by
    rw [BitVec.getLsbD_shiftLeft, BitVec.getLsbD_ushiftRight, BitVec.getLsbD_allOnes]
    grind
  simp only [insertField, BitVec.getLsbD_or, BitVec.getLsbD_and, BitVec.getLsbD_not, mask, BitVec.getLsbD_shiftLeft, hj]
  grind

/-! ### Constants and addresses (R89, R90) -/

theorem movhLow_eq (x : Word) (i : BitVec 16) : (x <<< 16) ||| i.setWidth 64 = x.extractLsb' 0 48 ++ i := by
  apply BitVec.eq_of_getLsbD_eq
  intro j hj
  rw [BitVec.getLsbD_or, BitVec.getLsbD_shiftLeft, BitVec.getLsbD_setWidth, BitVec.getLsbD_append, BitVec.getLsbD_extractLsb']
  grind

theorem movhMiddle_eq (x : Word) (i : BitVec 16) :
    (x &&& ~~~0xFFFF0000#64) ||| (i.setWidth 64 <<< 16) = x.extractLsb' 32 32 ++ i ++ x.extractLsb' 0 16 := by
  have mask : 0xFFFF0000#64 = (0#32 ++ BitVec.allOnes 16 ++ 0#16 : BitVec 64) := by decide
  rw [mask]
  apply BitVec.eq_of_getLsbD_eq
  intro j hj
  simp only [BitVec.getLsbD_or, BitVec.getLsbD_and, BitVec.getLsbD_not, BitVec.getLsbD_shiftLeft, BitVec.getLsbD_setWidth,
    BitVec.getLsbD_append, BitVec.getLsbD_extractLsb', BitVec.getLsbD_allOnes, BitVec.getLsbD_zero]
  grind

/-- A scaled signed offset, modulo 2^64. -/
theorem scaledOffset_eq {n : Nat} (hn : n ≤ 64) (f : BitVec n) (k : Nat) :
    f.signExtend 64 * BitVec.ofNat 64 k = BitVec.ofInt 64 (f.toInt * k) := by
  rw [BitVec.ofInt_mul, ← BitVec.toInt_signExtend_of_le hn, BitVec.ofInt_toInt, BitVec.ofInt_natCast]

/-- The context base without its low six bits (R47). -/
theorem contextBase_eq (c : Word) : c &&& ~~~0x3F#64 = c.extractLsb' 6 58 ++ 0#6 := by
  have mask : 0x3F#64 = (0#58 ++ BitVec.allOnes 6 : BitVec 64) := by decide
  rw [mask]
  apply BitVec.eq_of_getLsbD_eq
  intro j hj
  simp only [BitVec.getLsbD_and, BitVec.getLsbD_not, BitVec.getLsbD_append, BitVec.getLsbD_extractLsb',
    BitVec.getLsbD_allOnes, BitVec.getLsbD_zero]
  grind

theorem cmAddress_plain (t : Thread) (va : Word) (c : Nat) (f : BitVec 10) :
    cmAddress t va (2 ^ c) 0 f = va + BitVec.ofInt 64 (f.toInt * 2 ^ c) := by
  simp only [cmAddress, scaledOffset_eq (by decide : 10 ≤ 64)]
  simp

theorem cmAddress_context (t : Thread) (va : Word) (c : Nat) (f : BitVec 10) :
    cmAddress t va (2 ^ c) 1 f =
      (t.cb.extractLsb' 6 58 ++ 0#6) + va * BitVec.ofNat 64 (2 ^ c) + BitVec.ofInt 64 (f.toInt * 2 ^ c) := by
  simp only [cmAddress, scaledOffset_eq (by decide : 10 ≤ 64), contextBase_eq]
  simp

/-- R88: of `ins`, x(d) is a source too. -/
theorem ins_gives {s s2 : State} {g : KReg} {d a : XReg} {x old : Word} {t : Bool} (q w : BitVec 6) (hg : GuardOn s g)
    (hf : PortsFit s [a, d] [d]) (hr : ReadsTwo s a d x old t s2) :
    Gives (.ins g d a q w) s s2 d (insertField old x q.toNat w.toNat) t := fun s3 ht => by
  show execIns g d a q w s = _
  rw [execIns, guarded_active hg, legal_fit hf, useXX_reads hr, putX_takes ht, finish_done]

/-- R89: `movi` reads no register. -/
theorem movi_gives {s : State} {g : KReg} {v : Word} (d : XReg) (h : BitVec 1) (i : BitVec 16) (hg : GuardOn s g)
    (hv : (if h = 1#1 then i.signExtend 64 else i.setWidth 64) = v) : Gives (.movi g d h i) s s d v false := fun s3 ht => by
  subst hv
  show execMovi g d h i s = _
  rw [execMovi, guarded_active hg, putX_takes ht, finish_done]

/-- Settles O5: `leadingZeros_spec` to `lane_byteSwap` are the counts and the order of bytes, `extractSigned_getLsbD` to
`insertField_getLsbD` the fields bit by bit, `movhLow_eq`, `movhMiddle_eq`, `cmAddress_plain` and `cmAddress_context` the constants and
the addresses. -/
theorem bitsFieldsConstants : Obligations.BitsFieldsConstants := by
  unfold Obligations.BitsFieldsConstants
  refine ⟨fun s s1 g d a x t hg hf hr => ?_, fun s s1 g d a x t q w hg hf hr _ => ?_,
    fun s s2 g d a x old t q w hg hf hr inside => ?_, fun s g d i hg => ?_, fun s s1 g d x t i hg hf hr => ?_,
    fun s s1 g d a x t c f hg hf hr => ?_⟩
  · obtain ⟨lead, before, first⟩ := leadingZeros_spec x
    obtain ⟨trail, below, lowest⟩ := trailingZeros_spec x
    refine ⟨⟨_, lead, gives_unary _ rfl hg hf hr rfl, before, first⟩, ⟨_, trail, gives_unary _ rfl hg hf hr rfl, below, lowest⟩,
      ?_, ⟨_, gives_unary _ rfl hg hf hr rfl, fun i hi => lane_byteSwap x hi⟩, rfl⟩
    rw [List.countP_eq_length_filter]
    exact gives_unary _ rfl hg hf hr rfl
  · exact ⟨⟨_, gives_unary _ rfl hg hf hr rfl, fun j hj => extractSigned_getLsbD x _ _ hj⟩,
      ⟨_, gives_unary _ rfl hg hf hr rfl, fun j hj => extractNatural_getLsbD x _ _ hj⟩⟩
  · exact ⟨_, ins_gives q w hg hf hr, fun j hj => insertField_getLsbD old x _ _ inside hj⟩
  · exact ⟨movi_gives d 0 i hg rfl, movi_gives d 1 i hg rfl⟩
  · exact ⟨gives_update _ rfl hg hf hr (movhLow_eq x i), gives_update _ rfl hg hf hr (movhMiddle_eq x i)⟩
  · exact ⟨gives_unary _ rfl hg hf hr (cmAddress_plain s.rd x c.toNat f),
      gives_unary _ rfl hg hf hr (cmAddress_context s.rd x c.toNat f)⟩

end Sys2Proof.Machine
end

section
/-! PROOF. Packed words (R92): what a packed word leaves in each lane, then each operation on lanes of a width. -/

namespace Sys2Proof.Machine
open Sys2Proof.Safety

/-! ### Lanes of a packed result -/

/-- Digit `j` of a number that is given by its digits, the lowest first. -/
theorem foldr_digit {B : Nat} (hB : 0 < B) (f : Nat → Nat) (l : List Nat) {j : Nat} (hj : j < l.length) :
    l.foldr (fun i acc => f i % B + B * acc) 0 / B ^ j % B = f l[j] % B := by
  induction l generalizing j with
  | nil => exact absurd hj (Nat.not_lt_zero j)
  | cons a r ih =>
    rw [List.foldr_cons]
    cases j with
    | zero => rw [pow_zero, Nat.div_one, Nat.add_mul_mod_self_left, Nat.mod_mod, List.getElem_cons_zero]
    | succ j =>
      rw [pow_succ', ← Nat.div_div_eq_div_mul, Nat.add_mul_div_left _ _ hB, Nat.div_eq_of_lt (Nat.mod_lt _ hB), Nat.zero_add,
        List.getElem_cons_succ, ih]

theorem lane_toNat (w j : Nat) (v : Word) : (lane w j v).toNat = v.toNat / 2 ^ (w * j) % 2 ^ w := by
  rw [lane, BitVec.extractLsb'_toNat, Nat.shiftRight_eq_div_pow]

/-- Cutting a number to 64 bits keeps the lanes below. -/
theorem lane_ofNat (w j m : Nat) (h : w * j + w ≤ 64) : (lane w j (BitVec.ofNat 64 m)).toNat = m / 2 ^ (w * j) % 2 ^ w := by
  have whole : 2 ^ 64 = 2 ^ (w * j) * 2 ^ (64 - w * j) := by rw [← pow_add]; congr 1; omega
  rw [lane_toNat, BitVec.toNat_ofNat, whole, Nat.mod_mul_right_div_self, Nat.mod_mod_of_dvd _ (pow_dvd_pow 2 (by omega))]

/-- R92: each lane of a packed result is that of the lanes of the sources. -/
theorem lane_packed (w : Nat) (f : Nat → Nat → Nat) (x y : Word) {j : Nat} (hj : j < 64 / w) :
    lane w j (packed w f x y) = BitVec.ofNat w (f (lane w j x).toNat (lane w j y).toNat) := by
  have fits : w * j + w ≤ 64 := by
    calc w * j + w = w * (j + 1) := (Nat.mul_succ w j).symm
      _ ≤ w * (64 / w) := Nat.mul_le_mul_left w hj
      _ ≤ 64 := Nat.mul_div_le 64 w
  have digit := foldr_digit (Nat.two_pow_pos w)
    (fun i => f (x.toNat / 2 ^ (w * i) % 2 ^ w) (y.toNat / 2 ^ (w * i) % 2 ^ w)) (List.range (64 / w)) (j := j) (by simpa using hj)
  apply BitVec.eq_of_toNat_eq
  rw [packed, lane_ofNat w j _ fits, Nat.pow_mul, digit, List.getElem_range, BitVec.toNat_ofNat, lane_toNat, lane_toNat]

theorem laneWidth_pos (w : BitVec 1) : 0 < laneWidth w := by
  revert w
  decide

/-- A packed word gives the lanes of an operation, where it computes that operation on each. -/
theorem gives_packed {i : Instr} {s s2 : State} {g : KReg} {d a b : XReg} {x y : Word} {t : Bool} {w : BitVec 1}
    {f : Nat → Nat → Nat → Nat} {op : BitVec (laneWidth w) → BitVec (laneWidth w) → BitVec (laneWidth w)} (o : Out1)
    (he : exec i s = o) (ho : o = packedWord s g d a b w f) (hg : GuardOn s g) (hf : PortsFit s [a, b] [d]) (hr : ReadsTwo s a b x y t s2)
    (hop : ∀ p q, BitVec.ofNat (laneWidth w) (f (laneWidth w) p.toNat q.toNat) = op p q) :
    ∃ v, Gives i s s2 d v t ∧
      ∀ j < 64 / laneWidth w, lane (laneWidth w) j v = op (lane (laneWidth w) j x) (lane (laneWidth w) j y) :=
  ⟨_, gives_binary _ (he.trans ho) hg hf hr rfl, fun _ hj => (lane_packed _ _ x y hj).trans (hop _ _)⟩

/-! ### Operations on one lane -/

section
variable {n : Nat} (p q : BitVec n)

theorem ofNat_add_toNat : BitVec.ofNat n (p.toNat + q.toNat) = p + q := by
  rw [BitVec.ofNat_add, BitVec.ofNat_toNat, BitVec.ofNat_toNat, BitVec.setWidth_eq, BitVec.setWidth_eq]

theorem ofNat_sub_toNat : BitVec.ofNat n (p.toNat + 2 ^ n - q.toNat) = p - q := by
  apply BitVec.eq_of_toNat_eq
  rw [BitVec.toNat_ofNat, BitVec.toNat_sub]
  congr 1
  have := q.isLt
  omega

theorem ofNat_ite_toNat (c : Prop) [Decidable c] : BitVec.ofNat n (if c then p.toNat else q.toNat) = if c then p else q := by
  split <;> simp

theorem ofNat_ofInt (v : Int) : BitVec.ofNat n (ofInt n v) = BitVec.ofInt n v := by
  apply BitVec.eq_of_toNat_eq
  have inRange : (v % 2 ^ n).toNat < 2 ^ n := by
    have := Int.emod_lt_of_pos v (b := 2 ^ n) (by positivity)
    have := Int.emod_nonneg v (b := 2 ^ n) (by positivity)
    zify
    omega
  rw [ofInt, BitVec.toNat_ofNat, BitVec.toNat_ofInt, Nat.mod_eq_of_lt inRange]
  norm_cast

/-- A lane as a signed integer. -/
theorem toInt_toNat (hn : 0 < n) : toInt true n p.toNat = p.toInt := by
  have half : 2 ^ n = 2 * 2 ^ (n - 1) := by rw [← pow_succ']; congr 1; omega
  have small := Nat.mod_eq_of_lt p.isLt
  rw [BitVec.toInt_eq_toNat_cond, toInt, small]
  by_cases h : 2 * p.toNat < 2 ^ n
  · simp [h, show ¬ 2 ^ (n - 1) ≤ p.toNat by omega]
  · simp [h, show 2 ^ (n - 1) ≤ p.toNat by omega]

theorem clampLane_signed (v : Int) :
    BitVec.ofNat n (clampLane true n v) = BitVec.ofInt n (max (-2 ^ (n - 1)) (min (2 ^ (n - 1) - 1) v)) := by
  have range : (-2 ^ (n - 1) : Int) ≤ 2 ^ (n - 1) - 1 := by
    have : (0 : Int) < 2 ^ (n - 1) := by positivity
    omega
  rw [clampLane, if_pos rfl, ofNat_ofInt, clampInt_eq range]

theorem clampLane_natural (m : Nat) : BitVec.ofNat n (clampLane false n m) = BitVec.ofNat n (min (2 ^ n - 1) m) := by
  have range : (0 : Int) ≤ 2 ^ n - 1 := by
    have : (0 : Int) < 2 ^ n := by positivity
    omega
  have exact : max 0 (min (2 ^ n - 1) (m : Int)) = ((min (2 ^ n - 1) m : Nat) : Int) := by
    have : 1 ≤ 2 ^ n := Nat.one_le_two_pow
    push_cast [Nat.cast_sub this]
    omega
  rw [clampLane, if_neg (by decide), ofNat_ofInt, clampInt_eq range, exact, BitVec.ofInt_natCast]

theorem ofNat_shlAt (k : Nat) : BitVec.ofNat n (shlAt n p.toNat k) = if n ≤ k then 0 else p <<< k := by
  rw [shlAt]
  split
  · rfl
  · apply BitVec.eq_of_toNat_eq
    rw [BitVec.toNat_ofNat, BitVec.toNat_shiftLeft, Nat.shiftLeft_eq, Nat.mod_mod]

theorem ofNat_shrAt (k : Nat) : BitVec.ofNat n (shrAt n p.toNat k) = if n ≤ k then 0 else p >>> k := by
  rw [shrAt]
  split
  · rfl
  · apply BitVec.eq_of_toNat_eq
    have small : p.toNat / 2 ^ k < 2 ^ n := Nat.lt_of_le_of_lt (Nat.div_le_self ..) p.isLt
    rw [BitVec.toNat_ofNat, BitVec.toNat_ushiftRight, Nat.shiftRight_eq_div_pow, Nat.mod_eq_of_lt p.isLt, Nat.mod_eq_of_lt small]

theorem ofNat_sarAt (hn : 0 < n) (k : Nat) : BitVec.ofNat n (sarAt n p.toNat k) = p.sshiftRight (min k (n - 1)) := by
  rw [sarAt, ofNat_ofInt, toInt_toNat p hn, BitVec.sshiftRight, Int.shiftRight_eq_div_pow]
  norm_cast

theorem ofNat_maskLane (c : Prop) [Decidable c] : BitVec.ofNat n (maskLane n (decide c)) = if c then BitVec.allOnes n else 0 := by
  by_cases h : c
  · apply BitVec.eq_of_toNat_eq
    rw [decide_eq_true h, maskLane, if_pos rfl, if_pos h, BitVec.toNat_ofNat, BitVec.toNat_allOnes,
      Nat.mod_eq_of_lt (Nat.sub_lt (Nat.two_pow_pos n) Nat.one_pos)]
  · simp [maskLane, h]

/-! The signed operations read their lanes as signed integers. -/

theorem ofNat_addsatI (hn : 0 < n) : BitVec.ofNat n (clampLane true n (toInt true n p.toNat + toInt true n q.toNat)) =
    BitVec.ofInt n (max (-2 ^ (n - 1)) (min (2 ^ (n - 1) - 1) (p.toInt + q.toInt))) := by
  rw [toInt_toNat p hn, toInt_toNat q hn, clampLane_signed]

theorem ofNat_addsatN : BitVec.ofNat n (clampLane false n ((p.toNat : Int) + q.toNat)) =
    BitVec.ofNat n (min (2 ^ n - 1) (p.toNat + q.toNat)) := by
  exact_mod_cast clampLane_natural (p.toNat + q.toNat)

theorem ofNat_ite_toInt (hn : 0 < n) (u v : BitVec n) :
    BitVec.ofNat n (if toInt true n p.toNat ≤ toInt true n q.toNat then u.toNat else v.toNat) =
      if p.toInt ≤ q.toInt then u else v := by
  rw [toInt_toNat p hn, toInt_toNat q hn, ofNat_ite_toNat]

theorem ofNat_maskEq : BitVec.ofNat n (maskLane n (p.toNat == q.toNat)) = if p = q then BitVec.allOnes n else 0 := by
  have same : (p.toNat == q.toNat) = decide (p = q) := by simp [BitVec.toNat_eq, Bool.beq_eq_decide_eq]
  rw [same, ofNat_maskLane]

theorem ofNat_maskLtI (hn : 0 < n) : BitVec.ofNat n (maskLane n (decide (toInt true n p.toNat < toInt true n q.toNat))) =
    if p.toInt < q.toInt then BitVec.allOnes n else 0 := by
  rw [toInt_toNat p hn, toInt_toNat q hn, ofNat_maskLane]

end

/-- Settles O6: a packed word computes lane by lane (`gives_packed`), and the lemmas on one lane of any width are its operations. -/
theorem packedLanes : Obligations.PackedLanes := by
  unfold Obligations.PackedLanes
  intro s s2 g d a b x y t w hg hf hr
  have hn := laneWidth_pos w
  exact ⟨gives_packed (execPadd g d a b w s) rfl rfl hg hf hr ofNat_add_toNat,
    gives_packed (execPsub g d a b w s) rfl rfl hg hf hr ofNat_sub_toNat,
    gives_packed (execPaddsatI g d a b w s) rfl rfl hg hf hr fun p q => ofNat_addsatI p q hn,
    gives_packed (execPaddsatN g d a b w s) rfl rfl hg hf hr ofNat_addsatN,
    gives_packed (execPminI g d a b w s) rfl rfl hg hf hr fun p q => ofNat_ite_toInt p q hn p q,
    gives_packed (execPminN g d a b w s) rfl rfl hg hf hr fun p q => ofNat_ite_toNat ..,
    gives_packed (execPmaxI g d a b w s) rfl rfl hg hf hr fun p q => ofNat_ite_toInt p q hn q p,
    gives_packed (execPmaxN g d a b w s) rfl rfl hg hf hr fun p q => ofNat_ite_toNat ..,
    gives_packed (execPshl g d a b w s) rfl rfl hg hf hr fun p q => ofNat_shlAt p _,
    gives_packed (execPshr g d a b w s) rfl rfl hg hf hr fun p q => ofNat_shrAt p _,
    gives_packed (execPsar g d a b w s) rfl rfl hg hf hr fun p q => ofNat_sarAt p hn _,
    gives_packed (execPcmpEq g d a b w s) rfl rfl hg hf hr ofNat_maskEq,
    gives_packed (execPcmpLtI g d a b w s) rfl rfl hg hf hr fun p q => ofNat_maskLtI p q hn,
    gives_packed (execPcmpLtN g d a b w s) rfl rfl hg hf hr fun p q => ofNat_maskLane _, rfl⟩

end Sys2Proof.Machine
end

section
/-! PROOF. Reading a register leaves every port as it is bound (R24), so what can be read fits. -/

namespace Sys2Proof.Machine
open Sys2Proof.Safety

/-! ### What a read leaves of the ports -/

/-- `u` holds the thread in hand of `s` with its ports, and the thread that the bundle found. -/
def SamePorts (s u : State) : Prop := u.src = s.src ∧ u.cur.ports = s.cur.ports

namespace SamePorts

theorem refl (s : State) : SamePorts s s := ⟨rfl, rfl⟩

theorem trans {s t u : State} (h : SamePorts s t) (h' : SamePorts t u) : SamePorts s u :=
  ⟨h'.1.trans h.1, h'.2.trans h.2⟩

theorem foldl {β : Type} {f : State → β → State} (hf : ∀ s b, SamePorts s (f s b)) (l : List β) (s : State) :
    SamePorts s (l.foldl f s) := by
  induction l generalizing s with
  | nil => exact refl s
  | cons a r ih => exact (hf s a).trans (ih (f s a))

theorem of_accessed {s u : State} (h : Accessed s u) : SamePorts s u :=
  ⟨(congrArg State.src h.aside :), congrArg Thread.ports h.cur⟩

theorem modThread (s : State) (n : ThreadNo) {f : Thread → Thread} (hf : ∀ t : Thread, (f t).ports = t.ports) :
    SamePorts s (s.modThread n f) := by
  unfold State.modThread
  split
  · exact ⟨rfl, hf s.cur⟩
  · exact refl s

/-- A word reads the same registers as ports. -/
theorem port? {s u : State} (h : SamePorts s u) (r : XReg) : u.rd.port? r = s.rd.port? r := by
  obtain ⟨src, ports⟩ := h
  have same : u.rd.ports = s.rd.ports := by
    rw [State.rd, State.rd, src]
    cases s.src with
    | none => exact ports
    | some t => rfl
  rw [Thread.port?, Thread.port?, same]

end SamePorts

theorem samePorts_countEv (s : State) (e n : Nat) : SamePorts s (s.countEv e n) :=
  ⟨rfl, by rw [State.countEv, event_evcnt_only]⟩

theorem samePorts_postReport (s : State) (n : ThreadNo) (kind : BitVec 4) (dm : DomNo) (w0 w1 : Word) :
    SamePorts s (s.postReport n kind dm w0 w1) := by
  unfold State.postReport
  split
  · exact .refl s
  · dsimp only
    split
    · split
      · exact .trans ⟨rfl, rfl⟩ (.modThread _ n fun _ => rfl)
      · exact ⟨rfl, rfl⟩
    · refine .modThread s n fun t => ?_
      split_ifs <;> rfl

theorem samePorts_meet (s : State) (hit : List Damage) : SamePorts s (s.meet hit).1 := by
  rw [meet_eq]
  exact ⟨rfl, rfl⟩

theorem samePorts_takeEntry (s : State) (sp : Spot) : SamePorts s (s.takeEntry sp).2 := by
  unfold State.takeEntry
  split
  · have met : SamePorts s (s.meetEntry sp).1 := (samePorts_meet s _).trans ⟨rfl, rfl⟩
    have counted := met.trans (samePorts_countEv _ 14 (s.meetEntry sp).2.2)
    dsimp only
    split
    · exact counted.trans (samePorts_postReport ..)
    · exact counted
  · exact .refl s

theorem samePorts_noteWalk (s : State) (c : CombNo) (d : DomNo) (va : Nat) : SamePorts s (s.noteWalk c d va) := by
  rw [noteWalk_eq]
  exact ⟨rfl, rfl⟩

theorem samePorts_checkedState (s : State) (kind : Acc1) (va : Word) (n : Nat) : SamePorts s (checkedState s kind va n) := by
  have walked : SamePorts s (s.walksOf kind va n s) :=
    .foldl (fun _ _ => (samePorts_countEv ..).trans (samePorts_noteWalk ..)) _ _
  refine walked.trans ?_
  rw [checkedState, cacheAccess_eq]
  exact ⟨rfl, rfl⟩

theorem accessed_traceParts (s : State) (src : Source) (kind va : Nat) (ps : List Nat) :
    Accessed s (s.traceParts src kind va ps) := by
  unfold State.traceParts
  split
  · exact .foldl (fun _ _ => accessed_trace ..) _ _
  · exact .foldl (fun _ _ => accessed_trace ..) _ _

theorem accessed_readBytes (s : State) (src : Source) (kind va : Nat) (ps : List Nat) :
    Accessed s (s.readBytes src kind va ps).2.2.2 :=
  (((accessed_eccRead s ps).trans (accessed_touch ..)).trans (accessed_tookTurns ..)).trans (accessed_traceParts ..)

theorem samePorts_readNow (s : State) (va : Word) (ps : List Nat) : SamePorts s (s.readNow va ps).2 := by
  have read := SamePorts.of_accessed (accessed_readBytes s s.source 0 va.toNat ps)
  have reported : ∀ (bad : Bool) (u : State), SamePorts u (if bad then u.memoryError u.cur.num u.cur.dom va else u) := by
    intro bad u
    split
    · exact samePorts_postReport ..
    · exact .refl u
  have counted : ∀ (fixed : Nat) (u : State), SamePorts u (if fixed = 0 then u else u.countEv 14 fixed) := by
    intro fixed u
    split
    · exact .refl u
    · exact samePorts_countEv ..
  exact (read.trans (reported ..)).trans (counted ..)

/-! ### Reading a register -/

/-- A word that is done ends in a state with the property. -/
def DoneIn (P : State → Prop) (r : Res) : Prop := ∀ u, r = .done u → P u

section
variable {P : State → Prop} {s : State}

theorem doneIn_checked {kind : Acc1} {va : Word} {n : Nat} {k : List Nat → State → Res}
    (h : ∀ ps, DoneIn P (k ps (checkedState s kind va n))) : DoneIn P (checked s kind va n k) := by
  intro u e
  unfold checked at e
  split at e
  · cases e
  · split at e
    · cases e
    · cases e
    · split at e
      · cases e
      · exact h _ u e

theorem doneIn_access {kind : Acc1} {va : Word} {n : Nat} {k : List Nat → State → Res}
    (h : ∀ ps, DoneIn P (k ps (checkedState s kind va n))) : DoneIn P (access s kind va n k) := by
  unfold access accessRelaxed
  refine doneIn_checked fun ps u e => ?_
  dsimp only at e
  split at e
  · cases e
  · split at e
    · cases e
    · exact h _ u e

theorem doneIn_popPort {p : Port} {k : Word → Word → State → Res}
    (h : ∀ v w u, SamePorts s u → DoneIn P (k v w u)) : DoneIn P (popPort s p k) := by
  intro u e
  unfold popPort at e
  split at e
  · dsimp only at e
    split at e
    · cases e
    · split at e
      · cases e
      · exact h _ _ _ (samePorts_takeEntry ..) u e
  · split at e
    · refine doneIn_access (P := P) (fun ps => ?_) u e
      have read : SamePorts s ((checkedState s .read p.target 32).readDwords p.target ps).2 :=
        (samePorts_checkedState ..).trans (samePorts_readNow ..)
      intro u e
      dsimp only at e
      split at e
      · cases e
      · refine doneIn_access (P := P) (fun qs => doneIn_access (P := P) fun _ => ?_) u e
        exact h _ _ _ (((read.trans (samePorts_checkedState ..)).trans (samePorts_checkedState ..)).trans (samePorts_readNow ..))
    · split at e
      · cases e
      · exact h _ _ _ (samePorts_takeEntry ..) u e

end

/-- R24: a register that can be read is not bound for pushing, and its read leaves the ports. -/
theorem reads_fit {s s1 : State} {r : XReg} {v : Word} {t : Bool} (h : ReadsAs s r v t s1) :
    SamePorts s s1 ∧ ∀ p, s.rd.port? r = some p → p.push = false := by
  have e := h fun _ _ u => .done u
  unfold useX at e
  split at e
  · cases e
  · split at e
    · next free =>
      rw [Res.done.injEq] at e
      exact ⟨e ▸ .refl s, fun p hp => by rw [free] at hp; cases hp⟩
    · next p bound =>
      split at e
      · cases e
      · next pops =>
        refine ⟨?_, fun q hq => by rw [bound] at hq; cases hq; simpa using pops⟩
        split at e
        · rw [Res.done.injEq] at e
          exact e ▸ .refl s
        · refine doneIn_popPort (P := SamePorts s) (fun v w u hu x ex => ?_) s1 e
          rw [Res.done.injEq] at ex
          exact ex ▸ hu.trans ⟨rfl, rfl⟩

/-- What is read as two sources fits. -/
theorem portsFit_of_readsTwo {s s2 : State} {a b : XReg} {x y : Word} {t : Bool} (h : ReadsTwo s a b x y t s2) :
    PortsFit s [a, b] [] := by
  obtain ⟨ta, tb, s1, ha, hb, -⟩ := h
  obtain ⟨ports, fitsA⟩ := reads_fit ha
  have fitsB := (reads_fit hb).2
  refine ⟨fun r hr => ?_, by simp⟩
  rcases List.mem_pair.mp hr with rfl | rfl
  · exact fitsA
  · exact fun p hp => fitsB p ((ports.port? r).trans hp)

/-- R24: a register that can be written is not bound for popping. -/
theorem takes_fit {s s1 : State} {d : XReg} {v : Word} (h : Takes s d v s1) : ∀ p, s.rd.port? d = some p → p.push = true := by
  intro p hp
  have e := h fun _ => .moved s
  cases push : p.push with
  | true => rfl
  | false =>
    simp only [destX, destAfter, hp, push] at e
    split at e <;> cases e

/-- R73: a register that is read and then written is no port. -/
theorem unbound_of_reads_takes {s s1 s2 : State} {d : XReg} {x v : Word} {t : Bool} (hr : ReadsAs s d x t s1)
    (hw : Takes s1 d v s2) : s.rd.port? d = none := by
  obtain ⟨ports, pops⟩ := reads_fit hr
  by_contra bound
  obtain ⟨p, hp⟩ := Option.ne_none_iff_exists'.mp bound
  have pushes := takes_fit hw p ((ports.port? d).trans hp)
  rw [pops p hp] at pushes
  cases pushes

end Sys2Proof.Machine
end

section
/-! PROOF. Compares and the predicate group (R8, R76 to R79). -/

namespace Sys2Proof.Machine
open Sys2Proof.Safety

/-! ### `cmp` and `cmpi` (R76, R77) -/

/-- R77: a compare with an immediate. -/
theorem givesK_compareImm {i : Instr} {s s1 : State} {g k : KReg} {a : XReg} {x : Word} {t v : Bool} {m : BitVec 10} {fn : Nat}
    (o : Out1) (he : exec i s = o) (ho : o = compareImm s g k a m fn) (hg : GuardOn s g) (hr : ReadsAs s a x t s1)
    (hv : condition fn x (m.signExtend 64) = v) : GivesK i s s1 k v := by
  subst hv
  refine (he.trans ho).trans ?_
  rw [compareImm, guarded_active hg, hr, putK, finish_done]

/-- A compare with an immediate that is sign-extended, in the signed order. -/
theorem signExtend_toInt (i : BitVec 10) : (i.signExtend 64).toInt = i.toInt := BitVec.toInt_signExtend_of_le (by decide)

theorem condition_ne (x y : Word) : condition 1 x y = decide (x ≠ y) := (decide_not (p := x = y)).symm

theorem condition_common (x y : Word) : condition 10 x y = decide (x &&& y ≠ 0) := (decide_not (p := x &&& y = 0)).symm

/-! ### `fcmp` (R78) -/

theorem eq_of_nan_left {p : Num} (q : Num) (h : p.isNan = true) : p.eq q = false := by
  cases p with
  | nan => rfl
  | inf | fin => cases h

theorem eq_of_nan_right (p : Num) {q : Num} (h : q.isNan = true) : p.eq q = false := by
  cases q with
  | nan => cases p <;> rfl
  | inf | fin => cases h

/-- A NaN is equal to nothing. -/
theorem eq_eq_and (p q : Num) : p.eq q = (!(p.isNan || q.isNan) && p.eq q) := by
  cases hp : p.isNan
  · cases hq : q.isNan
    · rfl
    · rw [eq_of_nan_right p hq]; rfl
  · rw [eq_of_nan_left q hp]; rfl

theorem givesK_fcmp {s s2 : State} {g k : KReg} {a b : XReg} {x y : Word} {t : Bool} {f : BitVec 10} {r : Bool} {fl : FFlags}
    (hg : GuardOn s g) (hr : ReadsTwo s a b x y t s2) (hv : s.rd.fcmp f.toNat x y = (r, fl)) :
    GivesK (.fcmp g k a b f) s (s2.raise fl) k r := by
  show execFcmp g k a b f s = _
  rw [execFcmp, guarded_active hg, legal_fit (portsFit_of_readsTwo hr), useXX_reads hr, hv, putK, finish_done]

/-- Settles O7: `cmp` and `cmpi` write `condition`; `fcmp` compares the flushed sources, and its reads fit
(`portsFit_of_readsTwo`). -/
theorem comparisons : Obligations.Comparisons := by
  unfold Obligations.Comparisons
  refine ⟨fun s s2 g k a b x y t hg hf hr => ?_, fun s s1 g k a x t i hg hr => ?_, fun s s2 g k a b x y t hg hr => ?_⟩
  · exact ⟨givesK_compare _ rfl hg hf hr rfl, givesK_compare _ rfl hg hf hr (condition_ne x y),
      givesK_compare _ rfl hg hf hr rfl, givesK_compare _ rfl hg hf hr rfl, givesK_compare _ rfl hg hf hr rfl,
      givesK_compare _ rfl hg hf hr rfl, givesK_compare _ rfl hg hf hr rfl, givesK_compare _ rfl hg hf hr rfl,
      givesK_compare _ rfl hg hf hr rfl, givesK_compare _ rfl hg hf hr rfl,
      givesK_compare _ rfl hg hf hr (condition_common x y), fun f => rfl⟩
  · rw [← signExtend_toInt i]
    exact ⟨givesK_compareImm (execCmpiEq g k a i s) rfl rfl hg hr rfl,
      givesK_compareImm (execCmpiNe g k a i s) rfl rfl hg hr (condition_ne x _),
      givesK_compareImm (execCmpiLt g k a i s) rfl rfl hg hr rfl, givesK_compareImm (execCmpiLe g k a i s) rfl rfl hg hr rfl,
      givesK_compareImm (execCmpiGt g k a i s) rfl rfl hg hr rfl, givesK_compareImm (execCmpiGe g k a i s) rfl rfl hg hr rfl,
      givesK_compareImm (execCmpiLtN g k a i s) rfl rfl hg hr rfl, givesK_compareImm (execCmpiGeN g k a i s) rfl rfl hg hr rfl, rfl⟩
  · have equal := eq_eq_and (s.rd.src32 x) (s.rd.src32 y)
    have differs : (!(s.rd.src32 x).eq (s.rd.src32 y)) =
        ((s.rd.src32 x).isNan || (s.rd.src32 y).isNan || !(s.rd.src32 x).eq (s.rd.src32 y)) := by
      conv_lhs => rw [equal]
      simp [Bool.not_and]
    exact ⟨givesK_fcmp hg hr (congrArg₂ Prod.mk equal rfl), givesK_fcmp hg hr (congrArg₂ Prod.mk differs rfl),
      givesK_fcmp hg hr rfl, givesK_fcmp hg hr rfl, givesK_fcmp hg hr rfl⟩

/-! ### Predicates (R8, R79) -/

theorem pred_zero (t : Thread) : t.pred 0 = true := rfl

theorem setPred_pw (t : Thread) {k : KReg} (b : Bool) (hk : k ≠ 0) :
    (t.setPred k b).pw = if b then t.pw ||| (1#8 <<< k.toNat) else t.pw &&& ~~~(1#8 <<< k.toNat) :=
  congrArg Thread.pw (if_neg hk)

theorem pred_setPred_same (t : Thread) {k : KReg} (b : Bool) (hk : k ≠ 0) : (t.setPred k b).pred k = b := by
  have inWord : k.toNat < 8 := k.isLt
  have named : (k == 0#3) = false := by simpa using hk
  rw [Thread.pred, setPred_pw t b hk, named, Bool.false_or]
  cases b <;> simp [inWord]

theorem pred_setPred_ne (t : Thread) {k q : KReg} (b : Bool) (h : q ≠ k) : (t.setPred k b).pred q = t.pred q := by
  have inWord : q.toNat < 8 := q.isLt
  have apart : (1#8 <<< k.toNat).getLsbD q.toNat = false := by
    have : q.toNat ≠ k.toNat := fun e => h (BitVec.eq_of_toNat_eq e)
    rw [BitVec.getLsbD_shiftLeft, BitVec.getLsbD_one]
    grind
  rcases eq_or_ne k 0 with rfl | hk
  · rfl
  · rw [Thread.pred, Thread.pred, setPred_pw t b hk]
    cases b
    · simp only [Bool.false_eq_true, if_false, BitVec.getLsbD_and, BitVec.getLsbD_not, apart, inWord, decide_true,
        Bool.not_false, Bool.and_true]
    · simp only [if_true, BitVec.getLsbD_or, apart, Bool.or_false]

/-- The last bits of a predicate word, as one field or as two. -/
theorem append_zeros (x : BitVec 25) : (x ++ 0#7 : BitVec 32) = x ++ 0#4 ++ 0#3 :=
  (BitVec.append_assoc (x₁ := x) (x₂ := 0#4) (x₃ := 0#3)).symm

/-- The bits for a second source that a predicate word lacks. -/
theorem append_noSource (x : BitVec 18) (f : BitVec 3) : (x ++ 0#4 ++ f ++ 0#7 : BitVec 32) = x ++ 0#1 ++ 0#3 ++ f ++ 0#4 ++ 0#3 := by
  have joined : (x ++ 0#4 : BitVec 22) = x ++ 0#1 ++ 0#3 :=
    (BitVec.append_assoc (x₁ := x) (x₂ := 0#1) (x₃ := 0#3)).symm
  rw [append_zeros, joined]

/-- R28, R39: a write of pw counts as a write of each predicate. -/
theorem dests_pw (g : KReg) (a : XReg) {q : KReg} (hq : q ≠ 0) : Dest.k q ∈ (Instr.syswr g a 4).dests := by
  show Dest.k q ∈ (List.range 7).map fun j => Dest.k (BitVec.ofNat 3 (j + 1))
  revert q
  decide

end Sys2Proof.Machine

namespace Sys2Proof.Laws
open Sys2Proof.Machine

/-- Settles O8: the predicate group writes what it reads (`givesK_predicates`); `pred_setPred_same` and `pred_setPred_ne` are what a
write changes. -/
theorem predicates : Obligations.Predicates := by
  unfold Obligations.Predicates
  refine ⟨fun s g k a b c hg => ?_, fun t k q b => ?_⟩
  · refine ⟨rfl, givesK_predicates (fun t => t.pred a && t.pred b) rfl hg rfl,
      givesK_predicates (fun t => t.pred a || t.pred b) rfl hg rfl, givesK_predicates (fun t => t.pred a != t.pred b) rfl hg rfl,
      givesK_predicates (fun t => !t.pred a) rfl hg rfl, givesK_predicates (fun t => t.pred a) rfl hg rfl,
      givesK_predicates (fun t => if t.pred c then t.pred a else t.pred b) rfl hg rfl,
      givesK_predicates (fun t => !t.pred 0) rfl hg rfl, givesK_predicates (fun t => t.pred 0) rfl hg rfl,
      fun v => by rw [← or_one_eq_append]; rfl, fun a q hq => dests_pw g a hq, ?_⟩
    simp only [List.map_cons, List.map_nil, List.cons.injEq, and_true]
    exact ⟨congrArg some (append_zeros _), congrArg some (append_zeros _), congrArg some (append_zeros _),
      congrArg some (append_noSource _ _), congrArg some (append_noSource _ _), rfl⟩
  · exact ⟨rfl, rfl, pred_setPred_same t b, pred_setPred_ne t b⟩

end Sys2Proof.Laws
end

section
/-! PROOF. Control transfer (R71 to R74). -/

namespace Sys2Proof.Machine
open Sys2Proof.Safety

/-- R71, R73: a signed word offset in bytes. -/
theorem byteOffset_eq {n : Nat} (hn : n ≤ 64) (f : BitVec n) : byteOffset f = BitVec.ofInt 64 (f.toInt * 4) :=
  scaledOffset_eq hn f 4

/-! ### Branches (R71) -/

/-- R71: x15 is no port, so it takes a link that is not held back by a pending load. -/
theorem destX_link {s : State} (h : s.rd.pend.getLsbD 15 = false) (v : Word) (k : State → Res) : destX s 15 v k = k s :=
  takes_plain (d := 15) v h rfl k

theorem setX_link (s : State) (v : Word) : s.setX 15 v false = { s with cur := s.cur.setReg 15 v false } := setX_plain v false rfl

theorem finish_jump (s u : State) (pc : Word) : finish s (.jump pc u) = .next (u.retire (some pc)) := rfl

section
variable {s : State} {g : KReg} {n : BitVec 1} (f : BitVec 20)

theorem exec_b_taken (ht : taken s g n = true) :
    exec (.b g n f) s = .next (s.retire (some (s.cur.pc + BitVec.ofInt 64 (f.toInt * 4)))) := by
  show execB g n f s = _
  rw [execB, if_pos ht, finish_jump, byteOffset_eq (by decide)]

theorem exec_call_taken (ht : taken s g n = true) (hp : s.rd.pend.getLsbD 15 = false) :
    exec (.call g n f) s = .next (({ s with cur := s.cur.setReg 15 s.nextPc false } : State).retire
      (some (s.cur.pc + BitVec.ofInt 64 (f.toInt * 4)))) := by
  show execCall g n f s = _
  rw [execCall, if_pos ht, destX_link hp, setX_link, finish_jump, byteOffset_eq (by decide)]

theorem b_not_taken (ht : taken s g n = false) : Retires (.b g n f) s s := by
  show execB g n f s = _
  rw [execB, if_neg (by simp [ht]), finish_done]

theorem call_not_taken (ht : taken s g n = false) : Retires (.call g n f) s s := by
  show execCall g n f s = _
  rw [execCall, if_neg (by simp [ht]), finish_done]

end

/-! ### Register transfers (R72) -/

section
variable {s s1 : State} {g : KReg} {a : XReg} {v : Word} {t : Bool} (hg : GuardOn s g) (hr : ReadsAs s a v t s1)
include hg hr

/-- A register transfer: `jx`, `callx` and `ret` differ in the register and in the link. -/
theorem finish_transfer (link : Bool) :
    finish s (guarded s g (useX s a fun t _ s1 => transfer s1 t link)) = finish s (transfer s1 v link) := by
  rw [guarded_active hg, hr]

theorem transfer_aligned (hv : v.extractLsb' 0 2 = 0#2) :
    finish s (guarded s g (useX s a fun t _ s1 => transfer s1 t false)) = .next (s1.retire (some v)) := by
  rw [finish_transfer hg hr, transfer, if_neg (not_not.mpr hv), if_neg (by decide), finish_jump]

theorem transfer_linked (hv : v.extractLsb' 0 2 = 0#2) (hp : s1.rd.pend.getLsbD 15 = false) :
    finish s (guarded s g (useX s a fun t _ s1 => transfer s1 t true)) =
      .next (({ s1 with cur := s1.cur.setReg 15 s1.nextPc false } : State).retire (some v)) := by
  rw [finish_transfer hg hr, transfer, if_neg (not_not.mpr hv), if_pos rfl, destX_link hp, setX_link, finish_jump]

theorem transfer_misaligned (hv : v.extractLsb' 0 2 ≠ 0#2) (link : Bool) :
    finish s (guarded s g (useX s a fun t _ s1 => transfer s1 t link)) = .next (s.trapped .align v s.cur.pc) := by
  rw [finish_transfer hg hr, transfer, if_pos hv]
  rfl

end

/-! ### `loop` (R73) -/

theorem exec_loop {s s1 s2 : State} {g : KReg} {d : XReg} {x : Word} {t : Bool} (i : BitVec 13) (hg : GuardOn s g)
    (hr : ReadsAs s d x t s1) (hw : Takes s1 d (x - 1) s2) :
    exec (.loop g d i) s = finish s (if x - 1 ≠ 0 then .jump (s.cur.pc + byteOffset i) (s2.setX d (x - 1) t)
      else .done (s2.setX d (x - 1) t)) := by
  have free := unbound_of_reads_takes hr hw
  have fits : PortsFit s [d] [d] := ⟨by simp [free], by simp [free]⟩
  show execLoop g d i s = _
  rw [execLoop, guarded_active hg, legal_fit fits, hr, hw]

/-- Settles O10: the branches by whether they are taken, the register transfers by whether their target is aligned, and `loop` by
its counter, whose register is no port (`exec_loop`). -/
theorem transfers : Obligations.Transfers := by
  unfold Obligations.Transfers
  refine ⟨fun s g n f => ⟨fun ht => ?_, fun ht => ?_⟩, fun s s1 g a v t hg hr => ⟨fun hv => ?_, fun hv => ?_⟩,
    fun s s1 s2 g d x t i hg hr hw => ⟨fun hx => ?_, fun hx => ?_⟩, fun g s => rfl, rfl, rfl⟩
  · exact ⟨exec_b_taken f ht, exec_call_taken f ht⟩
  · exact ⟨b_not_taken f ht, call_not_taken f ht⟩
  · refine ⟨transfer_aligned hg hr hv, fun ha => ?_, fun hp pos pc => ?_⟩
    · subst ha
      exact transfer_aligned hg hr hv
    · rw [← pos, ← pc]
      exact transfer_linked hg hr hv hp
  · refine ⟨transfer_misaligned hg hr hv false, transfer_misaligned hg hr hv true, fun ha => ?_⟩
    subst ha
    exact transfer_misaligned hg hr hv false
  · rw [exec_loop i hg hr hw, if_pos (sub_ne_zero.mpr hx), finish_jump, byteOffset_eq (by decide)]
  · subst hx
    rw [Retires, exec_loop i hg hr hw]
    rfl

end Sys2Proof.Machine
end

section
/-! PROOF. The claim about the memory system fails of a memory out of its canonical form (log entry 4), as those about rings do: a
stored 0 drops no cell that stands behind one of a higher address. -/

namespace Sys2Proof.Machine
open Sys2Proof.Safety

/-- A relaxed store of one byte, 0, to the first byte of bank 0, sent by core 345. -/
def zeroByteStore : Req :=
  { home := .bank 0, core := 345, slot := 3, thread := 1, dom := 0, va := 0x7E0000000000, phys := [scratchBase]
    kind := .store 1 0, dest := 0, whole := [scratchBase] }

/-- That store waits at its bank, whose first byte's cell stands behind that of a higher address. -/
def strayStore : State :=
  { State.reset with
    cur := { num := 1, place := .slot 345 3 }
    mem := [(scratchBase + 8, 1), (scratchBase, 9)]
    reqs := [zeroByteStore] }

/-- The canonical form that every step keeps excludes this memory, but the clauses do not ask for it. -/
theorem strayStore_not_memoryOk : ¬MemoryOk strayStore := by
  unfold MemoryOk
  decide

theorem zeroByteStore_whole : WholeRequest strayStore zeroByteStore := by
  unfold WholeRequest
  and_intros <;> decide +kernel

/-- The byte still reads 9 after the bank has performed the store of 0. -/
theorem strayStore_served_byte :
    (match exec (.bankPortService (.bank 0)) strayStore with
      | .next u => memGet u.mem scratchBase
      | _ => 0) = 9 := by decide +kernel

/-- Refutes O36: the clause on a request that a bank performs has no premise that memory is canonical. In `strayStore` it asks that
the byte reads 0 after a store of 0, where it reads 9 (`strayStore_served_byte`). -/
theorem not_memoryEvents : ¬Obligations.MemoryEvents := by
  rintro ⟨-, -, -, bank, -⟩
  obtain ⟨u, served, ⟨_, -, -, -, -, -, -, stores, -⟩, -⟩ := bank strayStore 0 345 1 zeroByteStore rfl (by decide +kernel)
    (by decide +kernel) zeroByteStore_whole
  obtain ⟨-, -, -, written⟩ := stores 1 0 rfl
  have byte : memGet u.mem scratchBase = 0 := written (by decide) rfl (by decide) 0 (by decide)
  have stands := strayStore_served_byte
  rw [served] at stands
  exact absurd (byte.symm.trans stands) (by decide)

end Sys2Proof.Machine
end

section
/-! PROOF. Exact values (R94, R222, R223): what an encoding stands for, and sums, products and comparisons of finite numbers. -/

namespace Sys2Proof.Machine
open Sys2Proof.Safety

/-! ### Finite numbers -/

theorem isFinite_fin {b : Bool} {n d : Nat} (hd : 0 < d) : isFinite (.fin b n d) := ⟨b, n, d, rfl, hd⟩

/-- The value of a finite number as its signed numerator over its denominator. -/
theorem valueOf_fin (b : Bool) (n d : Nat) : valueOf (.fin b n d) = (((if b then -(n : Int) else n) : Int) : ℚ) / d := by
  cases b
  · simp [valueOf]
  · simp [valueOf, neg_div]

/-- Only a numerator of 0 has the value 0. -/
theorem valueOf_eq_zero {b : Bool} {n d : Nat} (hd : 0 < d) : valueOf (.fin b n d) = 0 ↔ n = 0 := by
  have : (d : ℚ) ≠ 0 := by positivity
  cases b <;> simp [valueOf, this]

theorem valueOf_neg (x : Num) : valueOf x.neg = -valueOf x := by
  cases x with
  | nan | inf => simp [Num.neg, valueOf]
  | fin b n d => cases b <;> simp [Num.neg, valueOf]

/-! ### Sums -/

/-- The signed numerator of the sum of two quotients. -/
def sumNumerator (a : Bool) (n d : Nat) (b : Bool) (p q : Nat) : Int :=
  (if a then -((n * q : Nat) : Int) else (n * q : Nat)) + (if b then -((p * d : Nat) : Int) else (p * d : Nat))

theorem add_fin (rd a b : Bool) (n d p q : Nat) : (Num.fin a n d).add rd (.fin b p q) =
    if sumNumerator a n d b p q = 0 then (if n = 0 ∧ p = 0 ∧ a = b then .fin a 0 1 else .fin rd 0 1)
    else .fin (decide (sumNumerator a n d b p q < 0)) (sumNumerator a n d b p q).natAbs (d * q) := rfl

theorem sumNumerator_value (a b : Bool) {n d p q : Nat} (hd : 0 < d) (hq : 0 < q) :
    (sumNumerator a n d b p q : ℚ) / (d * q : Nat) = valueOf (.fin a n d) + valueOf (.fin b p q) := by
  have hd : (d : ℚ) ≠ 0 := by positivity
  have hq : (q : ℚ) ≠ 0 := by positivity
  rw [valueOf_fin, valueOf_fin, sumNumerator, div_add_div _ _ hd hq]
  refine congrArg₂ (· / ·) ?_ (Nat.cast_mul d q)
  cases a <;> cases b <;> simp <;> ring

/-- A signed numerator of which sign and magnitude are taken. -/
theorem valueOf_natAbs (u : Int) (d : Nat) : valueOf (.fin (decide (u < 0)) u.natAbs d) = (u : ℚ) / d := by
  rw [valueOf_fin]
  congr 2
  by_cases h : u < 0
  · simp only [h, decide_true, if_true]; omega
  · simp only [h, decide_false, Bool.false_eq_true, if_false]; omega

section
variable (rd a b : Bool) {n d p q : Nat} (hd : 0 < d) (hq : 0 < q)
include hd hq

theorem sumNumerator_eq_zero : sumNumerator a n d b p q = 0 ↔ valueOf (.fin a n d) + valueOf (.fin b p q) = 0 := by
  have : ((d * q : Nat) : ℚ) ≠ 0 := by positivity
  rw [← sumNumerator_value a b hd hq, div_eq_zero_iff, or_iff_left this]
  norm_cast

theorem add_value : valueOf ((Num.fin a n d).add rd (.fin b p q)) = valueOf (.fin a n d) + valueOf (.fin b p q) := by
  rw [add_fin]
  split
  · next zero =>
    rw [(sumNumerator_eq_zero a b hd hq).mp zero]
    split <;> simp [valueOf]
  · rw [valueOf_natAbs, sumNumerator_value a b hd hq]

theorem add_isFinite : isFinite ((Num.fin a n d).add rd (.fin b p q)) := by
  rw [add_fin]
  split
  · split <;> exact isFinite_fin Nat.one_pos
  · exact isFinite_fin (Nat.mul_pos hd hq)

/-- R94: the sign of an exact zero sum. -/
theorem add_sign (zero : valueOf (.fin a n d) + valueOf (.fin b p q) = 0) :
    ((Num.fin a n d).add rd (.fin b p q)).sign = if valueOf (.fin a n d) = 0 ∧ a = b then a else rd := by
  rw [add_fin, if_pos ((sumNumerator_eq_zero a b hd hq).mpr zero)]
  have both : n = 0 ∧ p = 0 ∧ a = b ↔ valueOf (.fin a n d) = 0 ∧ a = b := by
    rw [valueOf_eq_zero hd]
    constructor
    · exact fun ⟨hn, _, hab⟩ => ⟨hn, hab⟩
    · refine fun ⟨hn, hab⟩ => ⟨hn, ?_, hab⟩
      rw [(valueOf_eq_zero hd).mpr hn, zero_add] at zero
      exact (valueOf_eq_zero hq).mp zero
  rw [if_congr both rfl rfl]
  split <;> rfl

end

/-! ### Products and the fused form -/

theorem mul_value (a b : Bool) (n d p q : Nat) :
    valueOf ((Num.fin a n d).mul (.fin b p q)) = valueOf (.fin a n d) * valueOf (.fin b p q) := by
  cases a <;> cases b <;> simp [Num.mul, valueOf, mul_div_mul_comm, mul_comm]

theorem mul_isFinite {x y : Num} (hx : isFinite x) (hy : isFinite y) : isFinite (x.mul y) := by
  obtain ⟨a, n, d, rfl, hd⟩ := hx
  obtain ⟨b, p, q, rfl, hq⟩ := hy
  exact isFinite_fin (Nat.mul_pos hd hq)

/-- A finite product is added as any number is. -/
theorem fma_eq_add {x y : Num} (rd : Bool) (z : Num) (h : isFinite (x.mul y)) : x.fma rd y z = (x.mul y).add rd z := by
  obtain ⟨b, n, d, e, -⟩ := h
  simp only [Num.fma, e]

/-- R94: sums, products and the fused form of finite numbers are exact; the signs of products and of zero sums. -/
theorem exact_operations {x y z : Num} (rd : Bool) (hx : isFinite x) (hy : isFinite y) (hz : isFinite z) :
    isFinite (x.add rd y) ∧ valueOf (x.add rd y) = valueOf x + valueOf y ∧ isFinite (x.mul y) ∧
    valueOf (x.mul y) = valueOf x * valueOf y ∧ isFinite (x.fma rd y z) ∧
    valueOf (x.fma rd y z) = valueOf x * valueOf y + valueOf z ∧ valueOf x.neg = -valueOf x ∧
    (x.mul y).sign = xor x.sign y.sign ∧
    (valueOf x + valueOf y = 0 → (x.add rd y).sign = if valueOf x = 0 ∧ x.sign = y.sign then x.sign else rd) := by
  have finite := mul_isFinite hx hy
  rw [fma_eq_add rd z finite]
  obtain ⟨a, n, d, rfl, hd⟩ := hx
  obtain ⟨b, p, q, rfl, hq⟩ := hy
  obtain ⟨c, u, v, rfl, hv⟩ := hz
  have product : (Num.fin a n d).mul (.fin b p q) = .fin (a != b) (n * p) (d * q) := rfl
  have fused := add_value rd (a != b) c (n := n * p) (p := u) (Nat.mul_pos hd hq) hv
  refine ⟨add_isFinite rd a b hd hq, add_value rd a b hd hq, finite, mul_value .., ?_, ?_, valueOf_neg _, rfl,
    add_sign rd a b hd hq⟩
  · exact product ▸ add_isFinite rd (a != b) c (Nat.mul_pos hd hq) hv
  · rw [← mul_value, product]
    exact fused

/-! ### NaNs and infinities (R94) -/

section
variable {x : Num} (h : x.isNan = true)
include h

theorem add_nan_left (rd : Bool) (y : Num) : (x.add rd y).isNan = true := by
  cases x with
  | nan => cases y <;> rfl
  | inf | fin => cases h

theorem add_nan_right (rd : Bool) (y : Num) : (y.add rd x).isNan = true := by
  cases x with
  | nan => cases y <;> rfl
  | inf | fin => cases h

theorem mul_nan_left (y : Num) : (x.mul y).isNan = true := by
  cases x with
  | nan => cases y <;> rfl
  | inf | fin => cases h

theorem mul_nan_right (y : Num) : (y.mul x).isNan = true := by
  cases x with
  | nan => cases y <;> rfl
  | inf | fin => cases h

end

/-- A product that is a NaN makes the fused form one, and so does an addend. -/
theorem fma_nan {x y z : Num} (rd : Bool) (h : (x.mul y).isNan = true ∨ z.isNan = true) : (x.fma rd y z).isNan = true := by
  unfold Num.fma
  dsimp only
  split
  · rfl
  · exact h.elim (fun h => add_nan_left h rd z) (fun h => add_nan_right h rd _)

section
variable {x : Num} (h : x.signalling = true)
include h

theorem isNan_of_signalling : x.isNan = true := by
  cases x with
  | nan => rfl
  | inf | fin => cases h

theorem add_signalling_left (rd : Bool) (y : Num) : x.add rd y = .nan true := by
  cases x with
  | nan s => cases h; cases y <;> rfl
  | inf | fin => cases h

theorem add_signalling_right (rd : Bool) (y : Num) : y.add rd x = .nan true := by
  cases x with
  | nan s => cases h; cases y <;> simp [Num.add]
  | inf | fin => cases h

theorem mul_signalling_left (y : Num) : x.mul y = .nan true := by
  cases x with
  | nan s => cases h; cases y <;> rfl
  | inf | fin => cases h

theorem neg_signalling : x.neg.signalling = true := by
  cases x with
  | nan s => exact h
  | inf | fin => cases h

end

theorem add_opposite_infinities (rd : Bool) {p q : Bool} (h : p ≠ q) : (Num.inf p).add rd (.inf q) = .nan true := if_neg h

/-- A number and its opposite: the sum is an exact zero. -/
theorem add_opposite (rd p : Bool) (n m : Nat) : (Num.fin p n m).add rd (.fin (!p) n m) = .fin rd 0 1 := by
  have zero : sumNumerator p n m (!p) n m = 0 := by cases p <;> simp [sumNumerator]
  rw [add_fin, if_pos zero, if_neg (fun h => by cases p <;> simp at h)]

/-! ### Comparisons -/

theorem lt_fin (a b : Bool) {n d p q : Nat} (hd : 0 < d) (hq : 0 < q) :
    (Num.fin a n d).lt (.fin b p q) = decide (valueOf (.fin a n d) < valueOf (.fin b p q)) := by
  have hd : (0 : ℚ) < d := by positivity
  have hq : (0 : ℚ) < q := by positivity
  rw [valueOf_fin, valueOf_fin]
  show decide (_ < _) = decide (_ < _)
  rw [decide_eq_decide, div_lt_div_iff₀ hd hq]
  simp only [Num.int]
  exact_mod_cast Iff.rfl

end Sys2Proof.Machine
end

section
/-! PROOF. The grid of a format (R222): the magnitudes of its encodings, one above the other, and what an encoding stands for. -/

namespace Sys2Proof.Machine
open Sys2Proof.Safety

/-! ### Scaled numbers -/

theorem scaled_pos (m : Nat) (e : Int) : 0 < (scaled m e).2 := by
  unfold scaled
  split
  · exact Nat.one_pos
  · exact Nat.two_pow_pos _

theorem scaled_value (m : Nat) (e : Int) : ((scaled m e).1 : ℚ) / (scaled m e).2 = m * 2 ^ e := by
  unfold scaled
  split
  · next h =>
    obtain ⟨k, rfl⟩ := Int.eq_ofNat_of_zero_le h
    simp
  · next h =>
    obtain ⟨k, hk⟩ := Int.eq_ofNat_of_zero_le (show 0 ≤ -e by omega)
    rw [show e = -(k : Int) by omega]
    simp [div_eq_mul_inv]

theorem valueOf_scaled (b : Bool) (m : Nat) (e : Int) :
    valueOf (.fin b (scaled m e).1 (scaled m e).2) = (if b then -1 else 1) * (m * (2 : ℚ) ^ e) := by
  rw [valueOf, scaled_value]

/-! ### Formats -/

theorem Fmt.one_le_m (f : Fmt) : 1 ≤ f.m := by cases f <;> decide

theorem Fmt.m_pos_pow (f : Fmt) : 0 < 2 ^ f.m := Nat.two_pow_pos _

/-- The exponent of the least unit of a format: that of its subnormal encodings. -/
def Fmt.low (f : Fmt) : Int := 1 - f.bias - f.m

/-- The greatest finite encoding lies among the normal ones, and infinity and NaN beside or above it, below the sign. -/
theorem Fmt.bounds (f : Fmt) : 2 ^ f.m ≤ f.maxFinite ∧ f.maxFinite < 2 ^ (f.e + f.m) ∧ f.inf < 2 ^ (f.e + f.m) ∧
    2 ^ f.m ≤ f.inf := by
  cases f <;> decide

/-! ### Magnitudes -/

/-- The magnitude of an encoding as units: in the binade `j` above the lowest, `k` units of `2 ^ (low + j)`. -/
theorem magnitude_grid (f : Fmt) {j k : Nat} (hj : j = 0 ∨ 2 ^ f.m ≤ k) (hk : k ≤ 2 ^ (f.m + 1)) :
    magnitude f (j * 2 ^ f.m + k) = k * (2 : ℚ) ^ (f.low + j) := by
  have pos := f.m_pos_pow
  have two : (2 : ℚ) ≠ 0 := by norm_num
  have cut : ∀ a : ℤ, (2 : ℚ) ^ (a - f.m) = 2 ^ a / 2 ^ f.m := fun a => by rw [zpow_sub₀ two, zpow_natCast]
  rw [pow_succ] at hk
  rcases Nat.lt_or_ge k (2 ^ f.m) with small | large
  · obtain rfl : j = 0 := by omega
    simp only [magnitude, Nat.zero_mul, Nat.zero_add, Nat.div_eq_of_lt small, Nat.mod_eq_of_lt small, if_true, Fmt.low,
      Nat.cast_zero, add_zero, cut]
    ring
  · obtain ⟨r, rfl⟩ := Nat.exists_eq_add_of_le large
    rcases Nat.lt_or_ge r (2 ^ f.m) with inside | top
    · have e : (j * 2 ^ f.m + (2 ^ f.m + r)) / 2 ^ f.m = j + 1 := by
        rw [show j * 2 ^ f.m + (2 ^ f.m + r) = r + 2 ^ f.m * (j + 1) by ring, Nat.add_mul_div_left _ _ pos,
          Nat.div_eq_of_lt inside, Nat.zero_add]
      have m : (j * 2 ^ f.m + (2 ^ f.m + r)) % 2 ^ f.m = r := by
        rw [show j * 2 ^ f.m + (2 ^ f.m + r) = r + 2 ^ f.m * (j + 1) by ring, Nat.add_mul_mod_self_left, Nat.mod_eq_of_lt inside]
      have exponent : f.low + j = ((j + 1 : Nat) : ℤ) - f.bias - f.m := by rw [Fmt.low]; push_cast; ring
      simp only [magnitude, e, m, if_neg (Nat.succ_ne_zero j), exponent, cut]
      push_cast
      field_simp
    · obtain rfl : r = 2 ^ f.m := by omega
      have e : (j * 2 ^ f.m + (2 ^ f.m + 2 ^ f.m)) / 2 ^ f.m = j + 2 := by
        rw [show j * 2 ^ f.m + (2 ^ f.m + 2 ^ f.m) = (j + 2) * 2 ^ f.m by ring, Nat.mul_div_cancel _ pos]
      have m : (j * 2 ^ f.m + (2 ^ f.m + 2 ^ f.m)) % 2 ^ f.m = 0 := by
        rw [show j * 2 ^ f.m + (2 ^ f.m + 2 ^ f.m) = (j + 2) * 2 ^ f.m by ring, Nat.mul_mod_left]
      have exponent : f.low + j = ((j + 2 : Nat) : ℤ) - f.bias - f.m - 1 := by rw [Fmt.low]; push_cast; ring
      simp only [magnitude, e, m, if_neg (show ¬ j + 2 = 0 by omega), exponent]
      rw [zpow_sub_one₀ two, cut]
      push_cast
      field_simp
      ring

/-- Every encoding is some units in some binade, fewer than those of the next. -/
theorem exists_grid (f : Fmt) (k : Nat) :
    ∃ j u, k = j * 2 ^ f.m + u ∧ (j = 0 ∨ 2 ^ f.m ≤ u) ∧ u < 2 ^ (f.m + 1) := by
  have pos := f.m_pos_pow
  have split := Nat.div_add_mod k (2 ^ f.m)
  have rest := Nat.mod_lt k pos
  rw [pow_succ]
  rcases Nat.eq_zero_or_pos (k / 2 ^ f.m) with zero | above
  · exact ⟨0, k, by omega, .inl rfl, by rw [zero] at split; omega⟩
  · obtain ⟨j, hj⟩ := Nat.exists_eq_add_of_le above
    refine ⟨j, 2 ^ f.m + k % 2 ^ f.m, ?_, .inr (Nat.le_add_right ..), by omega⟩
    rw [hj] at split
    calc k = 2 ^ f.m * (1 + j) + k % 2 ^ f.m := split.symm
      _ = j * 2 ^ f.m + (2 ^ f.m + k % 2 ^ f.m) := by ring

/-- R222: a greater encoding has a greater magnitude. -/
theorem magnitude_strictMono (f : Fmt) : StrictMono (magnitude f) := by
  refine strictMono_nat_of_lt_succ fun k => ?_
  obtain ⟨j, u, rfl, hj, hu⟩ := exists_grid f k
  have unit : (0 : ℚ) < 2 ^ (f.low + j) := by positivity
  rw [magnitude_grid f hj hu.le, Nat.add_assoc, magnitude_grid f (hj.imp_right fun h => h.trans (Nat.le_succ u)) hu]
  push_cast
  linarith

theorem magnitude_zero (f : Fmt) : magnitude f 0 = 0 := by
  have := magnitude_grid f (j := 0) (k := 0) (.inl rfl) (Nat.zero_le _)
  simpa using this

/-- The least normal magnitude. -/
theorem magnitude_leastNormal (f : Fmt) : magnitude f (2 ^ f.m) = 2 ^ (1 - f.bias : ℤ) := by
  have grid := magnitude_grid f (j := 0) (k := 2 ^ f.m) (.inl rfl) (Nat.pow_le_pow_right (by decide) (Nat.le_succ _))
  have two : (2 : ℚ) ≠ 0 := by norm_num
  rw [Nat.zero_mul, Nat.zero_add] at grid
  rw [grid, Fmt.low, Nat.cast_zero, add_zero, zpow_sub₀ two, zpow_natCast]
  push_cast
  field_simp

/-- The magnitude between two neighbours tells the lower one. -/
theorem magnitude_unique {f : Fmt} {k l : Nat} {x : ℚ} (hk : magnitude f k ≤ x) (hk' : x < magnitude f (k + 1))
    (hl : magnitude f l ≤ x) (hl' : x < magnitude f (l + 1)) : k = l := by
  have mono := magnitude_strictMono f
  have h1 := mono.lt_iff_lt.mp (hk.trans_lt hl')
  have h2 := mono.lt_iff_lt.mp (hl.trans_lt hk')
  omega

/-! ### Reading an encoding (R222, R223) -/

/-- The magnitudes that are NaNs (R223). -/
def Fmt.nanAt : Fmt → Nat → Bool
  | .f8n, mag => mag == 0x79
  | f, mag => decide (f.inf < mag)

/-- The NaNs that signal: in B16 and F32 the first bit of the mantissa is 0 (R223). -/
def Fmt.signalsAt : Fmt → Nat → Bool
  | .f8n, _ | .f8w, _ => false
  | f, mag => mag % 2 ^ f.m / 2 ^ (f.m - 1) % 2 == 0

/-- The units of a finite encoding and their exponent: a subnormal has none but its mantissa. -/
def Fmt.unitsAt (f : Fmt) (mag : Nat) : Nat × Int :=
  if mag / 2 ^ f.m = 0 then (mag % 2 ^ f.m, f.low)
  else (2 ^ f.m + mag % 2 ^ f.m, ((mag / 2 ^ f.m : Nat) : Int) - f.bias - f.m)

/-- The sign bit of an encoding. -/
def Fmt.signAt (f : Fmt) (w : Nat) : Bool := w / 2 ^ (f.e + f.m) % 2 == 1

theorem decodeF_eq (f : Fmt) (w : Nat) : decodeF f w =
    let mag := w % 2 ^ (f.e + f.m)
    if f.nanAt mag then .nan (f.signalsAt mag)
    else if mag == f.inf then .inf (f.signAt w)
    else .fin (f.signAt w) (scaled (f.unitsAt mag).1 (f.unitsAt mag).2).1 (scaled (f.unitsAt mag).1 (f.unitsAt mag).2).2 := by
  have finite : ∀ mag : Nat, (if mag / 2 ^ f.m = 0 then
      Num.fin (f.signAt w) (scaled (mag % 2 ^ f.m) f.low).1 (scaled (mag % 2 ^ f.m) f.low).2
      else .fin (f.signAt w) (scaled (2 ^ f.m + mag % 2 ^ f.m) (((mag / 2 ^ f.m : Nat) : Int) - f.bias - f.m)).1
        (scaled (2 ^ f.m + mag % 2 ^ f.m) (((mag / 2 ^ f.m : Nat) : Int) - f.bias - f.m)).2) =
      .fin (f.signAt w) (scaled (f.unitsAt mag).1 (f.unitsAt mag).2).1 (scaled (f.unitsAt mag).1 (f.unitsAt mag).2).2 := by
    intro mag
    unfold Fmt.unitsAt
    split <;> rfl
  dsimp only
  rw [← finite]
  cases f <;> rfl

/-- The units of an encoding have its magnitude. -/
theorem unitsAt_value (f : Fmt) (mag : Nat) : ((f.unitsAt mag).1 : ℚ) * 2 ^ (f.unitsAt mag).2 = magnitude f mag := by
  have two : (2 : ℚ) ≠ 0 := by norm_num
  have cut : ∀ a : ℤ, (2 : ℚ) ^ (a - f.m) = 2 ^ a / 2 ^ f.m := fun a => by rw [zpow_sub₀ two, zpow_natCast]
  unfold Fmt.unitsAt magnitude
  split
  · next h =>
    simp only [h, if_true, Fmt.low, cut]
    ring
  · next h =>
    simp only [h, if_false, cut]
    generalize mag / 2 ^ f.m = e
    push_cast
    field_simp

section
variable {f : Fmt} {w : Nat}

theorem decodeF_inf (h : w % 2 ^ (f.e + f.m) = f.inf) : decodeF f w = .inf (f.signAt w) := by
  have notNan : f.nanAt f.inf = false := by cases f <;> decide
  rw [decodeF_eq]
  dsimp only
  rw [h, notNan, if_neg (by decide), if_pos (by simp)]

theorem decodeF_nan (h : f.nanAt (w % 2 ^ (f.e + f.m)) = true) : decodeF f w = .nan (f.signalsAt (w % 2 ^ (f.e + f.m))) := by
  rw [decodeF_eq]
  exact if_pos h

/-- The finite encodings. -/
theorem decodeF_fin (hn : f.nanAt (w % 2 ^ (f.e + f.m)) = false) (hi : w % 2 ^ (f.e + f.m) ≠ f.inf) :
    ∃ n d, decodeF f w = .fin (f.signAt w) n d ∧ 0 < d ∧ (n : ℚ) / d = magnitude f (w % 2 ^ (f.e + f.m)) := by
  refine ⟨_, _, ?_, scaled_pos .., (scaled_value ..).trans (unitsAt_value ..)⟩
  rw [decodeF_eq]
  dsimp only
  rw [hn, if_neg (by decide), if_neg (by simpa using hi)]

end

/-- R223: which magnitudes are NaNs, and which are finite. -/
theorem nanAt_of_inf_lt {f : Fmt} {mag : Nat} (h8 : f = .f8n → mag = 0x79) (h : f.inf < mag) : f.nanAt mag = true := by
  cases f with
  | f8n => simp [Fmt.nanAt, h8 rfl]
  | f8w | b16 | f32 => exact decide_eq_true h

theorem finiteAt {f : Fmt} {mag : Nat} (h : mag ≤ f.maxFinite) (h8 : f = .f8n → mag ≠ 0x78 ∧ mag ≠ 0x79) :
    f.nanAt mag = false ∧ mag ≠ f.inf := by
  cases f with
  | f8n =>
    obtain ⟨inf, nan⟩ := h8 rfl
    exact ⟨by simpa [Fmt.nanAt] using nan, inf⟩
  | f8w | b16 | f32 =>
    simp only [Fmt.maxFinite] at h
    exact ⟨decide_eq_false (by simp only [Fmt.inf]; omega), by simp only [Fmt.inf]; omega⟩

/-- The value of a finite encoding (R222). -/
theorem decodeF_value {f : Fmt} {w : Nat} (h : w % 2 ^ (f.e + f.m) ≤ f.maxFinite)
    (h8 : f = .f8n → w % 2 ^ (f.e + f.m) ≠ 0x78 ∧ w % 2 ^ (f.e + f.m) ≠ 0x79) :
    isFinite (decodeF f w) ∧ valueOf (decodeF f w) = encodedValue f w ∧ (decodeF f w).sign = f.signAt w := by
  obtain ⟨hn, hi⟩ := finiteAt h h8
  obtain ⟨n, d, e, hd, value⟩ := decodeF_fin hn hi
  rw [e]
  refine ⟨isFinite_fin hd, ?_, rfl⟩
  simp only [valueOf, encodedValue, value, Fmt.signAt, beq_iff_eq]

end Sys2Proof.Machine
end

section
/-! PROOF. Rounding on a grid (R225, R138): a magnitude lies between two neighbours, and which of them it goes to. -/

namespace Sys2Proof.Machine
open Sys2Proof.Safety

/-! ### Quotients in units -/

/-- The binade of a quotient. -/
theorem log2q_spec {n d : Nat} (hn : 0 < n) (hd : 0 < d) :
    (2 : ℚ) ^ log2q n d ≤ (n : ℚ) / d ∧ (n : ℚ) / d < 2 ^ (log2q n d + 1) := by
  have two : (2 : ℚ) ≠ 0 := by norm_num
  have dpos : (0 : ℚ) < d := by positivity
  have n1 : (2 : ℚ) ^ n.log2 ≤ n := by exact_mod_cast Nat.log2_self_le hn.ne'
  have n2 : (n : ℚ) < 2 ^ (n.log2 + 1) := by exact_mod_cast Nat.lt_log2_self
  have d1 : (2 : ℚ) ^ d.log2 ≤ d := by exact_mod_cast Nat.log2_self_le hd.ne'
  have d2 : (d : ℚ) < 2 ^ (d.log2 + 1) := by exact_mod_cast Nat.lt_log2_self
  have above : (n : ℚ) / d < 2 ^ ((n.log2 : ℤ) - d.log2 + 1) := by
    calc (n : ℚ) / d < 2 ^ (n.log2 + 1) / 2 ^ d.log2 := div_lt_div₀ n2 d1 (by positivity) (by positivity)
      _ = 2 ^ ((n.log2 : ℤ) - d.log2 + 1) := by
        rw [zpow_add₀ two, zpow_sub₀ two, zpow_natCast, zpow_natCast, zpow_one, pow_succ]; ring
  have below : (2 : ℚ) ^ ((n.log2 : ℤ) - d.log2 - 1) ≤ n / d := by
    calc (2 : ℚ) ^ ((n.log2 : ℤ) - d.log2 - 1) = 2 ^ n.log2 / 2 ^ (d.log2 + 1) := by
          rw [zpow_sub₀ two, zpow_sub₀ two, zpow_natCast, zpow_natCast, zpow_one, pow_succ, div_div]
      _ ≤ n / d := div_le_div₀ (by positivity) n1 dpos d2.le
  have spos : (0 : ℚ) < (scaled d ((n.log2 : ℤ) - d.log2)).2 := by exact_mod_cast scaled_pos ..
  have test : n * (scaled d ((n.log2 : ℤ) - d.log2)).2 < (scaled d ((n.log2 : ℤ) - d.log2)).1 ↔
      (n : ℚ) / d < 2 ^ ((n.log2 : ℤ) - d.log2) := by
    rw [div_lt_iff₀ dpos, mul_comm ((2 : ℚ) ^ _), ← scaled_value, lt_div_iff₀ spos]
    exact_mod_cast Iff.rfl
  unfold log2q
  dsimp only
  split
  · next less => exact ⟨below, by rw [sub_add_cancel]; exact test.mp less⟩
  · next more => exact ⟨not_lt.mp fun h => more (test.mpr h), above⟩

/-- A quotient as whole units of 2^q and a rest. -/
theorem unitsOf_spec (n : Nat) {d : Nat} (hd : 0 < d) (q : Int) :
    (unitsOf n d q).2.1 < (unitsOf n d q).2.2 ∧
      (n : ℚ) / d = ((unitsOf n d q).1 + (unitsOf n d q).2.1 / (unitsOf n d q).2.2 : ℚ) * 2 ^ q := by
  have two : (2 : ℚ) ≠ 0 := by norm_num
  have whole : ∀ {a b : Nat}, 0 < b → ((a / b : Nat) : ℚ) + (a % b : Nat) / b = a / b := fun {a b} hb => by
    have : (b : ℚ) ≠ 0 := by positivity
    field_simp
    exact_mod_cast Nat.div_add_mod' a b
  unfold unitsOf
  by_cases hq : q < 0
  · obtain ⟨k, hk⟩ := Int.eq_ofNat_of_zero_le (show 0 ≤ -q by omega)
    obtain rfl : q = -(k : Int) := by omega
    simp only [hq, if_true, neg_neg, Int.toNat_natCast]
    refine ⟨Nat.mod_lt _ hd, ?_⟩
    rw [whole hd, zpow_neg, zpow_natCast]
    push_cast
    field_simp
  · obtain ⟨k, rfl⟩ := Int.eq_ofNat_of_zero_le (show 0 ≤ q by omega)
    have pos : 0 < d * 2 ^ k := Nat.mul_pos hd (Nat.two_pow_pos k)
    simp only [hq, if_false, Int.toNat_natCast]
    refine ⟨Nat.mod_lt _ pos, ?_⟩
    rw [whole pos, zpow_natCast]
    push_cast
    field_simp

/-! ### Which neighbour -/

/-- Which neighbour a magnitude goes to does not depend on the unit. -/
theorem goesUp_scale {m : Mode} {neg : Bool} {x lo hi c : ℚ} {even : Bool} {rand : Nat} (hc : 0 < c) :
    goesUp m neg (x * c) (lo * c) (hi * c) even rand ↔ goesUp m neg x lo hi even rand := by
  cases m with
  | rne =>
    simp only [goesUp]
    rw [← add_mul, ← mul_assoc, mul_lt_mul_iff_of_pos_right hc, mul_left_inj' hc.ne']
  | rz | ru | rd => rfl
  | stoch =>
    simp only [goesUp]
    rw [← sub_mul, ← sub_mul, mul_div_mul_right _ _ hc.ne']

/-- R225, R138: between `k` and `k + 1` units, rounding away from zero is going to the upper one. -/
theorem roundsUp_iff {m : Mode} {neg : Bool} {k r d rand : Nat} (hr : r < d) (hrand : rand < 2 ^ 32) :
    roundsUp m neg k r d rand = true ↔ 0 < r ∧ goesUp m neg (k + r / d : ℚ) k (k + 1) (k % 2 == 0) rand := by
  have dpos : (0 : ℚ) < d := by exact_mod_cast Nat.lt_of_le_of_lt (Nat.zero_le r) hr
  cases m with
  | rne =>
    have above : (k + (k + 1) : ℚ) < 2 * (k + r / d) ↔ d < 2 * r := by
      rw [show (k + (k + 1) : ℚ) < 2 * (k + r / d) ↔ (1 : ℚ) < 2 * r / d by
          constructor <;> intro h <;> linarith [mul_div_assoc (2 : ℚ) r d],
        one_lt_div dpos]
      exact_mod_cast Iff.rfl
    have tie : (k + (k + 1) : ℚ) = 2 * (k + r / d) ↔ 2 * r = d := by
      rw [show (k + (k + 1) : ℚ) = 2 * (k + r / d) ↔ (2 * r / d : ℚ) = 1 by
          constructor <;> intro h <;> linarith [mul_div_assoc (2 : ℚ) r d],
        div_eq_one_iff_eq dpos.ne']
      exact_mod_cast Iff.rfl
    simp only [roundsUp, goesUp, above, tie, Bool.or_eq_true, Bool.and_eq_true, decide_eq_true_eq, beq_iff_eq, beq_eq_false_iff_ne]
    omega
  | rz => simp [roundsUp, goesUp]
  | ru | rd => simp [roundsUp, goesUp, Nat.pos_iff_ne_zero]
  | stoch =>
    have carry : ⌊(2 : ℚ) ^ 32 * ((k + r / d - k) / (k + 1 - k))⌋ = ((r * 2 ^ 32 / d : Nat) : ℤ) := by
      rw [show (2 : ℚ) ^ 32 * ((k + r / d - k) / (k + 1 - k)) = ((r * 2 ^ 32 : Nat) : ℚ) / (d : Nat) by push_cast; field_simp; ring]
      exact_mod_cast Rat.floor_natCast_div_natCast (r * 2 ^ 32) d
    simp only [roundsUp, goesUp, carry, decide_eq_true_eq]
    constructor
    · intro h
      refine ⟨Nat.pos_of_ne_zero fun zero => ?_, by exact_mod_cast h⟩
      rw [zero, Nat.zero_mul, Nat.zero_div] at h
      omega
    · exact fun ⟨_, h⟩ => by exact_mod_cast h

/-- A number goes to the upper neighbour of a unit, or stays with the lower one. -/
def GoesTo (up : Prop) (k r : Nat) : Prop := (up → r = k + 1) ∧ (¬up → r = k)

/-- Rounding to whole units of 2^q: between which the quotient lies, where it goes, and whether it was one of them. -/
theorem gridRound_units {n d rand : Nat} (m : Mode) (neg : Bool) (hd : 0 < d) (hrand : rand < 2 ^ 32) (q : Int) :
    ∃ k : Nat, (k : ℚ) * 2 ^ q ≤ (n : ℚ) / d ∧ (n : ℚ) / d < (k + 1 : ℚ) * 2 ^ q ∧
      (((unitsOf n d q).2.1 != 0) = true ↔ (k : ℚ) * 2 ^ q < (n : ℚ) / d) ∧
      GoesTo ((k : ℚ) * 2 ^ q < (n : ℚ) / d ∧ goesUp m neg ((n : ℚ) / d) (k * 2 ^ q) ((k + 1) * 2 ^ q) (k % 2 == 0) rand) k
        (if roundsUp m neg (unitsOf n d q).1 (unitsOf n d q).2.1 (unitsOf n d q).2.2 rand then (unitsOf n d q).1 + 1
          else (unitsOf n d q).1) := by
  obtain ⟨rest, value⟩ := unitsOf_spec n hd q
  generalize (unitsOf n d q).1 = k at *
  generalize (unitsOf n d q).2.1 = r at *
  generalize (unitsOf n d q).2.2 = e at *
  have unit : (0 : ℚ) < 2 ^ q := by positivity
  have epos : (0 : ℚ) < e := by exact_mod_cast Nat.lt_of_le_of_lt (Nat.zero_le r) rest
  have small : (r : ℚ) / e < 1 := by rw [div_lt_one epos]; exact_mod_cast rest
  have least : (0 : ℚ) ≤ r / e := by positivity
  have strict : (k : ℚ) * 2 ^ q < (n : ℚ) / d ↔ 0 < r := by
    rw [value, mul_lt_mul_iff_of_pos_right unit, lt_add_iff_pos_right, div_pos_iff_of_pos_right epos]
    exact_mod_cast Iff.rfl
  have up := (roundsUp_iff (m := m) (neg := neg) (k := k) rest hrand).trans (and_congr_right fun _ => (goesUp_scale unit).symm)
  rw [← value] at up
  refine ⟨k, ?_, ?_, ?_, ?_⟩
  · rw [value]; exact mul_le_mul_of_nonneg_right (by linarith) unit.le
  · rw [value]; exact mul_lt_mul_of_pos_right (by linarith) unit
  · rw [strict]; simp [Nat.pos_iff_ne_zero]
  · rw [strict, ← up]
    exact ⟨fun h => if_pos h, fun h => if_neg h⟩

/-! ### Rounding to encodings -/

/-- The exponent of the unit in which a quotient is rounded: that of its binade, or the least one. -/
def gridUnit (f : Fmt) (n d : Nat) : Option Int → Int
  | some l => max (log2q n d - f.m) l
  | none => log2q n d - f.m

theorem gridRound_eq (f : Fmt) (m : Mode) (neg : Bool) (n d rand : Nat) (low : Option Int) :
    gridRound f m neg n d rand low =
      let u := unitsOf n d (gridUnit f n d low)
      (gridUnit f n d low, if roundsUp m neg u.1 u.2.1 u.2.2 rand then u.1 + 1 else u.1, u.2.1 != 0) := by
  cases low <;> rfl

/-- The encoding that the units of `gridRound` make, and whether it lost anything. -/
def gridEnc (f : Fmt) (m : Mode) (neg : Bool) (n d rand : Nat) : Nat × Bool :=
  let g := gridRound f m neg n d rand (some f.low)
  ((g.1 - f.low).toNat * 2 ^ f.m + g.2.1, g.2.2)

/-! ### Tiny results (R94) -/

/-- A power of 2 in units of which it holds `2 ^ m`. -/
theorem binade_units (e : ℤ) (m : Nat) : (2 : ℚ) ^ e = (2 ^ m : Nat) * 2 ^ (e - m : ℤ) := by
  rw [zpow_sub₀ (by norm_num), zpow_natCast]
  push_cast
  field_simp

theorem next_binade_units (e : ℤ) (m : Nat) : (2 : ℚ) ^ (e + 1) = (2 ^ (m + 1) : Nat) * 2 ^ (e - m : ℤ) := by
  rw [zpow_add_one₀ (by norm_num), binade_units e m]
  push_cast
  ring

/-- A quotient of the binade of 2^e that lies between `k` and `k + 1` of its `2 ^ m` units. -/
theorem units_of_binade {e : ℤ} {m k : Nat} {x : ℚ} (bin : (2 : ℚ) ^ e ≤ x) (bin' : x < 2 ^ (e + 1))
    (lower : (k : ℚ) * 2 ^ (e - m : ℤ) ≤ x) (upper : x < (k + 1 : ℚ) * 2 ^ (e - m : ℤ)) : 2 ^ m ≤ k ∧ k < 2 ^ (m + 1) := by
  have unit : (0 : ℚ) < 2 ^ (e - m : ℤ) := by positivity
  have many : 2 ^ m < k + 1 := by exact_mod_cast lt_of_mul_lt_mul_right ((binade_units e m ▸ bin).trans_lt upper) unit.le
  exact ⟨by omega, by exact_mod_cast lt_of_mul_lt_mul_right (lower.trans_lt (next_binade_units e m ▸ bin')) unit.le⟩

/-- The least normal magnitude. -/
def leastNormal (f : Fmt) : ℚ := 2 ^ (1 - f.bias : ℤ)

/-- The neighbour beneath the least normal magnitude on a grid whose exponent has no bound. -/
def belowNormal (f : Fmt) : ℚ := leastNormal f * (1 - 1 / 2 ^ (f.m + 1))

theorem leastNormal_pos (f : Fmt) : 0 < leastNormal f := by
  unfold leastNormal
  positivity

theorem belowNormal_lt (f : Fmt) : belowNormal f < leastNormal f := by
  have part : (0 : ℚ) < 1 / 2 ^ (f.m + 1) := by positivity
  have := mul_lt_mul_of_pos_left (show 1 - 1 / (2 : ℚ) ^ (f.m + 1) < 1 by linarith) (leastNormal_pos f)
  rwa [mul_one] at this

theorem half_le_belowNormal (f : Fmt) : leastNormal f * (1 / 2) ≤ belowNormal f := by
  have part : (1 : ℚ) / 2 ^ (f.m + 1) ≤ 1 / 2 :=
    one_div_le_one_div_of_le (by norm_num) (le_self_pow₀ (by norm_num) (Nat.succ_ne_zero f.m))
  exact mul_le_mul_of_nonneg_left (by linarith) (leastNormal_pos f).le

section
variable {f : Fmt} {e : ℤ} {r : Nat} {x : ℚ}

/-- Two binades beneath the least normal magnitude, and lower: rounding cannot reach it. -/
theorem tiny_of_beneath (h : e < -f.bias) (few : r ≤ 2 ^ (f.m + 1)) (bin' : x < 2 ^ (e + 1)) :
    (r : ℚ) * 2 ^ (e - f.m : ℤ) < leastNormal f ∧ x ≤ belowNormal f := by
  have half : (2 : ℚ) ^ (e + 1) ≤ leastNormal f * (1 / 2) := by
    calc (2 : ℚ) ^ (e + 1) ≤ 2 ^ (1 - f.bias - 1 : ℤ) := zpow_le_zpow_right₀ (by norm_num) (by omega)
      _ = leastNormal f * (1 / 2) := by rw [zpow_sub_one₀ (by norm_num), one_div, leastNormal]
  have rounded : (r : ℚ) * 2 ^ (e - f.m : ℤ) ≤ 2 ^ (e + 1) := by
    rw [next_binade_units e f.m]
    exact mul_le_mul_of_nonneg_right (by exact_mod_cast few) (by positivity)
  have pos := leastNormal_pos f
  exact ⟨by linarith, by linarith [half_le_belowNormal f]⟩

/-- From the least normal magnitude on nothing is tiny. -/
theorem not_tiny_of_above (h : -f.bias < e) (many : 2 ^ f.m ≤ r) (bin : (2 : ℚ) ^ e ≤ x) :
    leastNormal f ≤ r * 2 ^ (e - f.m : ℤ) ∧ leastNormal f ≤ x := by
  have reached : leastNormal f ≤ 2 ^ e := zpow_le_zpow_right₀ (by norm_num) (by omega)
  have rounded : (2 : ℚ) ^ e ≤ r * 2 ^ (e - f.m : ℤ) := by
    rw [binade_units e f.m]
    exact mul_le_mul_of_nonneg_right (by exact_mod_cast many) (by positivity)
  exact ⟨reached.trans rounded, reached.trans bin⟩

/-- In the binade next to it only the greatest significand can reach it, by going up. -/
theorem tiny_iff_of_beside {up : ℚ → ℚ → Bool → Prop} {k : Nat} (he : e = -f.bias) (bin' : x < 2 ^ (e + 1))
    (few : k < 2 ^ (f.m + 1)) (upper : x < (k + 1 : ℚ) * 2 ^ (e - f.m : ℤ))
    (goes : GoesTo ((k : ℚ) * 2 ^ (e - f.m : ℤ) < x ∧
      up (k * 2 ^ (e - f.m : ℤ)) ((k + 1) * 2 ^ (e - f.m : ℤ)) (k % 2 == 0)) k r) (near : r ≤ k + 1) :
    (r : ℚ) * 2 ^ (e - f.m : ℤ) < leastNormal f ↔
      x ≤ belowNormal f ∨ (x < leastNormal f ∧ ¬up (belowNormal f) (leastNormal f) false) := by
  have unit : (0 : ℚ) < 2 ^ (e - f.m : ℤ) := by positivity
  have top : leastNormal f = (2 ^ (f.m + 1) : Nat) * 2 ^ (e - f.m : ℤ) := by
    rw [← next_binade_units, leastNormal, he]
    congr 1
    ring
  have second : belowNormal f = ((2 ^ (f.m + 1) : Nat) - 1 : ℚ) * 2 ^ (e - f.m : ℤ) := by
    rw [belowNormal, top]
    push_cast
    field_simp
  have inside : x < leastNormal f := by rwa [top, ← next_binade_units]
  have reach : (r : ℚ) * 2 ^ (e - f.m : ℤ) < leastNormal f ↔ r < 2 ^ (f.m + 1) := by
    rw [top, mul_lt_mul_iff_of_pos_right unit, Nat.cast_lt]
  rw [reach]
  rcases Nat.lt_or_ge (k + 1) (2 ^ (f.m + 1)) with lowerOne | greatest
  · refine iff_of_true (by omega) (.inl (upper.le.trans ?_))
    have : (k + 1 + 1 : ℚ) ≤ (2 ^ (f.m + 1) : Nat) := by exact_mod_cast lowerOne
    rw [second]
    exact mul_le_mul_of_nonneg_right (by linarith) unit.le
  · have last : 2 ^ (f.m + 1) = k + 1 := by omega
    have odd : (k % 2 == 0) = false := by
      rw [pow_succ] at last
      simp only [beq_eq_false_iff_ne]
      omega
    rw [last, Nat.cast_succ] at top second
    rw [add_sub_cancel_right] at second
    rw [odd, ← top, ← second] at goes
    rw [last]
    constructor
    · intro small
      by_contra reached
      rw [not_or, not_le, not_and, not_not] at reached
      have := goes.1 ⟨reached.1, reached.2 inside⟩
      omega
    · intro stays
      have := goes.2 fun reached => stays.elim (fun h => absurd reached.1 (not_lt.mpr h)) fun h => h.2 reached.2
      omega

end

section
variable {n d rand : Nat} (f : Fmt) (m : Mode) (neg : Bool) (hn : 0 < n) (hd : 0 < d) (hrand : rand < 2 ^ 32)
include hn hd hrand

/-- R225: a magnitude lies between two neighbours of the format's grid, taken as if it went on, and goes to one of them. -/
theorem gridEnc_neighbours : ∃ k : Nat, magnitude f k ≤ (n : ℚ) / d ∧ (n : ℚ) / d < magnitude f (k + 1) ∧
    ((gridEnc f m neg n d rand).2 = true ↔ magnitude f k < (n : ℚ) / d) ∧
    GoesTo (magnitude f k < (n : ℚ) / d ∧
      goesUp m neg ((n : ℚ) / d) (magnitude f k) (magnitude f (k + 1)) (k % 2 == 0) rand) k (gridEnc f m neg n d rand).1 := by
  have two : (1 : ℚ) < 2 := by norm_num
  obtain ⟨bin, bin'⟩ := log2q_spec hn hd
  generalize hq : gridUnit f n d (some f.low) = q
  have unit : (0 : ℚ) < 2 ^ q := by positivity
  obtain ⟨j, hj⟩ := Int.eq_ofNat_of_zero_le (show 0 ≤ q - f.low by rw [← hq, gridUnit]; omega)
  have qj : q = f.low + j := by omega
  have fine : log2q n d - f.m ≤ q := by rw [← hq, gridUnit]; exact le_max_left ..
  obtain ⟨k, lower, upper, exact', goes⟩ := gridRound_units m neg hd hrand (n := n) q
  -- Fewer units than those of two binades, and no fewer than those of one above the lowest.
  have few : k < 2 ^ (f.m + 1) := by
    have : (k : ℚ) * 2 ^ q < 2 ^ (f.m + 1) * 2 ^ q := by
      calc (k : ℚ) * 2 ^ q ≤ (n : ℚ) / d := lower
        _ < 2 ^ (log2q n d + 1) := bin'
        _ ≤ 2 ^ (((f.m + 1 : Nat) : ℤ) + q) := zpow_le_zpow_right₀ two.le (by push_cast; omega)
        _ = 2 ^ (f.m + 1) * 2 ^ q := by rw [zpow_add₀ (by norm_num), zpow_natCast]
    exact_mod_cast lt_of_mul_lt_mul_right this unit.le
  have normal : j = 0 ∨ 2 ^ f.m ≤ k := by
    rcases Nat.eq_zero_or_pos j with zero | pos
    · exact .inl zero
    · have coarse : q = log2q n d - f.m := by rw [gridUnit] at hq; omega
      have : (2 : ℚ) ^ f.m * 2 ^ q < (k + 1 : ℚ) * 2 ^ q := by
        calc (2 : ℚ) ^ f.m * 2 ^ q = 2 ^ log2q n d := by rw [← zpow_natCast, ← zpow_add₀ (by norm_num)]; congr 1; omega
          _ ≤ (n : ℚ) / d := bin
          _ < (k + 1 : ℚ) * 2 ^ q := upper
      have : 2 ^ f.m < k + 1 := by exact_mod_cast lt_of_mul_lt_mul_right this unit.le
      exact .inr (by omega)
  have encLow := magnitude_grid f normal few.le
  have encHigh := magnitude_grid f (j := j) (k := k + 1) (normal.imp_right fun h => h.trans (Nat.le_succ k)) few
  have parity : ((j * 2 ^ f.m + k) % 2 == 0) = (k % 2 == 0) := by
    obtain ⟨i, hi⟩ := Nat.exists_eq_add_of_le f.one_le_m
    rw [hi, pow_add, pow_one, show j * (2 * 2 ^ i) + k = k + 2 * (j * 2 ^ i) by ring, Nat.add_mul_mod_self_left]
  rw [← qj] at encLow encHigh
  push_cast at encHigh
  refine ⟨j * 2 ^ f.m + k, ?_⟩
  have enc : gridEnc f m neg n d rand = (j * 2 ^ f.m + (if roundsUp m neg (unitsOf n d q).1 (unitsOf n d q).2.1 (unitsOf n d q).2.2 rand
      then (unitsOf n d q).1 + 1 else (unitsOf n d q).1), (unitsOf n d q).2.1 != 0) := by
    rw [gridEnc, gridRound_eq, hq]
    dsimp only
    rw [hj, Int.toNat_natCast]
  rw [Nat.add_assoc, encLow, encHigh, parity, enc]
  exact ⟨lower, upper, exact', fun h => by rw [goes.1 h]; rfl, fun h => by rw [goes.2 h]⟩

/-- R94: a result is tiny when it is below the least normal magnitude after rounding as if the exponent had no bound. -/
theorem gridRound_tiny :
    let g := gridRound f m neg n d rand none
    let least : ℚ := 2 ^ (1 - f.bias : ℤ)
    let below := least * (1 - 1 / 2 ^ (f.m + 1))
    (g.2.1 : ℚ) * 2 ^ g.1 < least ↔
      (n : ℚ) / d ≤ below ∨ ((n : ℚ) / d < least ∧ ¬goesUp m neg ((n : ℚ) / d) below least false rand) := by
  rw [gridRound_eq]
  dsimp only
  obtain ⟨bin, bin'⟩ := log2q_spec hn hd
  obtain ⟨k, lower, upper, -, goes⟩ := gridRound_units m neg hd hrand (n := n) (log2q n d - f.m)
  obtain ⟨many, few⟩ := units_of_binade bin bin' lower upper
  rw [show gridUnit f n d none = log2q n d - f.m from rfl]
  generalize (if roundsUp m neg _ _ _ rand then _ else _) = r at *
  have near : k ≤ r ∧ r ≤ k + 1 := by
    by_cases up : (k : ℚ) * 2 ^ (log2q n d - f.m : ℤ) < (n : ℚ) / d ∧
        goesUp m neg ((n : ℚ) / d) (k * 2 ^ (log2q n d - f.m : ℤ)) ((k + 1) * 2 ^ (log2q n d - f.m : ℤ)) (k % 2 == 0) rand
    · have := goes.1 up; omega
    · have := goes.2 up; omega
  rcases lt_trichotomy (log2q n d) (-f.bias) with beneath | beside | above
  · obtain ⟨tiny, small⟩ := tiny_of_beneath beneath (r := r) (by omega) bin'
    exact iff_of_true tiny (.inl small)
  · exact tiny_iff_of_beside (up := fun lo hi even => goesUp m neg ((n : ℚ) / d) lo hi even rand) beside bin' few upper goes near.2
  · obtain ⟨reached, large⟩ := not_tiny_of_above above (r := r) (by omega) bin
    exact iff_of_false reached.not_gt fun small => small.elim (fun h => absurd (belowNormal_lt f) (large.trans h).not_gt)
      fun h => absurd h.1 large.not_gt

end

end Sys2Proof.Machine
end

section
/-! PROOF. Rounding into a format and to an integer (R94, R97, R225). -/

namespace Sys2Proof.Machine
open Sys2Proof.Safety

/-! ### Magnitudes -/

/-- Between 120 and 160 the narrow eight-bit format has no encodings: its infinity and NaN stand there (R223). -/
def InHole (f : Fmt) (x : ℚ) : Prop := f = .f8n ∧ 120 < x ∧ x < 160

theorem inHole_iff (f : Fmt) (n : Nat) {d : Nat} (hd : 0 < d) :
    f = .f8n ∧ 120 * d < n ∧ n < 160 * d ↔ InHole f ((n : ℚ) / d) := by
  have dpos : (0 : ℚ) < d := by positivity
  rw [InHole, lt_div_iff₀ dpos, div_lt_iff₀ dpos]
  exact_mod_cast Iff.rfl

/-- Whether a number too large goes to infinity (R94, R137). -/
def toInfinity : Mode → Bool → Bool
  | .rne, _ => true
  | .ru, neg => !neg
  | .rd, neg => neg
  | _, _ => false

theorem overflowMag_eq (f : Fmt) (m : Mode) (neg : Bool) :
    overflowMag f m neg = if toInfinity m neg then f.inf else f.maxFinite := by
  cases m <;> cases neg <;> rfl

/-- R225: outside the hole, rounding is by the grid. -/
theorem roundMag_grid {f : Fmt} {n d : Nat} (m : Mode) (neg : Bool) (rand : Nat) (hd : 0 < d) (out : ¬InHole f ((n : ℚ) / d)) :
    roundMag f m neg n d rand =
      if f.maxFinite < (gridEnc f m neg n d rand).1 then
        { mag := overflowMag f m neg, overflow := true, inexact := true, tiny := false }
      else
        let g := gridRound f m neg n d rand none
        { mag := (gridEnc f m neg n d rand).1, overflow := false, inexact := (gridEnc f m neg n d rand).2
          tiny := decide ((scaled g.2.1 g.1).1 * 2 ^ (f.bias - 1) < (scaled g.2.1 g.1).2) } := by
  rw [overflowMag_eq]
  unfold roundMag
  dsimp only
  rw [if_neg ((inHole_iff f n hd).not.mpr out)]
  cases m <;> rfl

/-- Whether a number between the edges of the hole goes to the upper one. -/
def holeUp (m : Mode) (neg : Bool) (n d rand : Nat) : Bool :=
  match m with
  | .rne => decide (140 * d ≤ n)
  | .rz => false
  | .ru => !neg
  | .rd => neg
  | .stoch => decide (2 ^ 32 ≤ 2 ^ 32 * (n - 120 * d) / (40 * d) + rand)

theorem roundMag_hole {f : Fmt} {n d : Nat} (m : Mode) (neg : Bool) (rand : Nat) (hd : 0 < d) (inside : InHole f ((n : ℚ) / d)) :
    roundMag f m neg n d rand =
      { mag := if holeUp m neg n d rand then 0x7A else 0x77, overflow := false, inexact := true, tiny := false } := by
  unfold roundMag
  dsimp only
  rw [if_pos ((inHole_iff f n hd).mpr inside)]
  cases m <;> rfl

theorem holeUp_iff {n d : Nat} (m : Mode) (neg : Bool) (rand : Nat) (hd : 0 < d) (h : (120 : ℚ) < (n : ℚ) / d) :
    holeUp m neg n d rand = true ↔ goesUp m neg ((n : ℚ) / d) 120 160 false rand := by
  have dpos : (0 : ℚ) < d := by positivity
  cases m with
  | rne =>
    have half : (140 : ℚ) ≤ (n : ℚ) / d ↔ 140 * d ≤ n := by
      rw [le_div_iff₀ dpos]
      exact_mod_cast Iff.rfl
    simp only [holeUp, goesUp, decide_eq_true_eq, and_true, ← half]
    constructor
    · intro h
      rcases h.lt_or_eq with h | h
      · exact .inl (by linarith)
      · exact .inr (by linarith)
    · rintro (h | h) <;> linarith
  | rz | ru | rd => simp [holeUp, goesUp]
  | stoch =>
    have above : 120 * d ≤ n := by
      rw [lt_div_iff₀ dpos] at h
      exact_mod_cast h.le
    have carry : ⌊(2 : ℚ) ^ 32 * (((n : ℚ) / d - 120) / (160 - 120))⌋ = ((2 ^ 32 * (n - 120 * d) / (40 * d) : Nat) : ℤ) := by
      have quotient : (2 : ℚ) ^ 32 * (((n : ℚ) / d - 120) / (160 - 120)) =
          ((2 ^ 32 * (n - 120 * d) : Nat) : ℚ) / (40 * d : Nat) := by
        push_cast [Nat.cast_sub above]
        field_simp
        ring
      rw [quotient]
      exact_mod_cast Rat.floor_natCast_div_natCast (2 ^ 32 * (n - 120 * d)) (40 * d)
    simp only [holeUp, goesUp, carry, decide_eq_true_eq]
    exact_mod_cast Iff.rfl

/-- What `roundMag` calls tiny. -/
theorem tiny_iff (f : Fmt) (k : Nat) (q : Int) :
    (scaled k q).1 * 2 ^ (f.bias - 1) < (scaled k q).2 ↔ (k : ℚ) * 2 ^ q < 2 ^ (1 - f.bias : ℤ) := by
  have pos : (0 : ℚ) < (scaled k q).2 := by exact_mod_cast scaled_pos k q
  have bias : 1 ≤ f.bias := by cases f <;> decide
  have exponent : (2 : ℚ) ^ (1 - f.bias : ℤ) = 1 / 2 ^ (f.bias - 1) := by
    rw [show (1 - f.bias : ℤ) = -((f.bias - 1 : Nat) : ℤ) by omega, zpow_neg, zpow_natCast, one_div]
  rw [exponent, ← scaled_value, div_lt_div_iff₀ pos (by positivity), one_mul]
  exact_mod_cast Iff.rfl

/-! ### Numbers -/

section
variable {f : Fmt} {m : Mode} {rand n d : Nat} {b : Bool}

theorem roundNum_fin (fzr : Bool) (hn : 0 < n) : roundNum f m rand fzr (.fin b n d) =
    if fzr && subnormal f (roundMag f m b n d rand).mag then (signed f b 0, { uf := true, nx := true })
    else (signed f b (roundMag f m b n d rand).mag, { of := (roundMag f m b n d rand).overflow
                                                      uf := (roundMag f m b n d rand).tiny && (roundMag f m b n d rand).inexact
                                                      nx := (roundMag f m b n d rand).inexact }) := by
  simp only [roundNum]
  rw [if_neg hn.ne']

/-- Every rounded magnitude leaves room for the sign. -/
theorem roundMag_lt (hd : 0 < d) : (roundMag f m b n d rand).mag < 2 ^ (f.e + f.m) := by
  obtain ⟨-, finite, inf, -⟩ := f.bounds
  by_cases inside : InHole f ((n : ℚ) / d)
  · rw [roundMag_hole m b rand hd inside]
    obtain ⟨rfl, -⟩ := inside
    dsimp only
    split <;> decide
  · rw [roundMag_grid m b rand hd inside, overflowMag_eq]
    split
    · dsimp only
      split <;> assumption
    · next h => exact (not_lt.mp h).trans_lt finite

theorem signed_mod {mag : Nat} (h : mag < 2 ^ (f.e + f.m)) : signed f b mag % 2 ^ (f.e + f.m) = mag := by
  cases b <;> simp [signed, Nat.mod_eq_of_lt h]

end

/-! ### Where a magnitude goes (R225) -/

section
variable {f : Fmt} {m : Mode} {rand n d : Nat} {b : Bool} (hn : 0 < n) (hd : 0 < d) (hrand : rand < 2 ^ 32)
include hn hd hrand

section
variable (out : ¬InHole f ((n : ℚ) / d))
include out

/-- A magnitude of the grid stays. -/
theorem roundMag_exact {k : Nat} (hk : k ≤ f.maxFinite) (hx : magnitude f k = (n : ℚ) / d) :
    (roundMag f m b n d rand).mag = k ∧ (roundMag f m b n d rand).overflow = false ∧
      (roundMag f m b n d rand).inexact = false := by
  obtain ⟨l, lower, upper, inexact, goes⟩ := gridEnc_neighbours f m b hn hd hrand
  obtain rfl := magnitude_unique hx.le (hx ▸ magnitude_strictMono f (Nat.lt_succ_self k)) lower upper
  have stays : ¬magnitude f k < (n : ℚ) / d := not_lt.mpr hx.ge
  have enc := goes.2 fun up => stays up.1
  rw [roundMag_grid m b rand hd out, enc, if_neg (not_lt.mpr hk)]
  exact ⟨rfl, rfl, by simpa using inexact.not.mpr stays⟩

/-- One between two neighbours goes to that of the mode and is inexact; one beyond the greatest finite magnitude overflows. -/
theorem roundMag_between {k : Nat} (hk : k ≤ f.maxFinite) (lower : magnitude f k < (n : ℚ) / d)
    (upper : (n : ℚ) / d < magnitude f (k + 1)) :
    let up := goesUp m b ((n : ℚ) / d) (magnitude f k) (magnitude f (k + 1)) (k % 2 == 0) rand
    let r := roundMag f m b n d rand
    r.inexact = true ∧ (¬up → r.mag = k ∧ r.overflow = false) ∧ (up → k < f.maxFinite → r.mag = k + 1 ∧ r.overflow = false) ∧
      (up → k = f.maxFinite → r.mag = overflowMag f m b ∧ r.overflow = true) := by
  obtain ⟨l, lower', upper', inexact, goes⟩ := gridEnc_neighbours f m b hn hd hrand
  obtain rfl := magnitude_unique lower.le upper lower' upper'
  have lost := inexact.mpr lower
  dsimp only
  rw [roundMag_grid m b rand hd out]
  refine ⟨?_, fun down => ?_, fun up hk' => ?_, fun up hk' => ?_⟩
  · split
    · rfl
    · exact lost
  · rw [goes.2 fun up => down up.2, if_neg (not_lt.mpr hk)]
    exact ⟨rfl, rfl⟩
  · rw [goes.1 ⟨lower, up⟩, if_neg (by omega)]
    exact ⟨rfl, rfl⟩
  · rw [goes.1 ⟨lower, up⟩, if_pos (by omega)]
    exact ⟨rfl, rfl⟩

theorem roundMag_overflow (hx : magnitude f (f.maxFinite + 1) ≤ (n : ℚ) / d) :
    let r := roundMag f m b n d rand
    r.mag = overflowMag f m b ∧ r.overflow = true ∧ r.inexact = true := by
  obtain ⟨k, lower, upper, -, goes⟩ := gridEnc_neighbours f m b hn hd hrand
  have beyond : f.maxFinite + 1 < k + 1 := (magnitude_strictMono f).lt_iff_lt.mp (hx.trans_lt upper)
  have enc : f.maxFinite < (gridEnc f m b n d rand).1 := by
    by_cases up : magnitude f k < (n : ℚ) / d ∧ goesUp m b ((n : ℚ) / d) (magnitude f k) (magnitude f (k + 1)) (k % 2 == 0) rand
    · rw [goes.1 up]; omega
    · rw [goes.2 up]; omega
  dsimp only
  rw [roundMag_grid m b rand hd out, if_pos enc]
  exact ⟨rfl, rfl, rfl⟩

end

/-- A number that overflows, or lies in the hole, is at least the least normal magnitude. -/
theorem leastNormal_le (big : InHole f ((n : ℚ) / d) ∨ f.maxFinite < (gridEnc f m b n d rand).1) :
    (2 : ℚ) ^ (1 - f.bias : ℤ) ≤ (n : ℚ) / d := by
  rcases big with ⟨rfl, above, -⟩ | beyond
  · have : (2 : ℚ) ^ (1 - Fmt.f8n.bias : ℤ) ≤ 120 := by norm_num [Fmt.bias]
    exact this.trans above.le
  · obtain ⟨k, lower, upper, -, goes⟩ := gridEnc_neighbours f m b hn hd hrand
    obtain ⟨normal, -⟩ := f.bounds
    have high : 2 ^ f.m ≤ k := by
      by_cases up : magnitude f k < (n : ℚ) / d ∧ goesUp m b ((n : ℚ) / d) (magnitude f k) (magnitude f (k + 1)) (k % 2 == 0) rand
      · rw [goes.1 up] at beyond; omega
      · rw [goes.2 up] at beyond; omega
    rw [← magnitude_leastNormal]
    exact ((magnitude_strictMono f).monotone high).trans lower

/-- R94: underflow is a tiny result that is inexact. -/
theorem roundMag_tiny :
    let least : ℚ := 2 ^ (1 - f.bias : ℤ)
    let below := least * (1 - 1 / 2 ^ (f.m + 1))
    let r := roundMag f m b n d rand
    r.tiny = true ↔ (n : ℚ) / d ≤ below ∨ ((n : ℚ) / d < least ∧ ¬goesUp m b ((n : ℚ) / d) below least false rand) := by
  have normal : ∀ {x least : ℚ}, 0 < least → least ≤ x → ¬(x ≤ least * (1 - 1 / 2 ^ (f.m + 1)) ∨
      (x < least ∧ ¬goesUp m b x (least * (1 - 1 / 2 ^ (f.m + 1))) least false rand)) := by
    intro x least pos hx
    have part : (0 : ℚ) < 1 / 2 ^ (f.m + 1) := by positivity
    have less := mul_lt_mul_of_pos_left (show 1 - 1 / (2 : ℚ) ^ (f.m + 1) < 1 by linarith) pos
    rintro (h | ⟨h, -⟩) <;> linarith
  have pos : (0 : ℚ) < 2 ^ (1 - f.bias : ℤ) := by positivity
  by_cases big : InHole f ((n : ℚ) / d) ∨ f.maxFinite < (gridEnc f m b n d rand).1
  · refine iff_of_false ?_ (normal pos (leastNormal_le hn hd hrand big))
    by_cases inside : InHole f ((n : ℚ) / d)
    · rw [roundMag_hole m b rand hd inside]
      exact Bool.false_ne_true
    · rw [roundMag_grid m b rand hd inside, if_pos (big.resolve_left inside)]
      exact Bool.false_ne_true
  · rw [not_or] at big
    dsimp only
    rw [roundMag_grid m b rand hd big.1, if_neg big.2]
    dsimp only
    rw [decide_eq_true_eq, tiny_iff]
    exact gridRound_tiny f m b hn hd hrand

end

/-! ### Rounding a number (R94, R95) -/

/-- R94, R225: the encoding and the flags of a rounded finite number that is not 0. -/
theorem roundNum_spec (f : Fmt) (m : Mode) {rand n d : Nat} (b : Bool) (hn : 0 < n) (hd : 0 < d) (hrand : rand < 2 ^ 32) :
    let x : ℚ := (n : ℚ) / d
    let r := roundNum f m rand false (.fin b n d)
    let mag := r.1 % 2 ^ (f.e + f.m)
    let least : ℚ := 2 ^ (1 - f.bias : ℤ)
    let below := least * (1 - 1 / 2 ^ (f.m + 1))
    r.1 = signed f b mag ∧ r.2.nv = false ∧
    (f = .f8n → 120 < x → x < 160 →
      (goesUp m b x 120 160 false rand → mag = 0x7A) ∧ (¬goesUp m b x 120 160 false rand → mag = 0x77)) ∧
    (¬(f = .f8n ∧ 120 < x ∧ x < 160) →
      (∀ k ≤ f.maxFinite, magnitude f k = x → mag = k ∧ r.2 = {}) ∧
      (∀ k ≤ f.maxFinite, magnitude f k < x → x < magnitude f (k + 1) →
        let up := goesUp m b x (magnitude f k) (magnitude f (k + 1)) (k % 2 == 0) rand
        r.2.nx = true ∧ (¬up → mag = k ∧ r.2.of = false) ∧ (up → k < f.maxFinite → mag = k + 1 ∧ r.2.of = false) ∧
          (up → k = f.maxFinite → mag = overflowMag f m b ∧ r.2.of = true)) ∧
      (magnitude f (f.maxFinite + 1) ≤ x → mag = overflowMag f m b ∧ r.2.of = true ∧ r.2.nx = true)) ∧
    (r.2.uf = true ↔ r.2.nx = true ∧ (x ≤ below ∨ (x < least ∧ ¬goesUp m b x below least false rand))) ∧
    roundNum f m rand true (.fin b n d) =
      (if 0 < mag ∧ mag < 2 ^ f.m then (signed f b 0, { uf := true, nx := true }) else r) := by
  have room := roundMag_lt (f := f) (m := m) (rand := rand) (n := n) (b := b) hd
  have kept := signed_mod (b := b) room
  have tiny := roundMag_tiny (f := f) (m := m) (b := b) hn hd hrand
  have flushed := roundNum_fin (f := f) (m := m) (rand := rand) (d := d) (b := b) true hn
  have plain := roundNum_fin (f := f) (m := m) (rand := rand) (d := d) (b := b) false hn
  rw [Bool.false_and, if_neg (by decide)] at plain
  dsimp only at tiny ⊢
  rw [plain, flushed]
  dsimp only
  rw [kept]
  refine ⟨rfl, rfl, fun h8 above below => ?_, fun out => ⟨fun k hk hx => ?_, fun k hk lower upper => ?_, fun hx => ?_⟩, ?_, ?_⟩
  · have up := holeUp_iff m b rand hd above
    rw [roundMag_hole m b rand hd ⟨h8, above, below⟩, ← up]
    exact ⟨fun h => if_pos h, fun h => if_neg h⟩
  · obtain ⟨mag, of, nx⟩ := roundMag_exact (m := m) (b := b) hn hd hrand out hk hx
    rw [mag, of, nx, Bool.and_false]
    exact ⟨rfl, rfl⟩
  · exact roundMag_between hn hd hrand out hk lower upper
  · exact roundMag_overflow hn hd hrand out hx
  · rw [Bool.and_eq_true, tiny, and_comm]
  · have small : subnormal f (roundMag f m b n d rand).mag = true ↔
        0 < (roundMag f m b n d rand).mag ∧ (roundMag f m b n d rand).mag < 2 ^ f.m := by
      simp [subnormal, Nat.mod_eq_of_lt room, Nat.pos_iff_ne_zero]
    rw [Bool.true_and, if_congr small rfl rfl]

/-- R94: zeros, infinities and NaNs. -/
theorem roundNum_special (f : Fmt) (m : Mode) (rand d : Nat) (b z : Bool) :
    roundNum f m rand z (.fin b 0 d) = (signed f b 0, {}) ∧ roundNum f m rand z (.inf b) = (signed f b f.inf, {}) ∧
      roundNum f m rand z (.nan b) = (f.nan, { nv := b }) := ⟨rfl, rfl, rfl⟩

/-- R97: rounding to an integer. -/
theorem roundInt_spec (m : Mode) {rand d : Nat} (n : Nat) (b : Bool) (hd : 0 < d) (hrand : rand < 2 ^ 32) :
    let x : ℚ := (n : ℚ) / d
    let k := n / d
    let sgn (i : Nat) : Int := if b then -i else i
    (x = k → roundInt m rand b n d = (sgn k, false)) ∧
    (x ≠ k → (goesUp m b x k (k + 1) (k % 2 == 0) rand → roundInt m rand b n d = (sgn (k + 1), true)) ∧
      (¬goesUp m b x k (k + 1) (k % 2 == 0) rand → roundInt m rand b n d = (sgn k, true))) := by
  have dpos : (0 : ℚ) < d := by positivity
  have value : (n : ℚ) / d = (n / d : Nat) + (n % d : Nat) / d := by
    field_simp
    exact_mod_cast (Nat.div_add_mod n d).symm
  have whole : (n : ℚ) / d = (n / d : Nat) ↔ n % d = 0 := by
    rw [value, add_eq_left, div_eq_zero_iff, or_iff_left dpos.ne', Nat.cast_eq_zero]
  have up := roundsUp_iff (m := m) (neg := b) (k := n / d) (Nat.mod_lt n hd) hrand
  rw [← value] at up
  dsimp only
  refine ⟨fun h => ?_, fun h => ⟨fun hup => ?_, fun hdown => ?_⟩⟩
  · have zero := whole.mp h
    have stays : roundsUp m b (n / d) (n % d) d rand = false := by
      rw [← Bool.not_eq_true, up, zero]
      exact fun h => absurd h.1 (Nat.lt_irrefl 0)
    simp only [roundInt, stays]
    simp [zero]
  · have rest : n % d ≠ 0 := whole.not.mp h
    have goes := up.mpr ⟨Nat.pos_of_ne_zero rest, hup⟩
    simp only [roundInt, goes, if_true]
    simp [rest]
  · have rest : n % d ≠ 0 := whole.not.mp h
    have stays : roundsUp m b (n / d) (n % d) d rand = false := by
      rw [← Bool.not_eq_true, up]
      exact fun h => hdown h.2
    simp only [roundInt, stays]
    simp [rest]

end Sys2Proof.Machine
end

section
/-! PROOF. Scalar F32 arithmetic with its flags and flushing (R93 to R98, R223, R227). -/

namespace Sys2Proof.Machine
open Sys2Proof.Safety

/-! ### Modes -/

theorem modeOf_stoch (rm : BitVec 3) : modeOf rm = .stoch ↔ rm = 4#3 := by
  revert rm
  decide

/-- R94: an exact zero sum is -0 under RD. -/
theorem zeroNeg_eq (t : Thread) : t.zeroNeg = (t.rm == 3#3) := by
  have : ∀ rm : BitVec 3, (modeOf rm == .rd) = (rm == 3#3) := by decide
  exact this t.rm

/-! ### Sources (R95, R227) -/

/-- The magnitude and the sign of an F32 source. -/
theorem low32_mod (x : Word) : low32 x % 2 ^ (Fmt.f32.e + Fmt.f32.m) = (x.extractLsb' 0 31).toNat := by
  show low32 x % 2 ^ 31 = _
  simp only [low32, BitVec.extractLsb'_toNat, Nat.shiftRight_zero]
  omega

theorem low32_lt (x : Word) : low32 x < 2 ^ 32 := (x.extractLsb' 0 32).isLt

theorem low32_sign (x : Word) : Fmt.f32.signAt (low32 x) = x.getLsbD 31 := by
  show (low32 x / 2 ^ 31 % 2 == 1) = x.getLsbD 31
  rw [BitVec.getLsbD, Nat.testBit_eq_decide_div_mod_eq, low32, BitVec.extractLsb'_toNat, Nat.shiftRight_zero, Bool.beq_eq_decide_eq,
    decide_eq_decide]
  omega

/-- R222: a subnormal F32 source. -/
theorem subnormal_low32 (x : Word) : subnormal .f32 (low32 x) = true ↔
    0 < (x.extractLsb' 0 31).toNat ∧ (x.extractLsb' 0 31).toNat < 2 ^ 23 := by
  unfold subnormal
  rw [low32_mod, Bool.and_eq_true, bne_iff_ne, decide_eq_true_eq, Nat.pos_iff_ne_zero]
  rfl

theorem flush_of_not {f : Fmt} {on : Bool} {w : Nat} (h : ¬(on = true ∧ subnormal f w = true)) : flush f on w = w := by
  rw [flush, if_neg (by simpa using h)]

/-- A flushed encoding is a zero of the same sign. -/
theorem decodeF_flush {f : Fmt} {w : Nat} (h : subnormal f w = true) :
    ∃ d, decodeF f (flush f true w) = .fin (f.signAt w) 0 d := by
  have flushed : flush f true w = w / 2 ^ (f.e + f.m) % 2 * 2 ^ (f.e + f.m) := if_pos (by simpa using h)
  have mag : flush f true w % 2 ^ (f.e + f.m) = 0 := by rw [flushed, Nat.mul_mod_left]
  have sign : f.signAt (flush f true w) = f.signAt w := by
    rw [Fmt.signAt, flushed, Nat.mul_div_cancel _ (Nat.two_pow_pos _), Nat.mod_mod, Fmt.signAt]
  have zero : 0 ≠ f.inf := by cases f <;> decide
  obtain ⟨n, d, e, hd, value⟩ := decodeF_fin (f := f) (w := flush f true w) (by rw [mag]; cases f <;> decide) (by rw [mag]; exact zero)
  rw [mag, magnitude_zero, div_eq_zero_iff, or_iff_left (by positivity), Nat.cast_eq_zero] at value
  exact ⟨d, by rw [e, value, sign]⟩

section
variable {t : Thread} {x : Word}

theorem src32_flushed (hz : t.fzs = true) (h : subnormal .f32 (low32 x) = true) :
    (t.src32 x).isZero = true ∧ (t.src32 x).sign = x.getLsbD 31 := by
  obtain ⟨d, e⟩ := decodeF_flush h
  rw [Thread.src32, hz, e]
  exact ⟨rfl, low32_sign x⟩

theorem src32_kept (h : ¬(t.fzs = true ∧ subnormal .f32 (low32 x) = true)) : t.src32 x = decodeF .f32 (low32 x) := by
  rw [Thread.src32, flush_of_not h]

end

/-! ### Results (R93, R94) -/

section
variable (t : Thread) (rand : Word) (srcs : List Word)

theorem round32_nan {x : Num} (h : x.isNan = true) : (t.round32 rand srcs x).value = 0x7FC00000 := by
  cases x with
  | nan => rfl
  | inf | fin => cases h

theorem round32_invalid : (t.round32 rand srcs (.nan true)).value = 0x7FC00000 ∧ (t.round32 rand srcs (.nan true)).flags.nv = true :=
  ⟨rfl, rfl⟩

theorem round32_zero (b : Bool) : (t.round32 rand srcs (.fin b 0 1)).value = if b then 0x80000000 else 0 := by
  cases b <;> rfl

end

/-- R94: a NaN source makes the result the canonical NaN, or 0 as an integer. -/
theorem results_of_nan (t : Thread) {x : Word} (y z : Word) (h : (t.src32 x).isNan = true) :
    (t.fadd x y).value = 0x7FC00000 ∧ (t.fadd y x).value = 0x7FC00000 ∧ (t.fsub x y).value = 0x7FC00000 ∧
    (t.fmul x y).value = 0x7FC00000 ∧ (t.fmul y x).value = 0x7FC00000 ∧ (t.ffma x y z).value = 0x7FC00000 ∧
    (t.ffma y z x).value = 0x7FC00000 ∧ (t.toB16 x y).value = 0x7FC0 ∧ (t.toInt x y (-2 ^ 31) (2 ^ 31 - 1)).2.value = 0 := by
  refine ⟨round32_nan _ _ _ (add_nan_left h ..), round32_nan _ _ _ (add_nan_right h ..), round32_nan _ _ _ (add_nan_left h ..),
    round32_nan _ _ _ (mul_nan_left h _), round32_nan _ _ _ (mul_nan_right h _),
    round32_nan _ _ _ (fma_nan _ (.inl (mul_nan_left h _))), round32_nan _ _ _ (fma_nan _ (.inr h)), ?_, ?_⟩
  · unfold Thread.toB16
    generalize t.src32 x = v at h
    cases v with
    | nan => rfl
    | inf | fin => cases h
  · unfold Thread.toInt
    generalize t.src32 x = v at h
    cases v with
    | nan => rfl
    | inf | fin => cases h

/-- R94: invalid operations, the sign of an exact zero sum, and signalling NaNs. -/
theorem results_invalid (t : Thread) (x y : Word) (p q : Bool) (n m : Nat) :
    (t.src32 x = .inf p → t.src32 y = .inf q → p ≠ q → (t.fadd x y).value = 0x7FC00000 ∧ (t.fadd x y).flags.nv = true) ∧
    (t.src32 x = .inf p → t.src32 y = .fin q 0 m → (t.fmul x y).value = 0x7FC00000 ∧ (t.fmul x y).flags.nv = true ∧
      ∀ z, (t.ffma x y z).value = 0x7FC00000 ∧ (t.ffma x y z).flags.nv = true) ∧
    (t.src32 x = .fin p n m → t.src32 y = .fin (!p) n m → 0 < m →
      (t.fadd x y).value = (if t.rm = 3#3 then 0x80000000 else 0)) ∧
    ((t.src32 x).signalling = true → (t.fadd x y).flags.nv = true ∧ (t.fsub y x).flags.nv = true ∧
      (t.fmul x y).flags.nv = true ∧ (t.fminMax false x y).flags.nv = true ∧ (t.fminMax true y x).flags.nv = true) := by
  refine ⟨fun hx hy hpq => ?_, fun hx hy => ?_, fun hx hy _ => ?_, fun hs => ⟨?_, ?_, ?_, ?_, ?_⟩⟩
  · rw [Thread.fadd, hx, hy, add_opposite_infinities _ hpq]
    exact round32_invalid ..
  · have product : (Num.inf p).mul (.fin q 0 m) = .nan true := rfl
    refine ⟨?_, ?_, fun z => ?_⟩
    · rw [Thread.fmul, hx, hy, product]
      rfl
    · rw [Thread.fmul, hx, hy, product]
      rfl
    · rw [Thread.ffma, hx, hy, Num.fma, product]
      exact round32_invalid ..
  · rw [Thread.fadd, hx, hy, add_opposite, round32_zero, zeroNeg_eq]
    exact if_congr beq_iff_eq rfl rfl
  · rw [Thread.fadd, add_signalling_left hs]
    rfl
  · rw [Thread.fsub, add_signalling_right (neg_signalling hs)]
    rfl
  · rw [Thread.fmul, mul_signalling_left hs]
    rfl
  · show ((t.src32 x).signalling || _) = true
    rw [hs, Bool.true_or]
  · show (_ || (t.src32 x).signalling) = true
    rw [hs, Bool.or_true]

end Sys2Proof.Machine
end

section
/-! PROOF. Conversions, the smaller or larger of two encodings, and the words of scalar F32 (R93 to R98). -/

namespace Sys2Proof.Machine
open Sys2Proof.Safety

/-! ### To an integer (R97) -/

/-- A clamp leaves what lies in the range. -/
theorem clampInt_eq_self {lo hi : Int} (h : lo ≤ hi) (v : Int) : clampInt lo hi v = v ↔ lo ≤ v ∧ v ≤ hi := by
  rw [clampInt_eq h]
  omega

section
variable {t : Thread} {x : Word} (y : Word) {lo hi : Int}

theorem toInt_nan {s : Bool} (h : t.src32 x = .nan s) :
    (t.toInt x y lo hi).2.value = 0 ∧ (t.toInt x y lo hi).2.flags = { nv := true } := by
  unfold Thread.toInt
  simp only [h]
  exact ⟨trivial, trivial⟩

theorem toInt_inf {b : Bool} (h : t.src32 x = .inf b) :
    (t.toInt x y lo hi).2.value = BitVec.ofInt 64 (if b then lo else hi) ∧ (t.toInt x y lo hi).2.flags = { nv := true } := by
  unfold Thread.toInt
  simp only [h]
  exact ⟨trivial, trivial⟩

theorem toInt_fin {b : Bool} {n d : Nat} (range : lo ≤ hi) (h : t.src32 x = .fin b n d) :
    let i := roundInt (modeOf t.rm) (y.extractLsb' 32 32).toNat b n d
    (t.toInt x y lo hi).2.value = BitVec.ofInt 64 (max lo (min hi i.1)) ∧
      (t.toInt x y lo hi).2.flags = (if lo ≤ i.1 ∧ i.1 ≤ hi then { nx := i.2 } else { nv := true }) := by
  unfold Thread.toInt
  simp only [h, high32]
  exact ⟨by rw [clampInt_eq range], if_congr (clampInt_eq_self range _) rfl rfl⟩

end

/-! ### From B16 (R97) -/

/-- B16 is the upper half of F32. -/
theorem magnitude_b16 (h : Nat) : magnitude .f32 (h * 2 ^ 16) = magnitude .b16 h := by
  have e : h * 2 ^ 16 / 2 ^ 23 = h / 2 ^ 7 := by omega
  have r : h * 2 ^ 16 % 2 ^ 23 = h % 2 ^ 7 * 2 ^ 16 := by omega
  have m : ((h * 2 ^ 16 % 2 ^ 23 : Nat) : ℚ) / 2 ^ 23 = ((h % 2 ^ 7 : Nat) : ℚ) / 2 ^ 7 := by
    rw [r]
    push_cast
    ring
  simp only [magnitude, Fmt.m, Fmt.bias, e, m]
  rfl

/-- An encoding's magnitude stays as it is rounded, but for a subnormal one that is flushed. -/
theorem roundNum_exact {f : Fmt} {m : Mode} {rand n d k : Nat} {b fzr : Bool} (hn : 0 < n) (hd : 0 < d) (hrand : rand < 2 ^ 32)
    (out : ¬InHole f ((n : ℚ) / d)) (hk : k ≤ f.maxFinite) (hx : magnitude f k = (n : ℚ) / d) :
    roundNum f m rand fzr (.fin b n d) =
      if fzr = true ∧ 0 < k ∧ k < 2 ^ f.m then (signed f b 0, { uf := true, nx := true }) else (signed f b k, {}) := by
  obtain ⟨encoded, -, -, grid, -, flushed⟩ := roundNum_spec f m b hn hd hrand
  obtain ⟨mag, flags⟩ := (grid out).1 k hk hx
  rw [mag] at encoded flushed
  have plain : roundNum f m rand false (.fin b n d) = (signed f b k, {}) := Prod.ext encoded flags
  cases fzr with
  | false => rw [plain, if_neg (by simp)]
  | true => simp only [flushed, plain, true_and]

/-- The low half of a register as a B16 source: its magnitude, its sign, and the F32 encoding of the same value. -/
theorem b16_source (x : Word) :
    (x.extractLsb' 0 16).toNat % 2 ^ (Fmt.b16.e + Fmt.b16.m) = (x.extractLsb' 0 15).toNat ∧
    Fmt.b16.signAt (x.extractLsb' 0 16).toNat = x.getLsbD 15 := by
  constructor
  · show (x.extractLsb' 0 16).toNat % 2 ^ 15 = _
    simp only [BitVec.extractLsb'_toNat, Nat.shiftRight_zero]
    omega
  · show ((x.extractLsb' 0 16).toNat / 2 ^ 15 % 2 == 1) = x.getLsbD 15
    rw [BitVec.getLsbD, Nat.testBit_eq_decide_div_mod_eq, BitVec.extractLsb'_toNat, Nat.shiftRight_zero, Bool.beq_eq_decide_eq,
      decide_eq_decide]
    omega

/-- Two fields side by side, as a number. -/
theorem toNat_append_add {n m : Nat} (x : BitVec n) (y : BitVec m) : (x ++ y).toNat = x.toNat * 2 ^ m + y.toNat := by
  rw [BitVec.toNat_append, ← Nat.shiftLeft_add_eq_or_of_lt y.isLt, Nat.shiftLeft_eq]

/-- The sign of a B16 source in the place of that of F32. -/
theorem signed_f32_eq (x : Word) (k : Nat) : signed .f32 (x.getLsbD 15) k = x.toNat / 2 ^ 15 % 2 * 2 ^ 31 + k := by
  rw [BitVec.getLsbD, Nat.testBit_eq_decide_div_mod_eq]
  show (if decide (x.toNat / 2 ^ 15 % 2 = 1) = true then 2 ^ 31 else 0) + k = _
  split
  · next h => rw [of_decide_eq_true h, Nat.one_mul]
  · next h => rw [show x.toNat / 2 ^ 15 % 2 = 0 by simp at h; omega, Nat.zero_mul]

theorem ofNat_signed_wide (x : Word) :
    BitVec.ofNat 64 (signed .f32 (x.getLsbD 15) ((x.extractLsb' 0 15).toNat * 2 ^ 16)) = 0#32 ++ x.extractLsb' 0 16 ++ 0#16 := by
  apply BitVec.eq_of_toNat_eq
  rw [signed_f32_eq]
  simp only [toNat_append_add, BitVec.toNat_ofNat, BitVec.extractLsb'_toNat, Nat.shiftRight_eq_div_pow]
  omega

theorem ofNat_signed_zero (x : Word) :
    BitVec.ofNat 64 (signed .f32 (x.getLsbD 15) 0) = 0#32 ++ x.extractLsb' 15 1 ++ 0#31 := by
  apply BitVec.eq_of_toNat_eq
  rw [signed_f32_eq]
  simp only [toNat_append_add, BitVec.toNat_ofNat, BitVec.extractLsb'_toNat, Nat.shiftRight_eq_div_pow]
  omega

section
variable {t : Thread} {x : Word}

/-- R97: from B16, what is rounded into F32 is exact already. -/
theorem fromB16_of {v : Num} {r : Nat × FFlags} (hv : decodeF .b16 (flush .b16 t.fzs (x.extractLsb' 0 16).toNat) = v)
    (hr : roundNum .f32 .rz 0 t.fzr v = r) : (t.fromB16 x).value = BitVec.ofNat 64 r.1 ∧ (t.fromB16 x).flags = r.2 := by
  subst hv hr
  exact ⟨rfl, rfl⟩

theorem subnormal_b16 : subnormal .b16 (x.extractLsb' 0 16).toNat = true ↔
    0 < (x.extractLsb' 0 15).toNat ∧ (x.extractLsb' 0 15).toNat < 0x80 := by
  unfold subnormal
  rw [(b16_source x).1, Bool.and_eq_true, bne_iff_ne, decide_eq_true_eq, Nat.pos_iff_ne_zero]
  rfl

theorem decodeF_b16_kept (h : ¬(t.fzs = true ∧ 0 < (x.extractLsb' 0 15).toNat ∧ (x.extractLsb' 0 15).toNat < 0x80)) :
    decodeF .b16 (flush .b16 t.fzs (x.extractLsb' 0 16).toNat) = decodeF .b16 (x.extractLsb' 0 16).toNat :=
  congrArg _ (flush_of_not (by rwa [subnormal_b16]))

/-- A finite B16 source, as the F32 encoding that it makes. -/
theorem b16_finite (h : (x.extractLsb' 0 15).toNat < 0x7F80) : ∃ n d, 0 < d ∧
    decodeF .b16 (x.extractLsb' 0 16).toNat = .fin (x.getLsbD 15) n d ∧
    magnitude .f32 ((x.extractLsb' 0 15).toNat * 2 ^ 16) = (n : ℚ) / d := by
  obtain ⟨mag, sign⟩ := b16_source x
  have notNan : Fmt.b16.nanAt (x.extractLsb' 0 15).toNat = false :=
    decide_eq_false (show ¬0x7F80 < (x.extractLsb' 0 15).toNat by omega)
  obtain ⟨n, d, e, hd, value⟩ := decodeF_fin (f := .b16) (w := (x.extractLsb' 0 16).toNat) (by rw [mag, notNan])
    (by rw [mag]; exact h.ne)
  exact ⟨n, d, hd, sign ▸ e, by rw [magnitude_b16, value, mag]⟩

/-- A finite B16 source in F32, where nothing flushes it as a source. -/
theorem fromB16_finite (h : (x.extractLsb' 0 15).toNat < 0x7F80)
    (kept : ¬(t.fzs = true ∧ 0 < (x.extractLsb' 0 15).toNat ∧ (x.extractLsb' 0 15).toNat < 0x80)) :
    let r := if t.fzr = true ∧ 0 < (x.extractLsb' 0 15).toNat ∧ (x.extractLsb' 0 15).toNat < 0x80
      then (signed .f32 (x.getLsbD 15) 0, { uf := true, nx := true })
      else (signed .f32 (x.getLsbD 15) ((x.extractLsb' 0 15).toNat * 2 ^ 16), ({} : FFlags))
    (t.fromB16 x).value = BitVec.ofNat 64 r.1 ∧ (t.fromB16 x).flags = r.2 := by
  obtain ⟨n, d, hd, decoded, value⟩ := b16_finite h
  refine fromB16_of ((decodeF_b16_kept kept).trans decoded) ?_
  generalize (x.extractLsb' 0 15).toNat = k at *
  rcases Nat.eq_zero_or_pos n with rfl | hn
  · have zero : k = 0 := by
      rw [Nat.cast_zero, zero_div, ← magnitude_zero .f32] at value
      have := (magnitude_strictMono .f32).injective value
      omega
    rw [(roundNum_special ..).1, if_neg (by omega), zero, Nat.zero_mul]
  · have small : k * 2 ^ 16 ≤ Fmt.f32.maxFinite := by
      show _ ≤ 0x7F7FFFFF
      omega
    have sub : 0 < k * 2 ^ 16 ∧ k * 2 ^ 16 < 2 ^ Fmt.f32.m ↔ 0 < k ∧ k < 0x80 := by
      show 0 < k * 2 ^ 16 ∧ k * 2 ^ 16 < 2 ^ 23 ↔ _
      omega
    rw [roundNum_exact (f := .f32) hn hd (by decide) (fun h => absurd h.1 (by decide)) small value,
      if_congr (and_congr_right fun _ => sub) rfl rfl]

/-- R97: from B16. -/
theorem fromB16_spec (t : Thread) (x : Word) :
    let h := x.extractLsb' 0 15
    let sub := 0 < h.toNat ∧ h.toNat < 0x80
    (h.toNat ≤ 0x7F80 → (¬sub ∨ t.fzs = false ∧ t.fzr = false) →
      (t.fromB16 x).value = 0#32 ++ x.extractLsb' 0 16 ++ 0#16 ∧ (t.fromB16 x).flags = {}) ∧
    (sub → t.fzs = true → (t.fromB16 x).value = 0#32 ++ x.extractLsb' 15 1 ++ 0#31 ∧ (t.fromB16 x).flags = {}) ∧
    (sub → t.fzs = false → t.fzr = true →
      (t.fromB16 x).value = 0#32 ++ x.extractLsb' 15 1 ++ 0#31 ∧ (t.fromB16 x).flags = { uf := true, nx := true }) ∧
    (0x7F80 < h.toNat → (t.fromB16 x).value = 0x7FC00000 ∧ (t.fromB16 x).flags = { nv := decide (h.toNat < 0x7FC0) }) := by
  obtain ⟨mag, sign⟩ := b16_source x
  refine ⟨fun finite plain => ?_, fun sub hz => ?_, fun sub hz hr => ?_, fun nan => ?_⟩
  · have kept : ¬(t.fzs = true ∧ 0 < (x.extractLsb' 0 15).toNat ∧ (x.extractLsb' 0 15).toNat < 0x80) := by
      rintro ⟨hz, sub⟩
      rcases plain with h | ⟨h, -⟩
      · exact h sub
      · rw [hz] at h; cases h
    rw [← ofNat_signed_wide]
    rcases finite.lt_or_eq with below | inf
    · have result := fromB16_finite (t := t) below kept
      dsimp only at result
      rwa [if_neg] at result
      rintro ⟨hr, sub⟩
      rcases plain with h | ⟨-, h⟩
      · exact h sub
      · rw [hr] at h; cases h
    · have decoded := decodeF_inf (f := .b16) (w := (x.extractLsb' 0 16).toNat) (mag.trans inf)
      have upper : Fmt.f32.inf = 0x7F80 * 2 ^ 16 := by decide
      rw [inf, ← sign, ← upper]
      have result := fromB16_of ((decodeF_b16_kept kept).trans decoded) (roundNum_special .f32 .rz 0 0 _ t.fzr).2.1
      exact result
  · obtain ⟨d, decoded⟩ := decodeF_flush (subnormal_b16.mpr sub)
    rw [← ofNat_signed_zero, ← sign]
    exact fromB16_of (hz ▸ decoded) rfl
  · have result := fromB16_finite (t := t) (x := x) (by omega) (by rw [hz]; simp)
    dsimp only at result
    rw [if_pos ⟨hr, sub⟩] at result
    rwa [← ofNat_signed_zero]
  · have decoded := decodeF_nan (f := .b16) (w := (x.extractLsb' 0 16).toNat) (by rw [mag]; exact decide_eq_true nan)
    have signals : Fmt.b16.signalsAt (x.extractLsb' 0 15).toNat = decide ((x.extractLsb' 0 15).toNat < 0x7FC0) := by
      have room : (x.extractLsb' 0 15).toNat < 2 ^ 15 := (x.extractLsb' 0 15).isLt
      show ((x.extractLsb' 0 15).toNat % 2 ^ 7 / 2 ^ 6 % 2 == 0) = _
      rw [Bool.beq_eq_decide_eq, decide_eq_decide]
      omega
    rw [mag, signals] at decoded
    exact fromB16_of ((decodeF_b16_kept (by omega)).trans decoded) rfl

end

/-! ### The smaller or larger of two (R96) -/

/-- One number is at most the other, with -0 below +0, and no NaN among them. -/
def AtMost (x y : Num) : Prop :=
  x = .inf true ∨ y = .inf false ∨ (isFinite x ∧ isFinite y ∧
    (valueOf x < valueOf y ∨ (valueOf x = 0 ∧ valueOf y = 0 ∧ x.sign = true ∧ y.sign = false)))

theorem isZero_fin {b : Bool} {n d : Nat} (hd : 0 < d) : (Num.fin b n d).isZero = decide (valueOf (.fin b n d) = 0) := by
  rw [decide_eq_decide.mpr (valueOf_eq_zero hd)]
  exact Bool.beq_eq_decide_eq n 0

/-- The smaller one is below the other, unless both are the same infinity, and the other is not below it. -/
theorem below_of_atMost {x y : Num} (hx : x.isNan = false) (hy : y.isNan = false) (h : AtMost x y) :
    y.below x = false ∧ (x.below y = true ∨ ∃ p, x = .inf p ∧ y = .inf p) := by
  rcases h with rfl | rfl | ⟨⟨a, n, d, rfl, hd⟩, ⟨b, p, q, rfl, hq⟩, less | ⟨hx0, hy0, hxs, hys⟩⟩
  · cases y with
    | nan => cases hy
    | inf b => cases b <;> simp [Num.below, Num.isZero, Num.lt]
    | fin => simp [Num.below, Num.isZero, Num.lt]
  · cases x with
    | nan => cases hx
    | inf b => cases b <;> simp [Num.below, Num.isZero, Num.lt]
    | fin => simp [Num.below, Num.isZero, Num.lt]
  · have apart : ¬(valueOf (.fin a n d) = 0 ∧ valueOf (.fin b p q) = 0) := fun ⟨h1, h2⟩ => by
      rw [h1, h2] at less
      exact lt_irrefl _ less
    simp only [Num.below, isZero_fin hd, isZero_fin hq, lt_fin _ _ hd hq, lt_fin _ _ hq hd, ← Bool.decide_and, decide_eq_true_eq]
    rw [if_neg apart, if_neg fun h => apart h.symm]
    exact ⟨decide_eq_false (not_lt.mpr less.le), .inl (decide_eq_true less)⟩
  · simp only [Num.below, isZero_fin hd, isZero_fin hq, hx0, hy0, hxs, hys]
    exact ⟨rfl, .inl rfl⟩

/-- Two encodings of one infinity are the same encoding. -/
theorem encoding_of_inf {f : Fmt} {w : Nat} {p : Bool} (hw : w < 2 ^ (f.e + f.m + 1)) (h : decodeF f w = .inf p) :
    w = signed f p f.inf := by
  rw [decodeF_eq] at h
  dsimp only at h
  split at h
  · cases h
  · split at h
    · next inf =>
      rw [beq_iff_eq] at inf
      rw [Num.inf.injEq] at h
      have sign : w / 2 ^ (f.e + f.m) = if p then 1 else 0 := by
        have room : w / 2 ^ (f.e + f.m) < 2 := Nat.div_lt_of_lt_mul (by rwa [pow_succ] at hw)
        rw [← h, Fmt.signAt]
        interval_cases w / 2 ^ (f.e + f.m) <;> rfl
      rw [← Nat.div_add_mod w (2 ^ (f.e + f.m)), inf, sign, signed]
      split <;> simp
    · cases h

end Sys2Proof.Machine
end

section
/-! PROOF. The smaller or larger of two F32 sources (R96), the words of scalar F32, and the obligation about them. -/

namespace Sys2Proof.Machine
open Sys2Proof.Safety

/-! ### The smaller or larger of two (R96) -/

/-- Two encodings of one infinity are one encoding. -/
theorem encodings_eq {f : Fmt} {a b : Nat} (ra : a < 2 ^ (f.e + f.m + 1)) (rb : b < 2 ^ (f.e + f.m + 1))
    (h : ∃ p, decodeF f a = .inf p ∧ decodeF f b = .inf p) : a = b := by
  obtain ⟨p, hp, hq⟩ := h
  rw [encoding_of_inf ra hp, encoding_of_inf rb hq]

section
variable {f : Fmt} {a b : Nat} (ha : (decodeF f a).isNan = false) (hb : (decodeF f b).isNan = false)
include ha hb

theorem minMax_min : minMax f false a b = if (decodeF f b).below (decodeF f a) then b else a := by
  simp only [minMax, ha, hb, Bool.false_eq_true, if_false]

theorem minMax_max : minMax f true a b = if (decodeF f a).below (decodeF f b) then b else a := by
  simp only [minMax, ha, hb, Bool.false_eq_true, if_false, if_true]

variable (ra : a < 2 ^ (f.e + f.m + 1)) (rb : b < 2 ^ (f.e + f.m + 1))
include ra rb

theorem minMax_first (h : AtMost (decodeF f a) (decodeF f b)) : minMax f false a b = a ∧ minMax f true a b = b := by
  obtain ⟨notBelow, below⟩ := below_of_atMost ha hb h
  rw [minMax_min ha hb, minMax_max ha hb, notBelow]
  refine ⟨if_neg Bool.false_ne_true, ?_⟩
  rcases below with less | same
  · exact if_pos less
  · rw [encodings_eq ra rb same, ite_self]

theorem minMax_second (h : AtMost (decodeF f b) (decodeF f a)) : minMax f false a b = b ∧ minMax f true a b = a := by
  obtain ⟨notBelow, below⟩ := below_of_atMost hb ha h
  rw [minMax_min ha hb, minMax_max ha hb, notBelow]
  refine ⟨?_, if_neg Bool.false_ne_true⟩
  rcases below with less | same
  · exact if_pos less
  · rw [encodings_eq rb ra same, ite_self]

end

/-- R95: an F32 source as `fmin` and `fmax` give it back: flushed, and zero-extended. -/
def Thread.sourceBits (t : Thread) (w : Word) : Word :=
  if t.fzs = true ∧ (0 < (w.extractLsb' 0 31).toNat ∧ (w.extractLsb' 0 31).toNat < 2 ^ 23)
  then 0#32 ++ w.extractLsb' 31 1 ++ 0#31 else 0#32 ++ w.extractLsb' 0 32

theorem ofNat_flush (t : Thread) (w : Word) : BitVec.ofNat 64 (flush .f32 t.fzs (low32 w)) = t.sourceBits w := by
  have sub : (t.fzs && subnormal .f32 (low32 w)) = true ↔
      t.fzs = true ∧ (0 < (w.extractLsb' 0 31).toNat ∧ (w.extractLsb' 0 31).toNat < 2 ^ 23) := by
    rw [Bool.and_eq_true, subnormal_low32]
  rw [flush, if_congr sub rfl rfl, Thread.sourceBits]
  split
  · apply BitVec.eq_of_toNat_eq
    show BitVec.toNat (BitVec.ofNat 64 (low32 w / 2 ^ 31 % 2 * 2 ^ 31)) = _
    simp only [toNat_append_add, BitVec.toNat_ofNat, low32, BitVec.extractLsb'_toNat, Nat.shiftRight_eq_div_pow]
    omega
  · apply BitVec.eq_of_toNat_eq
    simp only [toNat_append_add, BitVec.toNat_ofNat, low32, BitVec.extractLsb'_toNat, Nat.shiftRight_eq_div_pow]
    omega

theorem flush_lt (t : Thread) (w : Word) : flush .f32 t.fzs (low32 w) < 2 ^ 32 := by
  have := low32_lt w
  unfold flush
  split
  · show low32 w / 2 ^ 31 % 2 * 2 ^ 31 < 2 ^ 32
    omega
  · exact this

/-- R96: `fmin` and `fmax`. -/
theorem fminMax_spec (t : Thread) (x y : Word) :
    let X := t.src32 x
    let Y := t.src32 y
    (X.isNan = true → Y.isNan = true → (t.fminMax false x y).value = 0x7FC00000 ∧ (t.fminMax true x y).value = 0x7FC00000) ∧
    (X.isNan = true → Y.isNan = false →
      (t.fminMax false x y).value = t.sourceBits y ∧ (t.fminMax true x y).value = t.sourceBits y) ∧
    (X.isNan = false → Y.isNan = true →
      (t.fminMax false x y).value = t.sourceBits x ∧ (t.fminMax true x y).value = t.sourceBits x) ∧
    (X.isNan = false → Y.isNan = false →
      (AtMost X Y → (t.fminMax false x y).value = t.sourceBits x ∧ (t.fminMax true x y).value = t.sourceBits y) ∧
      (AtMost Y X → (t.fminMax false x y).value = t.sourceBits y ∧ (t.fminMax true x y).value = t.sourceBits x)) := by
  simp only [Thread.fminMax, ← ofNat_flush, Thread.src32]
  refine ⟨fun hx hy => ?_, fun hx hy => ?_, fun hx hy => ?_, fun hx hy => ⟨fun h => ?_, fun h => ?_⟩⟩
  · simp only [minMax, hx, hy, if_true]
    exact ⟨rfl, rfl⟩
  · simp only [minMax, hx, hy, if_true, Bool.false_eq_true, if_false, and_self]
  · simp only [minMax, hx, hy, if_true, Bool.false_eq_true, if_false, and_self]
  · obtain ⟨least, greatest⟩ := minMax_first hx hy (flush_lt t x) (flush_lt t y) h
    rw [least, greatest]
    exact ⟨rfl, rfl⟩
  · obtain ⟨least, greatest⟩ := minMax_second hx hy (flush_lt t x) (flush_lt t y) h
    rw [least, greatest]
    exact ⟨rfl, rfl⟩

/-! ### Sign bits -/

theorem fabs_eq (x : Word) : x &&& 0x7FFFFFFF#64 = 0#33 ++ x.extractLsb' 0 31 := by
  have mask : 0x7FFFFFFF#64 = (0#33 ++ BitVec.allOnes 31 : BitVec 64) := by decide
  rw [mask]
  apply BitVec.eq_of_getLsbD_eq
  intro j hj
  simp only [BitVec.getLsbD_and, BitVec.getLsbD_append, BitVec.getLsbD_extractLsb', BitVec.getLsbD_allOnes, BitVec.getLsbD_zero]
  grind

theorem fneg_eq (x : Word) :
    (x &&& 0xFFFFFFFF#64) ^^^ 0x80000000#64 = 0#32 ++ ~~~x.extractLsb' 31 1 ++ x.extractLsb' 0 31 := by
  have low : 0xFFFFFFFF#64 = (0#32 ++ BitVec.allOnes 1 ++ BitVec.allOnes 31 : BitVec 64) := by decide
  have sign : 0x80000000#64 = (0#32 ++ BitVec.allOnes 1 ++ 0#31 : BitVec 64) := by decide
  rw [low, sign]
  apply BitVec.eq_of_getLsbD_eq
  intro j hj
  simp only [BitVec.getLsbD_xor, BitVec.getLsbD_and, BitVec.getLsbD_not, BitVec.getLsbD_append, BitVec.getLsbD_extractLsb',
    BitVec.getLsbD_allOnes, BitVec.getLsbD_zero]
  grind

/-! ### Words (R93, R98) -/

/-- A scalar F32 word whose result can be written. -/
theorem putF_takes {s s3 : State} {d : XReg} {r : FResult} (t : Bool) (h : Takes s d r.value s3) :
    putF s d r t =
      .done (if r.turns = 0 then (s3.setX d r.value t).raise r.flags else ((s3.setX d r.value t).raise r.flags).joinNorm r.turns) := by
  rw [putF, h]
  split <;> rfl

/-- R93, R98: a word that ends in `putF` writes its result, sets its flags and retires, and may leave its slot in the normaliser. -/
theorem givesF_putF {i : Instr} {s s2 : State} {d : XReg} {r : FResult} {t : Bool} (he : exec i s = finish s (putF s2 d r t)) :
    GivesF i s s2 d r t := by
  intro s3 ht
  refine ⟨_, he.trans (by rw [putF_takes t ht, finish_done]), ?_⟩
  generalize (s3.setX d r.value t).raise r.flags = u
  by_cases none : r.turns = 0
  · rw [if_pos none]
    exact ⟨rfl, rfl, rfl, rfl, fun _ => rfl, fun some => absurd none some⟩
  · have cur := joinNorm_cur u r.turns
    have queued : ((u.joinNorm r.turns).core u.cur.core).norm = (u.core u.cur.core).norm ++ [u.cur.num] := by
      show ((u.setCore u.normQueued).core u.cur.core).norm = _
      rw [core_setCore_of u u.normQueued u.cur.core (core_num u u.cur.core)]
      rfl
    rw [if_neg none]
    exact ⟨by rw [cur], by rw [cur], by rw [cur], rfl, fun zero => absurd zero none, fun _ => ⟨by rw [cur], queued⟩⟩

section
variable {i : Instr} {s s1 s2 s3 : State} {g : KReg} {d a b : XReg} {x y z : Word} {t u : Bool} {r : FResult} (hg : GuardOn s g)
include hg

theorem givesF_binaryF (f : Thread → Word → Word → FResult) (o : Out1) (he : exec i s = o) (ho : o = binaryF s g d a b f)
    (hf : PortsFit s [a, b] [d]) (hr : ReadsTwo s a b x y t s2) : GivesF i s s2 d (f s.rd x y) t :=
  givesF_putF (he.trans (ho.trans (by rw [binaryF, guarded_active hg, legal_fit hf, useXX_reads hr])))

/-- R97: under stochastic rounding a conversion reads x(b) too. -/
theorem givesF_convertF_stoch (f : Thread → Word → Word → FResult) (o : Out1) (he : exec i s = o) (ho : o = convertF s g d a b f)
    (stoch : s.rd.rm = 4#3) (hf : PortsFit s [a, b] [d]) (hr : ReadsTwo s a b x y t s2) : GivesF i s s2 d (f s.rd x y) t := by
  have mode := (modeOf_stoch s.rd.rm).mpr stoch
  exact givesF_putF (he.trans (ho.trans (by
    rw [convertF, guarded_active hg, if_pos mode, if_pos mode, legal_fit hf, useXX_reads hr])))

theorem givesF_convertF (f : Thread → Word → Word → FResult) (o : Out1) (he : exec i s = o) (ho : o = convertF s g d a b f)
    (plain : s.rd.rm ≠ 4#3) (hf : PortsFit s [a] [d]) (hr : ReadsAs s a x t s1) : GivesF i s s1 d (f s.rd x 0) t := by
  have mode := (modeOf_stoch s.rd.rm).not.mpr plain
  exact givesF_putF (he.trans (ho.trans (by rw [convertF, guarded_active hg, if_neg mode, if_neg mode, legal_fit hf, hr])))

theorem givesF_ffma (hf : PortsFit s [a, b, d] [d]) (hr : ReadsTwo s a b x y t s2) (hd : ReadsAs s2 d z u s3) :
    GivesF (.ffma g d a b) s s3 d (s.rd.ffma x y z) (t || u) :=
  givesF_putF (by
    show execFfma g d a b s = _
    rw [execFfma, guarded_active hg, legal_fit hf, useXX_reads hr, hd])

theorem givesF_fromB16 (hf : PortsFit s [a] [d]) (hr : ReadsAs s a x t s1) :
    GivesF (.fcvtF32B16 g d a b) s s1 d (s.rd.fromB16 x) t :=
  givesF_putF (by
    show execFcvtF32B16 g d a b s = _
    rw [execFcvtF32B16, guarded_active hg, legal_fit hf, hr])

end

section
variable {s s1 s2 : State} {g : KReg} {d a b : XReg} {x y : Word} {t : Bool} (hg : GuardOn s g)
include hg

/-- R97, R98: the conversions that read x(b) under stochastic rounding. -/
theorem conversions_stoch (hf : PortsFit s [a, b] [d]) (hr : ReadsTwo s a b x y t s2) (stoch : s.rd.rm = 4#3) :
    GivesF (.fcvtF32I32 g d a b) s s2 d (s.rd.fromInt (x.extractLsb' 0 32).toInt y) t ∧
    GivesF (.fcvtF32N32 g d a b) s s2 d (s.rd.fromInt (x.extractLsb' 0 32).toNat y) t ∧
    GivesF (.fcvtI32F32 g d a b) s s2 d (s.rd.toInt x y (-2 ^ 31) (2 ^ 31 - 1)).2 t ∧
    GivesF (.fcvtN32F32 g d a b) s s2 d (s.rd.toInt x y 0 (2 ^ 32 - 1)).2 t ∧
    GivesF (.fcvtB16F32 g d a b) s s2 d (s.rd.toB16 x y) t := by
  have word (i : Instr) (f : Thread → Word → Word → FResult) (o : Out1) (he : exec i s = o) (ho : o = convertF s g d a b f) :
      GivesF i s s2 d (f s.rd x y) t := givesF_convertF_stoch hg f o he ho stoch hf hr
  exact ⟨word _ (fun t x r => t.fromInt (x.extractLsb' 0 32).toInt r) (execFcvtF32I32 g d a b s) rfl rfl,
    word _ (fun t x r => t.fromInt (low32 x) r) (execFcvtF32N32 g d a b s) rfl rfl,
    word _ (fun t x r => (t.toInt x r (-2 ^ 31) (2 ^ 31 - 1)).2) (execFcvtI32F32 g d a b s) rfl rfl,
    word _ (fun t x r => (t.toInt x r 0 (2 ^ 32 - 1)).2) (execFcvtN32F32 g d a b s) rfl rfl,
    word _ (fun t x r => t.toB16 x r) (execFcvtB16F32 g d a b s) rfl rfl⟩

/-- R97, R98: under the other modes they read x(a) alone. -/
theorem conversions_plain (hf : PortsFit s [a] [d]) (hr : ReadsAs s a x t s1) (plain : s.rd.rm ≠ 4#3) :
    GivesF (.fcvtF32I32 g d a b) s s1 d (s.rd.fromInt (x.extractLsb' 0 32).toInt 0) t ∧
    GivesF (.fcvtF32N32 g d a b) s s1 d (s.rd.fromInt (x.extractLsb' 0 32).toNat 0) t ∧
    GivesF (.fcvtI32F32 g d a b) s s1 d (s.rd.toInt x 0 (-2 ^ 31) (2 ^ 31 - 1)).2 t ∧
    GivesF (.fcvtN32F32 g d a b) s s1 d (s.rd.toInt x 0 0 (2 ^ 32 - 1)).2 t ∧
    GivesF (.fcvtB16F32 g d a b) s s1 d (s.rd.toB16 x 0) t := by
  have word (i : Instr) (f : Thread → Word → Word → FResult) (o : Out1) (he : exec i s = o) (ho : o = convertF s g d a b f) :
      GivesF i s s1 d (f s.rd x 0) t := givesF_convertF hg f o he ho plain hf hr
  exact ⟨word _ (fun t x r => t.fromInt (x.extractLsb' 0 32).toInt r) (execFcvtF32I32 g d a b s) rfl rfl,
    word _ (fun t x r => t.fromInt (low32 x) r) (execFcvtF32N32 g d a b s) rfl rfl,
    word _ (fun t x r => (t.toInt x r (-2 ^ 31) (2 ^ 31 - 1)).2) (execFcvtI32F32 g d a b s) rfl rfl,
    word _ (fun t x r => (t.toInt x r 0 (2 ^ 32 - 1)).2) (execFcvtN32F32 g d a b s) rfl rfl,
    word _ (fun t x r => t.toB16 x r) (execFcvtB16F32 g d a b s) rfl rfl⟩

end

/-! ### The obligation -/

/-- Settles O9: a word ends in `putF` (`givesF_putF`); its value is an exact one (`exact_operations`, `decodeF_value`) that
`roundNum_spec` and `roundInt_spec` round; the conversions and `fmin`, `fmax` are `toInt_fin`, `fromB16_spec` and `fminMax_spec`. -/
theorem scalarF32 : Obligations.ScalarF32 := by
  unfold Obligations.ScalarF32
  refine ⟨fun s s2 g d a b x y t hg hf hr => ?_, fun s s2 s3 g d a b x y z t u hg hf hr hd => givesF_ffma hg hf hr hd,
    fun s s1 g d a b x t hg hf hr => ?_, fun t x y z h => results_of_nan t y z h, fun t x y p q n m => results_invalid t x y p q n m,
    fun f w => ?_, fun x y z rd hx hy hz => exact_operations rd hx hy hz,
    fun f m rand n d b hn hd hrand => roundNum_spec f m b hn hd hrand, fun f m rand d b z => roundNum_special f m rand d b z,
    fun m rand n d b hd hrand => roundInt_spec m n b hd hrand, fun t x y z => ?_⟩
  · exact ⟨givesF_binaryF hg Thread.fadd (execFadd g d a b s) rfl rfl hf hr,
      givesF_binaryF hg Thread.fsub (execFsub g d a b s) rfl rfl hf hr,
      givesF_binaryF hg Thread.fmul (execFmul g d a b s) rfl rfl hf hr,
      givesF_binaryF hg (fun t => t.fminMax false) (execFmin g d a b s) rfl rfl hf hr,
      givesF_binaryF hg (fun t => t.fminMax true) (execFmax g d a b s) rfl rfl hf hr, conversions_stoch hg hf hr⟩
  · exact ⟨gives_unary _ rfl hg hf hr (fabs_eq x), gives_unary _ rfl hg hf hr (fneg_eq x), givesF_fromB16 hg hf hr,
      conversions_plain hg hf hr⟩
  · refine ⟨fun h h8 => decodeF_value h h8, fun h => decodeF_inf h, fun h8 h => ?_⟩
    rw [decodeF_nan (nanAt_of_inf_lt h8 h)]
    rfl
  · rw [← zeroNeg_eq t]
    refine ⟨⟨rfl, rfl⟩, ⟨rfl, rfl⟩, ⟨rfl, rfl⟩, ⟨rfl, rfl⟩, ⟨rfl, rfl⟩, fun i => ⟨rfl, rfl⟩,
      fun hz small => src32_flushed hz ((subnormal_low32 x).mpr small), fun h => src32_kept (by rwa [subnormal_low32]),
      fun lo hi range => ?_, fromB16_spec t x, ?_⟩
    · cases source : t.src32 x with
      | nan s => exact toInt_nan y source
      | inf b => exact toInt_inf y source
      | fin b n d => exact toInt_fin y range source
    · obtain ⟨nans, first, second, numbers⟩ := fminMax_spec t x y
      refine ⟨nans, first, second, fun hx hy => ⟨(numbers hx hy).1, fun h => (numbers hx hy).2 ?_⟩, rfl, rfl⟩
      exact h.imp_right (Or.imp_right fun ⟨finx, finy, order⟩ =>
        ⟨finy, finx, order.imp_right fun ⟨zx, zy, signs⟩ => ⟨zy, zx, signs⟩⟩)

end Sys2Proof.Machine
end

section
/-! PROOF. Waiting for time and for operations (R110, R112, R121, R122, R215): `rdcyc`, `nap`, `yield`, `fence` and `wait`. -/

namespace Sys2Proof.Machine
open Sys2Proof.Safety

/-! ### Words that issue and wait -/

/-- The bundle has issued, and its slot waits out of rotation for its condition (R281). -/
def State.heldNowhere (s : State) : State := ({ s with cur := { s.cur with stands := none } } : State).parked .held

theorem finish_hold_none (s : State) : finish s (.hold none) = .next s.heldNowhere := rfl

theorem finish_trap (s : State) (c : Cause) (v : Word) : finish s (.trap c v) = .next (s.trapped c v s.cur.pc) := rfl

/-- A word that tests a condition retires, or has issued and waits (R110, R112, R120). -/
theorem finish_tests {s : State} {g : KReg} (hg : GuardOn s g) (p : Prop) [Decidable p] :
    (p → finish s (guarded s g (if p then .done s else .hold none)) = .next (s.retire none)) ∧
      (¬p → finish s (guarded s g (if p then .done s else .hold none)) = .next s.heldNowhere) := by
  rw [guarded_active hg]
  exact ⟨fun h => by rw [if_pos h, finish_done], fun h => by rw [if_neg h, finish_hold_none]⟩

/-! ### The thread's copies -/

/-- A copy is outstanding where a core runs it or keeps it in its FIFO. -/
theorem any_myCopies (s : State) (p : Copy → Bool) : s.myCopies.any p = true ↔
    ∃ k ∈ s.cores, ∃ c ∈ k.engine.toList ++ k.fifo, c.thread = s.cur.num ∧ p c = true := by
  simp only [State.myCopies, Core.copies, List.any_eq_true, List.mem_filter, List.mem_flatMap, beq_iff_eq]
  constructor
  · rintro ⟨c, ⟨⟨k, hk, hc⟩, mine⟩, hp⟩
    exact ⟨k, hk, c, hc, mine, hp⟩
  · rintro ⟨k, hk, c, hc, mine, hp⟩
    exact ⟨c, ⟨⟨k, hk, hc⟩, mine⟩, hp⟩

/-! ### Fences (R110) -/

theorem fenceDone_zero (s : State) : s.fenceDone 0 = true := rfl

theorem fenceDone_five (s : State) : s.fenceDone 5 = true ↔ s.cur.ldo = 0 ∧ s.cur.sto = 0 := by
  rw [show s.fenceDone 5 = (s.cur.ldo == 0 && s.cur.sto == 0) from rfl, Bool.and_eq_true, beq_iff_eq, beq_iff_eq]

theorem fenceDone_eight (s : State) : s.fenceDone 8 = true ↔ s.cur.sto = 0 ∧ s.cur.cpo = 0 ∧ s.cur.tlo = 0 := by
  rw [show s.fenceDone 8 = (s.cur.sto == 0 && s.cur.cpo == 0 && s.cur.tlo == 0) from rfl]
  simp only [Bool.and_eq_true, beq_iff_eq, and_assoc]

/-- Scope 6 is scope 5 and the copies of the current domain. -/
theorem fenceDone_six_eq (s : State) : s.fenceDone 6 = (s.fenceDone 5 && !s.myCopies.any fun c => c.dom == s.cur.dom) := rfl

/-- Scope 7 is scope 5 and every copy. -/
theorem fenceDone_seven_eq (s : State) : s.fenceDone 7 = (s.fenceDone 5 && s.myCopies.isEmpty) := rfl

/-- Scopes 9 and 10 are scope 6 and the copies to and from hosts, or to and from hosts and peers. -/
theorem fenceDone_nine_eq (s : State) :
    s.fenceDone 9 = (s.fenceDone 6 && !s.myCopies.any fun c => s.remotePeer c == some false) := rfl
theorem fenceDone_ten_eq (s : State) :
    s.fenceDone 10 = (s.fenceDone 6 && !s.myCopies.any fun c => (s.remotePeer c).isSome) := rfl

theorem fenceDone_six (s : State) : s.fenceDone 6 = true ↔ s.cur.ldo = 0 ∧ s.cur.sto = 0 ∧
    ¬∃ k ∈ s.cores, ∃ c ∈ k.engine.toList ++ k.fifo, c.thread = s.cur.num ∧ c.dom = s.cur.dom := by
  have copies := any_myCopies s fun c => c.dom == s.cur.dom
  simp only [beq_iff_eq] at copies
  rw [fenceDone_six_eq, Bool.and_eq_true, fenceDone_five, Bool.not_eq_true', ← Bool.not_eq_true, copies, and_assoc]

theorem fenceDone_seven (s : State) : s.fenceDone 7 = true ↔ s.cur.ldo = 0 ∧ s.cur.sto = 0 ∧
    ¬∃ k ∈ s.cores, ∃ c ∈ k.engine.toList ++ k.fifo, c.thread = s.cur.num ∧ True := by
  have copies := any_myCopies s fun _ => true
  have none_ : s.myCopies.isEmpty = !s.myCopies.any fun _ => true := by cases s.myCopies <;> rfl
  simp only [eq_self] at copies
  rw [fenceDone_seven_eq, none_, Bool.and_eq_true, fenceDone_five, Bool.not_eq_true', ← Bool.not_eq_true, copies, and_assoc]

/-- No copy of the thread is of the current domain where it has none. -/
theorem fenceDone_six_of_seven {s : State} (h : s.fenceDone 7 = true) : s.fenceDone 6 = true := by
  obtain ⟨loads, stores, copies⟩ := (fenceDone_seven s).mp h
  refine (fenceDone_six s).mpr ⟨loads, stores, ?_⟩
  rintro ⟨k, hk, c, hc, mine, -⟩
  exact copies ⟨k, hk, c, hc, mine, trivial⟩

/-- A copy with a host is one with a remote side. -/
theorem fenceDone_nine_of_ten {s : State} (h : s.fenceDone 10 = true) : s.fenceDone 9 = true := by
  rw [fenceDone_ten_eq, Bool.and_eq_true, Bool.not_eq_true', List.any_eq_false] at h
  rw [fenceDone_nine_eq, Bool.and_eq_true, Bool.not_eq_true', List.any_eq_false]
  refine ⟨h.1, fun c hc host => h.2 c hc ?_⟩
  rw [beq_iff_eq.mp host]
  rfl

theorem fenceDone_six_of_nine {s : State} (h : s.fenceDone 9 = true) : s.fenceDone 6 = true := by
  rw [fenceDone_nine_eq, Bool.and_eq_true] at h
  exact h.1

theorem fenceDone_five_of_six {s : State} (h : s.fenceDone 6 = true) : s.fenceDone 5 = true := by
  rw [fenceDone_six_eq, Bool.and_eq_true] at h
  exact h.1

/-- Settles O22: both words test a condition (`finish_tests`); `fenceDone_five` to `fenceDone_eight` are the sets of the scopes, and
`fenceDone_six_of_seven` to `fenceDone_five_of_six` how they lie in one another. -/
theorem fencesAndWait : Obligations.FencesAndWait := by
  unfold Obligations.FencesAndWait
  intro s g hg
  refine ⟨fun sc => ⟨fun h => (finish_tests hg _).1 h, fun h => (finish_tests hg _).2 (Bool.not_eq_true _ ▸ h)⟩,
    fenceDone_zero s, fenceDone_five s, fenceDone_eight s, fenceDone_six s, fenceDone_seven s, fun h => ?_,
    fenceDone_six_of_seven, fun l st c t => finish_tests hg _⟩
  have nine := fenceDone_nine_of_ten h
  have six := fenceDone_six_of_nine nine
  exact ⟨nine, six, fenceDone_five_of_six six⟩

/-! ### Time (R121, R122) -/

/-- The cycle that a promise word names: its low eight bits are the tag. -/
theorem promised_eq (w : Word) : w &&& ~~~0xFF#64 = w.extractLsb' 8 56 ++ 0#8 := by
  have mask : 0xFF#64 = (0#56 ++ BitVec.allOnes 8 : BitVec 64) := by decide
  rw [mask]
  apply BitVec.eq_of_getLsbD_eq
  intro j hj
  simp only [BitVec.getLsbD_and, BitVec.getLsbD_not, BitVec.getLsbD_append, BitVec.getLsbD_extractLsb',
    BitVec.getLsbD_allOnes, BitVec.getLsbD_zero]
  grind

section
variable {s s1 : State} {g : KReg} {a : XReg} {w : Word} {t : Bool} (hg : GuardOn s g) (hr : ReadsAs s a w t s1)
include hg hr

theorem nap_sleeps (early : s1.cyc.toNat < (w.extractLsb' 8 56 ++ 0#8 : Word).toNat) :
    exec (.nap g a) s = .next (s1.parked (.sleep (w.extractLsb' 8 56 ++ 0#8))) := by
  show execNap g a s = _
  rw [execNap, guarded_active hg, hr]
  dsimp only
  rw [promised_eq, if_pos early]
  rfl

theorem nap_due (due : (w.extractLsb' 8 56 ++ 0#8 : Word).toNat ≤ s1.cyc.toNat) : exec (.nap g a) s =
    finish s (if s1.myCopies.any (fun c => c.tag == w.extractLsb' 0 8) then .trap .promise w else .done s1) := by
  show execNap g a s = _
  rw [execNap, guarded_active hg, hr]
  dsimp only
  rw [promised_eq, if_neg (Nat.not_lt.mpr due)]

theorem nap_wakes (due : (w.extractLsb' 8 56 ++ 0#8 : Word).toNat ≤ s1.cyc.toNat)
    (none_ : ¬s1.myCopies.any (fun c => c.tag == w.extractLsb' 0 8) = true) : Retires (.nap g a) s s1 := by
  rw [Retires, nap_due hg hr due, if_neg none_, finish_done]

theorem nap_promise (due : (w.extractLsb' 8 56 ++ 0#8 : Word).toNat ≤ s1.cyc.toNat)
    (out : s1.myCopies.any (fun c => c.tag == w.extractLsb' 0 8) = true) :
    exec (.nap g a) s = .next (s.trapped .promise w s.cur.pc) := by
  rw [nap_due hg hr due, if_pos out, finish_trap]

end

/-! ### Yielding (R215, R315) -/

/-- The core of a thread that has yielded, before the handover. -/
def State.yieldCore (s : State) : Core :=
  let k := s.core s.cur.core
  { k with yields := (s.cur.slotNo, s.rotation s.cur.core &&& ~~~(1#16 <<< s.cur.slotNo.toNat)) ::
      k.yields.filter fun y => y.1 != s.cur.slotNo }

/-- The core of a thread that has yielded: its slot is handed over where that is pending and its gate does not defer it. -/
def State.yieldedCore (s : State) : Core :=
  match (s.core s.cur.core).nextVd with
  | some v => if s.deferred s.cur then s.yieldCore else s.yieldCore.handOver v s.cur.slotNo s.cyc
  | none => s.yieldCore

theorem exec_yield {s : State} {g : KReg} (hg : GuardOn s g) : Retires (.yield g) s (s.setCore s.yieldedCore) := by
  show execYield g s = _
  rw [execYield, guarded_active hg, finish_done]
  rfl

theorem handOver_num (k : Core) (v : VdNo) (n : SlotNo) (now : Word) : (k.handOver v n now).num = k.num := by
  unfold Core.handOver
  dsimp only
  split <;> rfl

theorem handOver_yields (k : Core) (v : VdNo) (n : SlotNo) (now : Word) : (k.handOver v n now).yields = k.yields := by
  unfold Core.handOver
  dsimp only
  split <;> rfl

/-- R353: one slot more is handed over, while another is left. -/
theorem handOver_more {k : Core} {v : VdNo} {n : SlotNo} (now : Word) (h : k.handed ||| (1#16 <<< n.toNat) ≠ BitVec.allOnes 16) :
    k.handOver v n now = { k with handed := k.handed ||| (1#16 <<< n.toNat) } := if_neg h

/-- R353: the slice changes with the last slot. -/
theorem handOver_last {k : Core} {v : VdNo} {n : SlotNo} (now : Word) (h : k.handed ||| (1#16 <<< n.toNat) = BitVec.allOnes 16) :
    k.handOver v n now = { k with handed := 0, nextVd := none, sliceVd := some v, sliceStart := now } := if_pos h

theorem yieldedCore_num (s : State) : s.yieldedCore.num = s.cur.core := by
  have num : s.yieldCore.num = s.cur.core := core_num s s.cur.core
  unfold State.yieldedCore
  split
  · split
    · exact num
    · rw [handOver_num, num]
  · exact num

theorem yieldedCore_yields (s : State) : s.yieldedCore.yields = s.yieldCore.yields := by
  unfold State.yieldedCore
  split
  · split
    · rfl
    · exact handOver_yields ..
  · rfl

theorem yieldedCore_stays {s : State} (h : (s.core s.cur.core).nextVd = none ∨ s.deferred s.cur = true) :
    s.yieldedCore = s.yieldCore := by
  unfold State.yieldedCore
  rcases h with none_ | deferred
  · rw [none_]
  · split
    · exact if_pos deferred
    · rfl

theorem yieldedCore_hands {s : State} {v : VdNo} (hv : (s.core s.cur.core).nextVd = some v) (hd : s.deferred s.cur = false) :
    s.yieldedCore = s.yieldCore.handOver v s.cur.slotNo s.cyc := by
  unfold State.yieldedCore
  simp only [hv, hd, Bool.false_eq_true, if_false]

/-- Settles O14: `rdcyc` is a word that writes a register; `nap` by whether it is early, and else by whether a copy is outstanding
(`nap_sleeps`, `nap_wakes`, `nap_promise`); `yieldedCore` is what `yield` leaves of its core. -/
theorem timeWords : Obligations.TimeWords := by
  unfold Obligations.TimeWords
  refine ⟨fun s g d hg s3 ht => ?_, fun s s1 g a w t hg hr => ?_, fun s g hg => ?_⟩
  · show execRdcyc g d s = _
    rw [execRdcyc, guarded_active hg, putX_takes ht, finish_done]
  · have copies := any_myCopies s1 fun c => c.tag == w.extractLsb' 0 8
    simp only [beq_iff_eq] at copies
    exact ⟨nap_sleeps hg hr, fun due none_ => nap_wakes hg hr due (mt copies.mp none_),
      fun due out => nap_promise hg hr due (copies.mpr out)⟩
  · have core : (s.setCore s.yieldedCore).core s.cur.core = s.yieldedCore := core_setCore_of _ _ _ (yieldedCore_num s)
    refine ⟨s.setCore s.yieldedCore, exec_yield hg, rfl, rfl, ?_, fun stays => ?_, fun v hv hd => ⟨fun more => ?_, fun last => ?_⟩⟩
    · rw [core, yieldedCore_yields]
      exact List.lookup_cons_self
    · rw [core, yieldedCore_stays stays]
      exact ⟨rfl, rfl⟩
    · rw [core, yieldedCore_hands hv hd, handOver_more (k := s.yieldCore) s.cyc more]
      exact ⟨rfl, hv⟩
    · rw [core, yieldedCore_hands hv hd, handOver_last (k := s.yieldCore) s.cyc last]
      exact ⟨rfl, rfl⟩

end Sys2Proof.Machine
end

section
/-! PROOF. Messages (R116 to R120): `msend`, `mrecv` and `waitm`. -/

namespace Sys2Proof.Machine
open Sys2Proof.Safety

/-! ### Sending (R116, R117) -/

/-- The message that `msend` stages. -/
def State.letter (s : State) (w : Word) (vs : List Word) : Msg :=
  { sender := s.cur.num, dom := s.cur.dom, dest := w, stage := none, payload := vs, nacks := 0, due := s.cyc, refused := false }

/-- A staged message is the last of its core's buffer. -/
theorem stage_retry (s : State) (m : Msg) :
    ((s.stage m).core s.cur.core).retry = (s.core s.cur.core).retry ++ [{ m with num := s.stamp }] := by
  refine congrArg Core.retry (core_setCore_of s _ s.cur.core ?_)
  exact core_num ..

section
variable {s s1 s2 : State} {g : KReg} {a b : XReg} {m : BitVec 3} {w : Word} {t : Bool} {vs : List Word} (hg : GuardOn s g)
  (hf : PortsFit s (a :: (List.range (m.toNat + 1)).map fun i => b + BitVec.ofNat 4 i) []) (hr : ReadsAs s a w t s1)
  (hv : ReadsRun s1 b.toNat (m.toNat + 1) vs s2)
include hg hf hr hv

theorem exec_msend : exec (.msend g a b m) s = finish s (
    if destDom w ≠ s2.cur.dom ∨ w.extractLsb' 14 6 ≠ 0#6 then .trap .prot w
    else if !s2.canStage s2.cur.core then .hold none else .done (s2.stage (s2.letter w vs))) := by
  show execMsend g a b m s = _
  rw [execMsend, guarded_active hg, legal_fit hf, hr, hv]
  rfl

theorem msend_elsewhere (away : ¬(destDom w = s2.cur.dom ∧ w.extractLsb' 14 6 = 0#6)) :
    exec (.msend g a b m) s = .next (s.trapped .prot w s.cur.pc) := by
  rw [exec_msend hg hf hr hv, if_pos (not_and_or.mp away), finish_trap]

variable (here : destDom w = s2.cur.dom ∧ w.extractLsb' 14 6 = 0#6)
include here

theorem msend_waits (full : 32 ≤ s2.buffered s2.cur.core) : exec (.msend g a b m) s = .next s.heldNowhere := by
  have no_room : (!s2.canStage s2.cur.core) = true := by simp [State.canStage, full]
  rw [exec_msend hg hf hr hv, if_neg (not_or.mpr ⟨not_not.mpr here.1, not_not.mpr here.2⟩), if_pos no_room, finish_hold_none]

theorem msend_stages (room : s2.buffered s2.cur.core < 32) : Retires (.msend g a b m) s (s2.stage (s2.letter w vs)) := by
  have has_room : ¬(!s2.canStage s2.cur.core) = true := by simp [State.canStage, room]
  rw [Retires, exec_msend hg hf hr hv, if_neg (not_or.mpr ⟨not_not.mpr here.1, not_not.mpr here.2⟩), if_neg has_room, finish_done]

end

/-! ### Receiving (R119, R120) -/

/-- Nothing is damaged where an entry is taken. -/
theorem takeEntry_sound {s : State} {sp : Spot} (h : (s.damage.any fun d => d.spot == sp) = false) : s.takeEntry sp = (false, s) :=
  if_neg (Bool.not_eq_true _ ▸ h)

/-- The first element with a property goes, whether it is asked for by the property or by itself. -/
theorem eraseP_eq_erase {α : Type} [DecidableEq α] {p : α → Bool} {l : List α} {e : α} (h : l.find? p = some e) :
    l.eraseP p = l.erase e := by
  induction l with
  | nil => cases h
  | cons a r ih =>
    rw [List.find?_cons] at h
    split at h
    · next holds =>
      cases h
      rw [List.eraseP_cons_of_pos holds, List.erase_cons_head]
    · next fails =>
      have other : (a == e) = false := by
        rw [beq_eq_false_iff_ne]
        rintro rfl
        rw [List.find?_some h] at fails
        cases fails
      rw [List.eraseP_cons_of_neg (by simp [fails]), List.erase_cons_tail (by simp [other]), ih h]

/-- The oldest message for the current domain is one of the thread's in that domain, and it is the one removed (R119). -/
theorem oldestMail_spec {s : State} {e : Mail} (h : s.oldestMail = some e) : e.thread = s.cur.num ∧ e.dom = s.cur.dom ∧
    e ∈ (s.core s.cur.core).mailbox ∧ (s.dropMail.core s.cur.core).mailbox = (s.core s.cur.core).mailbox.erase e := by
  have mine := List.find?_some h
  rw [Bool.and_eq_true, beq_iff_eq, beq_iff_eq] at mine
  refine ⟨mine.1, mine.2, List.mem_of_find?_eq_some h, Eq.trans ?_ (eraseP_eq_erase h)⟩
  refine congrArg Core.mailbox (core_setCore_of s _ s.cur.core ?_)
  exact core_num ..

section
variable {s : State} {g : KReg} {d : XReg} {m : BitVec 3} (hg : GuardOn s g)
  (hf : PortsFit s [] ((List.range (m.toNat + 1)).map fun i => d + BitVec.ofNat 4 i))
include hg hf

theorem mrecv_waits (none_ : s.oldestMail = none) : exec (.mrecv g d m) s = .next s.heldNowhere := by
  show execMrecv g d m s = _
  rw [execMrecv, guarded_active hg, legal_fit hf, none_]
  rfl

theorem mrecv_takes {s1 : State} {e : Mail} (some_ : s.oldestMail = some e)
    (sound : (s.damage.any fun d => d.spot == .mailbox s.cur.core) = false)
    (takes : TakesRun s d.toNat (e.header :: (List.range m.toNat).map fun i => e.payload.getD i 0) s1) :
    Retires (.mrecv g d m) s (s1.dropMail.setRun d.toNat (e.header :: (List.range m.toNat).map fun i => e.payload.getD i 0)) := by
  have whole : onesIf false = id := rfl
  show execMrecv g d m s = _
  rw [execMrecv, guarded_active hg, legal_fit hf, some_]
  dsimp only
  rw [takeEntry_sound sound]
  simp only [whole, List.map_id]
  rw [takes, finish_done]

end

/-- Settles O26: `msend` by where its message goes and by the room of the buffer (`msend_elsewhere`, `msend_waits`, `msend_stages`);
`mrecv` and `waitm` by whether a message has come, which `oldestMail_spec` describes. -/
theorem messages : Obligations.Messages := by
  unfold Obligations.Messages
  refine ⟨fun s s1 s2 g a b m w t vs hg hf hr hv => ⟨msend_elsewhere hg hf hr hv, msend_waits hg hf hr hv, fun here room => ?_⟩,
    fun s s1 g d m hg hf => ⟨mrecv_waits hg hf, fun e some_ sound takes => mrecv_takes hg hf some_ sound takes⟩,
    fun s g hg => ⟨fun h => (finish_tests hg _).1 h, fun h => (finish_tests hg _).2 (by rw [h]; decide)⟩,
    fun s e h => oldestMail_spec h⟩
  exact ⟨_, _, msend_stages hg hf hr hv here room, rfl, rfl, stage_retry .., rfl, rfl, rfl, rfl, rfl⟩

end Sys2Proof.Machine
end

section
/-! PROOF. What becomes of staged messages (R117, R118, R322, R323, R371), and the reports that wait for an entry (R118). -/

namespace Sys2Proof.Machine
open Sys2Proof.Safety

/-! ### A core's buffer and mailbox -/

/-- The staged message `m` of a core is replaced, or leaves its buffer. -/
def State.restage (s : State) (c : CoreNo) (m : Msg) (r : Option Msg) : State := s.setCore ((s.core c).putMsg m r)

/-- A mailbox entry is filled. -/
def State.postMail (s : State) (c : CoreNo) (e : Mail) : State :=
  s.setCore { s.core c with mailbox := (s.core c).mailbox ++ [e] }

theorem putMsg_num (k : Core) (m : Msg) (r : Option Msg) : (k.putMsg m r).num = k.num := rfl

theorem restage_core (s : State) (c d : CoreNo) (m : Msg) (r : Option Msg) :
    (s.restage c m r).core d = { s.core d with retry := if d = c then ((s.core c).putMsg m r).retry else (s.core d).retry } := by
  rcases eq_or_ne d c with rfl | other
  · rw [State.restage, core_setCore_of _ _ d (by rw [putMsg_num, core_num]), if_pos rfl]
    rfl
  · rw [State.restage, core_setCore_ne _ _ d (by rwa [putMsg_num, core_num]), if_neg other]

theorem restage_retry (s : State) (c : CoreNo) (m : Msg) (r : Option Msg) :
    ((s.restage c m r).core c).retry = ((s.core c).putMsg m r).retry := by
  rw [restage_core, if_pos rfl]

theorem restage_thread? (s : State) (c : CoreNo) (m : Msg) (r : Option Msg) (n : ThreadNo) :
    (s.restage c m r).thread? n = s.thread? n := rfl

theorem restage_mailbox (s : State) (c d : CoreNo) (m : Msg) (r : Option Msg) :
    ((s.restage c m r).core d).mailbox = (s.core d).mailbox := by rw [restage_core]

theorem restage_mailFree (s : State) (c d : CoreNo) (m : Msg) (r : Option Msg) (n : ThreadNo) :
    ((s.restage c m r).core d).mailFree n = (s.core d).mailFree n := by rw [restage_core]; rfl

theorem postMail_mailbox (s : State) (c : CoreNo) (e : Mail) : ((s.postMail c e).core c).mailbox = (s.core c).mailbox ++ [e] := by
  rw [State.postMail, core_setCore_of _ _ c (by exact core_num ..)]

theorem postMail_retry (s : State) (c d : CoreNo) (e : Mail) : ((s.postMail c e).core d).retry = (s.core d).retry := by
  rcases eq_or_ne d c with rfl | other
  · rw [State.postMail, core_setCore_of _ _ d (by exact core_num ..)]
  · rw [State.postMail, core_setCore_ne _ _ d (by rwa [core_num])]

/-- A message that stays in its buffer is there as it has been changed. -/
theorem mem_putMsg {k : Core} {m n : Msg} (h : m ∈ k.retry) : n ∈ (k.putMsg m (some n)).retry :=
  List.mem_map.mpr ⟨m, h, if_pos rfl⟩

theorem length_putMsg (k : Core) (m n : Msg) : (k.putMsg m (some n)).retry.length = k.retry.length := List.length_map ..

/-! ### Reports (R118) -/

/-- The kind of a message stands in bits 19:16 of its header. -/
theorem mailHeader_kind (src : ThreadNo) (sdom : DomNo) (kind len : BitVec 4) (tag : BitVec 12) :
    (mailHeader src sdom kind len tag).extractLsb' 16 4 = kind := by
  rw [mailHeader, BitVec.extractLsb'_append_eq_of_le (by decide), BitVec.extractLsb'_append_eq_of_le (by decide)]
  exact (BitVec.extractLsb'_append_eq_of_add_le (by decide)).trans BitVec.extractLsb'_eq_self

/-- The entry of a report, with a free value for SDOM (log entry 2). -/
def State.reportMail (s : State) (n : ThreadNo) (r : Report) : Mail :=
  { thread := n, dom := r.dom, header := mailHeader 0 (s.freeVal.1.extractLsb' 0 12) r.kind 2 0, payload := [r.w0, r.w1] }

/-- A report finds an entry, and none of its kind and domain is pending: it is posted. -/
theorem postReport_posts {s : State} {t : Thread} {n : ThreadNo} {kind : BitVec 4} (dm : DomNo) (w0 w1 : Word)
    (ht : s.thread? n = some t) (stands : t.inSlot = true) (free : (s.core t.core).mailFree n = true) (none_ : t.reports = [])
    (kind4 : kind ≠ 4) : s.postReport n kind dm w0 w1 =
      s.freeVal.2.postMail t.core (s.reportMail n { kind := kind, dom := dm, w0 := w0, w1 := w1 }) := by
  have posts : (t.inSlot && (s.core t.core).mailFree n && !(t.reports.any fun r => r.kind == kind && r.dom == dm)) = true := by
    rw [stands, free, none_]
    rfl
  unfold State.postReport
  rw [ht]
  dsimp only
  rw [if_pos posts, if_neg kind4]
  rfl

/-- Changing a thread leaves the cores. -/
theorem modThread_core (s : State) (n : ThreadNo) (f : Thread → Thread) (c : CoreNo) : (s.modThread n f).core c = s.core c := by
  rw [State.core, State.core, modThread_cores]

section
variable {s : State} {n : ThreadNo} {t : Thread} {r : Report} (ht : s.thread? n = some t) (stands : t.inSlot = true)
  (free : (s.core t.core).mailFree n = true) (hr : nextReport t = some r)
include ht stands free hr

/-- R118: the report is no longer pending and stands in the mailbox; the thread notes one of kind 4. -/
theorem exec_pendingReportPost : ∃ f : Thread → Thread, (∀ x, (f x).num = x.num ∧ (f x).reports = x.reports ∧ (f x).x = x.x) ∧
    exec (.pendingReportPost n) s = .next ((((s.modThread n fun t => { t with reports := t.reports.erase r }).freeVal.2).postMail t.core
      (s.reportMail n r)).modThread n f) := by
  have waits : ¬(!(t.inSlot && (s.core t.core).mailFree n)) = true := by simp [stands, free]
  have value : (s.modThread n fun t => { t with reports := t.reports.erase r }).freeVal.1 = s.freeVal.1 := by
    rw [State.modThread]
    split <;> rfl
  have ends : exec (.pendingReportPost n) s = .next (
      let u := ((s.modThread n fun t => { t with reports := t.reports.erase r }).freeVal.2).postMail t.core (s.reportMail n r)
      if r.kind = 4 then u.modThread n fun t => { t with eccSeen := true } else u) := by
    show execPendingReportPost n s = _
    rw [execPendingReportPost, ht]
    dsimp only
    rw [if_neg waits, hr, State.reportMail, ← value]
    rfl
  by_cases kind4 : r.kind = 4
  · exact ⟨fun t => { t with eccSeen := true }, fun _ => ⟨rfl, rfl, rfl⟩, ends.trans (by rw [if_pos kind4])⟩
  · have same : ∀ u : State, u.modThread n id = u := fun u => by simp [State.modThread]
    exact ⟨id, fun _ => ⟨rfl, rfl, rfl⟩, ends.trans (by rw [if_neg kind4, same])⟩

theorem pendingReportPost_posts : ∃ u e w, exec (.pendingReportPost n) s = .next u ∧
    (u.core t.core).mailbox = (s.core t.core).mailbox ++ [e] ∧ e.thread = n ∧ e.dom = r.dom ∧ e.payload = [r.w0, r.w1] ∧
    e.header.extractLsb' 16 4 = r.kind ∧ u.thread? n = some w ∧ w.reports = t.reports.erase r ∧ w.x = t.x ∧ u.mem = s.mem := by
  obtain ⟨f, keeps, ends⟩ := exec_pendingReportPost ht stands free hr
  refine ⟨_, s.reportMail n r, f { t with reports := t.reports.erase r }, ends, ?_, rfl, rfl, rfl, mailHeader_kind .., ?_,
    (keeps _).2.1, (keeps _).2.2, ?_⟩
  · rw [modThread_core, postMail_mailbox]
    exact congrArg (fun k : Core => k.mailbox ++ _) (modThread_core ..)
  · rw [thread_modThread _ _ _ fun x => (keeps x).1]
    have off : (s.modThread n fun t => { t with reports := t.reports.erase r }).thread? n =
        some { t with reports := t.reports.erase r } := by
      rw [thread_modThread s n (fun t => { t with reports := t.reports.erase r }) fun _ => rfl, ht]
      rfl
    exact congrArg (Option.map f) off
  · rw [modThread_mem]
    exact modThread_mem ..

end

/-! ### Delivery, failure and refusal (R117, R322, R323) -/

/-- The message fails (R323): its destination cannot take it, nor is it one that its domain sent before it died. -/
def State.failsAt (s : State) (c : CoreNo) (m : Msg) : Bool := s.messageFails c m && !((s.accepts m).any (s.firstOfDead c m))

/-- The entry of a delivered message. -/
def deliveredMail (m : Msg) (t : Thread) : Mail :=
  { thread := t.num, dom := t.dom, payload := m.payload, header := mailHeader m.sender m.dom 0 (BitVec.ofNat 4 m.payload.length) 0 }

/-- R322: the first sending of a message that a domain sent before it died does not fail. -/
theorem failsAt_firstOfDead {s : State} {c : CoreNo} {m : Msg} {t : Thread} (first : m.nacks = 0) (dead : s.gone (destDom m.dest) = true)
    (takes : s.accepts m = some t) (admits : s.refuses t.core c 2 = false) : s.failsAt c m = false := by
  simp [State.failsAt, takes, State.firstOfDead, first, dead, admits]

/-- A message is sent for the first time, or again after its backoff. -/
theorem exec_sends {s : State} {c : CoreNo} {m : Msg} {i : Instr} (own : m.stage = none)
    (hi : i = .messageDelivery c ∧
        (s.core c).retry.find? (fun m => m.stage.isNone && !m.refused && m.nacks == 0 && s.inOrder m) = some m ∨
      i = .messageRetry c ∧ (s.core c).retry.find? (fun m =>
        !m.refused && m.nacks != 0 && decide (m.due.toNat ≤ s.cyc.toNat) && s.inOrder m) = some m) :
    exec i s = .next (s.sendOne c m) := by
  rcases hi with ⟨rfl, first⟩ | ⟨rfl, again⟩
  · show execMessageDelivery c s = _
    rw [execMessageDelivery, first]
  · show execMessageRetry c s = _
    rw [execMessageRetry]
    dsimp only
    rw [again]
    dsimp only
    rw [own]

section
variable {s : State} {c : CoreNo} {m : Msg}

theorem sendOne_fails (fails : s.failsAt c m = true) :
    s.sendOne c m = (s.restage c m none).postReport m.sender 2 m.dom m.dest 1 := if_pos fails

theorem sendOne_refused (passes : s.failsAt c m = false) (none_ : s.accepts m = none) :
    s.sendOne c m = s.restage c m (some { m with refused := true }) := by
  rw [State.sendOne]
  dsimp only
  rw [if_neg (Bool.not_eq_true _ ▸ passes), none_]
  rfl

theorem sendOne_delivers {t : Thread} (passes : s.failsAt c m = false) (takes : s.accepts m = some t) :
    s.sendOne c m = (s.restage c m none).postMail t.core (deliveredMail m t) := by
  rw [State.sendOne]
  dsimp only
  rw [if_neg (Bool.not_eq_true _ ▸ passes), takes]
  rfl

/-- R117: the addressee runs in the domain that the message names. -/
theorem dom_of_accepts {t : Thread} (takes : s.accepts m = some t) : t.dom = destDom m.dest := by
  have passes := (Option.filter_eq_some_iff.mp takes).2
  simp only [Bool.and_eq_true, beq_iff_eq] at passes
  exact passes.1.1.2

end

/-! ### NACKs (R371) -/

theorem exec_nack {s : State} {c : CoreNo} {m : Msg} (h : (s.core c).retry.find? (fun m => m.refused) = some m) :
    exec (.nack c) s = .next ((s.restage c m (some { m with
      refused := false, nacks := m.nacks + 1, due := s.cyc + BitVec.ofNat 64 (32 * 2 ^ min (m.nacks + 1) 7) })).nackSeen m.sender) := by
  show execNack c s = _
  rw [execNack]
  dsimp only
  rw [h]
  rfl

/-- Settles O39: a message that is sent fails, is refused or is delivered (`sendOne_fails`, `sendOne_refused`, `sendOne_delivers`);
`exec_nack` answers a refusal, and `pendingReportPost_posts` posts what waits. -/
theorem messageEvents : Obligations.MessageEvents := by
  unfold Obligations.MessageEvents
  refine ⟨fun s c m i own staged hi => ?_, fun s c m refused => ?_,
    fun s n t r ht stands free hr => pendingReportPost_posts ht stands free hr⟩
  · have sends := exec_sends own hi
    refine ⟨fun t first dead takes admits => failsAt_firstOfDead first dead takes admits, fun t passes takes => ?_,
      fun passes none_ => ?_, fun t fails ht stands free num none_ => ?_⟩
    · rw [sendOne_delivers passes takes] at sends
      refine ⟨_, deliveredMail m t, sends, rfl, ?_, ?_, rfl, dom_of_accepts takes, rfl, rfl⟩
      · rw [postMail_retry, restage_retry]
        rfl
      · rw [postMail_mailbox, restage_mailbox]
    · rw [sendOne_refused passes none_] at sends
      refine ⟨_, sends, rfl, ?_, ?_⟩
      · rw [restage_retry]
        exact mem_putMsg staged
      · rw [restage_retry, length_putMsg]
    · have entry : ((s.restage c m none).core t.core).mailFree m.sender = true := by rw [restage_mailFree, ← num]; exact free
      have sender : (s.restage c m none).thread? m.sender = some t := (restage_thread? ..).trans ht
      rw [sendOne_fails fails, postReport_posts m.dom m.dest 1 sender stands entry none_ (by decide)] at sends
      refine ⟨_, (s.restage c m none).reportMail m.sender { kind := 2, dom := m.dom, w0 := m.dest, w1 := 1 }, sends, ?_, ?_,
        rfl, rfl, rfl, mailHeader_kind ..⟩
      · rw [postMail_retry]
        exact restage_retry ..
      · rw [postMail_mailbox]
        exact congrArg (· ++ _) (restage_mailbox ..)
  · refine ⟨_, exec_nack refused, ?_, modThread_mem ..⟩
    rw [State.nackSeen, modThread_core, restage_retry]
    exact mem_putMsg (List.mem_of_find?_eq_some refused)

end Sys2Proof.Machine
end

section
/-! PROOF. Accesses of memory words (R99 to R106, R284, R327): what an access that is granted has passed, and what its checks leave. -/

namespace Sys2Proof.Machine
open Sys2Proof.Safety

/-! ### What the checks leave -/

/-- The walks of an access count misses, and change lines, damage and the fleet's record. -/
theorem walksOf_eq (s : State) (kind : Acc1) (va : Word) (n : Nat) (u : State) : s.walksOf kind va n u = { u with
    cur := { u.cur with evcnt := (s.walksOf kind va n u).cur.evcnt }, damage := (s.walksOf kind va n u).damage
    fleet := (s.walksOf kind va n u).fleet, lines := (s.walksOf kind va n u).lines } := by
  unfold State.walksOf
  dsimp only
  generalize List.filter _ _ = l
  induction l generalizing u with
  | nil => rfl
  | cons a r ih =>
    rw [List.foldl_cons, ih, noteWalk_eq]
    simp only [State.countEv]
    rw [event_evcnt_only]

/-- `u` is `s` but for what the checks of an access may change. -/
def Checked (s u : State) : Prop := u = { s with
  cur := { s.cur with evcnt := u.cur.evcnt }, damage := u.damage, fleet := u.fleet, lines := u.lines, combs := u.combs }

theorem checked_checkedState (s : State) (kind : Acc1) (va : Word) (n : Nat) : Checked s (checkedState s kind va n) := by
  unfold Checked checkedState
  rw [cacheAccess_eq, walksOf_eq]

/-- Nothing is corrected where nothing is damaged. -/
theorem meet_damage_nil {s : State} (h : s.damage = []) (hit : List Damage) : (s.meet hit).1.damage = [] := by
  have kept := foldl_field State.damage (f := fun (s : State) (d : Damage) =>
    (s.countEcc (s.spotHome d.spot).1 d.fatal).eccRecord (s.spotHome d.spot).1 (s.spotHome d.spot).2
      (if d.fatal then 1 else 0) 0) (fun _ _ => rfl) hit s
  unfold State.meet
  dsimp only
  rw [kept, h, List.filter_nil]

/-- A property of states that each step of a fold keeps. -/
theorem foldl_keeps {β : Type} {P : State → Prop} {f : State → β → State} (hf : ∀ s b, P s → P (f s b)) (l : List β) {s : State}
    (h : P s) : P (l.foldl f s) := by
  induction l generalizing s with
  | nil => exact h
  | cons a r ih => exact ih (hf s a h)

theorem noteWalk_damage_nil {s : State} (h : s.damage = []) (c : CombNo) (d : DomNo) (va : Nat) : (s.noteWalk c d va).damage = [] := by
  unfold State.noteWalk
  split
  · exact h
  · exact foldl_keeps (P := fun u => u.damage = []) (f := fun (u : State) a => (u.eccRead (physRange a 8)).1.touch (physRange a 8))
      (fun u a hu => meet_damage_nil hu _) _ h

theorem checkedState_damage_nil {s : State} (h : s.damage = []) (kind : Acc1) (va : Word) (n : Nat) :
    (checkedState s kind va n).damage = [] := by
  unfold checkedState
  rw [cacheAccess_eq]
  exact foldl_keeps (P := fun u => u.damage = []) (fun u p hu => noteWalk_damage_nil (s := u.countEv 10 1) hu ..) _ h

section
variable {s u : State} (h : Checked s u)
include h

/-- The threads are the same, to a function that does not read the counter of events. -/
theorem Checked.map_threads {α : Type} {f : Thread → α} (hf : ∀ (t : Thread) e, f { t with evcnt := e } = f t) :
    u.threads.map f = s.threads.map f := by
  rw [h]
  unfold State.threads
  by_cases stands : s.cur.place = .gone <;> simp [stands, hf]

theorem Checked.any_threads {p : Thread → Bool} (hp : ∀ (t : Thread) e, p { t with evcnt := e } = p t) :
    u.threads.any p = s.threads.any p := by
  have same := congrArg (List.any · id) (h.map_threads hp)
  rwa [List.any_map, List.any_map, Function.id_comp] at same

theorem Checked.filterMap_threads {α : Type} {f : Thread → Option α} (hf : ∀ (t : Thread) e, f { t with evcnt := e } = f t) :
    u.threads.filterMap f = s.threads.filterMap f := by
  have same := congrArg (List.filterMap id) (h.map_threads hf)
  rwa [List.filterMap_map, List.filterMap_map, Function.id_comp] at same

theorem Checked.coreStands (c : CoreNo) (p : Nat → Bool) (hs : List Home) : u.coreStands c p hs = s.coreStands c p hs := by
  rw [State.coreStands, State.coreStands, h.any_threads fun _ _ => rfl, show u.reqs = s.reqs by rw [h]]

theorem Checked.fillsAt (ps : List Nat) : u.fillsAt ps = s.fillsAt ps := by
  rw [State.fillsAt, State.fillsAt, show u.fills = s.fills by rw [h]]

theorem Checked.standing (o : Home) : u.standing o = s.standing o := by
  unfold State.standing
  simp only [h.coreStands, h.fillsAt]
  exact h.filterMap_threads fun _ _ => rfl

theorem Checked.servable (o : Home) : u.servable o = s.servable o := by
  have before : ∀ q, u.standsBefore q = s.standsBefore q := fun q => h.any_threads fun _ _ => rfl
  have filling : ∀ q, u.filling q = s.filling q := fun q => by unfold State.filling; rw [h]
  have queue : u.queueAt o = s.queueAt o := by rw [State.queueAt, State.queueAt, h]
  unfold State.servable
  simp only [before, filling, queue]

/-- What the checks change does not decide what stands ahead of an access. -/
theorem Checked.ahead (ps : List Nat) : u.ahead ps = s.ahead ps := by
  have core : u.cur.core = s.cur.core := by rw [h]; rfl
  have behind : u.behind = s.behind := by rw [State.behind, State.behind, h]
  have first : ∀ o, u.servedFirst o = s.servedFirst o := fun o => by
    unfold State.servedFirst
    simp only [h.servable, h.standing]
    rw [h]
  have heads : ∀ o, u.heads o = s.heads o := fun o => by rw [State.heads, h.servable, h.standing, State.heads]
  have pick : ∀ o l, u.pick o l = s.pick o l := fun o l => by unfold State.pick; rw [h]
  unfold State.ahead State.outranked
  simp only [h.coreStands, h.fillsAt, first, heads, pick, core, behind]

end

/-! ### What a granted access has passed -/

section
variable {s s1 u : State} {kind : Acc1} {va : Word} {n : Nat} {ps : List Nat} {k : List Nat → State → Res}

/-- A word whose checked access goes on to an end has passed the checks. -/
theorem checked_done (h : checked s kind va n k = .done u) : ∃ qs, s.cur.gated = false ∧ checkAccess s s.cur kind va n = .ok qs ∧
    qs.findIdx? (s.barred s.cur.core) = none ∧ k qs (checkedState s kind va n) = .done u := by
  unfold checked at h
  split at h
  · cases h
  · next free =>
    split at h
    · cases h
    · cases h
    · next qs passed =>
      split at h
      · cases h
      · next none_ => exact ⟨qs, Bool.not_eq_true _ ▸ free, passed, Option.eq_none_iff_forall_not_mem.mpr fun i hi => none_ i hi, h⟩

/-- Goes on where the access has given these addresses and this state, and nowhere else. -/
def onlyFor (ps : List Nat) (s1 : State) (qs : List Nat) (u : State) : Res := if qs = ps ∧ u = s1 then .done u else .wait

theorem onlyFor_self (ps : List Nat) (s1 : State) : onlyFor ps s1 ps s1 = .done s1 := if_pos ⟨rfl, rfl⟩

theorem onlyFor_done {qs : List Nat} (h : onlyFor ps s1 qs u = .done s1) : qs = ps ∧ u = s1 := by
  unfold onlyFor at h
  split at h
  · assumption
  · cases h

/-- A relaxed access that is granted has passed its checks, which leave `checkedState`. -/
theorem relaxed_passed (h : GrantsRelaxed s kind va n ps s1) :
    checkAccess s s.cur kind va n = .ok ps ∧ s1 = checkedState s kind va n := by
  have done := (h (onlyFor ps s1)).trans (onlyFor_self ps s1)
  unfold accessRelaxed at done
  obtain ⟨qs, -, passed, -, next⟩ := checked_done done
  split at next
  · cases next
  · obtain ⟨rfl, same⟩ := onlyFor_done next
    exact ⟨passed, same.symm⟩

/-- A plain access that is granted has passed its checks, and nothing stands ahead of it. -/
theorem grants_passed (h : Grants s kind va n ps s1) : GrantsRelaxed s kind va n ps s1 ∧ s.ahead ps = false := by
  have done := (h (onlyFor ps s1)).trans (onlyFor_self ps s1)
  unfold access accessRelaxed at done
  obtain ⟨qs, free, passed, unbarred, next⟩ := checked_done done
  split at next
  · cases next
  · next clear =>
    dsimp only at next
    split at next
    · cases next
    · next first =>
      obtain ⟨rfl, rfl⟩ := onlyFor_done next
      have alone : s.overlaps qs = false := by simpa [State.overlaps] using clear
      exact ⟨relaxed_of_checks free passed unbarred alone, Bool.not_eq_true _ ▸ first⟩

theorem checked_of_relaxed (h : GrantsRelaxed s kind va n ps s1) : Checked s s1 := (relaxed_passed h).2 ▸ checked_checkedState ..

/-- R99: an access of `n` bytes whose pages are mapped has `n` physical addresses. -/
theorem length_of_checkTables {c : CombNo} {d : DomNo} {a : Nat} (h : checkTables s c d a n kind = .ok ps) : ps.length = n := by
  unfold checkTables at h
  dsimp only at h
  split at h
  · cases h
  · cases h
  · cases h
  · cases h
  · cases h
  · split_ifs at h
    cases h
    rw [List.length_map, List.length_range]

theorem length_of_checkAccess {t : Thread} (h : checkAccess s t kind va n = .ok ps) : ps.length = n := by
  unfold checkAccess checkAt at h
  split at h
  · cases h
  · split at h
    · next qs passed =>
      cases h
      exact length_of_checkTables passed
    · cases h
    · split at h <;> cases h

end

end Sys2Proof.Machine
end

section
/-! PROOF. Reads, stores and requests as they are performed (R100 to R106, R115, R306): the bytes that they find and write, and what they
leave as it was. -/

namespace Sys2Proof.Machine
open Sys2Proof.Safety

/-! ### What accesses to memory leave of a thread -/

/-- The registers, predicates and flags of the thread in hand, the domains, and what its bundle has popped. -/
def State.file (s : State) :=
  (s.cur.x, s.cur.taint, s.cur.pw, s.cur.st, s.cur.v, s.domains, s.popped)

theorem Accessed.file {s u : State} (h : Accessed s u) : u.file = s.file := by
  rw [State.file, h.cur, h.domains, show u.popped = s.popped from (congrArg State.popped h.aside :), ← State.file]

theorem Checked.file {s u : State} (h : Checked s u) : u.file = s.file := by
  rw [h]
  rfl

theorem modThread_file (s : State) (n : ThreadNo) {f : Thread → Thread}
    (hf : ∀ t : Thread, (f t).x = t.x ∧ (f t).taint = t.taint ∧ (f t).pw = t.pw ∧ (f t).st = t.st ∧ (f t).v = t.v) :
    (s.modThread n f).file = s.file := by
  obtain ⟨x, taint, pw, st, v⟩ := hf s.cur
  unfold State.modThread
  split
  · simp only [State.file, x, taint, pw, st, v]
  · rfl

theorem postReport_file (s : State) (n : ThreadNo) (kind : BitVec 4) (dm : DomNo) (w0 w1 : Word) :
    (s.postReport n kind dm w0 w1).file = s.file := by
  unfold State.postReport
  split
  · rfl
  · dsimp only
    split
    · split
      · exact modThread_file _ n fun _ => ⟨rfl, rfl, rfl, rfl, rfl⟩
      · rfl
    · refine modThread_file s n fun t => ?_
      split_ifs <;> exact ⟨rfl, rfl, rfl, rfl, rfl⟩

theorem postReport_mem (s : State) (n : ThreadNo) (kind : BitVec 4) (dm : DomNo) (w0 w1 : Word) :
    (s.postReport n kind dm w0 w1).mem = s.mem := (keepsWaits_postReport ..).mem

theorem countEv_file (s : State) (e n : Nat) : (s.countEv e n).file = s.file := by
  unfold State.countEv
  rw [event_evcnt_only]
  rfl

theorem inFlight_file (s : State) : s.inFlight.file = s.file := rfl

/-! ### The hop hint (R115) -/

/-- A hop that is hinted at is a place to leave for, and a wait. -/
theorem hopHint_eq (s : State) (h : BitVec 1) (va : Word) : s.hopHint h va = { s with
    cur := { s.cur with leaving := (s.hopHint h va).cur.leaving, wait := (s.hopHint h va).cur.wait } } := by
  unfold State.hopHint
  split
  · rfl
  · split <;> rfl

theorem hopHint_none (s : State) (va : Word) : s.hopHint 0 va = s := by
  unfold State.hopHint
  split
  · rfl
  · exact if_neg (by simp)

theorem hopHint_file (s : State) (h : BitVec 1) (va : Word) : (s.hopHint h va).file = s.file := by
  rw [hopHint_eq]
  rfl

theorem hopHint_mem (s : State) (h : BitVec 1) (va : Word) : (s.hopHint h va).mem = s.mem := by rw [hopHint_eq]

/-! ### Reading (R102, R104) -/

/-- A read is damaged where one of its bytes lies in a granule with an uncorrectable error. -/
theorem eccRead_bad (s : State) (ps : List Nat) : (s.eccRead ps).2.1 = s.fatalAt ps := by
  rw [State.eccRead, State.meet, State.fatalAt]
  dsimp only
  rw [List.any_filter]
  simp only [Bool.and_comm]

theorem readBytes_bad (s : State) (src : Source) (kind va : Nat) (ps : List Nat) :
    (s.readBytes src kind va ps).2.1 = s.fatalAt ps := by
  rw [← eccRead_bad]
  unfold State.readBytes
  generalize s.eccRead ps = r
  rfl

theorem peek_sound {s : State} {ps : List Nat} (h : s.fatalAt ps = false) : s.peek ps = ps.map (memGet s.mem) := by
  rw [State.peek, h]
  rfl

/-- A plain read counts what it corrected, and reports an uncorrectable error. -/
theorem readNow_state (s : State) (va : Word) (ps : List Nat) : (s.readNow va ps).2 =
    let r := s.readBytes s.source 0 va.toNat ps
    let u := if r.2.1 then r.2.2.2.memoryError r.2.2.2.cur.num r.2.2.2.cur.dom va else r.2.2.2
    if r.2.2.1 = 0 then u else u.countEv 14 r.2.2.1 := rfl

/-- A plain read that meets no damage changes nothing but the record of accesses and a count of corrections. -/
theorem readNow_sound {s : State} {ps : List Nat} (h : s.fatalAt ps = false) (va : Word) :
    ∃ u n, Accessed s u ∧ (s.readNow va ps).2 = if n = 0 then u else u.countEv 14 n := by
  have bad : (s.readBytes s.source 0 va.toNat ps).2.1 = false := (readBytes_bad ..).trans h
  have accessed := accessed_readBytes s s.source 0 va.toNat ps
  rw [readNow_state]
  generalize s.readBytes s.source 0 va.toNat ps = r at bad accessed
  exact ⟨r.2.2.2, r.2.2.1, accessed, by simp only [bad, Bool.false_eq_true, if_false]⟩

theorem readNow_mem (s : State) (va : Word) (ps : List Nat) : (s.readNow va ps).2.mem = s.mem := by
  have read := readBytes_mem s s.source 0 va.toNat ps
  rw [readNow_state]
  generalize s.readBytes s.source 0 va.toNat ps = r at read
  dsimp only
  rw [← read]
  split_ifs
  · exact postReport_mem ..
  · rfl
  · exact (countEv_mem ..).trans (postReport_mem ..)
  · rfl

/-- R102: the bytes of a value that is read are those of memory, the lowest first. -/
theorem readNow_lane {s : State} {ps : List Nat} (h : s.fatalAt ps = false) (short : ps.length ≤ 8) (va : Word) {i : Nat}
    (hi : i < ps.length) : lane 8 i (s.readNow va ps).1 = memGet s.mem (ps.getD i 0) := by
  show lane 8 i (leWord (s.peek ps)) = _
  rw [lane_leWord _ (by omega), peek_sound h]
  simp [hi]

theorem readNow_x {s : State} {ps : List Nat} (h : s.fatalAt ps = false) (va : Word) : (s.readNow va ps).2.cur.x = s.cur.x := by
  obtain ⟨u, n, accessed, same⟩ := readNow_sound h va
  rw [same, ← accessed.cur]
  split
  · rfl
  · rw [State.countEv, event_evcnt_only]

theorem readDwords_sound {s : State} {ps : List Nat} (h : s.fatalAt ps = false) (len : ps.length = 64) (va : Word) :
    (s.readDwords va ps).1 = dwords (ps.map (memGet s.mem)) := by
  show (cut 8 ps.length (s.peek ps)).map leWord = _
  rw [peek_sound h, len, dwords]

/-! ### Writing (R100, R102, R306) -/

theorem memSetAll_append (m : List Host.Cell) (l r : List (Nat × Byte)) : memSetAll m (l ++ r) = memSetAll (memSetAll m l) r := by
  induction l generalizing m with
  | nil => rfl
  | cons c l ih => exact ih _

theorem hitWatches_damage_nil {s : State} (h : s.damage = []) (ps : List Nat) : (s.hitWatches ps).damage = [] :=
  foldl_keeps (P := fun u => u.damage = []) (f := State.reread) (fun _ _ hu => (trace_damage ..).trans (meet_damage_nil hu _)) _ h

section
variable (src : Source) (split : Bool) (r : Bool × State) (p : List Nat × List Byte)

/-- R306: a part of a store writes its bytes unless a damaged granule holds it back. -/
theorem storePart_mem : (State.storePart src split r p).2.mem =
    if (r.2.stuck p.1).isEmpty then memSetAll r.2.mem (p.1.zip p.2) else r.2.mem := by
  unfold State.storePart State.storeCells
  by_cases free : (r.2.stuck p.1).isEmpty = true
  · simp [free]
  · simp [free]

theorem accessed_storePart : Accessed r.2 (State.storePart src split r p).2 := by
  have stored := accessed_storeCells r.2 p.1 p.2
  unfold State.storePart
  split
  · next s1 e => rwa [e] at stored
  · next s1 e =>
    rw [e] at stored
    exact stored.trans (((accessed_touch ..).trans (accessed_tookTurns ..)).trans ((accessed_trace ..).trans (accessed_hitWatches ..)))

variable {r p}

theorem storePart_outside (w : Memory.wf r.2.mem = true) {a : Nat} (ha : a ∉ p.1) :
    memGet (State.storePart src split r p).2.mem a = memGet r.2.mem a := by
  rw [storePart_mem]
  split
  · exact memGet_memSetAll_ne w _ a fun h => ha (by
      obtain ⟨c, hc, rfl⟩ := List.mem_map.mp h
      exact (List.of_mem_zip hc).1)
  · rfl

theorem storePart_sound (h : r.2.damage = []) : (State.storePart src split r p).2.mem = memSetAll r.2.mem (p.1.zip p.2) ∧
    (State.storePart src split r p).2.damage = [] := by
  have free : (r.2.stuck p.1).isEmpty = true := by simp [State.stuck, h]
  refine ⟨by rw [storePart_mem, if_pos free], ?_⟩
  unfold State.storePart State.storeCells
  rw [if_pos free]
  refine hitWatches_damage_nil ?_ _
  rw [trace_damage]
  refine (foldl_field State.damage (f := fun s h => s.tookTurn src.number h) (fun _ _ => rfl) _ _).trans ?_
  simp [State.touch, h]

end

/-- R100: an access is performed as a whole, or in two parts. -/
theorem parts_cases (va : Nat) (ps : List Nat) : parts va ps = [ps] ∨ ∃ k, parts va ps = [ps.take k, ps.drop k] := by
  unfold parts
  dsimp only
  split
  · exact .inl rfl
  · exact .inr ⟨_, rfl⟩

/-- An access within 64 bytes is whole. -/
theorem parts_within {va : Nat} {ps : List Nat} (h : va / 64 = (va + ps.length - 1) / 64) : parts va ps = [ps] :=
  if_pos (by simp [h])

section
variable {s : State} (src : Source) {va : Nat} {ps : List Nat} (bs : List Byte)

theorem storeBytes_whole (h : parts va ps = [ps]) : s.storeBytes src va ps bs = State.storePart src false (false, s) (ps, bs) := by
  rw [State.storeBytes, h]

theorem storeBytes_split {k : Nat} (h : parts va ps = [ps.take k, ps.drop k]) : s.storeBytes src va ps bs =
    State.storePart src true (State.storePart src true (false, s) (ps.take k, bs.take (ps.take k).length))
      (ps.drop k, bs.drop (ps.take k).length) := by
  rw [State.storeBytes, h]
  rfl

variable (s va ps) in
theorem accessed_storeBytes : Accessed s (s.storeBytes src va ps bs).2 := by
  rcases parts_cases va ps with whole | ⟨k, halves⟩
  · rw [storeBytes_whole src bs whole]
    exact accessed_storePart src false (false, s) (ps, bs)
  · rw [storeBytes_split src bs halves]
    exact (accessed_storePart src true (false, s) _).trans (accessed_storePart ..)

/-- A store leaves every byte that is not one of its own. -/
theorem storeBytes_outside (w : Memory.wf s.mem = true) {a : Nat} (ha : a ∉ ps) :
    memGet (s.storeBytes src va ps bs).2.mem a = memGet s.mem a := by
  rcases parts_cases va ps with whole | ⟨k, halves⟩
  · rw [storeBytes_whole src bs whole]
    exact storePart_outside src false w ha
  · rw [storeBytes_split src bs halves, storePart_outside src true (wf_storePart _ _ _ w) fun h => ha (List.mem_of_mem_drop h),
      storePart_outside src true w fun h => ha (List.mem_of_mem_take h)]

/-- Where nothing is damaged, a store writes its bytes, in one part or in two. -/
theorem storeBytes_sound (h : s.damage = []) (len : bs.length = ps.length) :
    (s.storeBytes src va ps bs).2.mem = memSetAll s.mem (ps.zip bs) := by
  rcases parts_cases va ps with whole | ⟨k, halves⟩
  · rw [storeBytes_whole src bs whole]
    exact (storePart_sound src false h).1
  · obtain ⟨first, clean⟩ := storePart_sound src true (r := (false, s)) (p := (ps.take k, bs.take (ps.take k).length)) h
    have halfway : (ps.take k).length = (bs.take (ps.take k).length).length := by simp [len]
    rw [storeBytes_split src bs halves, (storePart_sound src true clean).1, first, ← memSetAll_append,
      ← List.zip_append halfway, List.take_append_drop, List.take_append_drop]

end

/-- A plain write changes the registers of no thread. -/
theorem writeNow_file (s : State) (va : Word) (ps : List Nat) (v : Word) : (s.writeNow va ps v).file = s.file := by
  have stored := (accessed_storeBytes s s.source va.toNat ps (wordBytes v ps.length)).file
  unfold State.writeNow
  dsimp only
  split
  · exact (postReport_file ..).trans stored
  · exact stored

theorem writeNow_mem (s : State) (va : Word) (ps : List Nat) (v : Word) :
    (s.writeNow va ps v).mem = (s.storeBytes s.source va.toNat ps (wordBytes v ps.length)).2.mem := by
  unfold State.writeNow
  dsimp only
  split
  · exact postReport_mem ..
  · rfl

/-- The bytes that a value writes at distinct addresses are its own, the lowest first. -/
theorem memGet_wordBytes {m : List Host.Cell} (w : Memory.wf m = true) {ps : List Nat} (distinct : ps.Nodup) (v : Word) {i : Nat}
    (hi : i < ps.length) : memGet (memSetAll m (ps.zip (wordBytes v ps.length))) (ps.getD i 0) = lane 8 i v := by
  have len : ps.length ≤ (wordBytes v ps.length).length := by simp [wordBytes]
  have nodup : ((ps.zip (wordBytes v ps.length)).map Prod.fst).Nodup := by rwa [List.map_fst_zip len]
  have mem : (ps.getD i 0, lane 8 i v) ∈ ps.zip (wordBytes v ps.length) := by
    refine List.mem_iff_getElem.mpr ⟨i, by simpa [wordBytes] using hi, ?_⟩
    simp [wordBytes, lane, hi]
  exact memGet_memSetAll_mem w _ nodup _ mem

/-! ### Requests (R100, R105) -/

/-- A relaxed access sends one request, or two where it crosses a 64-byte boundary and is not aligned. -/
theorem request_sends (s : State) (va : Word) (ps : List Nat) (d : XReg) (kind : ReqKind) :
    Sends s (s.request va ps kind d) va ps d kind := by
  rcases parts_cases va.toNat ps with whole | ⟨k, halves⟩
  · refine ⟨_, rfl, ?_⟩
    rw [whole]
    simp
  · have apart : ¬va.toNat / 64 = (va.toNat + ps.length - 1) / 64 := fun line => by
      rw [parts_within line] at halves
      simp at halves
    refine ⟨_, rfl, ?_⟩
    rw [halves]
    simp [apart]

end Sys2Proof.Machine
end

section
/-! PROOF. Loads and stores (R47, R102 to R107): each form by what it does at its address. -/

namespace Sys2Proof.Machine
open Sys2Proof.Safety

/-- The address of a CM word, as the claims write it (R47). -/
theorem cmAddress_eq (t : Thread) (x : Word) (n : Nat) (b : BitVec 1) (o : BitVec 10) :
    cmAddress t x n b o = formedAddress t.cb x n b o := by
  simp only [cmAddress, formedAddress, scaledOffset_eq (by decide : 10 ≤ 64), contextBase_eq]

/-- Reading the operand of a CM word gives its address. -/
theorem useAddress_reads {s s1 : State} {a : XReg} {x : Word} {t : Bool} (hr : ReadsAs s a x t s1) (n : Nat) (b : BitVec 1)
    (o : BitVec 10) (k : Word → Bool → State → Res) : useAddress s a n b o k = k (formedAddress s.rd.cb x n b o) t s1 := by
  rw [useAddress, hr, cmAddress_eq]

/-! ### Loads -/

/-- A relaxed load has sent its request: LDO counts it, and its destination is pending (R105). -/
def State.loadSent (s : State) (va : Word) (ps : List Nat) (kind : ReqKind) (d : XReg) : State :=
  let u := (s.request va ps kind d).countEv 3 1
  { u with cur := { u.cur with ldo := u.cur.ldo + 1, pend := u.cur.pend ||| (1#16 <<< d.toNat) } }

/-- A plain load has written its value: its slot waits for the access, and a hop may be hinted at (R103, R115). -/
def State.loadDone (s : State) (d : XReg) (v : Word) (c : Bool) (h : BitVec 1) (va : Word) : State :=
  (((s.setX d v c).countEv 2 1).inFlight).hopHint h va

/-- What a load of `n` bytes does at its address. -/
def loadAt (s : State) (d : XReg) (r h : BitVec 1) (n : Nat) (sgn c : Bool) (va : Word) : Res :=
  if c && va.toNat % n != 0 then .trap .align va
  else if r = 1#1 then
    if 8 ≤ s.cur.ldo then .wait
    else accessRelaxed s .read va n fun ps s2 => destX s2 d 0 fun s3 =>
      .done ((s3.loadSent va ps (if c then .ldc else .load sgn n) d).hopHint h va)
  else access s .read va n fun ps s2 =>
    destX (s2.readNow va ps).2 d (extendLoad sgn n (s2.readNow va ps).1) fun s4 =>
      .done (s4.loadDone d (extendLoad sgn n (s2.readNow va ps).1) c h va)

theorem load_reads {s s1 : State} {g : KReg} {d a : XReg} {x : Word} {t : Bool} (hg : GuardOn s g) (hf : PortsFit s [a] [d])
    (hr : ReadsAs s a x t s1) (r h b : BitVec 1) (o : BitVec 10) (n : Nat) (sgn c : Bool) :
    load s g d a r h b o n sgn c = finish s (loadAt s1 d r h n sgn c (formedAddress s.rd.cb x n b o)) := by
  rw [load, guarded_active hg, legal_fit hf, useAddress_reads hr]
  rfl

/-- The load words are `load` with their bytes and extension. -/
theorem exec_loadForm {f} (hf : f ∈ loadForms) (g : KReg) (d a : XReg) (r h b : BitVec 1) (o : BitVec 10) (s : State) :
    exec (f.1 g d a r h b o) s = load s g d a r h b o f.2.1 f.2.2.1 f.2.2.2 := by
  simp only [loadForms, List.mem_cons, List.not_mem_nil, or_false] at hf
  rcases hf with rfl | rfl | rfl | rfl | rfl | rfl | rfl | rfl <;> rfl

/-- `ldc` reads 8 bytes (R107). -/
theorem bytes_of_ldc : ∀ f ∈ loadForms, f.2.2.2 = true → f.2.1 = 8 := by simp [loadForms]

section
variable {s s2 s3 : State} {d : XReg} {r : BitVec 1} {n : Nat} {sgn c : Bool} {va : Word} {ps : List Nat}

theorem loadAt_misaligned (h : BitVec 1) (hc : c = true) (odd : va.toNat % n ≠ 0) : loadAt s d r h n sgn c va = .trap .align va :=
  if_pos (by simp [hc, odd])

variable (aligned : c = true → va.toNat % n = 0)
include aligned

theorem not_misaligned : ¬(c && va.toNat % n != 0) = true := by
  cases c with
  | false => simp
  | true => simp [aligned rfl]

theorem loadAt_full (h : BitVec 1) (full : 8 ≤ s.cur.ldo) : loadAt s d 1 h n sgn c va = .wait := by
  rw [loadAt, if_neg (not_misaligned aligned), if_pos (by decide), if_pos full]

theorem loadAt_relaxed (h : BitVec 1) (room : s.cur.ldo < 8) (hg : GrantsRelaxed s .read va n ps s2) (ht : Takes s2 d 0 s3) :
    loadAt s d 1 h n sgn c va = .done ((s3.loadSent va ps (if c then .ldc else .load sgn n) d).hopHint h va) := by
  rw [loadAt, if_neg (not_misaligned aligned), if_pos (by decide), if_neg (by omega), hg, ht]

theorem loadAt_plain (h : BitVec 1) (hg : Grants s .read va n ps s2)
    (ht : Takes (s2.readNow va ps).2 d (extendLoad sgn n (s2.readNow va ps).1) s3) :
    loadAt s d 0 h n sgn c va = .done (s3.loadDone d (extendLoad sgn n (s2.readNow va ps).1) c h va) := by
  rw [loadAt, if_neg (not_misaligned aligned), if_neg (by decide), hg, ht]

end

theorem loadSent_cur (s : State) (va : Word) (ps : List Nat) (kind : ReqKind) (d : XReg) :
    (s.loadSent va ps kind d).cur.ldo = s.cur.ldo + 1 ∧ (s.loadSent va ps kind d).cur.pend = s.cur.pend ||| (1#16 <<< d.toNat) ∧
      (s.loadSent va ps kind d).cur.x = s.cur.x := by
  simp [State.loadSent, State.countEv]

/-- Settles O18: a load form is `loadAt` at its address (`load_reads`): `loadAt_misaligned`, `loadAt_full`, `loadAt_plain` and
`loadAt_relaxed`; the bytes that a read finds are those of `readNow_lane` and `readDwords_sound`. -/
theorem loadsAndReads : Obligations.LoadsAndReads := by
  unfold Obligations.LoadsAndReads
  refine ⟨fun f hf s s1 s2 g d a h b o x t ps => ?_, fun s va ps sound short => ?_, fun s va ps sound len => ?_⟩
  · intro va hg fit hr
    have at_ : ∀ r h, exec (f.1 g d a r h b o) s = finish s (loadAt s1 d r h f.2.1 f.2.2.1 f.2.2.2 va) := fun r h => by
      rw [exec_loadForm hf, load_reads hg fit hr]
    have eight := bytes_of_ldc f hf
    refine ⟨fun r hc odd => ?_, fun aligned8 => ?_⟩
    · rw [at_, loadAt_misaligned h hc (by rwa [eight hc]), finish_trap]
    · have aligned : f.2.2.2 = true → va.toNat % f.2.1 = 0 := fun hc => by rw [eight hc]; exact aligned8 hc
      refine ⟨fun full => ?_, fun hgr s4 => ?_, fun hgr s3 room ht => ?_⟩
      · rw [at_, loadAt_full aligned h full]
        rfl
      · intro ht
        rw [Retires, at_, loadAt_plain aligned h hgr ht, finish_done]
        rfl
      · have sent := loadSent_cur s3 va ps (if f.2.2.2 then .ldc else .load f.2.2.1 f.2.1) d
        refine ⟨_, ?_, sent.1, sent.2.1, sent.2.2, rfl, request_sends ..⟩
        rw [Retires, at_, loadAt_relaxed aligned 0 room hgr ht, finish_done, hopHint_none]
  · exact ⟨fun i hi => readNow_lane sound short va hi, readNow_mem .., readNow_x sound va⟩
  · exact ⟨readDwords_sound sound len va, readNow_mem ..⟩

/-! ### Stores -/

/-- A relaxed store has sent its request: STO counts it (R105). -/
def State.storeSent (s : State) (va : Word) (ps : List Nat) (kind : ReqKind) (d : XReg) : State :=
  let u := (s.request va ps kind d).countEv 4 1
  { u with cur := { u.cur with sto := u.cur.sto + 1 } }

/-- A plain store has been performed: its slot waits for the access, and a hop may be hinted at (R103, R115). -/
def State.storeDone (s : State) (va : Word) (ps : List Nat) (v : Word) (h : BitVec 1) : State :=
  (((s.writeNow va ps v).countEv 4 1).inFlight).hopHint h va

/-- What a store of `n` bytes of `v` does at its address. -/
def storeAt (s : State) (d : XReg) (r h : BitVec 1) (n : Nat) (va v : Word) : Res :=
  if r = 1#1 then
    if 8 ≤ s.cur.sto then .wait
    else accessRelaxed s .write va n fun ps s3 => .done ((s3.storeSent va ps (.store n v) d).hopHint h va)
  else access s .write va n fun ps s3 => .done (s3.storeDone va ps v h)

theorem store_reads {s s1 s2 : State} {g : KReg} {d a : XReg} {x v : Word} {t u : Bool} (hg : GuardOn s g)
    (hf : PortsFit s [a, d] []) (hr : ReadsAs s a x t s1) (hv : ReadsAs s1 d v u s2) (r h b : BitVec 1) (o : BitVec 10) (n : Nat) :
    store s g d a r h b o n = finish s (storeAt s2 d r h n (formedAddress s.rd.cb x n b o) v) := by
  rw [store, guarded_active hg, legal_fit hf, useAddress_reads hr, hv]
  rfl

/-- The store words are `store` with their bytes. -/
theorem exec_storeForm {f} (hf : f ∈ storeForms) (g : KReg) (d a : XReg) (r h b : BitVec 1) (o : BitVec 10) (s : State) :
    exec (f.1 g d a r h b o) s = store s g d a r h b o f.2 := by
  simp only [storeForms, List.mem_cons, List.not_mem_nil, or_false] at hf
  rcases hf with rfl | rfl | rfl | rfl <;> rfl

section
variable {s s3 : State} {n : Nat} {va : Word} {ps : List Nat}

theorem storeAt_full (d : XReg) (h : BitVec 1) (v : Word) (full : 8 ≤ s.cur.sto) : storeAt s d 1 h n va v = .wait := by
  rw [storeAt, if_pos (by decide), if_pos full]

theorem storeAt_relaxed (d : XReg) (h : BitVec 1) (v : Word) (room : s.cur.sto < 8) (hg : GrantsRelaxed s .write va n ps s3) :
    storeAt s d 1 h n va v = .done ((s3.storeSent va ps (.store n v) d).hopHint h va) := by
  rw [storeAt, if_pos (by decide), if_neg (by omega), hg]

theorem storeAt_plain (d : XReg) (h : BitVec 1) (v : Word) (hg : Grants s .write va n ps s3) :
    storeAt s d 0 h n va v = .done (s3.storeDone va ps v h) := by
  rw [storeAt, if_neg (by decide), hg]

end

theorem storeSent_cur (s : State) (va : Word) (ps : List Nat) (kind : ReqKind) (d : XReg) :
    (s.storeSent va ps kind d).cur.sto = s.cur.sto + 1 ∧ (s.storeSent va ps kind d).cur.x = s.cur.x := by
  simp [State.storeSent, State.countEv]

/-- Settles O19: a store form is `storeAt` at its address (`store_reads`): `storeAt_full`, `storeAt_plain` and `storeAt_relaxed`. -/
theorem stores : Obligations.Stores := by
  unfold Obligations.Stores
  intro f hf s s1 s2 s3 g d a h b o x v t u ps va hg fit hr hv
  have at_ : ∀ r h, exec (f.1 g d a r h b o) s = finish s (storeAt s2 d r h f.2 va v) := fun r h => by
    rw [exec_storeForm hf, store_reads hg fit hr hv]
  refine ⟨fun full => ?_, fun hgr => ?_, fun hgr room => ?_⟩
  · rw [at_, storeAt_full d h v full]
    rfl
  · rw [Retires, at_, storeAt_plain d h v hgr, finish_done]
    rfl
  · have sent := storeSent_cur s3 va ps (.store f.2 v) d
    refine ⟨_, ?_, sent.1, sent.2, rfl, request_sends ..⟩
    rw [Retires, at_, storeAt_relaxed d 0 v room hgr, finish_done, hopHint_none]

/-! ### The frame of a plain store -/

theorem storeDone_file (s : State) (va : Word) (ps : List Nat) (v : Word) (h : BitVec 1) : (s.storeDone va ps v h).file = s.file := by
  rw [State.storeDone, hopHint_file, inFlight_file, countEv_file, writeNow_file]

theorem storeDone_mem (s : State) (va : Word) (ps : List Nat) (v : Word) (h : BitVec 1) :
    (s.storeDone va ps v h).mem = (s.storeBytes s.source va.toNat ps (wordBytes v ps.length)).2.mem := by
  rw [State.storeDone, hopHint_mem, inFlight_mem, countEv_mem, writeNow_mem]

/-- Settles O20: the checks and the store leave the thread's registers (`Checked.file`, `storeDone_file`), and retirement moves its place
alone; of memory `storeBytes_outside` is the frame and `storeBytes_sound` what is stored. -/
theorem storeFrame : Obligations.StoreFrame := by
  unfold Obligations.StoreFrame
  intro f hf s s1 g d a h b o ps hg unbound _ popped wf hgr
  have passed := (grants_passed hgr).1
  have checked := checked_of_relaxed passed
  have mem : s1.mem = s.mem := by rw [checked]
  have len : ps.length = f.2 := length_of_checkAccess (relaxed_passed passed).1
  have file : (s1.storeDone (formedAddress s.rd.cb (s.rd.reg a) f.2 b o) ps (s.rd.reg d) h).file = s.file :=
    (storeDone_file ..).trans checked.file
  have stored := storeDone_mem s1 (formedAddress s.rd.cb (s.rd.reg a) f.2 b o) ps (s.rd.reg d) h
  have ends : Retires (f.1 g d a 0 h b o) s (s1.storeDone (formedAddress s.rd.cb (s.rd.reg a) f.2 b o) ps (s.rd.reg d) h) := by
    rw [Retires, exec_storeForm hf, store_reads hg (fit_unbound unbound.1 _ _) (readsAs_unbound unbound a)
      (readsAs_unbound unbound d), storeAt_plain d h _ hgr, finish_done]
  generalize s1.storeDone (formedAddress s.rd.cb (s.rd.reg a) f.2 b o) ps (s.rd.reg d) h = u at file stored ends
  simp only [State.file, Prod.mk.injEq] at file
  obtain ⟨x, taint, pw, st, v, domains, none_⟩ := file
  obtain ⟨pc, last, retired⟩ := retire_place (none_.trans popped) none
  rw [Retires, retired] at ends
  refine ⟨_, ends, rfl, x, taint, pw, st, v, domains, fun p out => ?_, fun sound distinct i hi => ?_⟩
  · show memGet u.mem p = _
    rw [stored, storeBytes_outside _ _ (by rwa [mem]) out, mem]
  · have clean : s1.damage = [] := by
      rw [(relaxed_passed passed).2]
      exact checkedState_damage_nil sound ..
    show memGet u.mem _ = _
    rw [stored, storeBytes_sound _ _ clean (by simp [wordBytes]), memGet_wordBytes (by rwa [mem]) distinct _ (by omega)]

end Sys2Proof.Machine
end

section
/-! PROOF. Atomics (R105, R109, R111): what each operation writes, and the plain and the relaxed word. -/

namespace Sys2Proof.Machine
open Sys2Proof.Safety

/-! ### What an operation writes (R109) -/

theorem lowBytes_eight (v : Word) : lowBytes 8 v = v := by
  rw [lowBytes, BitVec.extractLsb'_eq_self, BitVec.setWidth_eq]

theorem lowBytes_four (v : Word) : lowBytes 4 v = (v.extractLsb' 0 32).setWidth 64 := rfl

/-- The low bytes of a word are kept by taking them again. -/
theorem extract_lowBytes_four (v : Word) : (lowBytes 4 v).extractLsb' 0 32 = v.extractLsb' 0 32 := by
  apply BitVec.eq_of_getLsbD_eq
  intro j hj
  simp [lowBytes, hj]
  omega

theorem lowBytes_four_add (x y : Word) :
    lowBytes 4 (lowBytes 4 x + lowBytes 4 y) = (x.extractLsb' 0 32 + y.extractLsb' 0 32).setWidth 64 := by
  have low : ∀ v : Word, v.extractLsb' 0 32 = v.setWidth 32 := fun v => (BitVec.setWidth_eq_extractLsb' (by decide)).symm
  rw [lowBytes_four (_ + _), low (_ + _), BitVec.setWidth_add _ _ (by decide), ← low, ← low, extract_lowBytes_four, extract_lowBytes_four]

theorem lowBytes_four_inj (x y : Word) : lowBytes 4 x = lowBytes 4 y ↔ x.extractLsb' 0 32 = y.extractLsb' 0 32 := by
  refine ⟨fun h => ?_, fun h => congrArg (BitVec.setWidth 64) h⟩
  rw [← extract_lowBytes_four x, h, extract_lowBytes_four]

/-- The operations on doublewords. -/
theorem amoNew_eight (o x e : Word) :
    amoNew 0 8 o x e = some (o + x) ∧ amoNew 1 8 o x e = some (o &&& x) ∧ amoNew 2 8 o x e = some (o ||| x) ∧
     amoNew 3 8 o x e = some (o ^^^ x) ∧ amoNew 4 8 o x e = some (if o.toInt ≤ x.toInt then o else x) ∧
     amoNew 5 8 o x e = some (if o.toInt ≤ x.toInt then x else o) ∧ amoNew 6 8 o x e = some (if o.toNat ≤ x.toNat then o else x) ∧
     amoNew 7 8 o x e = some (if o.toNat ≤ x.toNat then x else o) ∧ amoNew 8 8 o x e = some x ∧
     amoNew 9 8 o x e = (if o = e then some x else none) := by
  simp [amoNew, lowBytes_eight]

theorem amoNew_four (o x e : Word) : amoNew 0 4 o x e = some ((o.extractLsb' 0 32 + x.extractLsb' 0 32).setWidth 64) ∧
    amoNew 9 4 o x e = if o.extractLsb' 0 32 = e.extractLsb' 0 32 then some ((x.extractLsb' 0 32).setWidth 64) else none := by
  simp only [amoNew, lowBytes_four_add, lowBytes_four_inj]
  exact ⟨rfl, rfl⟩

/-- The sum of a NaN and any number rounds to the canonical NaN. -/
theorem roundNum_of_isNan {x : Num} (h : x.isNan = true) (f : Fmt) (m : Mode) (rand : Nat) (fzr : Bool) :
    (roundNum f m rand fzr x).1 = f.nan := by
  cases x with
  | nan s => rfl
  | inf b => cases h
  | fin b n d => cases h

theorem amoNew_fadd_nan (o x e : Word) (h : (decodeF .f32 (low32 o)).isNan = true) :
    amoNew 10 4 o x e = some 0x7FC00000 ∧ amoNew 10 4 x o e = some 0x7FC00000 := by
  have low : ∀ v : Word, low32 (lowBytes 4 v) = low32 v := fun v => by rw [low32, extract_lowBytes_four, low32]
  have value : ∀ p q : Word, amoNew 10 4 p q e =
      some (BitVec.ofNat 64 (roundNum .f32 .rne 0 false ((decodeF .f32 (low32 p)).add false (decodeF .f32 (low32 q)))).1) := fun p q => by
    rw [← low p, ← low q]
    rfl
  rw [value, value, roundNum_of_isNan (add_nan_left h ..), roundNum_of_isNan (add_nan_right h ..)]
  exact ⟨rfl, rfl⟩

/-! ### At the home (R104, R109) -/

/-- R306: a write that meets no uncorrectable error is not held back. -/
theorem stuck_of_sound {s : State} {ps : List Nat} (h : s.fatalAt ps = false) : s.stuck ps = [] := by
  rw [State.stuck, List.filter_eq_nil_iff]
  intro d hd held
  rw [Bool.and_eq_true] at held
  exact List.any_eq_false.mp h d hd held.1

/-- An atomic that meets no damage reads its bytes and writes what its operation gives, and leaves the rest but the record of accesses. -/
theorem atomicAt_sound {s : State} {ps : List Nat} (h : s.fatalAt ps = false) (src : Source) (op : BitVec 4) (v e : Word) :
    ∃ fixed u, s.atomicAt src ps op v e = (leWord (ps.map (memGet s.mem)), false, fixed, u) ∧ Accessed s u ∧
      u.mem = match amoNew op ps.length (leWord (ps.map (memGet s.mem))) v e with
        | none => s.mem
        | some x => memSetAll s.mem (ps.zip (wordBytes x ps.length)) := by
  have bad : (s.eccRead ps).2.1 = false := (eccRead_bad s ps).trans h
  have read := accessed_eccRead s ps
  have mem := eccRead_mem s ps
  have clear : (s.eccRead ps).1.fatalAt ps = false := (fatalAt_meet s _ ps).trans h
  unfold State.atomicAt
  generalize s.eccRead ps = r at bad read mem clear
  obtain ⟨s1, b, fixed⟩ := r
  dsimp only at bad read mem clear ⊢
  rw [bad]
  simp only [Bool.false_eq_true, if_false]
  cases amoNew op ps.length (leWord (ps.map (memGet s.mem))) v e with
  | none =>
    refine ⟨fixed, _, rfl, read.trans ((accessed_touch ..).trans (accessed_trace ..)), ?_⟩
    rw [trace_mem, touch_mem, mem]
  | some x =>
    have free : (s1.stuck ps).isEmpty = true := by rw [stuck_of_sound clear]; rfl
    have stored : (s1.storeCells ps (wordBytes x ps.length)).2.mem = memSetAll s1.mem (ps.zip (wordBytes x ps.length)) := by
      rw [State.storeCells, if_pos free]
    refine ⟨fixed, _, rfl, read.trans ((accessed_storeCells ..).trans ((accessed_touch ..).trans
      ((accessed_trace ..).trans (accessed_hitWatches ..)))), ?_⟩
    rw [hitWatches_mem, trace_mem, touch_mem, stored, mem]

theorem tookTurns_fatalAt (s : State) (n : Nat) (ps qs : List Nat) : (s.tookTurns n ps).fatalAt qs = s.fatalAt qs := by
  have damage : (s.tookTurns n ps).damage = s.damage :=
    foldl_field State.damage (f := fun s h => s.tookTurn n h) (fun _ _ => rfl) _ _
  rw [State.fatalAt, damage, State.fatalAt]

/-! ### The plain word (R109, R111) -/

/-- The plain word has returned the old value: its slot waits for the access (R103). -/
def State.amoDone (s : State) (d : XReg) (old : Word) (fixed : Nat) : State :=
  (((s.setX d old false).countEv 5 1).countEv 14 fixed).inFlight

/-- The plain word's place at its home has come. -/
def amoHere (s : State) (d : XReg) (op : BitVec 4) (va v e : Word) (ps : List Nat) : Res :=
  let r := (s.tookTurns s.cur.core.toNat ps).atomicAt s.source ps op v e
  destX (if r.2.1 then r.2.2.2.memoryError r.2.2.2.cur.num r.2.2.2.cur.dom va else r.2.2.2) d r.1 fun u =>
    .done (u.amoDone d r.1 r.2.2.1)

/-- What the plain word does at its address. -/
def amoAt (s : State) (d : XReg) (op sc : BitVec 4) (n : Nat) (va v e : Word) : Res :=
  if va.toNat % n ≠ 0 then .trap .align va
  else accessRelaxed s .write va n fun ps s2 =>
    if !s2.fenceDone sc then .hold none
    else if s2.ahead ps then .hold (some (s2.behind, ps))
    else amoHere s2 d op va v e ps

theorem exec_amo {s s1 : State} {g : KReg} {d a b : XReg} {op : BitVec 4} {va v e : Word} (hg : GuardOn s g)
    (hf : PortsFit s (if op = 9#4 then [a, b, d] else [a, b]) [d]) (hr : ReadsAtomic s d a b op va v e s1) (w : BitVec 1)
    (sc : BitVec 4) : exec (.amo g d a b op w sc) s = finish s (amoAt s1 d op sc (amoBytes w) va v e) := by
  show execAmo g d a b op w sc s = _
  rw [execAmo, guarded_active hg, legal_fit hf, hr]
  rfl

/-- R284, R327: the word waits for its place at its home, which is numbered when it first stands there. -/
theorem finish_hold_some (s : State) (q : Nat × List Nat) : finish s (.hold (some q)) = .next (({ s with
    cur := { s.cur with stands := some q }
    stamp := if s.cur.stands = none then s.stamp + 1 else s.stamp } : State).parked .held) := by
  have stamp : s.stamp + (if (some q).isSome && s.cur.stands.isNone then 1 else 0) =
      if s.cur.stands = none then s.stamp + 1 else s.stamp := by
    cases s.cur.stands <;> rfl
  rw [finish, stamp]

section
variable {s s2 : State} {n : Nat} {va : Word} {ps : List Nat} {sc : BitVec 4}

theorem amoAt_misaligned (d : XReg) (op sc : BitVec 4) (v e : Word) (odd : va.toNat % n ≠ 0) :
    amoAt s d op sc n va v e = .trap .align va := if_pos odd

variable (d : XReg) (op : BitVec 4) (v e : Word) (aligned : va.toNat % n = 0)
include aligned

theorem amoAt_fenced (hg : GrantsRelaxed s .write va n ps s2) (open_ : s2.fenceDone sc = false) :
    amoAt s d op sc n va v e = .hold none := by
  rw [amoAt, if_neg (not_not.mpr aligned), hg, open_]
  rfl

theorem amoAt_behind (hg : GrantsRelaxed s .write va n ps s2) (done : s2.fenceDone sc = true) (ahead : s2.ahead ps = true) :
    amoAt s d op sc n va v e = .hold (some (s2.behind, ps)) := by
  rw [amoAt, if_neg (not_not.mpr aligned), hg, done, ahead]
  rfl

theorem amoAt_first (hg : Grants s .write va n ps s2) (done : s2.fenceDone sc = true) :
    amoAt s d op sc n va v e = amoHere s2 d op va v e ps := by
  obtain ⟨relaxed, first⟩ := grants_passed hg
  have clear : s2.ahead ps = false := ((checked_of_relaxed relaxed).ahead ps).trans first
  rw [amoAt, if_neg (not_not.mpr aligned), relaxed, done, clear]
  rfl

end

theorem amoHere_performs {s s3 s4 : State} {d : XReg} {op : BitVec 4} {v e old : Word} {ps : List Nat} {fixed : Nat} (va : Word)
    (home : (s.tookTurns s.cur.core.toNat ps).atomicAt s.source ps op v e = (old, false, fixed, s3)) (ht : Takes s3 d old s4) :
    amoHere s d op va v e ps = .done (s4.amoDone d old fixed) := by
  unfold amoHere
  rw [home]
  exact ht _

theorem setReg_untainted (t : Thread) (r : XReg) (v : Word) : (t.setReg r v false).tainted r = false := by
  simp [Thread.setReg, Thread.tainted]

/-- Where x(d) is no port, the word writes it and its taint, and its slot waits. -/
theorem amoDone_plain {s : State} {d : XReg} (old : Word) (fixed : Nat) (free : s.cur.port? d = none) : s.amoDone d old fixed =
    { s with cur := { s.cur.setReg d old false with evcnt := (s.amoDone d old fixed).cur.evcnt, wait := some .access } } := by
  simp only [State.amoDone, State.inFlight, State.countEv, setX_plain _ _ free]
  rw [event_evcnt_only (Thread.event _ _ _), event_evcnt_only (s.cur.setReg d old false)]

/-- With no port bound and no damage, the word reads and writes memory once, and changes x(d) of its thread. -/
theorem amoHere_sound {s : State} {ps : List Nat} (sound : s.fatalAt ps = false) (hr : Unbound s.rd) (hc : Unbound s.cur)
    (d : XReg) (op : BitVec 4) (va v e : Word) : ∃ u, amoHere s d op va v e ps = .done u ∧
      u.cur.reg d = leWord (ps.map (memGet s.mem)) ∧ u.cur.tainted d = false ∧ RegsBut d s.cur u.cur ∧ u.cur.st = s.cur.st ∧
      u.cur.pw = s.cur.pw ∧ u.cur.wait = some .access ∧
      u.mem = match amoNew op ps.length (leWord (ps.map (memGet s.mem))) v e with
        | none => s.mem
        | some x => memSetAll s.mem (ps.zip (wordBytes x ps.length)) := by
  obtain ⟨fixed, u, home, accessed, mem⟩ := atomicAt_sound ((tookTurns_fatalAt s s.cur.core.toNat ps ps).trans sound) s.source op v e
  rw [tookTurns_mem] at home mem
  have same := (accessed_tookTurns s s.cur.core.toNat ps).trans accessed
  have cur := same.cur
  have rd : u.rd = s.rd := by rw [State.rd, State.rd, cur, show u.src = s.src from (congrArg State.src same.aside :)]
  refine ⟨_, amoHere_performs va home (takes_unbound (rd ▸ hr) d _), ?_⟩
  rw [amoDone_plain _ fixed (cur ▸ hc.1 d), cur]
  have wrote := setReg_reg s.cur d (leWord (ps.map (memGet s.mem))) false
  have untainted := setReg_untainted s.cur d (leWord (ps.map (memGet s.mem)))
  have others := regsBut_setReg s.cur d (leWord (ps.map (memGet s.mem))) false
  exact ⟨wrote, untainted, others, rfl, rfl, rfl, mem⟩

/-! ### The relaxed word (R105) -/

/-- The relaxed word has sent its request: STO counts it, and its destination is pending (R105). -/
def State.amoSent (s : State) (va : Word) (ps : List Nat) (kind : ReqKind) (d : XReg) : State :=
  let u := (s.request va ps kind d).countEv 5 1
  { u with cur := { u.cur with sto := u.cur.sto + 1, pend := u.cur.pend ||| (1#16 <<< d.toNat) } }

/-- What the relaxed word does at its address. -/
def rxAmoAt (s : State) (d : XReg) (op : BitVec 4) (n : Nat) (va v e : Word) : Res :=
  if 8 ≤ s.cur.sto then .wait
  else if va.toNat % n ≠ 0 then .trap .align va
  else accessRelaxed s .write va n fun ps s2 => destX s2 d 0 fun s3 => .done (s3.amoSent va ps (.atomic op n v e) d)

theorem exec_rxAmo {s s1 : State} {g : KReg} {d a b : XReg} {op : BitVec 4} {va v e : Word} (hg : GuardOn s g)
    (hf : PortsFit s (if op = 9#4 then [a, b, d] else [a, b]) [d]) (hr : ReadsAtomic s d a b op va v e s1) (w : BitVec 1)
    (sc : BitVec 4) : exec (.rxAmo g d a b op w sc) s = finish s (rxAmoAt s1 d op (amoBytes w) va v e) := by
  show execRxAmo g d a b op w sc s = _
  rw [execRxAmo, guarded_active hg, legal_fit hf, hr]
  rfl

section
variable {s s2 s3 : State} {n : Nat} {va : Word} {ps : List Nat} (d : XReg) (op : BitVec 4) (v e : Word)

theorem rxAmoAt_full (full : 8 ≤ s.cur.sto) : rxAmoAt s d op n va v e = .wait := if_pos full

theorem rxAmoAt_misaligned (room : s.cur.sto < 8) (odd : va.toNat % n ≠ 0) : rxAmoAt s d op n va v e = .trap .align va := by
  rw [rxAmoAt, if_neg (by omega), if_pos odd]

theorem rxAmoAt_sends (room : s.cur.sto < 8) (aligned : va.toNat % n = 0) (hg : GrantsRelaxed s .write va n ps s2)
    (ht : Takes s2 d 0 s3) : rxAmoAt s d op n va v e = .done (s3.amoSent va ps (.atomic op n v e) d) := by
  rw [rxAmoAt, if_neg (by omega), if_neg (not_not.mpr aligned), hg, ht]

end

theorem amoSent_cur (s : State) (va : Word) (ps : List Nat) (kind : ReqKind) (d : XReg) :
    (s.amoSent va ps kind d).cur.sto = s.cur.sto + 1 ∧ (s.amoSent va ps kind d).cur.pend = s.cur.pend ||| (1#16 <<< d.toNat) ∧
      (s.amoSent va ps kind d).cur.x = s.cur.x := by
  simp [State.amoSent, State.countEv]

/-- Settles O21: `amoAt` and `rxAmoAt` are the two words at their address; `amoHere_performs` and `amoHere_sound` are the plain one at its
home, and `amoNew_eight`, `amoNew_four` and `amoNew_fadd_nan` what an operation writes. -/
theorem atomicWords : Obligations.AtomicWords := by
  unfold Obligations.AtomicWords
  refine ⟨fun s s1 s2 g d a b op w sc va v e ps => ?_, fun o x e => ?_⟩
  · intro n hg fit hr
    have plain : exec (.amo g d a b op w sc) s = finish s (amoAt s1 d op sc n va v e) := exec_amo hg fit hr w sc
    have relaxed : exec (.rxAmo g d a b op w sc) s = finish s (rxAmoAt s1 d op n va v e) := exec_rxAmo hg fit hr w sc
    refine ⟨fun odd => ?_, fun odd room => ?_, fun full => ?_, fun aligned hgr => ⟨fun open_ => ?_, fun done ahead => ?_⟩,
      fun aligned hgr => ⟨fun s4 done => ?_, fun done sound ur uc => ?_⟩, fun aligned hgr s3 room ht => ?_⟩
    · rw [plain, amoAt_misaligned d op sc v e odd, finish_trap]
    · rw [relaxed, rxAmoAt_misaligned d op v e room odd, finish_trap]
    · rw [relaxed, rxAmoAt_full d op v e full]
      rfl
    · rw [plain, amoAt_fenced d op v e aligned hgr open_, finish_hold_none]
      rfl
    · rw [plain, amoAt_behind d op v e aligned hgr done ahead, finish_hold_some]
    · rcases home : (s2.tookTurns s2.cur.core.toNat ps).atomicAt s2.source ps op v e with ⟨old, bad, fixed, s3⟩
      intro sound ht
      rw [sound] at home
      rw [Retires, plain, amoAt_first d op v e aligned hgr done, amoHere_performs va home ht, finish_done]
      rfl
    · obtain ⟨u, here, old, untainted, others, st, pw, wait, mem⟩ := amoHere_sound sound ur uc d op va v e
      refine ⟨u, ?_, old, untainted, others, st, pw, wait, mem⟩
      rw [Retires, plain, amoAt_first d op v e aligned hgr done, here, finish_done]
    · have sent := amoSent_cur s3 va ps (.atomic op n v e) d
      refine ⟨_, ?_, sent.1, sent.2.1, sent.2.2, rfl, request_sends ..⟩
      rw [Retires, relaxed, rxAmoAt_sends d op v e room aligned hgr ht, finish_done]
  · obtain ⟨add, and, or, xor, min, max, minu, maxu, swap, cas⟩ := amoNew_eight o x e
    obtain ⟨add4, cas4⟩ := amoNew_four o x e
    exact ⟨add, and, or, xor, min, max, minu, maxu, swap, cas, add4, cas4, amoNew_fadd_nan o x e⟩

end Sys2Proof.Machine
end

section
/-! PROOF. Waiting on a word, moving, and rights (R113, R114, R123). -/

namespace Sys2Proof.Machine
open Sys2Proof.Safety

/-! ### wchg (R113) -/

/-- What `wchg` does once it has read the word: it retires where the word differs from `y`, and watches or polls it otherwise. -/
def watchOrPoll (s : State) (p : Nat) (v y : Word) : Res :=
  if v ≠ y then .done s.inFlight
  else if (s.watches.filter fun w => w.home == homeOf p).length < 16 then
    .park (.watch p) { s with watches := s.watches ++ [{ home := homeOf p, thread := s.cur.num, addr := p, was := y, hit := false }] }
  else .park (.poll p) s

/-- What `wchg` does at its address. -/
def wchgAt (s : State) (va y : Word) : Res :=
  if s.watchChanged then .done s.unwatch
  else accessAligned s .read va 8 fun ps s3 =>
    watchOrPoll (s3.unwatch.readNow va ps).2 (ps.headD 0) (s3.unwatch.readNow va ps).1 y

theorem exec_wchg {s s1 s2 : State} {g : KReg} {d a : XReg} {x y : Word} {t u : Bool} (hg : GuardOn s g) (hf : PortsFit s [a, d] [])
    (hr : ReadsAs s a x t s1) (hv : ReadsAs s1 d y u s2) (b : BitVec 1) (o : BitVec 10) :
    exec (.wchg g d a b o) s = finish s (wchgAt s2 (formedAddress s.rd.cb x 8 b o) y) := by
  show execWchg g d a b o s = _
  rw [execWchg, guarded_active hg, legal_fit hf, useAddress_reads hr, hv]
  rfl

section
variable {s s3 : State} {va : Word} {ps : List Nat} (y : Word)

theorem wchgAt_changed (va : Word) (changed : s.watchChanged = true) : wchgAt s va y = .done s.unwatch := if_pos changed

variable (same : s.watchChanged = false)
include same

theorem wchgAt_misaligned (odd : va.toNat % 8 ≠ 0) : wchgAt s va y = .trap .align va := by
  rw [wchgAt, if_neg (by simp [same]), accessAligned, if_pos odd]

theorem wchgAt_reads (aligned : va.toNat % 8 = 0) (hg : Grants s .read va 8 ps s3) :
    wchgAt s va y = watchOrPoll (s3.unwatch.readNow va ps).2 (ps.headD 0) (s3.unwatch.readNow va ps).1 y := by
  rw [wchgAt, if_neg (by simp [same]), accessAligned, if_neg (not_not.mpr aligned), hg]

end

section
variable {s : State} {p : Nat} {v y : Word}

theorem watchOrPoll_differs (h : v ≠ y) : watchOrPoll s p v y = .done s.inFlight := if_pos h

theorem watchOrPoll_watches (h : v = y) (room : (s.watches.filter fun w => w.home == homeOf p).length < 16) :
    watchOrPoll s p v y = .park (.watch p) { s with watches := s.watches ++ [
      { home := homeOf p, thread := s.cur.num, addr := p, was := y, hit := false }] } := by
  rw [watchOrPoll, if_neg (not_not.mpr h), if_pos room]

theorem watchOrPoll_polls (h : v = y) (full : 16 ≤ (s.watches.filter fun w => w.home == homeOf p).length) :
    watchOrPoll s p v y = .park (.poll p) s := by
  rw [watchOrPoll, if_neg (not_not.mpr h), if_neg (by omega)]

end

theorem finish_park (s t : State) (w : Wait) : finish s (.park w t) = .next (t.parked w) := rfl

/-! ### hop (R114) -/

/-- What `hop` does at its address. -/
def hopAt (s : State) (va : Word) : Res :=
  match hopTarget va with
  | none => .done s
  | some c =>
    if c = s.cur.core then .done s
    else if !s.inCoreSet s.cur.chgvd c then .trap .prot va
    else if s.heldHere then .trap .portbound va
    else .done { s with cur := { s.cur with leaving := some (c, true), wait := some .leaving } }

theorem exec_hop {s s1 : State} {g : KReg} {a : XReg} {x : Word} {t : Bool} (hg : GuardOn s g) (hf : PortsFit s [a] [])
    (hr : ReadsAs s a x t s1) (b : BitVec 1) (o : BitVec 10) :
    exec (.hop g a b o) s = finish s (hopAt s1 (formedAddress s.rd.cb x 8 b o)) := by
  show execHop g a b o s = _
  rw [execHop, guarded_active hg, legal_fit hf, useAddress_reads hr]
  rfl

theorem hopAt_stays {s : State} {va : Word} (h : hopTarget va = none ∨ hopTarget va = some s.cur.core) : hopAt s va = .done s := by
  rcases h with none | own
  · rw [hopAt, none]
  · rw [hopAt, own]
    exact if_pos rfl

section
variable {s : State} {va : Word} {c : CoreNo} (target : hopTarget va = some c) (other : c ≠ s.cur.core)
include target other

theorem hopAt_outside (outside : s.inCoreSet s.cur.chgvd c = false) : hopAt s va = .trap .prot va := by
  simp only [hopAt, target, if_neg other, outside, Bool.not_false, if_true]

theorem hopAt_held (inside : s.inCoreSet s.cur.chgvd c = true) (held : s.heldHere = true) : hopAt s va = .trap .portbound va := by
  simp only [hopAt, target, if_neg other, inside, held, Bool.not_true, Bool.false_eq_true, if_false, if_true]

theorem hopAt_leaves (inside : s.inCoreSet s.cur.chgvd c = true) (free : s.heldHere = false) :
    hopAt s va = .done { s with cur := { s.cur with leaving := some (c, true), wait := some .leaving } } := by
  simp only [hopAt, target, if_neg other, inside, free, Bool.not_true, Bool.false_eq_true, if_false]

end

/-! ### probe (R123) -/

theorem exec_probe {s s1 s2 : State} {g : KReg} {d a : XReg} {x : Word} {t : Bool} {b : BitVec 1} {o : BitVec 10} (hg : GuardOn s g)
    (hf : PortsFit s [a] [d]) (hr : ReadsAs s a x t s1)
    (ht : Takes s1 d (probeWord s1 s1.cur (formedAddress s.rd.cb x 1 b o)) s2) : exec (.probe g d a b o) s =
      finish s (.done (s2.setX d (probeWord s1 s1.cur (formedAddress s.rd.cb x 1 b o)) t).inFlight) := by
  show execProbe g d a b o s = _
  rw [execProbe, guarded_active hg, legal_fit hf, useAddress_reads hr]
  exact congrArg (finish s) (ht _)

/-- The number of the window of an address (R123). -/
def probeWindow (t : Thread) (va : Word) : Nat :=
  match windowOf va.toNat with
  | .none => 0
  | .priv => 1
  | .sram => 2
  | .arg => if t.top.any fun e => e.grant != 0#2 then 3 else 0
  | .image => 4

theorem probeWindow_le (t : Thread) (va : Word) : probeWindow t va ≤ 4 := by
  unfold probeWindow
  split
  case h_4 => split <;> omega
  all_goals omega

/-- The word of `probe` is the number of the window above the five bits of what the domain holds, and these are 0 without S1. -/
theorem probeWord_eq (s : State) (t : Thread) (va : Word) : ∃ h : Holding, probeWord s t va =
    if probeWindow t va = 0 ∨ !h.s1 then BitVec.ofNat 64 (probeWindow t va * 32)
    else BitVec.ofNat 64 (probeWindow t va * 32 + bitsNat [h.r, h.w, h.x, h.s2, h.s1]) :=
  ⟨holdingAt s (combOf t.core) t 9 t.depth.toNat t.dom va.toNat, rfl⟩

theorem bitsNat_lt : ∀ bs : List Bool, bitsNat bs < 2 ^ bs.length
  | [] => by decide
  | b :: bs => by
    have rest := bitsNat_lt bs
    rw [bitsNat, List.length_cons, pow_succ]
    split <;> omega

/-- The lower five bits of the word are either 0 or begin with S1, and the word is below 256. -/
theorem probeWord_parts (s : State) (t : Thread) (va : Word) : ∃ win bits : Nat, win ≤ 4 ∧ bits < 32 ∧ (bits = 0 ∨ 16 ≤ bits) ∧
    probeWord s t va = BitVec.ofNat 64 (win * 32 + bits) := by
  obtain ⟨h, eq⟩ := probeWord_eq s t va
  refine ⟨probeWindow t va, if probeWindow t va = 0 ∨ !h.s1 then 0 else bitsNat [h.r, h.w, h.x, h.s2, h.s1],
    probeWindow_le t va, ?_, ?_, ?_⟩
  · split
    · omega
    · exact bitsNat_lt _
  · split
    · exact .inl rfl
    · next reads =>
      have mapped : h.s1 = true := by simp_all
      refine .inr ?_
      simp only [bitsNat, mapped, if_true]
      omega
  · rw [eq]
    split <;> rfl

theorem probeWord_high (s : State) (t : Thread) (va : Word) : (probeWord s t va).extractLsb' 8 56 = 0#56 := by
  obtain ⟨win, bits, small, low, -, eq⟩ := probeWord_parts s t va
  rw [eq]
  apply BitVec.eq_of_toNat_eq
  rw [BitVec.extractLsb'_toNat, BitVec.toNat_ofNat, Nat.shiftRight_eq_div_pow, BitVec.toNat_ofNat]
  omega

theorem probeWord_unmapped {s : State} {t : Thread} {va : Word} (h : (probeWord s t va).getLsbD 4 = false) :
    (probeWord s t va).extractLsb' 0 5 = 0#5 := by
  obtain ⟨win, bits, small, low, s1, eq⟩ := probeWord_parts s t va
  rw [eq] at h ⊢
  rw [BitVec.getLsbD, BitVec.toNat_ofNat, Nat.testBit_eq_decide_div_mod_eq, decide_eq_false_iff_not] at h
  apply BitVec.eq_of_toNat_eq
  rw [BitVec.extractLsb'_toNat, BitVec.toNat_ofNat, Nat.shiftRight_eq_div_pow, BitVec.toNat_ofNat]
  omega

/-- Settles O23: `wchgAt` and `hopAt` are the two words at their address, by their lemmas; `probe` writes `probeWord`, whose bits are those
of `probeWord_high` and `probeWord_unmapped`. -/
theorem watchHopProbe : Obligations.WatchHopProbe := by
  unfold Obligations.WatchHopProbe
  refine ⟨fun s s1 s2 s3 g d a b o x y t u ps => ?_, fun s s1 g a b o x t => ?_, fun s s1 s2 g d a b o x t => ?_⟩
  · intro va p hg fit hr hv
    have run : exec (.wchg g d a b o) s = finish s (wchgAt s2 va y) := exec_wchg hg fit hr hv b o
    refine ⟨fun changed => ?_, fun same odd => ?_, fun same aligned hgr => ?_⟩
    · rw [Retires, run, wchgAt_changed y va changed, finish_done]
    · rw [run, wchgAt_misaligned y same odd, finish_trap]
    · rcases read : s3.unwatch.readNow va ps with ⟨v, s4⟩
      have found : exec (.wchg g d a b o) s = finish s (watchOrPoll s4 p v y) := by
        rw [run, wchgAt_reads y same aligned hgr, read]
      refine ⟨fun differs => ?_, fun eq room => ?_, fun eq full => ?_⟩
      · rw [Retires, found, watchOrPoll_differs differs, finish_done]
      · rw [found, watchOrPoll_watches eq room, finish_park]
      · rw [found, watchOrPoll_polls eq full, finish_park]
  · intro va hg fit hr
    have run : exec (.hop g a b o) s = finish s (hopAt s1 va) := exec_hop hg fit hr b o
    refine ⟨fun stays => ?_, fun c target other => ⟨fun outside => ?_, fun inside held => ?_, fun inside free => ?_⟩⟩
    · rw [Retires, run, hopAt_stays stays, finish_done]
    · rw [run, hopAt_outside target other outside, finish_trap]
    · rw [run, hopAt_held target other inside held, finish_trap]
    · rw [Retires, run, hopAt_leaves target other inside free, finish_done]
  · intro va hg fit hr v
    exact ⟨fun ht => exec_probe hg fit hr ht, probeWord_high .., probeWord_unmapped⟩

end Sys2Proof.Machine
end

section
/-! PROOF. Vector words (R126, R129, R131, R133, R147): what a word hands to the vector unit, and how streams are bound and
released. -/

namespace Sys2Proof.Machine
open Sys2Proof.Safety

/-! ### What reading and writing operands leaves of the modes and the v registers -/

/-- `u` holds the modes and the v registers of `s`, both as they stand and as the bundle found them. -/
def SameModes (s u : State) : Prop := u.src = s.src ∧ u.cur.st = s.cur.st ∧ u.cur.v = s.cur.v

namespace SameModes

theorem refl (s : State) : SameModes s s := ⟨rfl, rfl, rfl⟩

theorem trans {s t u : State} (h : SameModes s t) (h' : SameModes t u) : SameModes s u :=
  ⟨h'.1.trans h.1, h'.2.1.trans h.2.1, h'.2.2.trans h.2.2⟩

/-- An operation that leaves the ports and the register file leaves the modes. -/
theorem of_file {s u : State} (ports : SamePorts s u) (file : u.file = s.file) : SameModes s u := by
  simp only [State.file, Prod.mk.injEq] at file
  obtain ⟨-, -, -, st, v, -⟩ := file
  exact ⟨ports.1, st, v⟩

/-- A word reads the same modes and lanes. -/
theorem rd {s u : State} (h : SameModes s u) : u.rd.st = s.rd.st ∧ u.rd.v = s.rd.v := by
  obtain ⟨src, st, v⟩ := h
  rw [State.rd, State.rd, src]
  cases s.src with
  | none => exact ⟨st, v⟩
  | some t => exact ⟨rfl, rfl⟩

end SameModes

theorem takeEntry_file (s : State) (sp : Spot) : (s.takeEntry sp).2.file = s.file := by
  have met : (s.meetEntry sp).1.file = s.file := (accessed_meet s _).file
  have counted := (countEv_file (s.meetEntry sp).1 14 (s.meetEntry sp).2.2).trans met
  unfold State.takeEntry
  split
  · dsimp only
    split
    · exact (postReport_file ..).trans counted
    · exact counted
  · rfl

theorem readNow_file (s : State) (va : Word) (ps : List Nat) : (s.readNow va ps).2.file = s.file := by
  have read := (accessed_readBytes s s.source 0 va.toNat ps).file
  rw [readNow_state]
  generalize s.readBytes s.source 0 va.toNat ps = r at read
  dsimp only
  rw [← read]
  split_ifs
  · exact postReport_file ..
  · rfl
  · exact (countEv_file ..).trans (postReport_file ..)
  · exact countEv_file ..

theorem sameModes_takeEntry (s : State) (sp : Spot) : SameModes s (s.takeEntry sp).2 :=
  .of_file (samePorts_takeEntry ..) (takeEntry_file ..)

theorem sameModes_readNow (s : State) (va : Word) (ps : List Nat) : SameModes s (s.readNow va ps).2 :=
  .of_file (samePorts_readNow ..) (readNow_file ..)

theorem sameModes_checkedState (s : State) (kind : Acc1) (va : Word) (n : Nat) : SameModes s (checkedState s kind va n) :=
  .of_file (samePorts_checkedState ..) (checked_checkedState ..).file

section
variable {P : State → Prop} {s : State}

theorem doneIn_readRing {desc : Word} {k : RingView → State → Res} (h : ∀ v u, SameModes s u → DoneIn P (k v u)) :
    DoneIn P (readRing s desc k) :=
  doneIn_access fun _ => h _ _ ((sameModes_checkedState ..).trans (sameModes_readNow ..))

theorem popPort_keeps_modes {p : Port} {k : Word → Word → State → Res} (h : ∀ v w u, SameModes s u → DoneIn P (k v w u)) :
    DoneIn P (popPort s p k) := by
  intro u e
  unfold popPort at e
  split at e
  · dsimp only at e
    split at e
    · cases e
    · split at e
      · cases e
      · exact h _ _ _ (sameModes_takeEntry ..) u e
  · split at e
    · refine doneIn_readRing (P := P) (fun v s1 read u e => ?_) u e
      dsimp only at e
      split at e
      · cases e
      · refine doneIn_access (P := P) (fun _ => doneIn_access (P := P) fun _ => ?_) u e
        exact h _ _ _
          (((read.trans (sameModes_checkedState ..)).trans (sameModes_checkedState ..)).trans (sameModes_readNow ..))
    · split at e
      · cases e
      · exact h _ _ _ (sameModes_takeEntry ..) u e

end

/-- R24: a register that is read leaves the modes, though it be a port. -/
theorem SameModes.of_reads {s s1 : State} {r : XReg} {v : Word} {t : Bool} (h : ReadsAs s r v t s1) : SameModes s s1 := by
  have e := h fun _ _ u => .done u
  unfold useX at e
  split at e
  · cases e
  · split at e
    · cases e
      exact .refl s
    · split at e
      · cases e
      · split at e
        · cases e
          exact .refl s
        · refine popPort_keeps_modes (P := SameModes s) (fun v w u hu x ex => ?_) s1 e
          cases ex
          exact hu

theorem SameModes.of_readsTwo {s s2 : State} {a b : XReg} {x y : Word} {t : Bool} (h : ReadsTwo s a b x y t s2) :
    SameModes s s2 := by
  obtain ⟨ta, tb, s1, ha, hb, -⟩ := h
  exact (SameModes.of_reads ha).trans (.of_reads hb)

/-- R24, R105: a register that can be written leaves the modes before the write, though it be a port. -/
theorem SameModes.of_takes {s s1 : State} {d : XReg} {v : Word} (h : Takes s d v s1) : SameModes s s1 := by
  have done : DoneIn (SameModes s) (destX s d v .done) := by
    have here : ∀ u, SameModes s u → DoneIn (SameModes s) (.done u) := fun u hu x ex => Res.done.inj ex ▸ hu
    intro u e
    unfold destX destAfter at e
    split at e
    · cases e
    · split at e
      · exact here s (.refl s) u e
      · split_ifs at e
        · dsimp only at e
          split at e
          · cases e
          · exact here s (.refl s) u e
        · refine doneIn_readRing (P := SameModes s) (fun r s1 read u e => ?_) u e
          dsimp only at e
          split at e
          · cases e
          · refine doneIn_access (P := SameModes s) (fun _ => doneIn_access (P := SameModes s) fun _ => ?_) u e
            exact here _ ((read.trans (sameModes_checkedState ..)).trans (sameModes_checkedState ..))
        · dsimp only at e
          split at e
          · cases e
          · exact here s (.refl s) u e
  exact done s1 (h .done)

/-! ### Handing over a command (R126) -/

theorem live_vlive (s : State) : s.live.cur.vlive = true := by
  simp [State.live, Thread.vlive, stVLIVE, putBit]

/-- R126: what is handed over after operands have been read is what `Handed` says of the bundle's own state. -/
theorem handed_hand {s u : State} (h : SameModes s u) (i : Instr) (xs xt : Word) : Handed s (u.hand i xs xt) i xs xt := by
  obtain ⟨st, v⟩ := h.rd
  obtain ⟨-, -, lanes⟩ := h
  refine ⟨rfl, live_vlive u, ?_⟩
  simp only [State.hand, State.live, Thread.rm, Thread.fzs, Thread.fzr, st, v, lanes]
  rfl

/-! ### Words of the vector unit -/

/-- R133: a command uses a bound register as it must not. -/
def State.misusesBound (s : State) (i : Instr) : Bool := (vectorRoles s.rd.rm i).any fun o => o.illegal s.rd

/-- R126: every vector word waits for the command in progress. -/
theorem exec_vectorWord {i : Instr} (h : vectorWord i = true) (s : State) : ∃ r, exec i s = avWord s r := by
  cases i with
  | vadd | vrcp | vcmp | vsub | vabs | vcvtFromF32 | vrsq | vneg | vmul | vand | vcvtToF32 | vfma | vor | vmin | vxor | vmax | vsel
  | vshl | vredSum | vshr | vredMax | vsar | vredMin | vperm | vpack | vunpack | vex2 | vbcast | vget | vgath | vscat
  | vbindPop | vbindPush | vunbind | vfence => exact ⟨_, rfl⟩
  | _ => cases h

/-- R133: a vector word with beats and no x operand is a command. -/
theorem exec_vectorPlain {i : Instr} (h : vectorPlain i = true) (s : State) : exec i s = command s i := by
  cases i with
  | vadd | vrcp | vcmp | vsub | vabs | vcvtFromF32 | vrsq | vneg | vmul | vand | vcvtToF32 | vfma | vor | vmin | vxor | vmax | vsel
  | vshl | vredSum | vshr | vredMax | vsar | vredMin | vperm | vpack | vunpack => rfl
  | _ => cases h

theorem avWord_busy {s : State} (busy : s.cur.vbusy = true) (r : Res) : avWord s r = .next (s.parked .cond) := by
  rw [avWord, if_pos busy]
  rfl

section
variable {s : State} (free : s.cur.vbusy = false)
include free

theorem avWord_free (r : Res) : avWord s r = finish s r := by simp [avWord, free]

theorem command_misuses {i : Instr} (bad : s.misusesBound i = true) :
    command s i = .next (s.trapped .illegal s.bundle s.cur.pc) := by
  rw [command, avWord_free free, ← State.misusesBound, if_pos bad, finish_trap]

theorem command_hands {i : Instr} (good : s.misusesBound i = false) : command s i = .next ((s.hand i 0 0).retire none) := by
  rw [command, avWord_free free, ← State.misusesBound, if_neg (by simp [good]), finish_done]

theorem commandX_hands {s1 : State} {i : Instr} {x : XReg} {w : Word} {t : Bool} (fit : PortsFit s [x] [])
    (hr : ReadsAs s x w t s1) (good : s.misusesBound i = false) : commandX s i x = .next ((s1.hand i w 0).retire none) := by
  rw [commandX, avWord_free free, legal_fit fit, ← State.misusesBound, if_neg (by simp [good]), hr _, finish_done]

theorem commandXX_hands {s2 : State} {i : Instr} {x z : XReg} {w k : Word} {t : Bool} (fit : PortsFit s [x, z] [])
    (hr : ReadsTwo s x z w k t s2) (good : s.misusesBound i = false) :
    commandXX s i x z = .next ((s2.hand i w k).retire none) := by
  rw [commandXX, avWord_free free, legal_fit fit, ← State.misusesBound, if_neg (by simp [good]), useXX_reads hr, finish_done]

end

/-- R142: what `vget` leaves: its command handed over, and x(d) pending. -/
def State.handGet (s : State) (i : Instr) (d : XReg) (w : Word) : State :=
  { s.hand i w 0 with cur := { (s.hand i w 0).cur with pend := (s.hand i w 0).cur.pend ||| (1#16 <<< d.toNat) } }

theorem handGet_pend (s : State) (i : Instr) (d : XReg) (w : Word) : (s.handGet i d w).cur.pend.getLsbD d.toNat = true := by
  simp [State.handGet, d.isLt]

theorem exec_vget {s s1 s2 : State} {a : VReg} {x d : XReg} {y : BitVec 4} {w : Word} {t : Bool} (free : s.cur.vbusy = false)
    (fit : PortsFit s [x] [d]) (hr : ReadsAs s x w t s1) (good : s.misusesBound (.vget a x d y) = false) (hw : Takes s1 d 0 s2) :
    Retires (.vget a x d y) s (s2.handGet (.vget a x d y) d w) := by
  show execVget a x d y s = _
  rw [execVget, avWord_free free, legal_fit fit, ← State.misusesBound, if_neg (by simp [good]), hr _, hw _, finish_done]
  rfl

/-! ### Streams (R131) -/

/-- R131: a vector register is bound to a descriptor, at position 0 with lanes of 0. -/
def State.boundTo (s : State) (v : VReg) (push : Bool) (a : Word) : State :=
  { s.live with
    cur := (s.live.cur.setStream v { bound := true, push := push, desc := a, pos := 0 }).setLanes v (Vector.replicate 32 0) }

@[simp] theorem setStream_stream (t : Thread) (v : VReg) (b : Stream) : (t.setStream v b).stream v = b := by
  simp [Thread.setStream, Thread.stream]

@[simp] theorem setLanes_lanes (t : Thread) (v : VReg) (l : Lanes) : (t.setLanes v l).lanes v = l := by
  simp [Thread.setLanes, Thread.lanes]

section
variable {s s1 : State} {x : XReg} {a : Word} {t : Bool} (free : s.cur.vbusy = false) (fit : PortsFit s [x] [])
  (hr : ReadsAs s x a t s1)
include free fit hr

theorem bindStream_misaligned (v : VReg) (push : Bool) (odd : a.extractLsb' 0 6 ≠ 0#6) :
    bindStream s v x push = .next (s.trapped .align a s.cur.pc) := by
  rw [bindStream, avWord_free free, legal_fit fit, hr _, if_pos odd, finish_trap]

theorem bindStream_binds (v : VReg) (push : Bool) (aligned : a.extractLsb' 0 6 = 0#6) :
    bindStream s v x push = .next ((s1.boundTo v push a).retire none) := by
  rw [bindStream, avWord_free free, legal_fit fit, hr _, if_neg (not_not.mpr aligned), ← finish_done s]
  rfl

end

theorem boundTo_binds (s : State) (v : VReg) (push : Bool) (a : Word) :
    (s.boundTo v push a).cur.stream v = { bound := true, push := push, desc := a, pos := 0 } ∧
      (s.boundTo v push a).cur.lanes v = Vector.replicate 32 0 ∧ (s.boundTo v push a).cur.x = s.cur.x ∧
      (s.boundTo v push a).mem = s.mem ∧ (s.boundTo v push a).cur.vlive = true :=
  ⟨setStream_stream .., setLanes_lanes .., rfl, rfl, live_vlive s⟩

/-- R131: a vector register is released. -/
def State.released (s : State) (v : VReg) : State := { s.live with cur := s.live.cur.setStream v {} }

theorem exec_vunbind {s : State} (free : s.cur.vbusy = false) (v : VReg) : Retires (.vunbind v) s (s.released v) :=
  (avWord_free free _).trans (finish_done ..)

theorem exec_vfence {s : State} (free : s.cur.vbusy = false) : Retires .vfence s s.live :=
  (avWord_free free _).trans (finish_done ..)

/-- Settles O35: each word that has beats is `command`, `commandX`, `commandXX` or `vget`, each of which hands over what
`handed_hand` says; `vbind`, `vunbind` and `vfence` are given by what they leave. -/
theorem vectorWords : Obligations.VectorWords := by
  unfold Obligations.VectorWords
  refine ⟨⟨fun s c word busy => ?_, fun s c plain free => ?_, fun s s1 v a b x y w t free fit hr => ?_,
    fun s s2 v a b x z y w k t free fit hr => ?_⟩, fun s s1 v x a t free fit hr => ?_, fun s v free => ?_⟩
  · obtain ⟨r, run⟩ := exec_vectorWord word s
    exact run.trans (avWord_busy busy r)
  · have run := exec_vectorPlain plain s
    exact ⟨fun bad => run.trans (command_misuses free bad),
      fun good => ⟨_, run.trans (command_hands free good), handed_hand (.refl s) .., rfl, rfl⟩⟩
  · have modes := SameModes.of_reads hr
    refine ⟨fun good => ⟨_, commandX_hands free fit hr good, handed_hand modes ..⟩,
      fun good => ⟨_, commandX_hands free fit hr good, handed_hand modes ..⟩, fun d s2 fits good takes => ?_⟩
    exact ⟨_, exec_vget free fits hr good takes, handed_hand (modes.trans (.of_takes takes)) .., handGet_pend ..⟩
  · have modes := SameModes.of_readsTwo hr
    exact ⟨fun good => ⟨_, commandXX_hands free fit hr good, handed_hand modes ..⟩,
      fun good => ⟨_, commandXX_hands free fit hr good, handed_hand modes ..⟩⟩
  · exact ⟨fun odd => ⟨bindStream_misaligned free fit hr v false odd, bindStream_misaligned free fit hr v true odd⟩,
      fun aligned => ⟨⟨_, bindStream_binds free fit hr v false aligned, boundTo_binds ..⟩,
        ⟨_, bindStream_binds free fit hr v true aligned, boundTo_binds ..⟩⟩⟩
  · refine ⟨⟨_, exec_vunbind free v, ?_, rfl, rfl, rfl⟩, ⟨_, exec_vfence free, rfl, rfl, rfl, rfl⟩⟩
    simp [State.released]

end Sys2Proof.Machine
end

section
/-! PROOF. The claim about beats fails of a memory out of its canonical form (log entry 4), as those about rings and about the memory
system do: a scattered 0 drops no cell that stands behind one of a higher address. -/

namespace Sys2Proof.Machine
open Sys2Proof.Safety

/-- A scatter of one lane, 0, to address 0x10000034000. -/
def zeroScatter : VCmd :=
  { instr := .vscat 1 2 3 4 4, xs := 0x10000034000, xt := 1, rm := 0, fzs := false, fzr := false, dom := 0 }

/-- The thread of that command: its vector registers hold zeros, and none is bound. -/
def scatterThread : Thread := { num := 1, place := .slot 345 3, vcmd := some zeroScatter }

/-- The memory of `strayRing`, in which the cell of 0x34000 stands behind that of 0x40000. -/
def strayScatter : State := { strayRing false with cur := scatterThread }

/-- The canonical form that every step keeps excludes this memory, but the clauses do not ask for it. -/
theorem strayScatter_not_memoryOk : ¬MemoryOk strayScatter := strayRing_not_memoryOk false

theorem strayScatter_ready : BeatReady strayScatter 1 scatterThread zeroScatter := by
  unfold BeatReady
  decide +kernel

/-- The byte at 0x34000 still reads 9 after the beat that stores 0 there. -/
theorem strayScatter_beat_byte :
    (match exec (.vectorBeat 1) strayScatter with
      | .next u => memGet u.mem 0x34000
      | _ => 0) = 9 := by decide +kernel

/-- Refutes O37: the clause on the lanes that a scatter writes has no premise that memory is canonical. In `strayScatter` it asks that
the byte at 0x34000 reads 0 after the beat, where it reads 9 (`strayScatter_beat_byte`). -/
theorem not_vectorBeats : ¬Obligations.VectorBeats := by
  rintro ⟨beats, -⟩
  obtain ⟨-, -, -, -, -, -, -, lanes⟩ := beats strayScatter 1 scatterThread zeroScatter 0 1 2 strayScatter_ready
  obtain ⟨-, scatter⟩ := lanes 3 4 4 (fun _ => physRange 0x34000 4) rfl
  obtain ⟨u, -, -, run, -, -, -, -, -, -, written⟩ := scatter rfl (by decide +kernel) (by decide +kernel) (by decide +kernel)
  have byte : memGet u.mem 0x34000 = 0 := written 0 (by decide +kernel) 0 (by decide)
  have stands := strayScatter_beat_byte
  rw [run] at stands
  exact absurd (byte.symm.trans stands) (by decide)

end Sys2Proof.Machine
end

section
/-! PROOF. The claim about tile and copy steps fails of a memory out of its canonical form (log entry 4), as those about rings and
about beats do: a drained 0 drops no cell that stands behind one of a higher address. -/

namespace Sys2Proof.Machine
open Sys2Proof.Safety

/-- A destination at address 0x10000034000, of one F32 element. -/
def zeroDestination : Tensor :=
  { handle := 0, base := 0x10000034000, fmt := 0, scm := 0, sp := false, scale := 0, dir := 0, d0 := 1, d1 := 1, d2 := 1, d3 := 1,
    s1 := 4, s2 := 4, s3 := 4 }

/-- A drain to that destination, of the thread and core of `strayRing`. -/
def zeroDrain : TileOp :=
  { instr := .mdrain 0 0 1 2 0 0 0 0, thread := 1, core := 345, dom := 0, subs := [0], a := some zeroDestination, b := none,
    pattern := 0, random := 0, rm := 0, fzs := false, fzr := false, agv := 0, agc := 0, cen := false, started := true }

/-- The position of the first element. -/
def firstSpot : OutPos := spot 0 0

/-- The drain of one plane, a 0 of 4 bytes, in the memory of `strayRing`, where the cell of 0x34000 stands behind that of 0x40000. -/
def zeroDrained : Went := drainWrites zeroDestination 0 0 firstSpot 0 [(0, 4)] (strayRing false) zeroDrain

/-- The byte at 0x34000 still reads 9 after the drain that stores 0 there. -/
theorem zeroDrained_byte : (match zeroDrained with | .ok s _ => memGet s.mem 0x34000 | _ => 0) = 9 := by decide +kernel

/-- Refutes O38: the clause on the elements that a drain writes has no premise that memory is canonical. In `strayRing false`, which is
not (`strayRing_not_memoryOk`), it asks that the byte at 0x34000 reads 0 after the drain of a 0, where it reads 9
(`zeroDrained_byte`). -/
theorem not_tileAndCopyEvents : ¬Obligations.TileAndCopyEvents := by
  rintro ⟨⟨-, -, -, -, -, -, -, -, -, drains, -⟩, -⟩
  obtain ⟨s, run, -, -, written⟩ :=
    drains (strayRing false) zeroDrain zeroDestination 0 0 firstSpot 0 0 4 [] (physRange 0x34000 4) (by decide) (by decide)
      (by decide) (by decide) (by decide +kernel) (by decide +kernel)
  have byte : memGet s.mem 0x34000 = 0 := written 0 (by decide)
  have drained : zeroDrained = .ok s zeroDrain := run
  have stands := zeroDrained_byte
  rw [drained] at stands
  exact absurd (byte.symm.trans stands) (by decide)

end Sys2Proof.Machine
end

section
/-! PROOF. What reading and writing operands leaves of the thread in hand (R24, R191, R192): all but its registers, the words of its
command port, its reports and its counter of events. -/

namespace Sys2Proof.Machine
open Sys2Proof.Safety

/-! ### Writes of registers and ports -/

/-- `u` is `t` but for what reading and writing operands may change: registers, the words of a command port with CPO, reports
and the counter of events. -/
def ButOperands (t u : Thread) : Prop := u = { t with
  x := u.x, taint := u.taint, cpo := u.cpo, cmdWords := u.cmdWords, reports := u.reports, eccSeen := u.eccSeen, evcnt := u.evcnt }

namespace ButOperands

theorem refl (t : Thread) : ButOperands t t := rfl

theorem trans {t u v : Thread} (h : ButOperands t u) (h' : ButOperands u v) : ButOperands t v := by
  unfold ButOperands at h h' ⊢
  rw [h', h]

theorem of_eq {t u : Thread} (h : u = t) : ButOperands t u := h ▸ refl t

end ButOperands

theorem butOperands_postReport (s : State) (n : ThreadNo) (kind : BitVec 4) (dm : DomNo) (w0 w1 : Word) :
    ButOperands s.cur (s.postReport n kind dm w0 w1).cur := by
  unfold State.postReport
  split
  · rfl
  · dsimp only
    split
    · split
      · unfold State.modThread
        split <;> rfl
      · rfl
    · unfold State.modThread
      split
      · dsimp only
        split_ifs <;> rfl
      · rfl

theorem butOperands_countEv (s : State) (e n : Nat) : ButOperands s.cur (s.countEv e n).cur := by
  unfold ButOperands
  rw [State.countEv, event_evcnt_only]

theorem butOperands_writeNow (s : State) (va : Word) (ps : List Nat) (v : Word) : ButOperands s.cur (s.writeNow va ps v).cur := by
  have stored := (accessed_storeBytes s s.source va.toNat ps (wordBytes v ps.length)).cur
  unfold State.writeNow
  dsimp only
  split
  · exact (ButOperands.of_eq stored).trans (butOperands_postReport ..)
  · exact .of_eq stored

theorem butOperands_storeChecked (s : State) (va v : Word) : ButOperands s.cur (s.storeChecked va v).cur := by
  unfold State.storeChecked
  split
  · exact butOperands_writeNow ..
  · rfl

/-- A push changes of its thread the words of a command port, and what its stores may report. -/
theorem butOperands_push (s : State) (p : Port) (v : Word) : ButOperands s.cur (s.push p v).cur := by
  unfold State.push
  split
  · rfl
  · split
    · split
      · exact (butOperands_storeChecked ..).trans (butOperands_storeChecked ..)
      · rfl
    · split
      · exact (show ButOperands s.cur (s.enterCopy (s.portCopy v)).cur from rfl).trans ((butOperands_countEv ..).trans rfl)
      · rfl

theorem butOperands_setX (s : State) (d : XReg) (v : Word) (t : Bool) : ButOperands s.cur (s.setX d v t).cur := by
  unfold State.setX
  split
  · rfl
  · exact butOperands_push ..

/-! ### Reads of registers and ports, entries of handles and descriptors (R24, R167, R311) -/

theorem butOperands_of_accessed {s u : State} (h : Accessed s u) : ButOperands s.cur u.cur := .of_eq h.cur

theorem butOperands_memoryErrorIf (s : State) (bad : Bool) (va : Word) :
    ButOperands s.cur (if bad then s.memoryError s.cur.num s.cur.dom va else s).cur := by
  split
  · exact butOperands_postReport ..
  · exact .refl _

theorem butOperands_takeEntry (s : State) (sp : Spot) : ButOperands s.cur (s.takeEntry sp).2.cur := by
  unfold State.takeEntry
  split
  · have met : ButOperands s.cur (s.meetEntry sp).1.cur := by
      show ButOperands s.cur (s.meet _).1.cur
      rw [meet_eq]
      exact .refl _
    exact met.trans ((butOperands_countEv _ 14 _).trans (butOperands_memoryErrorIf ..))
  · exact .refl _

theorem butOperands_readNow (s : State) (va : Word) (ps : List Nat) : ButOperands s.cur (s.readNow va ps).2.cur := by
  have read := butOperands_of_accessed (accessed_readBytes s s.source 0 va.toNat ps)
  rw [readNow_state]
  have reported := read.trans (butOperands_memoryErrorIf _ (s.readBytes s.source 0 va.toNat ps).2.1 va)
  dsimp only
  split
  · exact reported
  · exact reported.trans (butOperands_countEv ..)

theorem butOperands_checkedState (s : State) (kind : Acc1) (va : Word) (n : Nat) :
    ButOperands s.cur (checkedState s kind va n).cur := by
  rw [checked_checkedState s kind va n]
  exact rfl

/-- A relation of a state to one reached from it that every step of reading operands keeps. -/
structure KeptByReads (R : State → State → Prop) : Prop where
  refl : ∀ s, R s s
  trans : ∀ {s t u}, R s t → R t u → R s u
  takes : ∀ s sp, R s (s.takeEntry sp).2
  reads : ∀ s va ps, R s (s.readNow va ps).2
  checks : ∀ s kind va n, R s (checkedState s kind va n)
  pops : ∀ s l, R s { s with popped := l }

namespace KeptByReads

section
variable {R : State → State → Prop} (kept : KeptByReads R)
include kept

theorem popPort {P : State → Prop} {s : State} {p : Port} {k : Word → Word → State → Res}
    (h : ∀ v w u, R s u → DoneIn P (k v w u)) : DoneIn P (popPort s p k) := by
  intro u e
  unfold Machine.popPort at e
  split at e
  · dsimp only at e
    split at e
    · cases e
    · split at e
      · cases e
      · exact h _ _ _ (kept.takes ..) u e
  · split at e
    · refine doneIn_access (P := P) (fun ps u e => ?_) u e
      have ring := kept.trans (kept.checks s .read p.target 32) (kept.reads _ p.target ps)
      dsimp only at e
      split at e
      · cases e
      · refine doneIn_access (P := P) (fun _ => doneIn_access (P := P) fun _ => ?_) u e
        exact h _ _ _ (kept.trans (kept.trans (kept.trans ring (kept.checks ..)) (kept.checks ..)) (kept.reads ..))
    · split at e
      · cases e
      · exact h _ _ _ (kept.takes ..) u e

theorem of_reads {s s1 : State} {r : XReg} {v : Word} {t : Bool} (h : ReadsAs s r v t s1) : R s s1 := by
  have e := h fun _ _ u => .done u
  unfold useX at e
  split at e
  · cases e
  · split at e
    · cases e
      exact kept.refl s
    · split at e
      · cases e
      · split at e
        · cases e
          exact kept.refl s
        · refine kept.popPort (P := R s) (fun v w u hu x ex => ?_) s1 e
          cases ex
          exact kept.trans hu (kept.pops ..)

theorem of_readsTwo {s s2 : State} {a b : XReg} {x y : Word} {t : Bool} (h : ReadsTwo s a b x y t s2) : R s s2 := by
  obtain ⟨ta, tb, s1, ha, hb, -⟩ := h
  exact kept.trans (kept.of_reads ha) (kept.of_reads hb)

theorem of_findsEntry {s s1 : State} {h : Word} {kind : Nat} {e : HEntry} (finds : FindsEntry s h kind e s1) : R s s1 := by
  have found := finds fun _ u => .done u
  unfold useEntry physLoad at found
  dsimp only at found
  split_ifs at found
  cases found
  exact kept.reads ..

theorem of_describes {s s1 : State} {va : Word} {ws : List Word} (h : Describes s va ws s1) : R s s1 := by
  have described := h fun _ u => .done u
  unfold readDescriptor at described
  split at described
  · cases described
  · refine doneIn_access (P := R s) (fun ps u e => ?_) s1 described
    cases e
    exact kept.trans (kept.checks ..) (kept.reads ..)

end

end KeptByReads

namespace ButOperands

theorem keptByReads : KeptByReads fun s u => ButOperands s.cur u.cur :=
  ⟨fun _ => .refl _, .trans, butOperands_takeEntry, butOperands_readNow, butOperands_checkedState, fun _ _ => .refl _⟩

theorem num {t u : Thread} (h : ButOperands t u) : u.num = t.num := by rw [h]

theorem dom {t u : Thread} (h : ButOperands t u) : u.dom = t.dom := by rw [h]

end ButOperands

end Sys2Proof.Machine
end

section
/-! PROOF. Leases, agreement and shadow registers, the status word of a slot and reclaiming (R157, R161, R165, R166, R175, R176). -/

namespace Sys2Proof.Machine
open Sys2Proof.Safety

/-! ### The status word of a slot (R166) -/

/-- A bit for each of the four sub-arrays. -/
def subBits (p : BitVec 2 → Bool) : BitVec 4 := BitVec.ofNat 4 (bitsNat (allSubs.map p))

theorem subBits_toNat (p : BitVec 2 → Bool) : (subBits p).toNat = bitsNat (allSubs.map p) :=
  Nat.mod_eq_of_lt (bitsNat_lt (allSubs.map p))

theorem subBits_getLsbD (p : BitVec 2 → Bool) (q : BitVec 2) : (subBits p).getLsbD q.toNat = p q := by
  have digits : ∀ a b c d : Bool, ∀ i < 4,
      (BitVec.ofNat 4 (bitsNat [a, b, c, d])).getLsbD i = [a, b, c, d].getD i false := by decide
  have quarters : q = 0 ∨ q = 1 ∨ q = 2 ∨ q = 3 := by revert q; decide
  rw [subBits, allSubs, List.map, List.map, List.map, List.map, List.map, digits _ _ _ _ _ q.isLt]
  rcases quarters with rfl | rfl | rfl | rfl <;> rfl

/-- A bit at its place in a word that is given as a sum. -/
theorem ite_two_pow (b : Bool) (i : Nat) : (if b then 2 ^ i else 0) = 2 ^ i * (BitVec.ofBool b).toNat := by
  cases b <;> simp

/-- The slots of number `n` that a thread owns on a comb. -/
def Comb.own (k : Comb) (t : Thread) (n : BitVec 4) : List Acc := k.accs.filter fun a => a.n == n && a.mine t

/-- The lease that a thread holds, as the status word has it. -/
def Comb.leaseBits (k : Comb) (t : Thread) : BitVec 4 :=
  match k.grants.find? fun g => g.thread == t.num with
  | none => 0#4
  | some g => if g.whole then 2#4 else g.quarter ++ 1#2

/-- Slot `n` of each sub-array on a comb satisfies a condition. -/
def Comb.slotBits (k : Comb) (n : BitVec 4) (p : Acc → Bool) : BitVec 4 :=
  subBits fun q => k.accs.any fun a => a.sub == q && a.n == n && p a

theorem leaseBits_toNat (k : Comb) (t : Thread) : (k.leaseBits t).toNat = match k.grants.find? fun g => g.thread == t.num with
    | none => 0
    | some g => if g.whole then 2 else 1 + 4 * g.quarter.toNat := by
  unfold Comb.leaseBits
  split
  · rfl
  · split
    · rfl
    · next g _ _ =>
      have value : g.quarter.toNat * 2 ^ 2 + (1#2).toNat = 1 + 4 * g.quarter.toNat := by
        rw [BitVec.toNat_ofNat]
        omega
      exact (toNat_append_add ..).trans value

/-- R166: BERR and BCAUSE of a thread, as one number. -/
theorem berr_bits (l : List (ThreadNo × BitVec 3)) (n : ThreadNo) : ∃ c : BitVec 3,
    (match (l.find? fun b => b.1 == n).map Prod.snd with
      | none => 0
      | some c => 2 ^ 24 + 2 ^ 25 * c.toNat) = 2 ^ 24 * (BitVec.ofBool (l.any fun b => b.1 == n)).toNat + 2 ^ 25 * c.toNat := by
  have found : (l.any fun b => b.1 == n) = (l.find? fun b => b.1 == n).isSome := List.isSome_find?.symm
  rw [found]
  cases l.find? fun b => b.1 == n with
  | none => exact ⟨0, rfl⟩
  | some b => exact ⟨b.2, by simp⟩

theorem any_and_nonempty (l : List Acc) (p : Acc → Bool) : (l.any p && !l.isEmpty) = l.any p := by
  cases l <;> simp

/-- Fields side by side are a sum in which each stands at its place. -/
theorem fields_eq (active parked foreign lease : BitVec 4) (split i32 busy err csat berr : BitVec 1) (ecause bcause : BitVec 3) :
    BitVec.ofNat 64 (active.toNat + 2 ^ 4 * parked.toNat + 2 ^ 8 * foreign.toNat + 2 ^ 12 * split.toNat + 2 ^ 13 * i32.toNat +
      2 ^ 14 * busy.toNat + 2 ^ 15 * err.toNat + 2 ^ 16 * ecause.toNat + 2 ^ 19 * csat.toNat + 2 ^ 20 * lease.toNat +
      (2 ^ 24 * berr.toNat + 2 ^ 25 * bcause.toNat)) =
    0#36 ++ bcause ++ berr ++ lease ++ csat ++ ecause ++ err ++ busy ++ i32 ++ split ++ foreign ++ parked ++ active := by
  apply BitVec.eq_of_toNat_eq
  simp only [BitVec.toNat_ofNat, toNat_append_add]
  omega

/-- R166: the fields of the status word; BCAUSE, ECAUSE, CSAT and INFL are left open. -/
theorem statusWord_eq (s : State) (n : BitVec 4) :
    let t := s.cur
    let k := s.comb (combOf t.core)
    ∃ (bcause ecause : BitVec 3) (csat busy : BitVec 1), statusWord s n =
      0#36 ++ bcause ++ BitVec.ofBool (k.berr.any fun b => b.1 == t.num) ++ k.leaseBits t ++ csat ++ ecause ++
        BitVec.ofBool ((k.own t n).any Acc.err) ++ busy ++ BitVec.ofBool ((k.own t n).any fun a => a.i32 == some true) ++
        BitVec.ofBool ((k.own t n).any Acc.split) ++ k.slotBits n (fun a => !a.mine t) ++
        k.slotBits n (fun a => a.mine t && a.parked) ++ k.slotBits n (fun a => a.mine t && !a.parked) := by
  intro t k
  obtain ⟨bcause, berr⟩ := berr_bits k.berr t.num
  unfold statusWord
  dsimp only
  rw [← subBits_toNat, ← subBits_toNat, ← subBits_toNat, ite_two_pow, ite_two_pow, ite_two_pow, ite_two_pow, ite_two_pow,
    any_and_nonempty, any_and_nonempty, any_and_nonempty]
  exact ⟨bcause, _, _, _,
    (congrArg (BitVec.ofNat 64) (congrArg₂ (· + ·) (congrArg (_ + 2 ^ 20 * ·) (leaseBits_toNat k t).symm) berr)).trans (fields_eq ..)⟩

theorem mine_iff (a : Acc) (t : Thread) : a.mine t = true ↔ a.thread = t.num ∧ a.dom = t.dom := by
  simp [Acc.mine]

theorem slotBits_iff (k : Comb) (n : BitVec 4) (p : Acc → Bool) (q : BitVec 2) :
    (k.slotBits n p).getLsbD q.toNat = true ↔ ∃ a ∈ k.accs, a.n = n ∧ a.sub = q ∧ p a = true := by
  rw [Comb.slotBits, subBits_getLsbD]
  simp [and_comm, and_left_comm, and_assoc]

theorem own_any_iff (k : Comb) (t : Thread) (n : BitVec 4) (p : Acc → Bool) :
    (k.own t n).any p = true ↔ ∃ a ∈ k.accs, a.n = n ∧ a.thread = t.num ∧ a.dom = t.dom ∧ p a = true := by
  simp [Comb.own, mine_iff, and_assoc]

/-- R166: the bits of the status word. -/
theorem statusWord_bits (s : State) (n : BitVec 4) :
     let k := s.comb (combOf s.cur.core)
     let v := statusWord s n
     let own (p : Acc → Prop) : Prop := ∃ a ∈ k.accs, a.n = n ∧ a.thread = s.cur.num ∧ a.dom = s.cur.dom ∧ p a
     (∀ q : BitVec 2,
       (v.getLsbD q.toNat = true ↔ own fun a => a.sub = q ∧ a.parked = false) ∧
       (v.getLsbD (4 + q.toNat) = true ↔ own fun a => a.sub = q ∧ a.parked = true) ∧
       (v.getLsbD (8 + q.toNat) = true ↔
         ∃ a ∈ k.accs, a.n = n ∧ a.sub = q ∧ ¬(a.thread = s.cur.num ∧ a.dom = s.cur.dom))) ∧
     (v.getLsbD 12 = true ↔ own fun a => a.split = true) ∧ (v.getLsbD 13 = true ↔ own fun a => a.i32 = some true) ∧
     (v.getLsbD 15 = true ↔ own fun a => a.err = true) ∧
     v.extractLsb' 20 4 = k.leaseBits s.cur ∧
     (v.getLsbD 24 = true ↔ ∃ b ∈ k.berr, b.1 = s.cur.num) ∧ v.extractLsb' 28 36 = 0#36 := by
  intro k v own
  obtain ⟨bcause, ecause, csat, busy, fields⟩ := statusWord_eq s n
  have bit : ∀ i, v.getLsbD i = _ := fun i => congrArg (·.getLsbD i) fields
  simp only [BitVec.getLsbD_append] at bit
  refine ⟨fun q => ?_, ?_, ?_, ?_, ?_, ?_, ?_⟩
  · have small := q.isLt
    refine ⟨?_, ?_, ?_⟩
    · rw [bit, if_pos (by omega), slotBits_iff]
      simp [own, mine_iff, and_assoc, and_left_comm, k]
    · rw [bit, if_neg (by omega), if_pos (by omega), Nat.add_sub_cancel_left, slotBits_iff]
      simp [own, mine_iff, and_assoc, and_left_comm, k]
    · rw [bit, if_neg (by omega), if_neg (by omega), if_pos (by omega), show 8 + q.toNat - 4 - 4 = q.toNat by omega, slotBits_iff]
      simp only [Bool.not_eq_true', ← Bool.not_eq_true, mine_iff]
      exact Iff.rfl
  · rw [bit]
    simpa using own_any_iff k s.cur n Acc.split
  · rw [bit]
    simpa using own_any_iff k s.cur n fun a => a.i32 == some true
  · rw [bit]
    simpa using own_any_iff k s.cur n Acc.err
  · apply BitVec.eq_of_toNat_eq
    rw [BitVec.extractLsb'_toNat, Nat.shiftRight_eq_div_pow, show v = _ from fields]
    show _ = ((s.comb (combOf s.cur.core)).leaseBits s.cur).toNat
    simp only [toNat_append_add]
    omega
  · rw [bit]
    simp [k]
  · apply BitVec.eq_of_toNat_eq
    rw [BitVec.extractLsb'_toNat, Nat.shiftRight_eq_div_pow, show v = _ from fields]
    simp only [toNat_append_add, BitVec.toNat_ofNat]
    omega

/-! ### Leases (R157, R161) -/

theorem grant_word (g : Grant) : g.word = if g.whole then 2 else 1 + 4 * g.quarter.setWidth 64 := by
  have quarters : ∀ q : BitVec 2, (q.setWidth 64 <<< 2 ||| 1 : Word) = 1 + 4 * q.setWidth 64 := by decide
  rw [Grant.word, quarters]

/-- R157: the intent is the thread's, and its grant has been taken. -/
def State.leased (s : State) (e : BitVec 2) (p : BitVec 3) : State :=
  { s with cur := { s.cur with intent := some (e == 0, p), granted := false } }

/-- R161: the intent is given up with its requests and its grant. -/
def State.unleased (s : State) : State :=
  let s1 := s.dropLease s.cur.num
  { s1 with cur := { s1.cur with intent := none } }

section
variable {s : State} {g : KReg} (hg : GuardOn s g)
include hg

section
variable {d : XReg} (hf : PortsFit s [] [d]) (e : BitVec 2) (p : BitVec 3)
include hf

theorem mlease_holds (has : s.cur.intent.isSome = true) : Gives (.mlease g d e p) s s d 3 false := by
  intro s3 takes
  show execMlease g d e p s = _
  rw [execMlease, guarded_active hg, legal_fit hf]
  simp only [has, if_true, putX_takes takes, finish_done]

theorem mlease_asks (none_ : s.cur.intent = none) (ungranted : s.cur.granted = false) :
    exec (.mlease g d e p) s = .next ((s.requestLease (e == 0) p).parked .lease) := by
  show execMlease g d e p s = _
  rw [execMlease, guarded_active hg, legal_fit hf]
  simp only [none_, ungranted, Option.isSome_none, Bool.false_eq_true, if_false, finish_park]
  rfl

theorem mlease_takes {gr : Grant} {s1 : State} (none_ : s.cur.intent = none) (granted : s.cur.granted = true)
    (holds : (s.comb (combOf s.cur.core)).grantOf s.cur.num = some gr) (takes : Takes s d gr.word s1) :
    Retires (.mlease g d e p) s ((s1.leased e p).setX d gr.word false) := by
  show execMlease g d e p s = _
  rw [execMlease, guarded_active hg, legal_fit hf]
  simp only [none_, granted, holds, Option.isSome_none, Bool.false_eq_true, if_false, if_true, takes _, finish_done]
  rfl

end

theorem mfree_nothing (none_ : s.cur.intent = none) : Retires (.mfree g) s s := by
  show execMfree g s = _
  rw [execMfree, guarded_active hg, none_]
  rfl

theorem mfree_drops (has : s.cur.intent.isSome = true) : Retires (.mfree g) s s.unleased := by
  show execMfree g s = _
  have some_ : s.cur.intent ≠ none := Option.isSome_iff_ne_none.mp has
  rw [execMfree, guarded_active hg, if_neg (by simpa using some_), finish_done]
  rfl

end

theorem unleased_combs (s : State) {c : Comb} (hc : c ∈ s.unleased.combs) : (∀ r ∈ c.requests, r.thread ≠ s.cur.num) ∧
    ∀ gr ∈ c.grants, gr.thread = s.cur.num → gr.ending = true ∧ ∃ o ∈ c.queue, o.thread = s.cur.num := by
  obtain ⟨k, -, rfl⟩ := List.mem_map.mp hc
  refine ⟨fun r hr => by simpa using (List.mem_filter.mp hr).2, fun gr hgr own => ?_⟩
  dsimp only at hgr
  split at hgr
  · next idle => exact absurd own (by simpa using (List.mem_filter.mp hgr).2)
  · next busy =>
    obtain ⟨old, -, rfl⟩ := List.mem_map.mp hgr
    have queued : ∃ o ∈ k.queue, o.thread = s.cur.num := by simpa [Comb.tilesOf, List.isEmpty_iff, List.filter_eq_nil_iff] using busy
    refine ⟨?_, queued⟩
    by_cases mine : old.thread == s.cur.num
    · rw [if_pos mine]
    · rw [if_neg mine] at own
      exact absurd (beq_iff_eq.mpr own) mine

/-! ### Agreement and shadow registers (R175, R176) -/

section
variable {s s1 : State} {g : KReg} {a : XReg} {v : Word} {t : Bool} (hg : GuardOn s g) (hf : PortsFit s [a] [])
  (hr : ReadsAs s a v t s1)
include hg hf hr

theorem magr_sets (r : BitVec 3) : Retires (.magr g a r) s { s1 with cur := match r.toNat with
    | 0 => { s1.cur with agv := limitAgv (v.extractLsb' 0 32) }
    | 1 => { s1.cur with agc := v.extractLsb' 0 16 }
    | _ => { s1.cur with cen := v.getLsbD 0 } } := by
  show execMagr g a r s = _
  rw [execMagr, guarded_active hg, legal_fit hf]
  exact congrArg (finish s) (hr _)

theorem mfmt_sets (r : BitVec 3) : Retires (.mfmt g a r) s { s1 with cur := match r.toNat with
    | 0 => { s1.cur with fmtA := v.extractLsb' 0 4 }
    | 1 => { s1.cur with fmtB := v.extractLsb' 0 4 }
    | 2 => { s1.cur with scA := v }
    | 3 => { s1.cur with scB := v }
    | _ => { s1.cur with scC := v } } := by
  show execMfmt g a r s = _
  rw [execMfmt, guarded_active hg, legal_fit hf]
  exact congrArg (finish s) (hr _)

end

/-! ### Slot status and reclaiming (R165, R166) -/

theorem clearBerr_comb (s : State) : s.clearBerr.comb (combOf s.cur.core) =
    { s.comb (combOf s.cur.core) with berr := (s.comb (combOf s.cur.core)).berr.filter fun b => b.1 != s.cur.num } :=
  comb_setComb_of _ _ _ (comb_num ..)

theorem clearBerr_accs (s : State) : (s.clearBerr.comb (combOf s.cur.core)).accs = (s.comb (combOf s.cur.core)).accs := by
  rw [clearBerr_comb]

/-- R165: the thread in hand has its parked copies of slot `n` active again. -/
def State.reclaimed (s : State) (n : BitVec 4) : State := s.setComb (reclaim s.cur n (s.comb (combOf s.cur.core)))

theorem reclaimed_comb (s : State) (n : BitVec 4) : (s.reclaimed n).comb (combOf s.cur.core) =
    reclaim s.cur n (s.comb (combOf s.cur.core)) :=
  comb_setComb_of _ _ _ (comb_num ..)

theorem reclaim_length (t : Thread) (n : BitVec 4) (k : Comb) : (reclaim t n k).accs.length = k.accs.length := List.length_map ..

/-- A copy of slot `n` that is the thread's after reclaiming is active: it was, or was taken back. -/
theorem reclaim_active {t : Thread} {n : BitVec 4} {k : Comb} {a : Acc} (ha : a ∈ (reclaim t n k).accs) (slot : a.n = n)
    (own : a.mine t = true) : a.parked = false := by
  obtain ⟨old, -, rfl⟩ := List.mem_map.mp ha
  split at slot
  · next hit => rw [if_pos hit]
  · next miss =>
    rw [if_neg miss] at own ⊢
    simpa [own, slot] using miss

section
variable {s s1 : State} {g : KReg} {d : XReg} {n : BitVec 4} (hg : GuardOn s g) (hf : PortsFit s [] [d])
include hg hf

theorem mstat_writes (takes : Takes s d (statusWord s n) s1) :
    Retires (.mstat g d n) s (s1.clearBerr.setX d (statusWord s n) false) := by
  show execMstat g d n s = _
  rw [execMstat, guarded_active hg, legal_fit hf]
  dsimp only
  rw [takes, finish_done]

theorem mreclaim_writes (idle : (s.comb (combOf s.cur.core)).busy allSubs n = false)
    (idle' : (s.comb (combOf s.cur.core)).busy allSubs (n ^^^ 1) = false)
    (takes : Takes (s.reclaimed n) d (statusWord (s.reclaimed n) n) s1) :
    Retires (.mreclaim g d n) s (s1.clearBerr.setX d (statusWord (s.reclaimed n) n) false) := by
  show execMreclaim g d n s = _
  rw [execMreclaim, guarded_active hg, legal_fit hf]
  dsimp only
  have free : ∀ b, ((s.comb (combOf s.cur.core)).busy allSubs n ||
      (s.comb (combOf s.cur.core)).busy allSubs (n ^^^ 1#4) && b) = false := by
    intro b
    rw [idle, show n ^^^ 1#4 = n ^^^ 1 from rfl, idle']
    rfl
  rw [free, if_neg Bool.false_ne_true]
  exact congrArg (finish s) (takes _)

end

/-- Where no register is a port, a status word goes to its register, and BERR of the thread is gone. -/
theorem clearBerr_setX_plain {s : State} (free : Unbound s.cur) (d : XReg) (v : Word) :
    let u := s.clearBerr.setX d v false
    u.cur.reg d = v ∧ u.cur.tainted d = false ∧ (∀ q, q ≠ d → u.cur.reg q = s.cur.reg q) ∧ u.mem = s.mem ∧
      u.comb (combOf s.cur.core) = s.clearBerr.comb (combOf s.cur.core) := by
  intro u
  have plain : u = { s.clearBerr with cur := s.cur.setReg d v false } := setX_plain v false (free.1 d)
  rw [plain]
  exact ⟨setReg_reg .., setReg_untainted .., fun q other => setReg_reg_ne _ _ _ _ _ other, rfl, rfl⟩

theorem clearBerr_none {s : State} {b : ThreadNo × BitVec 3} (hb : b ∈ (s.clearBerr.comb (combOf s.cur.core)).berr) :
    b.1 ≠ s.cur.num := by
  rw [clearBerr_comb] at hb
  simpa using (List.mem_filter.mp hb).2

/-- R157: what the word leaves when it takes the grant. -/
theorem leased_setX (s : State) (d : XReg) (v : Word) (e : BitVec 2) (p : BitVec 3) :
    let u := (s.leased e p).setX d v false
    u.cur.intent = some (e == 0, p) ∧ u.cur.granted = false ∧
      (s.cur.port? d = none → u.cur.reg d = v ∧ u.mem = s.mem ∧ u.combs = s.combs) := by
  intro u
  have kept : ButOperands (s.leased e p).cur u.cur := butOperands_setX ..
  refine ⟨by rw [kept]; rfl, by rw [kept]; rfl, fun free => ?_⟩
  rw [show u = _ from setX_plain (s := s.leased e p) v false free]
  exact ⟨setReg_reg .., rfl, rfl⟩

/-- Settles O27: leases, then agreement and shadow registers, slot status and reclaiming, the bits of the status word, and
samples of the limits of agv. -/
theorem matrixRegisterWords : Obligations.MatrixRegisterWords := by
  unfold Obligations.MatrixRegisterWords
  refine ⟨fun s g hg => ⟨fun d e p hf => ⟨mlease_holds hg hf e p, mlease_asks hg hf e p, ?_⟩,
      mfree_nothing hg, fun has => ⟨_, mfree_drops hg has, rfl, rfl, rfl, rfl, fun c hc => unleased_combs s hc⟩⟩,
    fun s s1 g a v t hg hf hr => ⟨magr_sets hg hf hr 0, magr_sets hg hf hr 1, magr_sets hg hf hr 2, mfmt_sets hg hf hr 0,
      mfmt_sets hg hf hr 1, mfmt_sets hg hf hr 2, mfmt_sets hg hf hr 3, mfmt_sets hg hf hr 4⟩,
    fun s s1 g d n hg hf => ⟨mstat_writes hg hf, mreclaim_writes hg hf, fun rd cur => ⟨?_, fun idle idle' => ?_⟩⟩,
    statusWord_bits, by decide +kernel⟩
  · intro gr s1 none_ granted holds v takes
    have word : v = gr.word := (grant_word gr).symm
    rw [word] at takes ⊢
    exact ⟨_, mlease_takes hg hf e p none_ granted holds takes, leased_setX ..⟩
  · obtain ⟨reg, clean, others, mem, comb⟩ := clearBerr_setX_plain cur d (statusWord s n)
    refine ⟨_, mstat_writes hg hf (takes_unbound rd d _), reg, clean, others, mem, ?_⟩
    rw [comb]
    exact ⟨clearBerr_accs s, fun b => clearBerr_none⟩
  · have takes := takes_unbound (s := s.reclaimed n) rd d (statusWord (s.reclaimed n) n)
    obtain ⟨reg, -, others, mem, comb⟩ := clearBerr_setX_plain (s := s.reclaimed n) cur d (statusWord (s.reclaimed n) n)
    have accs := ((congrArg Comb.accs comb).trans (clearBerr_accs _)).trans (congrArg Comb.accs (reclaimed_comb s n))
    refine ⟨_, mreclaim_writes hg hf idle idle' takes, reg, others, mem, ?_, fun a ha slot thread dom => ?_⟩
    · exact (congrArg List.length accs).trans (reclaim_length ..)
    · exact reclaim_active (accs ▸ ha) slot ((mine_iff a s.cur).mpr ⟨thread, dom⟩)

end Sys2Proof.Machine
end

section
/-! PROOF. Tile words: the checks of their issue pass and the operation enters the comb's queue (R163, R167, R172 to R174). -/

namespace Sys2Proof.Machine
open Sys2Proof.Safety

/-! ### A tile operation enters the queue (R167, R168) -/

/-- A change of accumulators leaves the comb's number and its queue. -/
def SameQueue (k k' : Comb) : Prop := k'.num = k.num ∧ k'.queue = k.queue

theorem sameQueue_foldl {β : Type} {f : Comb → β → Comb} (hf : ∀ k b, SameQueue k (f k b)) (l : List β) (k : Comb) :
    SameQueue k (l.foldl f k) :=
  List.foldlRecOn l f ⟨rfl, rfl⟩ fun _ kept b _ => ⟨(hf _ b).1.trans kept.1, (hf _ b).2.trans kept.2⟩

theorem enqueueTile_cur (s : State) (o : TileOp) : (s.enqueueTile o).cur =
    { s.cur with evcnt := (s.enqueueTile o).cur.evcnt, tlo := s.cur.tlo + 1 } := by
  simp only [State.enqueueTile, State.countEv]
  rw [event_evcnt_only]
  rfl

theorem enqueueTile_mem (s : State) (o : TileOp) : (s.enqueueTile o).mem = s.mem := rfl

theorem enqueueTile_queue (s : State) (o : TileOp) : ((s.enqueueTile o).comb (combOf s.cur.core)).queue =
    (s.comb (combOf s.cur.core)).queue ++ [{ o with num := s.stamp }] := by
  refine congrArg Comb.queue (comb_setComb_of s _ _ ?_)
  exact comb_num ..

theorem setComb_queue {s : State} {k : Comb} (kept : SameQueue (s.comb (combOf s.cur.core)) k) :
    ((s.setComb k).comb (combOf s.cur.core)).queue = (s.comb (combOf s.cur.core)).queue :=
  (congrArg Comb.queue (comb_setComb_of s k _ (kept.1.trans (comb_num ..)))).trans kept.2

/-- A tile operation of the thread in hand that enters; some slots of its comb may have changed before. -/
theorem queued_enqueueTile {s u : State} {o : TileOp} (cur : u.cur = s.cur)
    (queue : (u.comb (combOf s.cur.core)).queue = (s.comb (combOf s.cur.core)).queue)
    (thread : o.thread = s.cur.num) (dom : o.dom = s.cur.dom) : Queued s (u.enqueueTile o) { o with num := u.stamp } := by
  refine ⟨?_, ?_, thread, dom⟩
  · rw [← queue, ← cur]
    exact enqueueTile_queue u o
  · rw [enqueueTile_cur, ← cur]

theorem enqueueTile_x (s : State) (o : TileOp) : (s.enqueueTile o).cur.x = s.cur.x := by
  rw [enqueueTile_cur]

theorem claim_queue (s : State) (subs : List (BitVec 2)) (ns : List (BitVec 4)) (split : Bool) (i32 : Option Bool) :
    ((s.claim subs ns split i32).comb (combOf s.cur.core)).queue = (s.comb (combOf s.cur.core)).queue := by
  refine setComb_queue (sameQueue_foldl (fun k q => sameQueue_foldl (fun k n => ?_) ns k) subs _)
  split
  · exact ⟨rfl, rfl⟩
  · split
    · exact ⟨rfl, rfl⟩
    · exact ⟨rfl, rfl⟩

/-- R167: the operands of a tile word are read, and its thread has the grant. -/
theorem tileWord_reads {s s1 : State} {a b : XReg} {x y : Word} {t wordOk fused : Bool} {n : BitVec 4} {gr : Grant}
    (hf : PortsFit s [a, b] []) (hr : ReadsTwo s a b x y t s1) (may : TileMay s wordOk fused n gr)
    (k : Grant → Word → Word → State → Res) : tileWord s a b wordOk fused n k = k gr x y s1 := by
  unfold tileWord
  rw [legal_fit hf, useXX_reads hr]
  dsimp only
  rw [may, useXX_reads hr]

/-- R163, R172: a slot that `mzero` names, which keeps its owner's copy where that has the kind, and is new otherwise. -/
def Comb.zeroedSlot (t : Thread) (split : Bool) (q : BitVec 2) (k : Comb) (n : BitVec 4) : Comb :=
  match k.acc? q n with
  | some a => if a.split = split then k.putAcc { a with i32 := none } else k.putAcc (newAcc t q n split none)
  | none => k.putAcc (newAcc t q n split none)

/-- The slots that `mzero` names in a sub-array, after the other half of a split pair has gone. -/
def Comb.zeroedIn (t : Thread) (d : BitVec 4) (split : Bool) (k : Comb) (q : BitVec 2) : Comb :=
  (opSlots d split).foldl (Comb.zeroedSlot t split q)
    (if !split && (k.acc? q d).any Acc.split then k.freeAcc q (d ^^^ 1#4) else k)

theorem sameQueue_zeroedSlot (t : Thread) (split : Bool) (q : BitVec 2) (k : Comb) (n : BitVec 4) :
    SameQueue k (k.zeroedSlot t split q n) := by
  unfold Comb.zeroedSlot
  split
  · split <;> exact ⟨rfl, rfl⟩
  · exact ⟨rfl, rfl⟩

theorem sameQueue_zeroedIn (t : Thread) (d : BitVec 4) (split : Bool) (k : Comb) (q : BitVec 2) :
    SameQueue k (k.zeroedIn t d split q) := by
  unfold Comb.zeroedIn
  split
  · exact sameQueue_foldl (sameQueue_zeroedSlot t split q) _ (k.freeAcc q (d ^^^ 1#4))
  · exact sameQueue_foldl (sameQueue_zeroedSlot t split q) _ k

/-- R163: the slots of `subs` that `mzero` names have its kind. -/
def State.zeroed (s : State) (d : BitVec 4) (split : Bool) (subs : List (BitVec 2)) : State :=
  s.setComb (subs.foldl (Comb.zeroedIn s.cur d split) (s.comb (combOf s.cur.core)))

theorem zeroed_queue (s : State) (d : BitVec 4) (split : Bool) (subs : List (BitVec 2)) :
    ((s.zeroed d split subs).comb (combOf s.cur.core)).queue = (s.comb (combOf s.cur.core)).queue :=
  setComb_queue (sameQueue_foldl (sameQueue_zeroedIn s.cur d split) subs _)

section
variable {s : State} {g : KReg} {d : BitVec 4} {sh : BitVec 3} {gr : Grant} (hg : GuardOn s g)
include hg

theorem mzero_retires {x : BitVec 1}
    (may : TileMay s (shapeOk sh && !(x == 1#1 && d.getLsbD 0) && splitAllowed s (x == 1#1)) (sh != 0#3) d gr)
    (pass : SlotsPass s (shapeSubs sh gr) (opSlots d (x == 1#1)))
    (idle : ((s.comb (combOf s.cur.core)).busy (shapeSubs sh gr) d = false ∧
        (s.comb (combOf s.cur.core)).busy (shapeSubs sh gr) (d ^^^ 1#4) = false) ∨
      ∀ q n a, (s.comb (combOf s.cur.core)).acc? q n = some a → a.thread = s.cur.num → a.dom = s.cur.dom → a.split = (x == 1#1)) :
    Retires (.mzero g d sh x) s ((s.zeroed d (x == 1#1) (shapeSubs sh gr)).enqueueTile
      (s.tileOp (.mzero g d sh x) (shapeSubs sh gr) none none 0 0)) := by
  show execMzero g d sh x s = _
  rw [execMzero, guarded_active hg, may]
  dsimp only
  rw [pass, if_neg ?waits]
  · exact finish_done s _
  case waits =>
    rw [Bool.and_eq_true]
    rintro ⟨changes, busy⟩
    rcases idle with ⟨free, free'⟩ | kinds
    · rw [free, free'] at busy
      exact Bool.false_ne_true busy
    · simp only [List.any_eq_true] at changes
      obtain ⟨q, -, n, -, change⟩ := changes
      split at change
      · exact Bool.false_ne_true change
      · next a found =>
        simp only [Bool.and_eq_true, bne_iff_ne] at change
        obtain ⟨⟨mine, other⟩, -⟩ := change
        obtain ⟨thread, dom⟩ := (mine_iff a s.cur).mp mine
        exact other (kinds q n a found thread dom)

end

section
variable {s s1 : State} {g : KReg} {d : BitVec 4} {a b : XReg} {sh : BitVec 3} {t : Bool} {gr : Grant} {ha y : Word}
  (hg : GuardOn s g) (hf : PortsFit s [a, b] []) (hr : ReadsTwo s a b ha y t s1)
include hg hf hr

/-- R167, R173: `mma` and `mmas` pass their checks and enter the queue. -/
theorem multiply_retires {s2 s3 s4 s5 : State} {split : Bool} {ea eb : HEntry} {wa wb : List Word} {ta tb : Tensor}
    (may : TileMay s (shapeOk sh && !(split && d.getLsbD 0) && splitAllowed s split) (sh != 0#3) d gr)
    (entryA : FindsEntry s1 ha 1 ea s2) (entryB : FindsEntry s2 y 1 eb s3)
    (descA : Describes s3 ea.addr wa s4) (descB : Describes s4 eb.addr wb s5)
    (tensorA : tensorFor s .a (ha.extractLsb' 0 32) wa = some ta) (tensorB : tensorFor s .b (y.extractLsb' 0 32) wb = some tb)
    (fits : multiplyFits ta tb sh split = true)
    (tags : ∀ q ∈ shapeSubs sh gr, ∀ n < 16, (s5.comb (combOf s5.cur.core)).tagFor (16 * q.toNat + n) = s5.cur.dom)
    (pass : SlotsPass s5 (shapeSubs sh gr) (opSlots d split))
    (types : (s5.comb (combOf s5.cur.core)).slotsAre (shapeSubs sh gr) (opSlots d split)
      (fun z => z.split == split && (z.i32.isNone || z.i32 == some (family ta.fmt == 2))) = true) (i : Instr) :
    multiply s g d a b sh 0 split i = .next (State.retire (((s5.claim (shapeSubs sh gr) (opSlots d split) split
      (some (family ta.fmt == 2))).enqueueTile (s.tileOp i (shapeSubs sh gr) (some ta) (some tb) 0 0)).inFlight) none) := by
  have own : ((shapeSubs sh gr).find? fun q => (List.range 16).any fun n =>
      (s5.comb (combOf s5.cur.core)).tagFor (16 * q.toNat + n) != s5.cur.dom) = none := by
    simp only [List.find?_eq_none, List.any_eq_true, List.mem_range, bne_iff_ne]
    rintro q hq ⟨n, small, foreign⟩
    exact foreign (tags q hq n small)
  have word : TileMay s (shapeOk sh && (0 : BitVec 2) == 0#2 && !(split && d.getLsbD 0) && splitAllowed s split) (sh != 0#3) d gr := by
    rw [show ((0 : BitVec 2) == 0#2) = true from rfl, Bool.and_true]
    exact may
  rw [multiply, guarded_active hg, tileWord_reads hf hr word, entryA, entryB, descA, descB, tensorA, tensorB]
  dsimp only
  rw [fits, own, pass, types]
  exact finish_done s _

/-- R167, R174: `mdrain` passes its checks and enters the queue. -/
theorem mdrain_retires {s2 s3 : State} {m c : BitVec 2} {x : BitVec 1} {ea : HEntry} {wa : List Word} {ta : Tensor}
    {whole : List (BitVec 2)}
    (may : TileMay s (shapeOk sh && !(x == 1#1 && d.getLsbD 0) && (x == 1#1 || m == 0#2) && splitAllowed s (x == 1#1))
      (sh != 0#3) d gr)
    (entry : FindsEntry s1 ha 1 ea s2) (desc : Describes s2 ea.addr wa s3)
    (tensor : tensorFor s .dest (ha.extractLsb' 0 32) wa = some ta) (fits : drainFits ta sh (x == 1#1 && m == 0#2) = true)
    (pass : SlotsPass s3 (shapeSubs sh gr) (opSlots d (x == 1#1)))
    (kinds : (s3.comb (combOf s3.cur.core)).slotsAre (shapeSubs sh gr) (opSlots d (x == 1#1)) (fun z => z.split == (x == 1#1)) = true)
    (i32 : ((shapeSubs sh gr).filter fun q => !((s3.comb (combOf s3.cur.core)).slotsAre [q] (opSlots d (x == 1#1))
      fun z => z.i32 != some true)) = whole)
    (unconverted : whole ≠ [] → c = 0#2) :
    Retires (.mdrain g d a b m c x sh) s (s3.enqueueTile
      { s.tileOp (.mdrain g d a b m c x sh) (shapeSubs sh gr) (some ta) none 0 y with i32 := whole }).inFlight := by
  have converts : (!whole.isEmpty && c != 0#2) = false := by
    cases whole with
    | nil => rfl
    | cons q r => rw [unconverted (List.cons_ne_nil q r)]; rfl
  show execMdrain g d a b m c x sh s = _
  rw [execMdrain, guarded_active hg, tileWord_reads hf hr may, entry, desc, tensor]
  dsimp only
  rw [fits, pass, kinds, i32, converts]
  exact finish_done s _

/-- The sub-arrays that an `mbload` counts as: those whose slices it writes, or all that it may write where it writes none. -/
def loadSubs (pat : Word) (z : Tensor) (subs : List (BitVec 2)) : List (BitVec 2) :=
  let p := pattern pat
  let used := subs.filter fun q => (List.range (min (loadBlocks z p) p.cyc)).any fun i =>
    (p.first + p.stride * (i % p.cyc)) % 64 / 16 == q.toNat
  if used.isEmpty then subs else used

theorem mbload_retires {s2 s3 : State} {ea : HEntry} {wa : List Word} {ta : Tensor} (may : TileMay s true false 0 gr)
    (entry : FindsEntry s1 ha 1 ea s2) (desc : Describes s2 ea.addr wa s3)
    (tensor : tensorFor s .source (ha.extractLsb' 0 32) wa = some ta) (dense : ta.sp = false) (short : loadBytes ta < 2 ^ 48)
    (fits : loadFits y (loadBytes ta) (if gr.whole then allSubs else [gr.quarter]) = true) :
    Retires (.mbload g a b) s (s3.enqueueTile (s.tileOp (.mbload g a b)
      (loadSubs y ta (if gr.whole then allSubs else [gr.quarter])) (some ta) none y 0)).inFlight := by
  show execMbload g a b s = _
  rw [execMbload, guarded_active hg, tileWord_reads hf hr may, entry, desc, tensor]
  dsimp only
  rw [dense, decide_eq_false (Nat.not_le.mpr short), fits]
  exact finish_done s _

end

theorem exec_multiply (s : State) (g : KReg) (d : BitVec 4) (a b : XReg) (sh : BitVec 3) (split : Bool) :
    let i : Instr := if split then .mmas g d a b sh 0 else .mma g d a b sh 0
    exec i s = multiply s g d a b sh 0 split i := by
  cases split <;> rfl

theorem mem_loadSubs {pat : Word} {z : Tensor} {subs : List (BitVec 2)} {q : BitVec 2} (hq : q ∈ loadSubs pat z subs) :
    q ∈ subs := by
  unfold loadSubs at hq
  dsimp only at hq
  split at hq
  · exact hq
  · exact (List.mem_filter.mp hq).1

/-- Settles O28: `mzero`, then `mma` and `mmas`, `mbload` and `mdrain`. Each retires with its operation in the queue; that this is
the thread's in hand uses that reading the operands leaves number and domain of the thread. -/
theorem tileWords : Obligations.TileWords := by
  unfold Obligations.TileWords
  have reads := ButOperands.keptByReads
  refine ⟨⟨fun s g d sh x gr => ?_, fun s s1 s2 s3 s4 s5 g d a b sh split t gr ha hb ea eb wa wb ta tb => ?_⟩,
    fun s s1 s2 s3 g a b t gr ha pat ea wa ta => ?_, fun s s1 s2 s3 g d a b m c x sh t gr ha rnd ea wa ta => ?_⟩
  · intro split subs c hg may pass idle
    exact ⟨_, _, mzero_retires hg may pass idle, queued_enqueueTile rfl (zeroed_queue ..) rfl rfl, rfl, rfl, rfl, enqueueTile_x ..⟩
  · intro i subs c i32 hg hf hr may entryA entryB descA descB tensorA tensorB fits tags pass types
    have same : ButOperands s.cur s5.cur := reads.trans (reads.of_readsTwo hr) (reads.trans (reads.of_findsEntry entryA)
      (reads.trans (reads.of_findsEntry entryB) (reads.trans (reads.of_describes descA) (reads.of_describes descB))))
    have run := multiply_retires hg hf hr may entryA entryB descA descB tensorA tensorB fits tags pass types i
    exact ⟨_, _, (exec_multiply s g d a b sh split).trans run,
      queued_enqueueTile rfl (claim_queue ..) same.num.symm same.dom.symm, rfl, rfl, rfl, rfl, rfl, rfl, rfl, enqueueTile_x .., rfl⟩
  · intro subs hg hf hr may entry desc tensor dense short fits
    have same : ButOperands s.cur s3.cur :=
      reads.trans (reads.of_readsTwo hr) (reads.trans (reads.of_findsEntry entry) (reads.of_describes desc))
    exact ⟨_, _, mbload_retires hg hf hr may entry desc tensor dense short fits,
      queued_enqueueTile rfl rfl same.num.symm same.dom.symm, rfl, rfl, rfl, fun q => mem_loadSubs, rfl, enqueueTile_x .., rfl⟩
  · intro split subs k whole hg hf hr may entry desc tensor fits pass kinds unconverted
    have same : ButOperands s.cur s3.cur :=
      reads.trans (reads.of_readsTwo hr) (reads.trans (reads.of_findsEntry entry) (reads.of_describes desc))
    exact ⟨_, _, mdrain_retires hg hf hr may entry desc tensor fits pass kinds rfl unconverted,
      queued_enqueueTile rfl rfl same.num.symm same.dom.symm, rfl, rfl, rfl, rfl, rfl, rfl, enqueueTile_x .., rfl⟩

end Sys2Proof.Machine
end

section
/-! PROOF. Port words (R190 to R192): what binding and releasing a port leaves, and the obligation about them. -/

namespace Sys2Proof.Machine
open Sys2Proof.Safety

/-! ### Bound registers (R23, R190) -/

/-- Binding x(d) changes that register's port alone. -/
theorem bind_port? (s : State) {d : XReg} (low : 8 ≤ d.toNat) (high : d.toNat < 14) (p : Port) (r : XReg) :
    (s.bind d p).cur.port? r = if r = d then if p.bound then some p else none else s.cur.port? r := by
  unfold Thread.port?
  rcases eq_or_ne r d with rfl | other
  · have place : r.toNat - 8 + 8 = r.toNat := by omega
    simp [State.bind, low, high, place, show r.toNat - 8 < 6 by omega]
  · have differs : r.toNat ≠ d.toNat := fun e => other (BitVec.eq_of_toNat_eq e)
    by_cases range : 8 ≤ r.toNat ∧ r.toNat < 14
    · simp [State.bind, other, differs, range, show r.toNat - 8 < 6 by omega]
    · simp [other, range]

/-- A register that is bound is one of x8 to x13 (R23), and its port is marked so. -/
theorem bound_of_port? {t : Thread} {r : XReg} {p : Port} (h : t.port? r = some p) :
    8 ≤ r.toNat ∧ r.toNat < 14 ∧ p.bound = true := by
  unfold Thread.port? at h
  split at h
  · next range =>
    dsimp only at h
    split at h
    · next bound =>
      cases h
      exact ⟨range.1, range.2, bound⟩
    · cases h
  · cases h

/-! ### Slot queues (R191) -/

/-- A slot queue of the current core. -/
def State.slotQueue (s : State) (c : CoreNo) (i : Nat) : SlotQueue := (s.core c).queues.toList.getD i {}

/-- The end of a slot queue that a thread holds: that for pushes, or that for pops. -/
def SlotQueue.holder (q : SlotQueue) (push : Bool) : Option ThreadNo := if push then q.pusher else q.popper

/-- A slot queue one end of which a thread has taken. -/
def SlotQueue.taken (q : SlotQueue) (push : Bool) (n : ThreadNo) : SlotQueue :=
  if push then { q with pusher := some n } else { q with popper := some n }

/-- The thread in hand takes an end of a slot queue. -/
def State.takeQueue (s : State) (i : Nat) (push : Bool) : State :=
  let takes (j : Nat) (q : SlotQueue) : SlotQueue := if j = i then q.taken push s.cur.num else q
  s.setCore { s.core s.cur.core with queues := (s.core s.cur.core).queues.mapIdx takes }

theorem takeQueue_slotQueue (s : State) {i : Nat} (hi : i < 8) (push : Bool) :
    (s.takeQueue i push).slotQueue s.cur.core i = (s.slotQueue s.cur.core i).taken push s.cur.num := by
  rw [State.slotQueue, State.takeQueue, core_setCore_of _ _ _ (by exact core_num ..)]
  simp [State.slotQueue, hi]

theorem taken_holder (q : SlotQueue) (push : Bool) (n : ThreadNo) : (q.taken push n).holder push = some n := by
  cases push <;> rfl

theorem taken_elems (q : SlotQueue) (push : Bool) (n : ThreadNo) : (q.taken push n).elems = q.elems := by
  cases push <;> rfl

/-! ### Releasing (R190 to R192) -/

/-- `u` is `s` after some ports of the thread in hand have been released: of the thread its results and the words of a command
port alone may differ, and memory stands. -/
def PortsReleased (s u : State) : Prop :=
  u.mem = s.mem ∧ u.cur = { s.cur with result := u.cur.result, cmdWords := u.cur.cmdWords }

theorem PortsReleased.refl (s : State) : PortsReleased s s := ⟨rfl, rfl⟩

theorem PortsReleased.trans {s t u : State} (h : PortsReleased s t) (h' : PortsReleased t u) : PortsReleased s u :=
  ⟨h'.1.trans h.1, by rw [h'.2, h.2]⟩

theorem modThread_released (s : State) (n : ThreadNo) {f : Thread → Thread}
    (hf : ∀ t : Thread, f t = { t with result := (f t).result, cmdWords := (f t).cmdWords }) : PortsReleased s (s.modThread n f) := by
  refine ⟨modThread_mem .., ?_⟩
  unfold State.modThread
  split
  · exact hf s.cur
  · rfl

theorem releasePort_released (s : State) (t : Thread) (p : Port) : PortsReleased s (s.releasePorts t [p]) := by
  show PortsReleased s (if _ then _ else _)
  split
  · exact .refl s
  split
  · exact ⟨rfl, rfl⟩
  split
  · exact modThread_released s _ fun _ => rfl
  split
  · exact modThread_released s _ fun _ => rfl
  · exact .refl s

theorem releasePorts_released (s : State) (t : Thread) (ps : List Port) : PortsReleased s (s.releasePorts t ps) := by
  induction ps generalizing s with
  | nil => exact .refl s
  | cons p ps ih => exact (releasePort_released s t p).trans (ih _)

/-- R192: what a result port holds, and the words of a command port, go with the port. -/
theorem releasePort_empties (s : State) {p : Port} (bound : p.bound = true) :
    (p.kind = 2 → (s.releasePorts s.cur [p]).cur.result = []) ∧ (p.kind = 3 → (s.releasePorts s.cur [p]).cur.cmdWords = []) := by
  constructor <;> intro kind <;> simp [State.releasePorts, bound, kind, modThread_cur]

/-! ### `pbind` (R190 to R192) -/

/-- The port as which `pbind` binds a register. -/
def newPort (k : BitVec 2) (push : Bool) (v : Word) : Port := { bound := true, push := push, kind := k, target := v }

/-- What `pbind` does with its register and the word read for it. -/
def pbindAt (s : State) (d : XReg) (k : BitVec 2) (push : Bool) (v : Word) : Res :=
  if s.cur.pend.getLsbD d.toNat then .wait
  else if (s.cur.port? d).isSome then .trap .prot 0x4000A
  else if k = 0#2 then
    let i := (v.extractLsb' 0 3).toNat
    if v.extractLsb' 3 61 ≠ 0#61 || ((s.slotQueue s.cur.core i).holder push).isSome then .trap .prot 0x40009
    else .done ((s.takeQueue i push).bind d (newPort k push v))
  else if k = 1#2 then
    if v.extractLsb' 0 6 ≠ 0#6 then .trap .align v
    else access s .read v 64 fun ps s2 =>
      if ringOk (s2.readDwords v ps).1 then .done ((s2.readDwords v ps).2.inFlight.bind d (newPort k push v))
      else .trap .prot 0x4000C
  else if v ≠ 0 then .trap .prot 0x4000C
  else .done (s.bind d (newPort k push v))

theorem exec_pbind {s s1 : State} {g : KReg} {a : XReg} {v : Word} {t : Bool} (hg : GuardOn s g) (hf : PortsFit s [a] [])
    (hr : ReadsAs s a v t s1) (d : XReg) (k : BitVec 2) (e : BitVec 1) :
    exec (.pbind g d a k e) s = finish s (pbindAt s1 d k (e == 1) v) := by
  show execPbind g d a k e s = _
  rw [execPbind, guarded_active hg, legal_fit hf, hr, pbindAt]
  rcases BitVec.eq_zero_or_eq_one e with rfl | rfl <;> rfl

section
variable {s : State} {d : XReg} {k : BitVec 2} {v : Word} (push : Bool) (ready : s.cur.pend.getLsbD d.toNat = false)
include ready

theorem pbindAt_bound (k : BitVec 2) (v : Word) (bound : (s.cur.port? d).isSome = true) :
    pbindAt s d k push v = .trap .prot 0x4000A := by
  rw [pbindAt, if_neg (by simp [ready]), if_pos bound]

variable (free : s.cur.port? d = none)
include free

/-- A register that is free: what follows depends on the kind of the port. -/
theorem pbindAt_free : pbindAt s d k push v =
    if k = 0#2 then
      if v.extractLsb' 3 61 ≠ 0#61 || ((s.slotQueue s.cur.core (v.extractLsb' 0 3).toNat).holder push).isSome then .trap .prot 0x40009
      else .done ((s.takeQueue (v.extractLsb' 0 3).toNat push).bind d (newPort k push v))
    else if k = 1#2 then
      if v.extractLsb' 0 6 ≠ 0#6 then .trap .align v
      else access s .read v 64 fun ps s2 =>
        if ringOk (s2.readDwords v ps).1 then .done ((s2.readDwords v ps).2.inFlight.bind d (newPort k push v))
        else .trap .prot 0x4000C
    else if v ≠ 0 then .trap .prot 0x4000C
    else .done (s.bind d (newPort k push v)) := by
  rw [pbindAt, if_neg (by simp [ready]), if_neg (by simp [free])]

theorem pbindAt_plain (kind : 2 ≤ k.toNat) : pbindAt s d k push v =
    if v ≠ 0 then .trap .prot 0x4000C else .done (s.bind d (newPort k push v)) := by
  rw [pbindAt_free push ready free, if_neg (by rintro rfl; simp at kind), if_neg (by rintro rfl; simp at kind)]

theorem pbindAt_queue (small : v.toNat < 8) : pbindAt s d 0 push v =
    if ((s.slotQueue s.cur.core v.toNat).holder push).isSome then .trap .prot 0x40009
    else .done ((s.takeQueue v.toNat push).bind d (newPort 0 push v)) := by
  have low : (v.extractLsb' 0 3).toNat = v.toNat := by simp; omega
  have high : v.extractLsb' 3 61 = 0#61 := by
    apply BitVec.eq_of_toNat_eq
    simp
    omega
  rw [pbindAt_free push ready free, if_pos (by rfl), low, high]
  simp only [ne_eq, not_true_eq_false, decide_false, Bool.false_or]

theorem pbindAt_ring : pbindAt s d 1 push v =
    if v.extractLsb' 0 6 ≠ 0#6 then .trap .align v
    else access s .read v 64 fun ps s2 =>
      if ringOk (s2.readDwords v ps).1 then .done ((s2.readDwords v ps).2.inFlight.bind d (newPort 1 push v))
      else .trap .prot 0x4000C := by
  rw [pbindAt_free push ready free, if_neg (by decide), if_pos (by rfl)]

end

/-- Reading a block of dwords leaves the registers, and memory. -/
theorem readDwords_x (s : State) (va : Word) (ps : List Nat) : (s.readDwords va ps).2.cur.x = s.cur.x :=
  congrArg Prod.fst (readNow_file s va ps)

theorem readDwords_mem (s : State) (va : Word) (ps : List Nat) : (s.readDwords va ps).2.mem = s.mem := readNow_mem s va ps

/-! ### `punbind` (R190) -/

section
variable {s : State} {g : KReg} {d : XReg} (hg : GuardOn s g)
include hg

theorem punbind_free (free : s.cur.port? d = none) : Retires (.punbind g d) s s := by
  show execPunbind g d s = _
  rw [execPunbind, guarded_active hg, free, finish_done]

theorem punbind_releases {p : Port} (bound : s.cur.port? d = some p) :
    Retires (.punbind g d) s ((s.releasePorts s.cur [p]).bind d {}) := by
  show execPunbind g d s = _
  rw [execPunbind, guarded_active hg, bound, finish_done]

end

/-- Settles O30: `pbind` by the kind of its port, once its register is free (`pbindAt_plain`, `pbindAt_queue`, `pbindAt_ring`), and
`punbind` by whether its register is bound; `bind_port?` says what is bound after each. -/
theorem portWords : Obligations.PortWords := by
  unfold Obligations.PortWords
  refine ⟨fun s s1 g d a k e v t low high hg hf hr ready => ?_, fun s g d hg => ⟨punbind_free hg, fun p bound => ?_⟩⟩
  · intro port
    have run := exec_pbind hg hf hr d k e
    have binds (u : State) : (u.bind d port).cur.port? d = some port := by
      rw [bind_port? u low (by omega), if_pos rfl, if_pos rfl]
    refine ⟨fun bound => ?_, fun free => ⟨fun kind zero => ?_, fun kind nonzero => ?_, fun kind small => ?_, fun kind odd => ?_,
      fun ps s2 kind aligned grants => ?_⟩⟩
    · rw [run, pbindAt_bound _ ready k v bound, finish_trap]
    · rw [pbindAt_plain _ ready free kind, if_neg (not_not.mpr zero)] at run
      exact ⟨_, run, binds s1, fun r other => by rw [bind_port? s1 low (by omega), if_neg other], rfl, rfl⟩
    · rw [run, pbindAt_plain _ ready free kind, if_pos nonzero, finish_trap]
    · subst kind
      have side (u : State) : (if e = 1 then (u.slotQueue s1.cur.core v.toNat).pusher
          else (u.slotQueue s1.cur.core v.toNat).popper) = (u.slotQueue s1.cur.core v.toNat).holder (e == 1) := by
        simp only [SlotQueue.holder, beq_iff_eq]
      intro q holder
      refine ⟨fun open_ => ?_, fun taken => ?_⟩
      · have free_ := (side s1).symm.trans open_
        rw [pbindAt_queue _ ready free small, if_neg (Option.not_isSome_iff_eq_none.mpr free_)] at run
        refine ⟨_, run, binds _, (side _).trans ?_, ?_, rfl, rfl⟩
        · exact (congrArg (SlotQueue.holder · _) (takeQueue_slotQueue s1 small _)).trans (taken_holder ..)
        · exact (congrArg SlotQueue.elems (takeQueue_slotQueue s1 small _)).trans (taken_elems ..)
      · rw [run, pbindAt_queue _ ready free small, if_pos (by rw [← side]; exact Option.isSome_iff_ne_none.mpr taken), finish_trap]
    · subst kind
      rw [run, pbindAt_ring _ ready free, if_pos odd, finish_trap]
    · subst kind
      have regs := readDwords_x s2 v ps
      have mem := readDwords_mem s2 v ps
      rw [pbindAt_ring _ ready free, if_neg (not_not.mpr aligned), grants] at run
      generalize s2.readDwords v ps = r at run regs mem
      refine ⟨fun ok => ?_, fun bad => ?_⟩
      · rw [if_pos ok] at run
        exact ⟨_, run, binds _, regs, mem, rfl⟩
      · rw [run, if_neg (by simp [bad]), finish_trap]
  · obtain ⟨low, high, marked⟩ := bound_of_port? bound
    have run := punbind_releases hg bound
    have released := releasePorts_released s s.cur [p]
    have empties := releasePort_empties s marked
    generalize s.releasePorts s.cur [p] = u at run released empties
    refine ⟨_, run, ?_, (congrArg Thread.x released.2 :), released.1, empties.1, empties.2⟩
    rw [bind_port? u low high, if_pos rfl]
    rfl

end Sys2Proof.Machine
end

section
/-! PROOF. Spawning and quitting (R193, R194): what the request of a `spawn` is, what ends a thread, and the obligation about them. -/

namespace Sys2Proof.Machine
open Sys2Proof.Safety

/-! ### `spawn` and `spawn.w` (R193) -/

/-- The request of a `spawn` with its entry and seeds. -/
def Thread.spawnReq (t : Thread) (retry : Bool) (entry : Word) (seeds : List Word) : SpawnReq :=
  { spawner := t.num, from_ := t.core, seeds := seeds, pc := entry, cb := t.cb, st := t.st
    shadow := (t.fmtA, t.fmtB, t.scA, t.scB, t.scC), agree := (t.agv, t.agc, t.cen), dom := t.dom, vd := t.vdid, retry := retry }

/-- What a `spawn` that has read its operands does where no answer has come. -/
def spawnAsks (retry : Bool) (s s2 : State) (va vb : Word) (seeds : List Word) : Res :=
  if va.extractLsb' 10 54 ≠ 0#54 || !s2.inCoreSet s2.cur.vdid (va.extractLsb' 0 10) then .trap .prot 0x40008
  else if vb.extractLsb' 0 2 ≠ 0#2 then .trap .align vb
  else if s2.spawning then .park .spawn s
  else .park .spawn { s with spawns := s.spawns ++ [(va.extractLsb' 0 10, s.rd.spawnReq retry vb seeds)] }

section
variable {s s1 s2 : State} {g k : KReg} {a b : XReg} {va vb : Word} {t : Bool} {seeds : List Word} (hg : GuardOn s g)
  (hf : PortsFit s [a, b] []) (hr : ReadsTwo s a b va vb t s1) (hs : ReadsRun s1 0 4 seeds s2)
include hg hf hr hs

theorem spawnWord_answered (retry : Bool) {yes : Bool} (answer : s2.cur.answer = some yes) :
    spawnWord retry g k a b s = .next (({ s2 with cur := { s2.cur.setPred k yes with answer := none } } : State).retire none) := by
  rw [spawnWord, guarded_active hg, legal_fit hf, useXX_reads hr, hs, answer]
  rfl

theorem spawnWord_asks (retry : Bool) (answer : s2.cur.answer = none) :
    spawnWord retry g k a b s = finish s (spawnAsks retry s s2 va vb seeds) := by
  rw [spawnWord, guarded_active hg, legal_fit hf, useXX_reads hr, hs, answer]
  rfl

end

section
variable {s s2 : State} {va vb : Word} {seeds : List Word} {retry : Bool}

theorem spawnAsks_outside (outside : ¬(va.extractLsb' 10 54 = 0#54 ∧ s2.inCoreSet s2.cur.vdid (va.extractLsb' 0 10) = true)) :
    spawnAsks retry s s2 va vb seeds = .trap .prot 0x40008 := by
  refine if_pos ?_
  simp only [Bool.or_eq_true, decide_eq_true_eq, Bool.not_eq_true', ← Bool.not_eq_true]
  exact not_and_or.mp outside

variable (inside : va.extractLsb' 10 54 = 0#54 ∧ s2.inCoreSet s2.cur.vdid (va.extractLsb' 0 10) = true)
include inside

/-- The core is one of the VD's set: what follows depends on the entry. -/
theorem spawnAsks_inside : spawnAsks retry s s2 va vb seeds =
    if vb.extractLsb' 0 2 ≠ 0#2 then .trap .align vb
    else if s2.spawning then .park .spawn s
    else .park .spawn { s with spawns := s.spawns ++ [(va.extractLsb' 0 10, s.rd.spawnReq retry vb seeds)] } :=
  if_neg (by simp [inside.1, inside.2])

theorem spawnAsks_misaligned (odd : vb.extractLsb' 0 2 ≠ 0#2) : spawnAsks retry s s2 va vb seeds = .trap .align vb := by
  rw [spawnAsks_inside inside, if_pos odd]

variable (aligned : vb.extractLsb' 0 2 = 0#2)
include aligned

theorem spawnAsks_again (asked : s2.spawning = true) : spawnAsks retry s s2 va vb seeds = .park .spawn s := by
  rw [spawnAsks_inside inside, if_neg (not_not.mpr aligned), if_pos asked]

theorem spawnAsks_first (first : s2.spawning = false) : spawnAsks retry s s2 va vb seeds =
    .park .spawn { s with spawns := s.spawns ++ [(va.extractLsb' 0 10, s.rd.spawnReq retry vb seeds)] } := by
  rw [spawnAsks_inside inside, if_neg (not_not.mpr aligned), if_neg (by simp [first])]

end

theorem exec_spawn (retry : Bool) (g k : KReg) (a b : XReg) (s : State) :
    exec (if retry then .spawnW g k a b else .spawn g k a b) s = spawnWord retry g k a b s := by
  cases retry <;> rfl

/-! ### What ends a thread (R194, R321) -/

theorem butOperands_partWrite (s : State) (n : ThreadNo) (d : DomNo) (a : Nat) (bs : List Byte) :
    ButOperands s.cur (s.partWrite n d a bs).cur := by
  have written := butOperands_of_accessed (accessed_physWrite s a bs)
  unfold State.partWrite
  split
  · exact written
  · exact written.trans (butOperands_postReport ..)

theorem freeBlock_num (s : State) (t : Thread) (d : DomNo) :
    (freeBlock s t d).1.cur.num = s.cur.num ∧ (freeBlock s t d).2.num = t.num := by
  unfold freeBlock
  split
  · exact ⟨rfl, rfl⟩
  · exact ⟨(butOperands_partWrite ..).num, rfl⟩

theorem freeBlocks_num (l : List Block) (p : State × Thread) :
    let q := l.foldl (fun (p : State × Thread) b => freeBlock p.1 p.2 b.dom) p
    q.1.cur.num = p.1.cur.num ∧ q.2.num = p.2.num := by
  induction l generalizing p with
  | nil => exact ⟨rfl, rfl⟩
  | cons b l ih =>
    obtain ⟨state, thread⟩ := freeBlock_num p.1 p.2 b.dom
    obtain ⟨state', thread'⟩ := ih (freeBlock p.1 p.2 b.dom)
    exact ⟨state'.trans state, thread'.trans thread⟩

theorem freeAll_num (s : State) (t : Thread) :
    (freeAll s t).1.cur.num = s.cur.num ∧ (freeAll s t).2.num = t.num := by
  have freed := freeBlocks_num t.blocks (s, t)
  unfold freeAll
  dsimp only
  generalize t.blocks.foldl _ (s, t) = r at freed
  split
  · exact freed
  · exact freed
  · exact ⟨(butOperands_partWrite ..).num.trans freed.1, freed.2⟩

theorem endAccs_cur (s : State) (n : ThreadNo) (kind : EndKind) : (s.endAccs n kind).cur = s.cur := by
  unfold State.endAccs
  split <;> rfl

theorem endWorker_cur (s : State) (t : Thread) : (s.endWorker t).cur = s.cur := by
  unfold State.endWorker
  split <;> rfl

theorem countThread_cur (s : State) (c : CoreNo) (v : VdNo) (p : BitVec 32) (err : BitVec 16) (fin : Word) :
    (s.countThread c v p err fin).cur = s.cur := by
  unfold State.countThread State.settlePart
  dsimp only
  split
  · rfl
  · split <;> rfl

/-- A thread is found under its own number. -/
theorem num_of_thread? {s : State} {n : ThreadNo} {t : Thread} (h : s.thread? n = some t) : t.num = n := by
  unfold State.thread? at h
  split at h
  · next own =>
    cases h
    exact own
  · exact beq_iff_eq.mp (List.find?_some (p := fun t : Thread => t.num == n) h)

/-- What is left of a thread that has ended. -/
def Thread.ended (t : Thread) : Thread := { t with
  place := .gone, vcmd := none, intent := none, wait := none, norm := false, inHand := none, stands := none, halfway := false, lost := false
  doom := none, reports := [], worker := none, leaving := none
  depth := 0, top := none, gates := [], susp := [], ports := Vector.replicate 6 {}, result := [], cmdWords := [] }

/-- What the part keeps of a thread beside its own record goes. -/
def State.forgets (s : State) (n : ThreadNo) : State := { s with
  cores := s.cores.map (Core.forget n)
  vds := s.vds.map (Vd.unspill n)
  watches := s.watches.filter fun w => w.thread != n
  halves := s.halves.filter fun u => u.num != n
  pushed := s.pushed.filter fun e => e.1 != n }

/-- A thread of a packet that has ended is counted at its launch core, at once or by a notice (R292). -/
def State.countEnd (s : State) (t : Thread) (kind : EndKind) (cyc : Word) : State :=
  if t.pkt = 0 then s
  else
    let err := kind.err ||| (if t.eccSeen then errECC else 0)
    if t.core = t.lcore then s.countThread t.lcore t.pvd t.pkt err cyc
    else { s with quits := s.quits ++ [{ dest := t.lcore, vd := t.pvd, pkt := t.pkt, err := err, fin := cyc }] }

theorem countEnd_cur (s : State) (t : Thread) (kind : EndKind) (cyc : Word) : (s.countEnd t kind cyc).cur = s.cur := by
  unfold State.countEnd
  split
  · rfl
  · dsimp only
    split
    · exact countThread_cur ..
    · rfl

/-- The state and the thread in hand, once it has given up its ports, blocks and hardware page at depth 0. -/
def State.stripped (s : State) : State × Thread :=
  let u := s.releasePorts s.cur (s.cur.ports.toList ++ (s.cur.susp.filter fun p => p.1 == 0).flatMap fun p => p.2.toList)
  freeAll u { (u.thread? s.cur.num).getD s.cur with depth := s.cur.depth, top := s.cur.top }

theorem stripped_num (s : State) : s.stripped.1.cur.num = s.cur.num ∧ s.stripped.2.num = s.cur.num := by
  unfold State.stripped
  generalize s.cur.ports.toList ++ _ = ports
  have released := (releasePorts_released s s.cur ports).2
  generalize s.releasePorts s.cur ports = u at released
  have same : u.cur.num = s.cur.num := (congrArg Thread.num released :)
  have found : ((u.thread? s.cur.num).getD s.cur).num = s.cur.num := by
    cases h : u.thread? s.cur.num with
    | none => rfl
    | some t => exact num_of_thread? h
  obtain ⟨state, thread⟩ := freeAll_num u { (u.thread? s.cur.num).getD s.cur with depth := s.cur.depth, top := s.cur.top }
  exact ⟨state.trans same, thread.trans found⟩

theorem endThread_bottom {s : State} (kind : EndKind) (bottom : s.cur.depth = 0) (stands : s.cur.place ≠ .gone) :
    s.endThread s.cur.num kind = (((((s.stripped.1.dropLease s.cur.num).endAccs s.cur.num kind).endWorker s.cur).forgets
      s.cur.num).modThread s.cur.num fun _ => s.stripped.2.ended).countEnd s.cur kind s.cyc := by
  have own : s.thread? s.cur.num = some s.cur := if_pos rfl
  have stays : s.leaveTo s.cur 0 = s := by rw [State.leaveTo, bottom]; rfl
  rw [State.endThread, own]
  simp only [if_neg stands, stays, if_pos bottom]
  rfl

/-- R194: the thread in hand ends at depth 0. -/
theorem endThread_gone (s : State) (kind : EndKind) (bottom : s.cur.depth = 0) :
    (s.endThread s.cur.num kind).cur.num = s.cur.num ∧ (s.endThread s.cur.num kind).cur.place = .gone := by
  by_cases gone : s.cur.place = .gone
  · have same : s.endThread s.cur.num kind = s := by
      rw [State.endThread, show s.thread? s.cur.num = some s.cur from if_pos rfl]
      exact if_pos gone
    rw [same]
    exact ⟨rfl, gone⟩
  · have num := stripped_num s
    rw [endThread_bottom kind bottom gone, countEnd_cur]
    generalize s.stripped = r at num
    have own : (((r.1.dropLease s.cur.num).endAccs s.cur.num kind).endWorker s.cur).cur.num = s.cur.num := by
      rw [endWorker_cur, endAccs_cur]
      exact num.1
    generalize ((r.1.dropLease s.cur.num).endAccs s.cur.num kind).endWorker s.cur = u at own
    have here : ((u.forgets s.cur.num).modThread s.cur.num fun _ => r.2.ended).cur = r.2.ended := by
      rw [State.modThread, if_pos (show (u.forgets s.cur.num).cur.num = s.cur.num from own)]
    rw [here]
    exact ⟨num.2, rfl⟩

/-! ### `quit` (R194) -/

section
variable {s : State} {g : KReg} (hg : GuardOn s g)
include hg

theorem exec_quit : exec (.quit g) s = finish s (
    if s.cur.depth ≠ 0 then .trap .prot 0x4000B
    else if s.cur.worker.isSome then .trap .prot 0x40005
    else if s.cur.ldo ≠ 0 ∨ s.cur.sto ≠ 0 ∨ s.cur.vbusy then .wait
    else .moved (s.endThread s.cur.num .quit)) := by
  show execQuit g s = _
  rw [execQuit, guarded_active hg]

theorem quit_inside (inside : s.cur.depth ≠ 0) : exec (.quit g) s = .next (s.trapped .prot 0x4000B s.cur.pc) := by
  rw [exec_quit hg, if_pos inside, finish_trap]

variable (bottom : s.cur.depth = 0)
include bottom

theorem quit_worker (worker : s.cur.worker.isSome = true) : exec (.quit g) s = .next (s.trapped .prot 0x40005 s.cur.pc) := by
  rw [exec_quit hg, if_neg (not_not.mpr bottom), if_pos worker, finish_trap]

variable (own : s.cur.worker = none)
include own

theorem quit_waits (busy : s.cur.ldo ≠ 0 ∨ s.cur.sto ≠ 0 ∨ s.cur.vbusy = true) : exec (.quit g) s = .next (s.parked .cond) := by
  rw [exec_quit hg, if_neg (not_not.mpr bottom), if_neg (by simp [own]), if_pos busy]
  rfl

theorem quit_ends (loads : s.cur.ldo = 0) (stores : s.cur.sto = 0) (idle : s.cur.vbusy = false) : exec (.quit g) s =
    .next { s.endThread s.cur.num .quit with mark := .retired, popped := [] } := by
  rw [exec_quit hg, if_neg (not_not.mpr bottom), if_neg (by simp [own]), if_neg (by simp [loads, stores, idle])]
  rfl

end

/-- Settles O31: a `spawn` by whether its answer has come, and else by what it asks for (`spawnAsks_outside` to `spawnAsks_first`);
`quit` by its depth, its worker and its accesses, and `endThread_gone` says what it ends with. -/
theorem spawnAndQuit : Obligations.SpawnAndQuit := by
  unfold Obligations.SpawnAndQuit
  refine ⟨fun s s1 s2 g k a b va vb t retry seeds => ?_, fun s g hg => ⟨quit_inside hg, quit_worker hg, quit_waits hg,
    fun bottom own loads stores idle => ?_⟩⟩
  · intro i core ok hg hf hr hs
    have word : exec i s = _ := exec_spawn retry g k a b s
    have asks := fun none_ => word.trans (spawnWord_asks hg hf hr hs retry none_)
    refine ⟨fun yes answer => word.trans (spawnWord_answered hg hf hr hs retry answer), fun none_ outside => ?_,
      fun none_ inside odd => ?_, fun none_ inside aligned asked => ?_, fun none_ inside aligned first => ?_⟩
    · rw [asks none_, spawnAsks_outside outside, finish_trap]
    · rw [asks none_, spawnAsks_misaligned inside odd, finish_trap]
    · rw [asks none_, spawnAsks_again inside aligned asked, finish_park]
    · refine ⟨s.rd.spawnReq retry vb seeds, ?_, rfl, rfl, rfl, rfl, rfl, rfl, rfl⟩
      rw [asks none_, spawnAsks_first inside aligned first, finish_park]
  · obtain ⟨num, place⟩ := endThread_gone s .quit bottom
    exact ⟨_, quit_ends hg bottom own loads stores idle, rfl, num, place⟩

end Sys2Proof.Machine
end

section
/-! PROOF. Copy words (R178, R180, R182, R185): their command enters the core's FIFO. -/

namespace Sys2Proof.Machine
open Sys2Proof.Safety

/-! ### A command enters the FIFO (R180, R185) -/

/-- The low byte of a promise word is the tag of its command (R185). -/
theorem promiseWord_tag (e : Word) (tag : BitVec 8) : (promiseWord e tag).extractLsb' 0 8 = tag := by
  rw [promiseWord, promised_eq]
  apply BitVec.eq_of_getLsbD_eq
  intro i hi
  simp only [BitVec.getLsbD_extractLsb', BitVec.getLsbD_or, BitVec.getLsbD_append, BitVec.getLsbD_setWidth, BitVec.getLsbD_zero]
  simp [hi, show i < 64 by omega]

/-- A register that is written has the taint of its value (R17). -/
theorem setReg_tainted (t : Thread) (r : XReg) (v : Word) (b : Bool) : (t.setReg r v b).tainted r = b := by
  have low : r.toNat < 16 := r.isLt
  cases b <;> simp [Thread.tainted, Thread.setReg, low]

/-- Writing x(d), where it is no port, changes the register and its taint alone. -/
theorem setX_reads {s : State} {d : XReg} (free : s.cur.port? d = none) (v : Word) (t : Bool) :
    (s.setX d v t).cur.reg d = v ∧ (s.setX d v t).cur.tainted d = t ∧ (s.setX d v t).mem = s.mem := by
  rw [setX_plain v t free]
  exact ⟨setReg_reg .., setReg_tainted .., rfl⟩

/-- A command has entered the FIFO and its word has retired: the slot waits for the read of the block. -/
def State.copyEntered (s : State) (c : Copy) : State := ((s.enterCopy c).countEv 8 1).inFlight

theorem copyEntered_fifo (s : State) (c : Copy) : ((s.copyEntered c).core s.cur.core).fifo =
    (s.core s.cur.core).fifo ++ [{ c with num := s.stamp }] := by
  show ((s.enterCopy c).core s.cur.core).fifo = _
  refine congrArg Core.fifo (core_setCore_of s _ s.cur.core ?_)
  exact core_num ..

theorem copyEntered_cur (s : State) (c : Copy) : (s.copyEntered c).cur =
    { s.cur with cpo := s.cur.cpo + 1, evcnt := (s.copyEntered c).cur.evcnt, wait := some .access } := by
  unfold State.copyEntered State.countEv
  rw [event_evcnt_only]
  rfl

/-- Writing a result to a register or a slot queue changes the register alone of the thread, and no FIFO. -/
theorem setX_cpo {s : State} {d : XReg} (queue : ∀ q, s.cur.port? d = some q → q.kind = 0) (v : Word) (t : Bool) :
    (s.setX d v t).cur = { s.cur with x := (s.setX d v t).cur.x, taint := (s.setX d v t).cur.taint } := by
  unfold State.setX
  split
  · rfl
  · next p bound =>
    rw [State.push, if_pos (queue p bound)]
    rfl

/-! ### The words (R178, R182) -/

/-- The command of a copy word, before its end is estimated. -/
def State.copyOf (s : State) (op : BitVec 3) (post : Bool) (bar : Option Word) (block : List Word) : Copy :=
  { op := op, thread := s.cur.num, dom := s.cur.dom, block := block, post := post, barrier := bar, estimate := 0 }

/-- The estimated end of a command whose block has just been read; a free value where it cannot be estimated (R185, log entry 2). -/
def State.copyEnd (s : State) (cmd : Copy) (ps : List Nat) : Word × State :=
  match cmd.estimateFrom s (s.core s.cur.core) s.cur (s.cyc + BitVec.ofNat 64 (4 + latencyMax s.cur.core ps)) with
  | some e => (e, s)
  | none => s.freeVal

theorem copyEnd_state (s : State) (cmd : Copy) (ps : List Nat) : (s.copyEnd cmd ps).2 = s ∨ (s.copyEnd cmd ps).2 = s.freeVal.2 := by
  unfold State.copyEnd
  split
  · exact .inl rfl
  · exact .inr rfl

/-- What a copy word does once its block has been read and its barrier word checked: the promise, if it is asked for, then the
command. -/
def copyEnters (s : State) (d : XReg) (p : BitVec 1) (tnt : Bool) (cmd : Copy) (ps : List Nat) : Res :=
  let r := s.copyEnd cmd ps
  let w := promiseWord r.1 cmd.tag
  if p = 1#1 then destX r.2 d w fun u => .done ((u.setX d w tnt).copyEntered { cmd with estimate := r.1 })
  else .done (r.2.copyEntered { cmd with estimate := r.1 })

/-- What a copy word does with the address of its block and its barrier word. -/
def copyAt (s : State) (op : BitVec 3) (d : XReg) (p m : BitVec 1) (va : Word) (tnt : Bool) (bar : Option Word) : Res :=
  if copyWaits (s.core s.cur.core) s.cur (m == 1#1) then .wait
  else if va.extractLsb' 0 6 ≠ 0#6 then .trap .align va
  else access s .read va 64 fun ps s3 =>
    let enter (u : State) : Res := copyEnters u d p tnt (u.copyOf op (m == 1#1) bar (s3.readDwords va ps).1) ps
    match bar with
    | none => enter (s3.readDwords va ps).2
    | some w => if w.toNat % 8 ≠ 0 then .trap .align w else checked (s3.readDwords va ps).2 .write w 8 fun _ u => enter u

/-- The six words are one, with their operation. -/
theorem exec_copyForm {f} (hf : f ∈ copyForms) (g : KReg) (d a b : XReg) (p m c : BitVec 1) (s : State) :
    exec (f.1 g d a b p m c) s = copyWord f.2 g d a b p m c s := by
  simp only [copyForms, List.mem_cons, List.not_mem_nil, or_false] at hf
  rcases hf with rfl | rfl | rfl | rfl | rfl | rfl <;> rfl

section
variable {s s1 s2 : State} {g : KReg} {d a b : XReg} {p m c : BitVec 1} {va : Word} {t tnt : Bool} {bar : Option Word}
  (hg : GuardOn s g) (hf : PortsFit s (if c = 1#1 then [a, b] else [a]) (if p = 1#1 then [d] else [])) (hr : ReadsAs s a va t s1)
  (hb : c = 0 ∧ bar = none ∧ s2 = s1 ∧ tnt = t ∨ c = 1 ∧ ∃ w u, bar = some w ∧ tnt = (t || u) ∧ ReadsAs s1 b w u s2)
include hg hf hr hb

theorem copyWord_reads (op : BitVec 3) : copyWord op g d a b p m c s = finish s (copyAt s2 op d p m va tnt bar) := by
  rw [copyWord, guarded_active hg, legal_fit hf, hr]
  rcases hb with ⟨rfl, rfl, rfl, rfl⟩ | ⟨rfl, w, u, rfl, rfl, reads⟩
  · rfl
  · simp only [reads _]
    rfl

end

section
variable {s s3 s5 : State} {op : BitVec 3} {d : XReg} {p m : BitVec 1} {va : Word} {tnt : Bool} {bar : Option Word} {ps : List Nat}

theorem copyAt_waits (busy : copyWaits (s.core s.cur.core) s.cur (m == 1) = true) : copyAt s op d p m va tnt bar = .wait :=
  if_pos busy

variable (room : copyWaits (s.core s.cur.core) s.cur (m == 1) = false)
include room

theorem copyAt_misaligned (odd : va.extractLsb' 0 6 ≠ 0#6) : copyAt s op d p m va tnt bar = .trap .align va := by
  rw [copyAt, if_neg (Bool.not_eq_true _ ▸ room), if_pos odd]

/-- R180, R185: the block is read, and a store to the barrier word is checked. -/
theorem copyAt_enters (aligned : va.extractLsb' 0 6 = 0#6) (grants : Grants s .read va 64 ps s3)
    (barrier : bar = none ∧ s5 = (s3.readDwords va ps).2 ∨ ∃ w qs, bar = some w ∧ w.toNat % 8 = 0 ∧
      ∀ k, checked (s3.readDwords va ps).2 .write w 8 k = k qs s5) :
    copyAt s op d p m va tnt bar = copyEnters s5 d p tnt (s5.copyOf op (m == 1) bar (s3.readDwords va ps).1) ps := by
  rw [copyAt, if_neg (Bool.not_eq_true _ ▸ room), if_neg (not_not.mpr aligned), grants]
  rcases barrier with ⟨rfl, rfl⟩ | ⟨w, qs, rfl, even, passes⟩
  · rfl
  · dsimp only
    rw [if_neg (not_not.mpr even), passes]
    rfl

end

/-- What the claim says of a copy word that retires in `u`: its command stands in the FIFO, and CPO counts it. -/
theorem copyEntered_leaves {s z : State} {cmd : Copy} (core : z.cur.core = s.cur.core) (cpo : z.cur.cpo = s.cur.cpo) :
    (z.copyEntered cmd).cur.cpo = s.cur.cpo + 1 ∧ (z.copyEntered cmd).cur.wait = some .access ∧
      (z.copyEntered cmd).cur.x = z.cur.x ∧ (z.copyEntered cmd).cur.taint = z.cur.taint ∧
      ((z.copyEntered cmd).core s.cur.core).fifo = (z.core s.cur.core).fifo ++ [{ cmd with num := z.stamp }] := by
  rw [copyEntered_cur, ← core, copyEntered_fifo]
  exact ⟨congrArg (· + 1) cpo, rfl, rfl, rfl, rfl⟩

/-- Settles O29: the words are `copyWord`, which waits, traps or enters its command (`copyAt_waits`, `copyAt_misaligned`,
`copyAt_enters`); the promise, whose low byte is the tag, is written before. -/
theorem copyWords : Obligations.CopyWords := by
  unfold Obligations.CopyWords
  intro f hf s s1 s2 s3 s5 g d a b p m c va t tnt bar ps hg fits hr hb
  have run := (exec_copyForm hf g d a b p m c s).trans (copyWord_reads hg fits hr hb f.2)
  refine ⟨fun busy => ?_, fun room odd => ?_, fun room aligned grants => ?_⟩
  · rw [run, copyAt_waits busy]
    rfl
  · rw [run, copyAt_misaligned room odd, finish_trap]
  · intro s4 block barrier promise
    rw [copyAt_enters room aligned grants barrier] at run
    have state := copyEnd_state s5 (s5.copyOf f.2 (m == 1) bar block) ps
    unfold copyEnters at run
    generalize s5.copyEnd (s5.copyOf f.2 (m == 1) bar block) ps = r at run state
    obtain ⟨cur, cores⟩ : r.2.cur = s5.cur ∧ r.2.cores = s5.cores := by
      rcases state with same | same <;> rw [same] <;> exact ⟨rfl, rfl⟩
    dsimp only at run
    rcases BitVec.eq_zero_or_eq_one p with rfl | rfl
    · rw [if_neg (by decide)] at run
      obtain ⟨cpo, wait, x, -, fifo⟩ := copyEntered_leaves (s := s5) (cmd := { s5.copyOf f.2 (m == 1) bar block with estimate := r.1 })
        (congrArg Thread.core cur) (congrArg Thread.cpo cur)
      have core : r.2.core s5.cur.core = s5.core s5.cur.core := by rw [State.core, State.core, cores]
      rw [core] at fifo
      exact ⟨_, _, run, cpo, wait, fun _ => x.trans (congrArg Thread.x cur), nofun, fun _ => fifo,
        fifo ▸ List.mem_append_right _ (List.mem_singleton_self _), rfl, rfl, rfl, rfl, rfl, rfl⟩
    · obtain ⟨queue, takes⟩ := promise rfl
      rw [if_pos (by rfl), takes _ _ state] at run
      have written := setX_cpo (s := r.2) (d := d) (by rwa [cur]) (promiseWord r.1 (s5.copyOf f.2 (m == 1) bar block).tag) tnt
      rw [cur] at written
      obtain ⟨cpo, wait, x, taint, fifo⟩ := copyEntered_leaves (s := s5)
        (cmd := { s5.copyOf f.2 (m == 1) bar block with estimate := r.1 })
        (congrArg Thread.core written :) (congrArg Thread.cpo written :)
      refine ⟨_, _, run, cpo, wait, nofun, fun _ free => ?_, nofun,
        fifo ▸ List.mem_append_right _ (List.mem_singleton_self _), rfl, rfl, rfl, rfl, rfl, rfl⟩
      have plain := setX_plain (s := r.2) (promiseWord r.1 (s5.copyOf f.2 (m == 1) bar block).tag) tnt (by rw [cur]; exact free)
      rw [Thread.reg, Thread.tainted, x, taint, plain]
      exact ⟨(congrArg (BitVec.extractLsb' 0 8) (setReg_reg ..)).trans (promiseWord_tag ..), setReg_tainted ..⟩

end Sys2Proof.Machine
end

section
/-! PROOF. The six keyed words (R195 to R205, R358, R380). -/

namespace Sys2Proof.Machine
open Sys2Proof.Safety

/-! ### The group (R380) -/

theorem keyed_off {s : State} {g : KReg} (hg : GuardOn s g) (off : s.feature s.cur.vdid 3 = false) (r : Res) :
    keyed s g r = .trap .illegal s.bundle := by
  rw [keyed, guarded_active hg, if_neg (Bool.not_eq_true _ ▸ off)]

theorem keyed_on {s : State} {g : KReg} (hg : GuardOn s g) (on : s.feature s.cur.vdid 3 = true) (r : Res) : keyed s g r = r := by
  rw [keyed, guarded_active hg, if_pos on]

/-- R380: without the feature each of the six is ILLEGAL. -/
theorem keyedWord_off {s : State} {g : KReg} (hg : GuardOn s g) (off : s.feature s.cur.vdid 3 = false) (d a b : XReg) :
    ∀ i ∈ [(.kopen g d a : Instr), .kclose g d a, .kput g a b, .kwait g, .kend g, .kstat g d a b],
      exec i s = .next (s.trapped .illegal s.bundle s.cur.pc) := by
  have illegal (r : Res) : finish s (keyed s g r) = .next (s.trapped .illegal s.bundle s.cur.pc) := by
    rw [keyed_off hg off, finish_trap]
  simp only [List.forall_mem_cons, List.not_mem_nil, false_imp_iff, implies_true, and_true]
  exact ⟨illegal _, illegal _, illegal _, illegal _, illegal _, illegal _⟩

/-! ### `kput` (R199) -/

/-- The record that `kput` stages for a stage. -/
def State.record (s : State) (h : Word) (e : HEntry) (vs : List Word) : Msg :=
  { sender := s.cur.num, dom := s.cur.dom, dest := h, stage := some (e.core, s.linkOf s.cur.dom e.slot), payload := vs, nacks := 0
    due := s.cyc, refused := false }

section
variable {s s1 s2 s3 : State} {g : KReg} {a b : XReg} {h : Word} {t : Bool} {vs : List Word} {e : HEntry} (hg : GuardOn s g)
  (on : s.feature s.cur.vdid 3 = true) (low : b.toNat ≤ 13)
  (hf : PortsFit s (a :: (List.range 3).map fun i => b + BitVec.ofNat 4 i) []) (hr : ReadsAs s a h t s1)
  (hv : ReadsRun s1 b.toNat 3 vs s2) (he : FindsEntry s2 h 3 e s3)
include hg on low hf hr hv he

theorem exec_kput : exec (.kput g a b) s = finish s (
    if !s3.canStage s3.cur.core then .hold none else .done (s3.stage (s3.record h e vs))) := by
  show execKput g a b s = _
  rw [execKput, keyed_on hg on, if_neg (by omega), legal_fit hf, hr, hv, he]
  rfl

theorem kput_waits (full : 32 ≤ s3.buffered s3.cur.core) : exec (.kput g a b) s = .next s.heldNowhere := by
  rw [exec_kput hg on low hf hr hv he, if_pos (by simp [State.canStage, full]), finish_hold_none]

theorem kput_stages (room : s3.buffered s3.cur.core < 32) : Retires (.kput g a b) s (s3.stage (s3.record h e vs)) := by
  rw [Retires, exec_kput hg on low hf hr hv he, if_neg (by simp [State.canStage, room]), finish_done]

end

/-! ### `kwait` and `kend` (R202, R203) -/

/-- Changing a stage leaves all but the cores. -/
theorem modStage_cur (s : State) (c : CoreNo) (id : Nat) (f : Stage → Stage) : (s.modStage c id f).cur = s.cur := rfl

theorem modStage_core (s : State) (c : CoreNo) (id : Nat) (f : Stage → Stage) : (s.modStage c id f).core c =
    { s.core c with stages := (s.core c).stages.map fun g => if g.id = id then f g else g } :=
  core_setCore_of _ _ c (core_num ..)

theorem dropBrood_core (s : State) (c : CoreNo) (id : Nat) (key : Word) : (s.dropBrood c id key).core c =
    { s.core c with brood := (s.core c).brood.filter fun b => !(b.stage == id && b.key == key) } :=
  core_setCore_of _ _ c (core_num ..)

/-- The entry of a key that has been dropped is not in the store. -/
theorem dropBrood_gone (s : State) (c : CoreNo) (id : Nat) (key : Word) : ((s.dropBrood c id key).core c).broodOf id key = none := by
  rw [dropBrood_core, Core.broodOf, List.find?_eq_none]
  intro b kept
  rw [(Bool.not_eq_true' _).mp (List.mem_filter.mp kept).2]
  decide

theorem retireEntry_gone (s : State) (c : CoreNo) (id : Nat) (key : Word) :
    ((s.retireEntry c id key).core c).broodOf id key = none := by
  have gone := dropBrood_gone s c id key
  rw [State.retireEntry, modStage_core]
  exact gone

theorem suspend_cur (s : State) (w : Worker) (m : BitVec 16) : (s.suspend w m).cur = s.cur := by
  unfold State.suspend
  dsimp only
  split <;> rfl

theorem suspend_mem (s : State) (w : Worker) (m : BitVec 16) : (s.suspend w m).mem = s.mem := by
  unfold State.suspend
  dsimp only
  split <;> rfl

/-- A worker that is free for its next record keeps the entries of the store. -/
theorem freeWorker_brood (s : State) (c : CoreNo) : (s.freeWorker.core c).brood = (s.core c).brood := by
  show ((s.setCore (s.core s.cur.core).retryAll).core c).brood = _
  have num : (s.core s.cur.core).retryAll.num = s.cur.core := core_num ..
  rcases eq_or_ne c s.cur.core with rfl | other
  · rw [core_setCore_of _ _ _ num]
    rfl
  · rw [core_setCore_ne _ _ _ (by rwa [num])]

/-- The state of a worker at depth 0 that has left its coroutine's level: its domain is the bottom one, and it has no port bound. -/
def State.coroutineLeft (s : State) : State :=
  let u := s.releasePorts s.cur s.cur.ports.toList
  { u with cur := { u.cur with
    dom := u.cur.botdom, vdid := (u.domain u.cur.botdom).vd, depth := 0, top := none, gates := [], susp := [], trapOpen := 0
    deferOver := false, ports := Vector.replicate 6 {}, vcmd := none } }

theorem coroutineLeft_worker (s : State) : s.coroutineLeft.cur.worker = s.cur.worker ∧ s.coroutineLeft.cur.pc = s.cur.pc := by
  have released := (releasePorts_released s s.cur s.cur.ports.toList).2
  unfold State.coroutineLeft
  generalize s.releasePorts s.cur s.cur.ports.toList = u at released
  exact ⟨(congrArg Thread.worker released :), (congrArg Thread.pc released :)⟩

section
variable {s : State} {g : KReg} (hg : GuardOn s g) (on : s.feature s.cur.vdid 3 = true)
include hg on

theorem kwait_no_worker (none_ : s.cur.worker = none) : exec (.kwait g) s = .next (s.trapped .prot 0x40001 s.cur.pc) := by
  show execKwait g s = _
  rw [execKwait, keyed_on hg on, none_, finish_trap]

theorem kend_no_worker (none_ : s.cur.worker = none) : exec (.kend g) s = .next (s.trapped .prot 0x40001 s.cur.pc) := by
  show execKend g s = _
  rw [execKend, keyed_on hg on, none_, finish_trap]

variable {w : Worker} (worker : s.cur.worker = some w) (quiet : s.cur.quiet = true)
include worker quiet

theorem kwait_suspends {m : BitVec 16} (may : kwaitCheck s w = .ok m) :
    exec (.kwait g) s = .next { (s.suspend w m).freeWorker with mark := .retired, popped := [] } := by
  show execKwait g s = _
  rw [execKwait, keyed_on hg on, worker]
  dsimp only
  rw [may]
  dsimp only
  rw [if_neg (by simp [quiet])]
  rfl

theorem kend_frees (idle : s.cur.vbusy = false) (bottom : s.cur.depth = 0) : exec (.kend g) s =
    .next { (s.coroutineLeft.retireEntry w.core w.stage (w.key.getD 0)).freeWorker with mark := .retired, popped := [] } := by
  have stays : s.leaveTo s.cur 0 = s := by rw [State.leaveTo, bottom]; rfl
  show execKend g s = _
  rw [execKend, keyed_on hg on, worker]
  dsimp only
  rw [if_neg (by simp [quiet, idle])]
  simp only [stays, if_pos (show s.cur.depth = 0#4 from bottom)]
  rfl

end

/-! ### `kopen` (R195, R197, R358) -/

/-- The slot of the handle that a stage descriptor names, and the workers that it asks for. -/
def stageSlot (w : Nat → Word) : Nat := ((w 4).extractLsb' 0 20).toNat
def stageWorkers (w : Nat → Word) : Nat := ((w 3).extractLsb' 0 3).toNat + 1

/-- What comes of opening the stage of a descriptor and a template. -/
def State.opening (s : State) (w v : Nat → Word) : WorkerStart :=
  let dom := s.domain s.cur.dom
  (s.readEntries dom [stageSlot w]).openStage (stageFrom s (s.core s.cur.core) dom w v)
    ((s.freeSlots s.cur.core dom.vd).take (stageWorkers w))

/-- The handle of the stage that is opened. -/
def State.openedHandle (s : State) (w v : Nat → Word) : Word :=
  let st := stageFrom s (s.core s.cur.core) (s.domain s.cur.dom) w v
  0#32 ++ st.hslot ++ st.gen

/-- How `kopen` ends with what came of the opening. -/
def opened (s : State) (d : XReg) (tnt : Bool) (handle : Word) (asked : State) : WorkerStart → Res
  | .later n ms => .park .held (asked.allocMiss s.cur.core n ms)
  | .failed held => kopenStatus (({ s with allocHeld := held } : State).vdSticky (s.domain s.cur.dom).vd flagNOSAVE) d tnt 5
  | .ok s1 => destX s1 d handle fun s2 => .done ((s2.setX d handle tnt).inFlight)

/-- What `kopen` does with the address of its descriptor. -/
def kopenAt (s : State) (d : XReg) (desc : Word) (tnt : Bool) (asked : State) : Res :=
  accessAligned s .read desc 64 fun ps s1 =>
    let r := s1.readDwords desc ps
    if !stageFieldsOk (r.2.domain r.2.cur.dom) (wordAt r.1) then kopenStatus r.2 d tnt 3
    else access r.2 .read (wordAt r.1 0) 128 fun qs s3 =>
      let q := s3.readDwords (wordAt r.1 0) qs
      openFrom q.2 d tnt (wordAt r.1) (wordAt q.1) asked

theorem exec_kopen {s s0 : State} {g : KReg} {d a : XReg} {desc : Word} {t : Bool} (hg : GuardOn s g)
    (on : s.feature s.cur.vdid 3 = true) (hf : PortsFit s [a] [d]) (hr : ReadsAs s a desc t s0) :
    exec (.kopen g d a) s = finish s (kopenAt s0 d desc t s) := by
  show execKopen g d a s = _
  rw [execKopen, keyed_on hg on, legal_fit hf, hr]
  rfl

section
variable {s s1 : State} {d : XReg} {desc : Word} {tnt : Bool} {asked : State} {ps : List Nat}

theorem kopenAt_misaligned (odd : desc.toNat % 64 ≠ 0) : kopenAt s d desc tnt asked = .trap .align desc := if_pos odd

variable (aligned : desc.toNat % 64 = 0) (grants : Grants s .read desc 64 ps s1)
include aligned grants

theorem kopenAt_bad_fields (bad : stageFieldsOk ((s1.readDwords desc ps).2.domain (s1.readDwords desc ps).2.cur.dom)
      (wordAt (s1.readDwords desc ps).1) = false) :
    kopenAt s d desc tnt asked = kopenStatus (s1.readDwords desc ps).2 d tnt 3 := by
  rw [kopenAt, accessAligned, if_neg (not_not.mpr aligned), grants]
  exact if_pos (by rw [bad]; rfl)

theorem kopenAt_opens {s3 : State} {qs : List Nat}
    (good : stageFieldsOk ((s1.readDwords desc ps).2.domain (s1.readDwords desc ps).2.cur.dom)
      (wordAt (s1.readDwords desc ps).1) = true)
    (template : Grants (s1.readDwords desc ps).2 .read (wordAt (s1.readDwords desc ps).1 0) 128 qs s3) :
    kopenAt s d desc tnt asked = openFrom (s3.readDwords (wordAt (s1.readDwords desc ps).1 0) qs).2 d tnt
      (wordAt (s1.readDwords desc ps).1) (wordAt (s3.readDwords (wordAt (s1.readDwords desc ps).1 0) qs).1) asked := by
  rw [kopenAt, accessAligned, if_neg (not_not.mpr aligned), grants]
  dsimp only
  rw [if_neg (by simp [good]), template]

end

section
variable {s : State} {d : XReg} {tnt : Bool} {w v : Nat → Word} {asked : State}

theorem openFrom_bad_template (bad : templateOk v = false) : openFrom s d tnt w v asked = kopenStatus s d tnt 3 :=
  if_pos (by rw [bad]; rfl)

variable (good : templateOk v = true) (there : presentAll ((s.domain s.cur.dom).htbase + 16 * stageSlot w) 16 = true)
include good there

/-- The template passes and the handle's slot exists: the order of the statuses that open nothing. -/
theorem openFrom_passes : openFrom s d tnt w v asked =
    if (s.hentry (s.domain s.cur.dom) (stageSlot w)).kind ≠ 0 then kopenStatus s d tnt 4
    else if 4 ≤ (s.core s.cur.core).stages.length then kopenStatus s d tnt 2
    else if (s.freeSlots s.cur.core (s.domain s.cur.dom).vd).length < stageWorkers w then kopenStatus s d tnt 1
    else opened s d tnt (s.openedHandle w v) asked (s.opening w v) := by
  have absent : ¬(!presentAll ((s.domain s.cur.dom).htbase + 16 * ((w 4).extractLsb' 0 20).toNat) 16) = true := by
    rw [stageSlot] at there
    rw [there]
    decide
  unfold openFrom
  dsimp only
  rw [if_neg (by simp [good]), if_neg absent]
  unfold State.opening stageSlot stageWorkers
  dsimp only
  generalize State.openStage _ _ _ = r
  cases r <;> rfl

theorem openFrom_taken (taken : (s.hentry (s.domain s.cur.dom) (stageSlot w)).kind ≠ 0) :
    openFrom s d tnt w v asked = kopenStatus s d tnt 4 := by
  rw [openFrom_passes good there, if_pos taken]

variable (vacant : ¬(s.hentry (s.domain s.cur.dom) (stageSlot w)).kind ≠ 0)
include vacant

theorem openFrom_full (full : 4 ≤ (s.core s.cur.core).stages.length) : openFrom s d tnt w v asked = kopenStatus s d tnt 2 := by
  rw [openFrom_passes good there, if_neg vacant, if_pos full]

variable (room : (s.core s.cur.core).stages.length < 4)
include room

theorem openFrom_no_slots (few : (s.freeSlots s.cur.core (s.domain s.cur.dom).vd).length < stageWorkers w) :
    openFrom s d tnt w v asked = kopenStatus s d tnt 1 := by
  rw [openFrom_passes good there, if_neg vacant, if_neg (not_le.mpr room), if_pos few]

theorem openFrom_opens (slots : stageWorkers w ≤ (s.freeSlots s.cur.core (s.domain s.cur.dom).vd).length) :
    openFrom s d tnt w v asked = opened s d tnt (s.openedHandle w v) asked (s.opening w v) := by
  rw [openFrom_passes good there, if_neg vacant, if_neg (not_le.mpr room), if_neg (not_lt.mpr slots)]

end

/-- A word that ends in writing a status. -/
theorem kopenStatus_retires {i : Instr} {s u : State} {d : XReg} {tnt : Bool} {n : Nat} (he : exec i s = finish s (kopenStatus u d tnt n))
    (z : State) (takes : Takes u d (BitVec.ofNat 64 (n * 2 ^ 32)) z) :
    Retires i s (z.setX d (BitVec.ofNat 64 (n * 2 ^ 32)) tnt).inFlight := by
  rw [Retires, he, kopenStatus, takes, finish_done]

/-! ### `kclose` (R204) -/

/-- A handle-table entry that is dropped is written as an access of the part. -/
theorem accessed_dropEntry (s : State) (d : Domain) (slot : Nat) : Accessed s (s.dropEntry d slot) := by
  unfold State.dropEntry State.partWrite
  dsimp only
  rw [if_pos (by simp)]
  exact accessed_physWrite ..

/-- What `kclose` does with a stage of its domain, once its register can be written. -/
def closeStage (s : State) (d : XReg) (tnt : Bool) (e : HEntry) : Res :=
  if s.cur.worker.any fun w => w.core == e.core && w.stage == s.linkOf s.cur.dom e.slot then .trap .prot 0x40006
  else
    let u := s.dropEntry (s.domain s.cur.dom) e.slot
    match s.stageOf s.cur.dom e with
    | none => .done ((u.setX d 0 tnt).inFlight)
    | some g => .park .closing
        ({ u with popped := [] }.modStage e.core g.id fun g => { g with closing := some s.cur.num, failed := [] })

section
variable {s : State} {g : KReg} {d a : XReg} {x : Word} {t : Bool} {s1 : State} (hg : GuardOn s g)
  (on : s.feature s.cur.vdid 3 = true) (hf : PortsFit s [a] [d]) (hr : ReadsAs s a x t s1)
include hg on hf hr

theorem kclose_closed {n : Word} {s2 : State} (closed : s.cur.closed = some n) (takes : Takes s1 d n s2) :
    Retires (.kclose g d a) s { s2.setX d n t with cur := { (s2.setX d n t).cur with closed := none } } := by
  show execKclose g d a s = _
  rw [execKclose, keyed_on hg on, legal_fit hf, closed]
  dsimp only
  rw [hr, takes, finish_done]

variable {e : HEntry} {s2 : State} (opened : s.cur.closed = none) (finds : FindsEntry s1 x 3 e s2)
include opened finds

theorem exec_kclose : exec (.kclose g d a) s = finish s (
    if e.odom ≠ s2.cur.dom then .trap .prot 0x40007 else destX s2 d 0 fun s3 => closeStage s3 d t e) := by
  show execKclose g d a s = _
  rw [execKclose, keyed_on hg on, legal_fit hf, opened]
  dsimp only
  rw [hr, ownStage, finds]
  rfl

theorem kclose_foreign (foreign : e.odom ≠ s2.cur.dom) : exec (.kclose g d a) s = .next (s.trapped .prot 0x40007 s.cur.pc) := by
  rw [exec_kclose hg on hf hr opened finds, if_pos foreign, finish_trap]

theorem kclose_own {s3 : State} (own : e.odom = s2.cur.dom) (takes : Takes s2 d 0 s3) :
    exec (.kclose g d a) s = finish s (closeStage s3 d t e) := by
  rw [exec_kclose hg on hf hr opened finds, if_neg (not_not.mpr own), takes]

end

theorem closeStage_inside {s : State} {e : HEntry} (d : XReg) (tnt : Bool)
    (inside : (s.cur.worker.any fun w => w.core == e.core && w.stage == s.linkOf s.cur.dom e.slot) = true) :
    closeStage s d tnt e = .trap .prot 0x40006 := if_pos inside

section
variable {s : State} {e : HEntry} (d : XReg) (tnt : Bool)
  (outside : (s.cur.worker.any fun w => w.core == e.core && w.stage == s.linkOf s.cur.dom e.slot) = false)
include outside

theorem closeStage_gone (gone : s.stageOf s.cur.dom e = none) : closeStage s d tnt e =
    .done (((s.dropEntry (s.domain s.cur.dom) e.slot).setX d 0 tnt).inFlight) := by
  rw [closeStage, if_neg (Bool.not_eq_true _ ▸ outside), gone]

theorem closeStage_asks {g : Stage} (found : s.stageOf s.cur.dom e = some g) : closeStage s d tnt e = .park .closing
    ({ s.dropEntry (s.domain s.cur.dom) e.slot with popped := [] }.modStage e.core g.id fun g =>
      { g with closing := some s.cur.num, failed := [] }) := by
  rw [closeStage, if_neg (Bool.not_eq_true _ ▸ outside), found]

end

/-- A changed stage is the one of its number. -/
theorem modStage_changes {s : State} {c : CoreNo} {id : Nat} {f : Stage → Stage} {z : Stage}
    (mem : z ∈ ((s.modStage c id f).core c).stages) (same : z.id = id) : ∃ g, z = f g := by
  rw [modStage_core] at mem
  obtain ⟨g, -, rfl⟩ := List.mem_map.mp mem
  split at same
  · next here => exact ⟨g, if_pos here⟩
  · next other => exact absurd same other

/-! ### `kstat` (R205) -/

/-- What `kstat` reads of a stage. -/
def stageWord (k : Core) (b : XReg) : Option Stage → Word
  | none => 0
  | some z => if b = 1 then Stage.summary k z else z.counts.getD (b.toNat - 2) 0

/-- The state once `kstat` has read a stage: selector 1 clears two of its flags. -/
def State.stageRead (s : State) (c : CoreNo) (b : XReg) : Option Stage → State
  | none => s
  | some z => if b = 1 then s.modStage c z.id fun g => { g with refusedFlag := false, failFlag := false } else s

theorem stageRead_eq (s : State) (c : CoreNo) (b : XReg) (z : Option Stage) :
    s.stageRead c b z = { s with cores := (s.stageRead c b z).cores } := by
  unfold State.stageRead
  split
  · rfl
  · split <;> rfl

section
variable {s : State} {g : KReg} {d a b : XReg} (hg : GuardOn s g) (on : s.feature s.cur.vdid 3 = true)
include hg on

theorem kstat_illegal (high : 7 < b.toNat) : exec (.kstat g d a b) s = .next (s.trapped .illegal s.bundle s.cur.pc) := by
  show execKstat g d a b s = _
  rw [execKstat, keyed_on hg on, if_pos high, finish_trap]

theorem kstat_key (zero : b = 0) (hf : PortsFit s [] [d]) :
    Gives (.kstat g d a b) s s d ((s.cur.worker.bind Worker.key).getD 0) false := by
  intro s3 takes
  show execKstat g d a b s = _
  rw [execKstat, keyed_on hg on, if_neg (by rw [zero]; decide), if_pos (by rw [zero]; rfl), legal_fit hf, putX_takes takes, finish_done]

variable {h : Word} {t : Bool} {e : HEntry} {s1 s2 : State} (low : 1 ≤ b.toNat) (high : b.toNat ≤ 7) (hf : PortsFit s [a] [d])
  (hr : ReadsAs s a h t s1) (finds : FindsEntry s1 h 3 e s2)
include low high hf hr finds

theorem exec_kstat : exec (.kstat g d a b) s = finish s (
    if e.odom ≠ s2.cur.dom then .trap .prot 0x40007
    else destX s2 d (stageWord (s2.core e.core) b (s2.stageOf s2.cur.dom e)) fun s3 =>
      .done (((s3.stageRead e.core b (s2.stageOf s2.cur.dom e)).setX d
        (stageWord (s2.core e.core) b (s2.stageOf s2.cur.dom e)) t).inFlight)) := by
  have nonzero : b ≠ 0#4 := by rintro rfl; simp at low
  show execKstat g d a b s = _
  rw [execKstat, keyed_on hg on, if_neg (by omega), if_neg nonzero, legal_fit hf, hr, ownStage, finds]
  cases s2.stageOf s2.cur.dom e <;> rfl

theorem kstat_foreign (foreign : e.odom ≠ s2.cur.dom) : exec (.kstat g d a b) s = .next (s.trapped .prot 0x40007 s.cur.pc) := by
  rw [exec_kstat hg on low high hf hr finds, if_pos foreign, finish_trap]

theorem kstat_reads {s3 : State} (own : e.odom = s2.cur.dom)
    (takes : Takes s2 d (stageWord (s2.core e.core) b (s2.stageOf s2.cur.dom e)) s3) :
    Retires (.kstat g d a b) s ((s3.stageRead e.core b (s2.stageOf s2.cur.dom e)).setX d
      (stageWord (s2.core e.core) b (s2.stageOf s2.cur.dom e)) t).inFlight := by
  rw [Retires, exec_kstat hg on low high hf hr finds, if_neg (not_not.mpr own), takes, finish_done]

end

/-! ### The obligation -/

/-- Settles O32, word by word: each lemma above states what one word does, by the branches of its operation. -/
theorem keyedWords : Obligations.KeyedWords := by
  unfold Obligations.KeyedWords
  refine ⟨fun s g hg off d a b => keyedWord_off hg off d a b, fun s g hg on => ?_⟩
  refine ⟨?kput, ?noWorker, ?kwait, ?kend, ?kopen, ?kclose, ?kstat⟩
  case kput =>
    intro a b h t vs e s1 s2 s3 low hf hr hv he
    refine ⟨kput_waits hg on low hf hr hv he, fun room => ?_⟩
    exact ⟨_, _, kput_stages hg on low hf hr hv he room, rfl, rfl, stage_retry .., rfl, rfl, rfl⟩
  case noWorker => exact fun none_ => ⟨kwait_no_worker hg on none_, kend_no_worker hg on none_⟩
  case kwait =>
    intro w m worker may quiet
    have cur := suspend_cur s w m
    have mem := suspend_mem s w m
    have run := kwait_suspends hg on worker quiet may
    generalize s.suspend w m = u at cur mem run
    exact ⟨_, run, rfl, rfl, congrArg (fun t : Thread => t.pc + 4) cur,
      congrArg (Option.map _) ((congrArg Thread.worker cur).trans worker), mem⟩
  case kend =>
    intro w worker quiet idle bottom
    obtain ⟨hw, hpc⟩ := coroutineLeft_worker s
    have run := kend_frees hg on worker quiet idle bottom
    generalize s.coroutineLeft = l at hw hpc run
    have gone := retireEntry_gone l w.core w.stage (w.key.getD 0)
    have cur : (l.retireEntry w.core w.stage (w.key.getD 0)).cur = l.cur := rfl
    generalize l.retireEntry w.core w.stage (w.key.getD 0) = u at gone run cur
    have frees := freeWorker_brood u w.core
    refine ⟨_, run, rfl, rfl, congrArg (· + 4) ((congrArg Thread.pc cur).trans hpc),
      congrArg (Option.map _) ((congrArg Thread.worker cur).trans (hw.trans worker)), ?_⟩
    have core : Core.broodOf (u.freeWorker.core w.core) w.stage (w.key.getD 0) = (u.core w.core).broodOf w.stage (w.key.getD 0) := by
      rw [Core.broodOf, frees, Core.broodOf]
    exact core.trans gone
  case kopen =>
    intro d a desc t s0 s1 ps hf hr
    have run := exec_kopen hg on hf hr
    refine ⟨fun odd => by rw [run, kopenAt_misaligned odd, finish_trap], fun aligned grants =>
      ⟨fun bad z takes => ?_, fun qs s3 good template => ?_⟩⟩
    · rw [kopenAt_bad_fields aligned grants bad] at run
      exact kopenStatus_retires run z takes
    · rw [kopenAt_opens aligned grants good template] at run
      dsimp only
      generalize (s3.readDwords (wordAt (s1.readDwords desc ps).1 0) qs).2 = s4 at run ⊢
      generalize wordAt (s3.readDwords (wordAt (s1.readDwords desc ps).1 0) qs).1 = v at run ⊢
      generalize wordAt (s1.readDwords desc ps).1 = w at run ⊢
      refine ⟨fun bad z takes => ?_, fun tmpl there =>
        ⟨fun taken z takes => ?_, fun vacant full z takes => ?_, fun vacant room =>
          ⟨fun few z takes => ?_, fun s5 slots ok z takes => ?_, fun held slots failed z takes => ?_, fun n ms slots later => ?_⟩⟩⟩
      · exact kopenStatus_retires (run.trans (congrArg _ (openFrom_bad_template bad))) z takes
      · exact kopenStatus_retires (run.trans (congrArg _ (openFrom_taken tmpl there taken))) z takes
      · exact kopenStatus_retires (run.trans (congrArg _ (openFrom_full tmpl there vacant full))) z takes
      · exact kopenStatus_retires (run.trans (congrArg _ (openFrom_no_slots tmpl there vacant room few))) z takes
      · rw [openFrom_opens tmpl there vacant room slots, show s4.opening w v = _ from ok] at run
        rw [Retires, run]
        exact (congrArg (finish s) (takes _)).trans (finish_done ..)
      · rw [openFrom_opens tmpl there vacant room slots, show s4.opening w v = _ from failed] at run
        exact kopenStatus_retires run z takes
      · rw [openFrom_opens tmpl there vacant room slots, show s4.opening w v = _ from later] at run
        exact run.trans (finish_park ..)
  case kclose =>
    intro d a x t s1 hf hr
    refine ⟨fun n s2 closed takes => ?_, fun e s2 open_ finds => ⟨kclose_foreign hg on hf hr open_ finds, fun s3 own takes => ?_⟩⟩
    · exact ⟨_, kclose_closed hg on hf hr closed takes, rfl, fun free => setX_reads free n t⟩
    · have run := kclose_own hg on hf hr open_ finds own takes
      refine ⟨fun inside => ?_, fun st outside found => ?_, fun outside gone => ?_⟩
      · rw [run, closeStage_inside d t inside, finish_trap]
      · rw [closeStage_asks d t outside found, finish_park] at run
        refine ⟨_, run, fun z mem same => ?_⟩
        obtain ⟨g, rfl⟩ := modStage_changes mem same
        rfl
      · rw [closeStage_gone d t outside gone, finish_done] at run
        refine ⟨_, run, fun free => ?_⟩
        have cur := (accessed_dropEntry s3 (s3.domain s3.cur.dom) e.slot).cur
        obtain ⟨reg, taint, -⟩ := setX_reads (cur ▸ free) 0 t
        exact ⟨reg, taint⟩
  case kstat =>
    intro d a b
    refine ⟨kstat_illegal hg on, kstat_key hg on, fun h t e s1 s2 low high hf hr finds =>
      ⟨kstat_foreign hg on low high hf hr finds, fun own => ?_⟩⟩
    intro v s3 takes
    have same : v = stageWord (s2.core e.core) b (s2.stageOf s2.cur.dom e) := by
      cases h : s2.stageOf s2.cur.dom e <;> simp only [v, h, stageWord]
    rw [same] at takes ⊢
    refine ⟨_, kstat_reads hg on low high hf hr finds own takes, fun free => ?_⟩
    have state := stageRead_eq s3 e.core b (s2.stageOf s2.cur.dom e)
    generalize s3.stageRead e.core b (s2.stageOf s2.cur.dom e) = u at state ⊢
    have cur : u.cur = s3.cur := (congrArg State.cur state :)
    obtain ⟨reg, taint, mem⟩ := setX_reads (cur ▸ free) (stageWord (s2.core e.core) b (s2.stageOf s2.cur.dom e)) t
    exact ⟨reg, taint, mem.trans (congrArg State.mem state :)⟩

end Sys2Proof.Machine
end

section
/-! PROOF. Records arrive and run, entries resume or retire, stages close (R198, R200, R203, R204, R336). -/

namespace Sys2Proof.Machine
open Sys2Proof.Safety

/-- A field of the cores stays where the core that is put back has it as before. -/
theorem setCore_keeps {γ : Type} (p : Core → γ) {s : State} {k : Core} {n : CoreNo} (num : k.num = n) (same : p k = p (s.core n))
    (c : CoreNo) : p ((s.setCore k).core c) = p (s.core c) := by
  subst num
  rcases eq_or_ne c k.num with rfl | other
  · rw [core_setCore, same]
  · rw [core_setCore_ne _ _ _ other]

/-! ### A record arrives at its stage (R199, R200) -/

/-- The stage of a number on a core is put in its place. -/
def State.putStage (s : State) (k : CoreNo) (g : Stage) : State :=
  s.setCore { s.core k with stages := (s.core k).stages.map fun h => if h.id == g.id then g else h }

/-- What waits after a failure on a core is tried again. -/
def State.retryStages (s : State) (k : CoreNo) : State := s.setCore (s.core k).retryAll

theorem putStage_retry (s : State) (k c : CoreNo) (g : Stage) : ((s.putStage k g).core c).retry = (s.core c).retry :=
  setCore_keeps Core.retry (by exact core_num s k) (by rfl) c

theorem retryStages_retry (s : State) (k c : CoreNo) : ((s.retryStages k).core c).retry = (s.core c).retry :=
  setCore_keeps Core.retry (by exact core_num s k) (by rfl) c

theorem restage_stages (s : State) (c k : CoreNo) (m : Msg) (r : Option Msg) : ((s.restage c m r).core k).stages = (s.core k).stages := by
  rw [restage_core]

/-- A change of stages that keeps their numbers changes the one that is found by its number. -/
theorem find?_map_stage {l : List Stage} {id : Nat} {g : Stage} {f : Stage → Stage} (hf : ∀ h ∈ l, (f h).id = h.id)
    (found : l.find? (fun h => h.id == id) = some g) : (l.map f).find? (fun h => h.id == id) = some (f g) := by
  induction l with
  | nil => cases found
  | cons a r ih =>
    rw [List.map_cons]
    rw [List.find?_cons] at found ⊢
    rw [hf a List.mem_cons_self]
    cases here : a.id == id with
    | true =>
      rw [here] at found
      exact congrArg (some ∘ f) (Option.some.inj found)
    | false =>
      rw [here] at found
      exact ih (fun h hh => hf h (List.mem_cons_of_mem _ hh)) found

theorem putStage_find? {s : State} {k : CoreNo} {id : Nat} {g h : Stage} (found : (s.core k).stages.find? (fun h => h.id == id) = some g)
    (same : h.id = g.id) : ((s.putStage k h).core k).stages.find? (fun h => h.id == id) = some h := by
  rw [State.putStage, core_setCore_of _ _ k (by exact core_num ..)]
  refine (find?_map_stage (fun x _ => ?_) found).trans (congrArg some (if_pos (by simp [same])))
  split
  · next e => exact (beq_iff_eq.mp e).symm
  · rfl

theorem retryStages_find? {s : State} {k : CoreNo} {id : Nat} {g : Stage} (found : (s.core k).stages.find? (fun h => h.id == id) = some g) :
    ((s.retryStages k).core k).stages.find? (fun h => h.id == id) =
      some { g with failed := [], held := g.held.filter fun h => !h.2.2 } := by
  rw [State.retryStages, core_setCore_of _ _ k (by exact core_num ..)]
  exact find?_map_stage (f := fun g => { g with failed := [], held := g.held.filter fun h => !h.2.2 }) (fun _ _ => rfl) found

section
variable {s : State} {c k : CoreNo} {id : Nat} {m : Msg} {g : Stage}

theorem exec_keyedRecordArrival
    (first : (s.core c).retry.find? (fun m => m.stage.isSome && !m.refused && m.nacks == 0 && s.inOrder m) = some m)
    (at_ : m.stage = some (k, id)) : exec (.keyedRecordArrival c) s = .next (s.sendRecord c m (k, id)) := by
  show execKeyedRecordArrival c s = _
  rw [execKeyedRecordArrival, first]
  dsimp only
  rw [at_]

variable (found : (s.core k).stages.find? (fun h => h.id == id) = some g) (open_ : g.closing = none)
  (live : (s.domain g.dom).life = .live) (takes : s.refuses k c 2 = false) (up : s.restarting ≠ some k)
include found open_ live takes up

theorem sendRecord_queues (room : g.queue.length < 128) :
    s.sendRecord c m (k, id) = ((s.restage c m none).putStage k { g.count 0 with queue := g.queue ++ [m.payload] }).retryStages k := by
  unfold State.sendRecord
  dsimp only
  rw [if_neg (by simp [up]), found]
  dsimp only
  rw [if_neg (by simp [open_, live, takes]), if_neg (not_le.mpr room)]
  rfl

theorem sendRecord_refuses (full : 128 ≤ g.queue.length) : s.sendRecord c m (k, id) =
    (s.restage c m (some { m with refused := true })).putStage k { g.count 5 with refusedFlag := true } := by
  unfold State.sendRecord
  dsimp only
  rw [if_neg (by simp [up]), found]
  dsimp only
  rw [if_neg (by simp [open_, live, takes]), if_pos full]
  rfl

end

/-! ### The entry that makes room (R336) -/

/-- Of two entries, the first of those with the smaller age. -/
def older (o : Option Brood) (b : Brood) : Option Brood := match o with
  | none => some b
  | some a => if b.age.toNat < a.age.toNat then some b else some a

theorem oldestIdle_eq (l : List Brood) : oldestIdle l = (l.filter fun b => b.life == .idle).foldl older none := rfl

/-- Going on from an entry, the fold ends at an entry that is no younger than it or any of the list. -/
theorem foldl_older {l : List Brood} {o : Option Brood} {b : Brood} (h : l.foldl older o = some b) :
    (o = some b ∨ b ∈ l) ∧ (∀ a, o = some a → b.age.toNat ≤ a.age.toNat) ∧ ∀ e ∈ l, b.age.toNat ≤ e.age.toNat := by
  induction l generalizing o with
  | nil => exact ⟨.inl h, fun a ha => by cases ha.symm.trans h; exact le_rfl, nofun⟩
  | cons e r ih =>
    rw [List.foldl_cons] at h
    obtain ⟨from_, le, least⟩ := ih h
    cases o with
    | none =>
      refine ⟨.inr ?_, nofun, List.forall_mem_cons.mpr ⟨le e rfl, least⟩⟩
      rcases from_ with first | later
      · exact Option.some.inj first ▸ List.mem_cons_self
      · exact List.mem_cons_of_mem _ later
    | some a =>
      by_cases younger : e.age.toNat < a.age.toNat
      · have step : older (some a) e = some e := if_pos younger
        rw [step] at from_ le
        have below := le e rfl
        refine ⟨.inr ?_, fun x hx => ?_, List.forall_mem_cons.mpr ⟨below, least⟩⟩
        · rcases from_ with first | later
          · exact Option.some.inj first ▸ List.mem_cons_self
          · exact List.mem_cons_of_mem _ later
        · cases hx
          omega
      · have step : older (some a) e = some a := if_neg younger
        rw [step] at from_ le
        have below := le a rfl
        refine ⟨from_.imp_right (List.mem_cons_of_mem _), le, List.forall_mem_cons.mpr ⟨by omega, least⟩⟩

theorem oldestIdle_spec {l : List Brood} {b : Brood} (h : oldestIdle l = some b) :
    b ∈ l ∧ b.life = .idle ∧ ∀ e ∈ l, e.life = .idle → b.age.toNat ≤ e.age.toNat := by
  rw [oldestIdle_eq] at h
  obtain ⟨from_, -, least⟩ := foldl_older h
  obtain ⟨mem, idle⟩ := List.mem_filter.mp (from_.resolve_left nofun)
  exact ⟨mem, beq_iff_eq.mp idle, fun e he ie => least e (List.mem_filter.mpr ⟨he, beq_iff_eq.mpr ie⟩)⟩

/-- The entries of the store that count: the one that is being spilled does not (log entry 22). -/
def Core.here (k : Core) : List Brood := k.brood.filter fun b => b.life != .spilling

/-- Those of a stage. -/
def Core.mine (k : Core) (g : Stage) : List Brood := k.here.filter fun b => b.stage == g.id

theorem room_cases {k : Core} {g : Stage} {b : Brood} (h : k.room g = some (some b)) :
    g.limit ≤ (k.mine g).length ∧ oldestIdle (k.mine g) = some b ∨
      (k.mine g).length < g.limit ∧ 64 ≤ k.here.length ∧ oldestIdle k.here = some b := by
  have split_ : k.room g = if g.limit ≤ (k.mine g).length then (oldestIdle (k.mine g)).map some
      else if 64 ≤ k.here.length then (oldestIdle k.here).map some else some none := rfl
  rw [split_] at h
  by_cases limit : g.limit ≤ (k.mine g).length
  · rw [if_pos limit] at h
    exact .inl ⟨limit, by simpa using h⟩
  · rw [if_neg limit] at h
    by_cases full : 64 ≤ k.here.length
    · rw [if_pos full] at h
      exact .inr ⟨not_le.mp limit, full, by simpa using h⟩
    · rw [if_neg full] at h
      cases h

theorem room_spec {k : Core} {g : Stage} {b : Brood} (h : k.room g = some (some b)) : b ∈ k.brood ∧ b.life = .idle ∧
    (g.limit ≤ (k.mine g).length → b.stage = g.id ∧ ∀ e ∈ k.mine g, e.life = .idle → b.age.toNat ≤ e.age.toNat) ∧
    ((k.mine g).length < g.limit → 64 ≤ k.here.length ∧ ∀ e ∈ k.here, e.life = .idle → b.age.toNat ≤ e.age.toNat) := by
  rcases room_cases h with ⟨limit, oldest⟩ | ⟨below, full, oldest⟩
  · obtain ⟨mem, idle, least⟩ := oldestIdle_spec oldest
    obtain ⟨here, stage⟩ := List.mem_filter.mp mem
    exact ⟨(List.mem_filter.mp here).1, idle, fun _ => ⟨beq_iff_eq.mp stage, least⟩, fun below => absurd below (not_lt.mpr limit)⟩
  · obtain ⟨mem, idle, least⟩ := oldestIdle_spec oldest
    exact ⟨(List.mem_filter.mp mem).1, idle, fun limit => absurd limit (not_le.mpr below), fun _ => ⟨full, least⟩⟩

/-! ### A coroutine runs (R198) -/

/-- The thread runs the coroutine of an entry of a stage at `pc`, with `x0` and `x1`. -/
structure RunsEntry (v : Thread) (c : CoreNo) (g : Stage) (b : Brood) (pc x0 x1 : Word) : Prop where
  pc : v.pc = pc &&& ~~~3
  wait : v.wait = none
  x0 : v.reg 0 = x0
  x1 : v.reg 1 = x1
  regs : ∀ q : XReg, 2 ≤ q.toNat → v.reg q = maskedRegs b.mask b.regs q.toNat
  pw : v.pw = b.pw ||| 1
  worker : v.worker = some { core := c, stage := g.id, key := some b.key }

/-- How a worker stands while it runs, and as what its thread begins. -/
def lifeOf (retire : Bool) : BroodLife := if retire then .retiring else .running
def startsAt (g : Stage) (b : Brood) (retire : Bool) : Word := if retire then g.retire else b.pc

section
variable {s : State} {c : CoreNo} {n : ThreadNo} {g : Stage} {b : Brood} {x0 x1 : Word} {retire : Bool}

theorem runEntry_thread {t : Thread} (there : s.thread? n = some t) :
    ∃ v, (s.runEntry c n g b x0 x1 retire).thread? n = some v ∧ RunsEntry v c g b (startsAt g b retire) x0 x1 := by
  unfold State.runEntry
  dsimp only
  refine ⟨_, (thread_modThread _ _ _ (by exact fun _ => rfl)).trans (congrArg (Option.map _) there), rfl, rfl,
    regFile_getElem _ 0, regFile_getElem _ 1, fun q hq => ?_, rfl, rfl⟩
  refine (regFile_getElem _ q).trans ?_
  rw [if_neg (by omega), if_neg (by omega)]

theorem runEntry_brood : { b with life := lifeOf retire } ∈ ((s.runEntry c n g b x0 x1 retire).core c).brood := by
  unfold State.runEntry
  dsimp only
  rw [modThread_core, core_setCore_of _ _ c (by exact core_num ..)]
  exact List.mem_append_right _ (List.mem_singleton_self _)

end

/-- What a read of the entry counts and finds leaves the coroutine. -/
theorem RunsEntry.event {v : Thread} {c : CoreNo} {g : Stage} {b : Brood} {pc x0 x1 : Word} (h : RunsEntry v c g b pc x0 x1) (e n : Nat)
    (doom : Option Bool) : RunsEntry { v.event e n with doom := doom } c g b pc x0 x1 := by
  rw [event_evcnt_only]
  obtain ⟨hpc, wait, r0, r1, regs, pw, worker⟩ := h
  exact ⟨hpc, wait, r0, r1, regs, pw, worker⟩

/-! ### The store decides an item (R200) -/

section
variable {s s1 u : State} {c : CoreNo} {g : Stage} {t : Thread} {ts : List Thread} {r : Work} {rs : List Work} {retire : Bool}
  {items : State → CoreNo → Stage → List Work} {before : List Stage}

/-- A stage with an item that may start and a worker that is ready takes its turn. -/
theorem stageTurn_decides (todo : items s c g = r :: rs) (ready : s.readyWorkers c g = (s1, t :: ts))
    (decided : s1.decideItem c t.num g r retire = some u) : s.stageTurn c retire items g = (u, true) := by
  unfold State.stageTurn
  rw [todo]
  dsimp only
  rw [ready]
  dsimp only
  rw [State.takeItem, decided]
  rfl

/-- The first stage in turn with something to start has its turn. -/
theorem stageTurns_first {after : List Stage} (skip : ∀ h ∈ before, items s c h = [])
    (turn : s.stageTurn c retire items g = (u, true)) :
    s.stageTurns c retire items (before ++ g :: after) = u := by
  induction before with
  | nil => rw [List.nil_append, State.stageTurns, turn]; rfl
  | cons h hs ih =>
    have idle : s.stageTurn c retire items h = (s, false) := by
      unfold State.stageTurn
      rw [skip h List.mem_cons_self]
    rw [List.cons_append, State.stageTurns, idle]
    exact ih fun x hx => skip x (List.mem_cons_of_mem _ hx)

end

/-- An entry of a store that is read and leaves it changes none of the threads. -/
theorem meetEntry_thread? (s : State) (sp : Spot) (n : ThreadNo) : (s.meetEntry sp).1.thread? n = s.thread? n :=
  (accessed_meet s _).thread? n

/-- What is asked of a decision: the worker runs an entry, which is in the store with its new life. -/
def Decides (u : State) (c : CoreNo) (n : ThreadNo) (g : Stage) (b : Brood) (x0 x1 : Word) (retire : Bool) : Prop :=
  (∃ v, u.thread? n = some v ∧ RunsEntry v c g b (startsAt g b retire) x0 x1) ∧ { b with life := lifeOf retire } ∈ (u.core c).brood

theorem runEntry_decides {s : State} {c : CoreNo} {n : ThreadNo} {g : Stage} {b : Brood} {x0 x1 : Word} {retire : Bool}
    (there : (s.thread? n).isSome) : Decides (s.runEntry c n g b x0 x1 retire) c n g b x0 x1 retire := by
  obtain ⟨t, ht⟩ := Option.isSome_iff_exists.mp there
  exact ⟨runEntry_thread ht, runEntry_brood⟩

/-- A record that the store decides leaves its stage's queue; a retirement takes nothing. -/
def State.itemTaken (s : State) (c : CoreNo) (g : Stage) (r : Work) (retire : Bool) : State :=
  if retire then s else s.modStage c g.id fun g => { g with queue := g.queue.erase r }

theorem itemTaken_thread? (s : State) (c : CoreNo) (g : Stage) (r : Work) (retire : Bool) (n : ThreadNo) :
    (s.itemTaken c g r retire).thread? n = s.thread? n := by
  unfold State.itemTaken
  split <;> rfl

section
variable {s : State} {c : CoreNo} {n : ThreadNo} {g : Stage} {r : Work}

/-- The key is resident and idle: its coroutine resumes. -/
theorem decideItem_resident {b : Brood} {retire : Bool} (there : (s.thread? n).isSome) (resident : (s.core c).broodOf g.id r.key = some b)
    (idle : b.life = .idle) :
    ∃ u, s.decideItem c n g r retire = some u ∧ Decides u c n g b (r.getD 1 0) (r.getD 2 0) retire := by
  unfold State.decideItem
  dsimp only
  rw [resident]
  dsimp only
  rw [if_neg (by rw [idle]; decide)]
  have read : ((s.meetEntry (.brood c g.id r.key)).1.thread? n).isSome := by rwa [meetEntry_thread?]
  generalize s.meetEntry (.brood c g.id r.key) = m at read
  obtain ⟨s1, bad, fixed⟩ := m
  have taken := (itemTaken_thread? s1 c g r retire n).symm ▸ read
  dsimp only
  obtain ⟨⟨v, hv, runs⟩, mem⟩ := runEntry_decides (c := c) (g := g) (b := b) (x0 := r.getD 1 0) (x1 := r.getD 2 0) (retire := retire)
    taken
  refine ⟨_, rfl, ⟨_, ?_, runs.event 14 fixed (if bad then some true else v.doom)⟩, ?_⟩
  · exact (thread_modThread _ _ _ (by exact fun t => event_num t 14 fixed)).trans (congrArg (Option.map _) hv)
  · rwa [modThread_core]

end

/-! ### A key that is not resident and was never spilled starts at ENTRY (R200, R201) -/

section
variable (s : State) (c : CoreNo) (n : ThreadNo) (dm : DomNo) (k : Acc1) (l : List (Word × Nat))

/-- What neither the reads of a walk nor the entry of a page changes stays through a unit's translations. -/
theorem useTr_field {γ : Type} (p : State → γ) (walk : ∀ s c d va, p (State.noteWalk s c d va) = p s)
    (cached : ∀ s c d va t, p (cacheTr s c d va t) = p s) : p (s.useTr c n dm k l) = p s :=
  foldl_field p (fun _ _ => (cached ..).trans (walk ..)) _ s

theorem useTr_thread? (m : ThreadNo) : (s.useTr c n dm k l).thread? m = s.thread? m :=
  useTr_field s c n dm k l (fun u => u.thread? m) (fun s c d va => by rw [noteWalk_eq]; rfl) (fun s c d va t => by rw [cacheTr_eq]; rfl)

theorem useTr_mem : (s.useTr c n dm k l).mem = s.mem :=
  useTr_field s c n dm k l State.mem (fun s c d va => by rw [noteWalk_eq]) cacheTr_mem

theorem useTr_damage_nil (sound : s.damage = []) : (s.useTr c n dm k l).damage = [] :=
  foldl_keeps (P := fun u => u.damage = []) (fun u p hu => by rw [cacheTr_eq]; exact noteWalk_damage_nil hu ..) _ sound

end

theorem fatalAt_damage_nil {s : State} (sound : s.damage = []) (ps : List Nat) : s.fatalAt ps = false := by
  rw [State.fatalAt, sound, List.any_nil]

/-- The dwords of a spill record's bytes. -/
def recordWords (bs : List Byte) (j : Nat) : Word := leWord ((bs.drop (8 * j)).take 8)

/-- ST of a record is its byte 0x17, and above 2 reads as 2 (R201). -/
theorem recordSt_recordWords (bs : List Byte) : recordSt (recordWords bs) = min 2 (bs.getD 23 0).toNat := by
  have top : (recordWords bs 2).extractLsb' 56 8 = ((bs.drop 16).take 8).getD 7 0 := lane_leWord ((bs.drop 16).take 8) (i := 7) (by decide)
  rw [recordSt, top]
  simp [List.getD_eq_getElem?_getD]

section
variable {s u : State} {c : CoreNo} {n : ThreadNo} {g : Stage} {r : Work} {d d1 : Decision}

/-- A read of a spill record that is granted, with nothing ahead of it and no damage, finds the bytes in memory. -/
theorem spillRead_finds {i : Nat} {ps : List Nat} (grants : engineAccess s c n g.dom g.held .read (g.recordAt i) 128 = .ok ps)
    (ahead : s.engineBehind c ps = false) (sound : s.damage = []) :
    ∃ u, spillRead s c n g i = .ok (recordWords (ps.map (memGet s.mem))) u ∧ (u.thread? n).isSome = (s.thread? n).isSome := by
  unfold spillRead spillAccess
  rw [grants]
  dsimp only
  rw [if_neg (by rw [ahead]; decide)]
  have threads := useTr_thread? s c n g.dom .read [(g.recordAt i, 128)] n
  have mem := useTr_mem s c n g.dom .read [(g.recordAt i, 128)]
  have clean := useTr_damage_nil s c n g.dom .read [(g.recordAt i, 128)] sound
  generalize s.useTr c n g.dom .read [(g.recordAt i, 128)] = v at threads mem clean
  have found : (v.readBytes (spillSource s c n) 0 (g.recordAt i).toNat ps).1 = ps.map (memGet s.mem) := by
    rw [← mem, ← peek_sound (fatalAt_damage_nil clean ps)]
    rfl
  have good := (readBytes_bad v (spillSource s c n) 0 (g.recordAt i).toNat ps).trans (fatalAt_damage_nil clean ps)
  have accessed := accessed_readBytes v (spillSource s c n) 0 (g.recordAt i).toNat ps
  generalize v.readBytes (spillSource s c n) 0 (g.recordAt i).toNat ps = read at found good accessed
  obtain ⟨bs, bad, fixed, v1⟩ := read
  dsimp only at found good accessed ⊢
  subst found good
  refine ⟨_, rfl, ?_⟩
  rw [thread_modThread _ _ _ fun t => event_num t 14 fixed, Option.isSome_map, accessed.thread?, threads]

theorem runDecision_goes_on {fuel : Nat} (more : d.next.isNone = false) (step : d.access c g s = .ok d1 u) :
    s.runDecision c g (fuel + 1) d = u.runDecision c g fuel d1 := by
  rw [State.runDecision, if_neg (by simp [more]), step]

theorem runDecision_ends {fuel : Nat} (ended : d.next.isNone = true) : s.runDecision c g (fuel + 1) d = s.endDecision c g d := by
  rw [State.runDecision, if_pos ended]

/-- A probe that finds an empty record brings a new coroutine. -/
theorem access_look_empty {i left : Nat} {w : Nat → Word} (look : d.next = some (.look i (left + 1))) (new : d.retire = false)
    (read : spillRead s c d.worker g i = .ok w u) (empty : recordSt w = 0) :
    d.access c g s = .ok (d.fetched (s.core c) (some (d.fresh g))) u := by
  unfold Decision.access
  dsimp only
  rw [look]
  dsimp only
  rw [read, Spl.bind, if_pos empty, new]
  rfl

/-- The decision of a record for which nothing must be spilled. -/
def State.decisionOf (s : State) (g : Stage) (n : ThreadNo) (r : Work) : Decision :=
  { stage := g.id, worker := n, item := r, retire := false, at_ := s.cyc, victim := none, next := some (.look (g.home r.key) g.spn) }

/-- The store holds a place for the entry that a decision fetches. -/
def State.fetchingFor (s : State) (c : CoreNo) (g : Stage) (key : Word) : State :=
  s.setCore { s.core c with brood := (s.core c).brood ++ [{
    stage := g.id, key := key, pc := g.entry, pw := 1, mask := g.initMask, regs := g.initVals, age := s.cyc, life := .fetching }] }

theorem decideItem_fetches (absent : (s.core c).broodOf g.id r.key = none) (room : (s.core c).room g = some none) :
    s.decideItem c n g r false = some ((s.fetchingFor c g r.key).runDecision c g (g.spn + 8) (s.decisionOf g n r)) := by
  have kept (l : List Brood) : (l.map fun b =>
      if (none : Option (Nat × Word)) = some (b.stage, b.key) then { b with life := .spilling } else b) = l := by
    simp
  unfold State.decideItem
  dsimp only
  rw [absent]
  dsimp only
  rw [room]
  dsimp only [Option.map_some, Option.map_none]
  rw [kept]
  rfl

theorem endDecision_decides {b : Brood} (entry : d.entry = some b) (there : (s.thread? d.worker).isSome) (new : d.retire = false) :
    Decides (s.endDecision c g d) c d.worker g b (d.item.getD 1 0) (d.item.getD 2 0) false := by
  unfold State.endDecision
  dsimp only
  rw [entry, new]
  exact runEntry_decides there

/-- The key is not resident and its spill record is empty: a new coroutine starts. -/
theorem decideItem_starts {ps : List Nat} (absent : (s.core c).broodOf g.id r.key = none) (room : (s.core c).room g = some none)
    (area : g.spn ≠ 0) (sound : s.damage = []) (there : (s.thread? n).isSome)
    (grants : engineAccess (s.fetchingFor c g r.key) c n g.dom g.held .read (g.recordAt (g.home r.key)) 128 = .ok ps)
    (ahead : (s.fetchingFor c g r.key).engineBehind c ps = false) (len : ps.length = 128) (empty : memGet s.mem (ps.getD 23 0) = 0) :
    ∃ u, s.decideItem c n g r false = some u ∧
      Decides u c n g ((s.decisionOf g n r).fresh g) (r.getD 1 0) (r.getD 2 0) false := by
  obtain ⟨u, read, kept⟩ := spillRead_finds (n := n) grants ahead sound
  have byte : (ps.map (memGet s.mem)).getD 23 0 = 0 := by
    rw [List.getD_eq_getElem _ _ (by simp [len]), List.getElem_map, ← empty, List.getD_eq_getElem _ _ (by omega)]
  have st : recordSt (recordWords (ps.map (memGet s.mem))) = 0 := by
    rw [recordSt_recordWords, byte]
    rfl
  obtain ⟨left, spn⟩ := Nat.exists_eq_succ_of_ne_zero area
  have probe := access_look_empty (d := s.decisionOf g n r) (left := left) (by rw [State.decisionOf, spn]) rfl read st
  refine ⟨_, decideItem_fetches absent room, ?_⟩
  rw [show g.spn + 8 = g.spn + 6 + 1 + 1 from rfl, runDecision_goes_on rfl probe, runDecision_ends rfl]
  exact endDecision_decides rfl (kept.trans there) rfl

end

/-! ### Retirement and closing (R203, R204) -/

/-- An entry that is due comes with payload words of 0. -/
theorem dueItems_payload {s : State} {c : CoreNo} {g : Stage} {r : Work} (due : r ∈ s.dueItems c g) :
    r.getD 1 0 = 0 ∧ r.getD 2 0 = 0 := by
  obtain ⟨p, -, rfl⟩ := List.mem_map.mp due
  exact ⟨rfl, rfl⟩

section
variable {s : State} {c : CoreNo} {g : Stage} {n : ThreadNo}

theorem exec_idleRetirement_closes (done : (s.core c).stages.find? (s.stageDone c) = some g) :
    exec (.idleRetirement c) s = .next (s.finishClose c g) := by
  show execIdleRetirement c s = _
  rw [execIdleRetirement, done]

theorem exec_idleRetirement_turns (none_ : (s.core c).stages.find? (s.stageDone c) = none) :
    exec (.idleRetirement c) s = .next (s.stageTurns c true State.dueItems (s.core c).stages) := by
  show execIdleRetirement c s = _
  rw [execIdleRetirement, none_]

theorem exec_broodDecision_turns (none_ : (s.core c).decisions.find? (s.mayGoOn c) = none) :
    exec (.broodDecision c) s = .next (s.stageTurns c false State.startable (s.core c).stages) := by
  show execBroodDecision c s = _
  rw [execBroodDecision, none_]

/-- The state once the workers of a stage are freed and the stage is gone. -/
def State.stageGone (s : State) (c : CoreNo) (g : Stage) : State :=
  let mine := (s.threads.filter fun t => t.worker.any fun w => w.core == c && w.stage == g.id).map Thread.num
  let s1 := mine.foldl (fun (s : State) n => s.endThread n .quit) s
  s1.setCore { s1.core c with stages := (s1.core c).stages.filter fun h => h.id != g.id }

theorem stageGone_stages (s : State) (c : CoreNo) (g : Stage) : ∀ h ∈ ((s.stageGone c g).core c).stages, h.id ≠ g.id := by
  rw [State.stageGone, core_setCore_of _ _ c (by exact core_num ..)]
  intro h mem
  exact bne_iff_ne.mp (List.mem_filter.mp mem).2

theorem finishClose_eq (closing : g.closing = some n) :
    s.finishClose c g = (s.stageGone c g).modThread n fun t => { t.retests with closed := some g.retiredByClose } := by
  unfold State.finishClose
  dsimp only
  rw [closing]
  rfl

end

/-! ### The obligation -/

/-- Settles O40: an arrival by the room in the queue, the oldest idle entry by induction on the list, the decision of an item by where
its key's entry is, and the closing by what its kclose finds. -/
theorem keyedEvents : Obligations.KeyedEvents := by
  unfold Obligations.KeyedEvents
  refine ⟨?arrival, ?decision, ?room, ?retirement, ?closing⟩
  case arrival =>
    intro s c k id m g first at_ found open_ live takes up
    have run := exec_keyedRecordArrival first at_
    have staged : m ∈ (s.core c).retry := List.mem_of_find?_eq_some first
    have stages (r : Option Msg) : ((s.restage c m r).core k).stages.find? (fun h => h.id == id) = some g := by
      rwa [restage_stages]
    refine ⟨fun room => ?_, fun full => ?_⟩
    · rw [sendRecord_queues found open_ live takes up room] at run
      refine ⟨_, _, run, rfl, ?_, retryStages_find? (putStage_find? (stages none) rfl), rfl, rfl⟩
      rw [retryStages_retry, putStage_retry, restage_retry]
      rfl
    · rw [sendRecord_refuses found open_ live takes up full] at run
      refine ⟨_, _, run, rfl, ?_, putStage_find? (stages _) rfl, rfl, rfl⟩
      rw [putStage_retry, restage_retry]
      exact mem_putMsg staged
  case decision =>
    intro s s1 c g before after t w ts r rs stages skip todo idle ready sound there starts
    have turn (b : Brood) (decided : ∃ u, s1.decideItem c t.num g r false = some u ∧
        Decides u c t.num g b (r.getD 1 0) (r.getD 2 0) false) : starts b := by
      obtain ⟨u, decides, ⟨v, hv, runs⟩, mem⟩ := decided
      have run := exec_broodDecision_turns idle
      rw [stages, stageTurns_first skip (stageTurn_decides todo ready decides)] at run
      exact ⟨u, v, run, hv, runs.pc, runs.wait, runs.x0, runs.x1, runs.regs, runs.pw, runs.worker, mem⟩
    have isSome : (s1.thread? t.num).isSome := Option.isSome_iff_exists.mpr ⟨w, there⟩
    exact ⟨fun b resident quiet => turn b (decideItem_resident isSome resident quiet),
      fun ps absent room area _ grants ahead empty len =>
        turn _ (decideItem_starts absent room area sound isSome grants ahead len empty)⟩
  case room => exact fun k g b h => room_spec h
  case retirement =>
    intro s s1 c g before after t w ts r rs b none_ stages skip todo ready _ there resident quiet
    obtain ⟨u, decided, ⟨v, hv, runs⟩, mem⟩ := decideItem_resident (retire := true)
      (Option.isSome_iff_exists.mpr ⟨w, there⟩) resident quiet
    obtain ⟨zero, one⟩ := dueItems_payload (todo ▸ List.mem_cons_self : r ∈ s.dueItems c g)
    have run := exec_idleRetirement_turns none_
    rw [stages, stageTurns_first skip (stageTurn_decides todo ready decided)] at run
    exact ⟨u, v, run, hv, runs.pc, runs.wait, runs.x0.trans zero, runs.x1.trans one, runs.regs, mem⟩
  case closing =>
    intro s c g n done closing
    refine ⟨_, exec_idleRetirement_closes done, ?_, fun w there => ?_⟩
    · rw [finishClose_eq closing, modThread_core]
      exact stageGone_stages s c g
    · rw [finishClose_eq closing, thread_modThread _ _ _ (by exact fun _ => rfl)] at there
      obtain ⟨t, -, rfl⟩ := Option.map_eq_some_iff.mp there
      exact ⟨rfl, rfl⟩

end Sys2Proof.Machine
end

section
/-! PROOF. Words that raise traps, the step that takes one, and the return from one (R216, R218, R219, R221). -/

namespace Sys2Proof.Machine
open Sys2Proof.Safety

/-! ### Raising a trap -/

section
variable {s : State} {g : KReg} (hg : GuardOn s g) (i : BitVec 13)
include hg

theorem exec_trap : exec (.trap g i) s =
    .next ((s.trapped .soft (i.setWidth 64) (s.cur.pc + 4)).retiredAt s.cur.num s.cur.pc) := by
  show finish s (guarded s g _) = _
  rw [guarded_active hg]
  rfl

theorem exec_brk : exec (.brk g i) s = .next (s.trapped .brk (i.setWidth 64) s.cur.pc) := by
  show finish s (guarded s g _) = _
  rw [guarded_active hg, finish_trap]

/-- R216: the bundle retires, and HCALL is raised at the next. -/
theorem exec_hcall_unserved (none_ : s.hypervisor s.cur.vdid = none) : exec (.hcall g i) s =
    .next ((s.trapped .hcall (i.setWidth 64) (s.cur.pc + 4)).retiredAt s.cur.num s.cur.pc) := by
  have on : s.rd.pred g = true := hg
  show execHcall g i s = _
  rw [execHcall, on, none_]
  rfl

end

/-- The bundle that a thread has left by a trap becomes its last one. -/
theorem retiredAt_cur {s : State} {n : ThreadNo} (pc : Word) (goes : s.mark ≠ .parked) (num : s.cur.num = n) :
    (s.retiredAt n pc).cur = { s.cur with lastPc := pc } := by
  subst num
  rw [State.retiredAt, if_neg (by simpa using goes), modThread_cur]

/-- Settles O15: each word is its end (`exec_trap`, `exec_brk`, `exec_hcall_unserved`), and what retires is `retiredAt_cur`. -/
theorem trapWords : Obligations.TrapWords := by
  unfold Obligations.TrapWords
  exact ⟨fun s g i hg => ⟨exec_trap hg i, exec_brk hg i, exec_hcall_unserved hg i, retiredAt_cur _⟩, fun s c v => rfl⟩

/-! ### Returning from a trap -/

theorem exec_tret {s : State} {g : KReg} (hg : GuardOn s g) : exec (.tret g) s = finish s (trapReturn s) := by
  show finish s (guarded s g _) = _
  rw [guarded_active hg]

theorem finish_moved (s t : State) : finish s (.moved t) = .next { t with mark := .retired, popped := [] } := rfl

/-- No handler runs. -/
theorem trapReturn_outside {s : State} (h : s.cur.hm = false) : trapReturn s = .trap .prot 0x4001A := by
  dsimp only [trapReturn]
  rw [if_pos (by rw [h]; rfl)]

/-- What runs was entered by `hcall`, and no trap is open in it. -/
theorem trapReturn_of_hcall {s : State} (h : s.cur.hm = true) (called : (s.cur.top.any fun e => e.gate == 0) = true)
    (closed : s.cur.trapOpen.getLsbD s.cur.depth.toNat = false) : trapReturn s = .trap .prot 0x40019 := by
  dsimp only [trapReturn]
  rw [if_neg (by rw [h]; decide), if_pos (Bool.and_eq_true_iff.mpr ⟨called, by rw [closed]; rfl⟩)]

/-- The thread that a trap's return brings back, from the words of its frame. -/
def Thread.returned (t : Thread) (w : Nat → Word) : Thread :=
  { restoreModes t w with
    x := regFile (fun i => w (8 + i)), taint := (w 4).extractLsb' 8 16
    pw := (w 4).extractLsb' 0 8 ||| 1, cb := w 3
    ports := match t.susp.find? (fun p => p.1 == t.depth.toNat) with
      | some p => p.2
      | none => t.ports
    susp := t.susp.filter (fun p => p.1 != t.depth.toNat), vcmd := t.vcmd.map VCmd.gate
    trapOpen := t.trapOpen &&& ~~~(1#9 <<< t.depth.toNat)
    st := returnSt t.st t.est, pc := t.epc, lastPc := t.pc }

theorem recRead_fst (s : State) (t : Thread) (a n : Nat) : (s.recRead t a n).1 = s.recBad (physRange a n) false := rfl

/-- A return whose frame the part can read gives the thread back as the frame, whose bytes the reading leaves alone, has it. -/
theorem trapReturn_restores {s : State} {b : Block} (h : s.cur.hm = true)
    (open_ : (s.cur.top.any fun e => e.gate == 0) = true → s.cur.trapOpen.getLsbD s.cur.depth.toNat = true)
    (free : s.trapWaits = false) (block : s.cur.block? s.cur.dom = some b)
    (good : s.recBad (physRange b.trapFrame 0x140) false = false) :
    trapReturn s = .moved { (s.recRead s.cur b.trapFrame 0x140).2 with cur := s.cur.returned (s.recWord b.trapFrame) } := by
  have words := (sameBytes_recRead s s.cur b.trapFrame 0x140).recWord b.trapFrame
  have inside : ¬((s.cur.top.any fun e => e.gate == 0) && !s.cur.trapOpen.getLsbD s.cur.depth.toNat) = true := by
    rw [Bool.and_eq_true_iff]
    exact fun ⟨called, closed⟩ => by simp [open_ called] at closed
  dsimp only [trapReturn]
  rw [if_neg (by rw [h]; decide), if_neg inside, if_neg (by rw [free]; decide), block]
  dsimp only
  rw [recRead_fst, good, words, if_neg (by decide)]
  rfl

theorem returnSt_getLsbD (st est : Word) (i : Nat) :
    (returnSt st est).getLsbD i = if i = 7 then st.getLsbD 7 else (est &&& 0xFF001F).getLsbD i := by
  have vlive : (0x80#64 : Word).getLsbD i = decide (i = 7) := by
    rw [show (0x80#64 : Word) = BitVec.twoPow 64 7 from rfl, BitVec.getLsbD_twoPow]
    simp [eq_comm]
  rw [returnSt, BitVec.getLsbD_or, BitVec.getLsbD_and (x := st), vlive]
  by_cases h : i = 7
  · subst h
    simp
  · simp [h]

end Sys2Proof.Machine

namespace Sys2Proof.Laws
open Sys2Proof.Machine Sys2Proof.Safety

/-- Settles O17: the two returns that are none trap (`trapReturn_outside`, `trapReturn_of_hcall`), and the other is the thread of the
frame (`trapReturn_restores`), where the reading of the frame leaves memory alone. -/
theorem trapReturn : Obligations.TrapReturn := by
  unfold Obligations.TrapReturn
  intro s g hg
  rw [exec_tret hg]
  refine ⟨fun h => by rw [trapReturn_outside h, finish_trap], fun h called closed => by
    rw [trapReturn_of_hcall h called closed, finish_trap], fun b h open_ free block good => ?_⟩
  have mem := recRead_mem s s.cur b.trapFrame 0x140
  rw [trapReturn_restores h open_ free block good, finish_moved]
  generalize (s.recRead s.cur b.trapFrame 0x140).2 = u at mem
  have hm : (s.cur.returned (s.recWord b.trapFrame)).hm = false := by
    show (returnSt _ _).getLsbD 5 = false
    rw [returnSt_getLsbD, if_neg (by decide), BitVec.getLsbD_and]
    simp
  refine ⟨_, rfl, rfl, rfl, hm, returnSt_getLsbD _ _, regFile_getElem _, rfl, rfl, fun p found => ?_, mem, rfl, rfl⟩
  show (match s.cur.susp.find? (fun p => p.1 == s.cur.depth.toNat) with
      | some p => p.2
      | none => s.cur.ports) = p.2
  rw [found]

end Sys2Proof.Laws
end

section
/-! PROOF. The claim about taking a trap fails of a frame in a cell that has failed for good (R306, R308): the write covers its granule and
goes through, and the granule stays damaged, so that the frame's words read as all ones. -/

namespace Sys2Proof.Machine
open Sys2Proof.Safety

/-- The context block of a thread in domain 0. -/
def wornBlock : Block := { dom := 0, index := 0, lo := 0x40000, hi := 0x50000 }

/-- A thread about to trap. The second granule of its trap frame, at 0x48000, has an uncorrectable error in a cell that has failed for
good. -/
def wornFrame : State :=
  { State.reset with
    cur := { num := 1, place := .slot 345 3, blocks := [wornBlock] }
    domains := [{ num := 0, life := .live, tvec := 0x1000000800 }]
    damage := [{ spot := .mem 0x48020, fatal := true, lasting := true }] }

/-- Word 6 of the frame, which is reserved, reads as all ones after the trap. -/
theorem wornFrame_reserved_word :
    (wornFrame.trapped .soft 0 0).recWord wornBlock.trapFrame 6 = BitVec.allOnes 64 := by decide +kernel

/-- Refutes O16: that the frame can be written does not make it readable. In `wornFrame` the clause on its words asks that reserved
word 6 reads 0, where it reads all ones (`wornFrame_reserved_word`). -/
theorem not_traps : ¬Obligations.Traps := by
  rintro ⟨taken, -⟩
  have trapped := taken wornFrame .soft 0 0 wornBlock (by decide) (by decide) (by decide +kernel) rfl (by decide +kernel)
  obtain ⟨-, -, -, -, -, -, -, -, -, -, -, -, -, -, -, -, -, -, -, -, frame⟩ := trapped
  obtain ⟨words, -⟩ := frame rfl
  have reserved := words 6 (by decide)
  rw [wornFrame_reserved_word] at reserved
  exact absurd reserved (by decide +kernel)

end Sys2Proof.Machine
end

section
/-! PROOF. Calls into another domain and returns from one (R208, R211, R216): what the part writes of the caller, the thread that stands
in the callee, and the thread that a return brings back. -/

namespace Sys2Proof.Machine
open Sys2Proof.Safety

/-! ### Writing records -/

theorem accessed_recWrite (s : State) (t : Thread) (a : Nat) (bs : List Byte) : Accessed s (s.recWrite t a bs).2 := by
  unfold State.recWrite
  dsimp only
  split_ifs
  · exact accessed_meet ..
  · exact (((accessed_storeCells ..).trans (accessed_touch ..)).trans (accessed_tookTurns ..)).trans (accessed_traceRec ..)
      |>.trans (accessed_hitWatches ..)

theorem recWrite_fst (s : State) (t : Thread) (a : Nat) (bs : List Byte) :
    (s.recWrite t a bs).1 = s.recBad (physRange a bs.length) true := by
  unfold State.recWrite
  dsimp only
  split_ifs with bad <;> simp [bad]

theorem meet_damage_subset (s : State) (hit : List Damage) : (s.meet hit).1.damage ⊆ s.damage := by
  have kept := foldl_field State.damage (f := fun (s : State) (d : Damage) =>
    (s.countEcc (s.spotHome d.spot).1 d.fatal).eccRecord (s.spotHome d.spot).1 (s.spotHome d.spot).2
      (if d.fatal then 1 else 0) 0) (fun _ _ => rfl) hit s
  unfold State.meet
  dsimp only
  rw [kept]
  exact List.filter_subset_self ..

theorem storeCells_damage_subset (s : State) (ps : List Nat) (bs : List Byte) : (s.storeCells ps bs).2.damage ⊆ s.damage := by
  unfold State.storeCells
  split
  · exact List.filter_subset_self ..
  · exact meet_damage_subset ..

theorem traceRec_damage (s : State) (t : Thread) (kind : Nat) (ps : List Nat) : (s.traceRec t kind ps).damage = s.damage :=
  foldl_field State.damage (fun _ _ => trace_damage ..) _ _

theorem tookTurns_damage (s : State) (n : Nat) (ps : List Nat) : (s.tookTurns n ps).damage = s.damage :=
  foldl_field State.damage (f := fun s h => s.tookTurn n h) (fun _ _ => rfl) _ _

theorem reread_damage_subset (s : State) (w : Watch) : (s.reread w).damage ⊆ s.damage := by
  unfold State.reread
  dsimp only
  rw [trace_damage]
  exact meet_damage_subset ..

theorem hitWatches_damage_subset (s : State) (ps : List Nat) : (s.hitWatches ps).damage ⊆ s.damage :=
  foldl_keeps (P := fun u => u.damage ⊆ s.damage) (fun _ _ h => List.Subset.trans (reread_damage_subset ..) h) _ (List.Subset.refl _)

/-- A write of a record heals granules and damages none. -/
theorem recWrite_damage_subset (s : State) (t : Thread) (a : Nat) (bs : List Byte) : (s.recWrite t a bs).2.damage ⊆ s.damage := by
  unfold State.recWrite
  dsimp only
  split_ifs
  · exact meet_damage_subset ..
  · refine List.Subset.trans (hitWatches_damage_subset ..) ?_
    rw [traceRec_damage, tookTurns_damage]
    exact storeCells_damage_subset ..

/-- What can be written stays so while no granule is damaged anew. -/
theorem recBad_write_of_subset {s u : State} (h : u.damage ⊆ s.damage) {ps : List Nat} (good : s.recBad ps true = false) :
    u.recBad ps true = false := by
  simp only [State.recBad, State.stuck, if_true, Bool.or_eq_false_iff, Bool.not_eq_false', List.isEmpty_iff,
    List.filter_eq_nil_iff] at good ⊢
  exact ⟨good.1, fun d hd => good.2 d (h hd)⟩

/-! ### The records of a call -/

theorem wordsBytes_length (ws : List Word) : (wordsBytes ws).length = 8 * ws.length := by
  induction ws with
  | nil => rfl
  | cons w r ih =>
    show (wordBytes w 8 ++ wordsBytes r).length = _
    rw [List.length_append, ih, wordBytes, List.length_map, List.length_range, List.length_cons]
    omega

theorem frameLow_length (t : Thread) (depth kind : Nat) (pc : Word) : (frameLow t depth kind pc).length = 40 := by
  simp [frameLow]

theorem flatMap_length_const {α β : Type} {f : α → List β} {n : Nat} (hf : ∀ a, (f a).length = n) (l : List α) :
    (l.flatMap f).length = l.length * n := by
  induction l with
  | nil => simp
  | cons a r ih => rw [List.flatMap_cons, List.length_append, ih, hf, List.length_cons, Nat.succ_mul, Nat.add_comm]

theorem frameHigh_length (t : Thread) : (frameHigh t).length = 152 := by
  rw [frameHigh, List.length_append, List.length_append, flatMap_length_const (n := 16) fun _ => by simp,
    flatMap_length_const (n := 2) fun v => by split <;> rfl]
  simp

/-- What the part writes of a caller (R208): its frame, its top entry if it has one, and the header of its hardware page. Answers whether
an access has failed. -/
def State.writeCaller (s : State) (b : Block) (page : Nat) : Bool × State :=
  let t := s.cur
  let d := t.depth.toNat
  let r1 := s.recWrite t (b.caller d) (wordsBytes (frameLow t d 1 (t.pc + 4) ++ frameHigh t))
  let r2 := match t.top with
    | none => (false, r1.2)
    | some e => r1.2.recWrite t (pageEntry page d) (wordsBytes e.words)
  let r3 := r2.2.recWrite t page (wordsBytes [t.num ++ 0#28 ++ (t.depth + 1), t.chg])
  (r1.1 || r2.1 || r3.1, r3.2)

theorem writeCaller_good {s : State} {b : Block} {page : Nat} (records : CallRecords s b page) : (s.writeCaller b page).1 = false := by
  obtain ⟨frame, header, entry⟩ := records
  have sub1 := recWrite_damage_subset s s.cur (b.caller s.cur.depth.toNat)
    (wordsBytes (frameLow s.cur s.cur.depth.toNat 1 (s.cur.pc + 4) ++ frameHigh s.cur))
  have good1 : (s.recWrite s.cur (b.caller s.cur.depth.toNat)
      (wordsBytes (frameLow s.cur s.cur.depth.toNat 1 (s.cur.pc + 4) ++ frameHigh s.cur))).1 = false := by
    rw [recWrite_fst, wordsBytes_length, List.length_append, frameLow_length, frameHigh_length]
    exact frame
  unfold State.writeCaller
  dsimp only
  rw [good1]
  generalize (s.recWrite s.cur (b.caller s.cur.depth.toNat) _).2 = s1 at sub1
  cases top : s.cur.top with
  | none =>
    dsimp only
    rw [recWrite_fst, wordsBytes_length]
    exact recBad_write_of_subset sub1 header
  | some e =>
    have sub2 := List.Subset.trans (recWrite_damage_subset s1 s.cur (pageEntry page s.cur.depth.toNat) (wordsBytes e.words)) sub1
    have good2 : s1.recBad (physRange (pageEntry page s.cur.depth.toNat) (8 * e.words.length)) true = false :=
      recBad_write_of_subset sub1 (entry (by rw [top]; rfl))
    dsimp only
    rw [recWrite_fst, recWrite_fst, wordsBytes_length, wordsBytes_length, good2]
    exact recBad_write_of_subset sub2 header

theorem accessed_writeCaller (s : State) (b : Block) (page : Nat) : Accessed s (s.writeCaller b page).2 := by
  unfold State.writeCaller
  dsimp only
  cases s.cur.top with
  | none => exact (accessed_recWrite ..).trans (accessed_recWrite ..)
  | some e => exact ((accessed_recWrite ..).trans (accessed_recWrite ..)).trans (accessed_recWrite ..)

/-! ### Entering -/

/-- The entry that a call pushes for a caller whose frame is in a block (R208). -/
def Call.entry (c : Call) (t : Thread) (b : Block) : Entry :=
  { cdom := t.dom, gdom := c.gdom, depth := t.depth + 1, nwin := BitVec.ofNat 3 c.n, grant := c.grant
    retpc := t.pc + 4, gbase := c.gbase, glen := c.glen, ecyc := t.chg, gate := c.gate
    cframe := BitVec.ofNat 64 (b.caller t.depth.toNat) }

/-- The callee's thread (R11, R208): the caller `t` gives it its first registers, and `u`, which is `t` but for reports of errors in the
part's own accesses, the rest that no rule names. -/
def Call.callee (c : Call) (t : Thread) (b : Block) (dm : Domain) (u : Thread) : Thread :=
  let fresh : Thread := {}
  { u with
    x := regFile (fun i => if i < c.n then t.x.toList.getD i 0 else 0)
    taint := t.taint &&& BitVec.ofNat 16 (2 ^ c.n - 1), pw := 1, cb := dm.dcb, st := 0
    fmtA := 0, fmtB := 0, scA := 0, scB := 0, scC := 0, agv := fresh.agv, agc := fresh.agc, cen := false
    v := fresh.v, streams := fresh.streams, ports := fresh.ports
    dom := c.gdom, vdid := dm.vd, depth := t.depth + 1, top := some (c.entry t b)
    gates := ((t.depth.toNat + 1, c.addr) :: t.gates), deferOver := false, deferSince := none
    pc := c.pc &&& ~~~3#64, lastPc := BitVec.allOnes 64, wait := none }

/-- A gate's count of the threads inside rises with the first entry through it. -/
def State.countInside (s : State) (t : Thread) (c : Call) : State :=
  if c.addr = 0 || t.gates.any (fun g => g.2 == c.addr) then s else s.addInside t c.addr true

/-- The state in which a caller whose records have been written stands in the callee. -/
def State.calleeEnters (s : State) (c : Call) (b : Block) (page : Nat) : State :=
  let u := (s.writeCaller b page).2.countInside s.cur c
  { u with cur := c.callee s.cur b (s.domain c.gdom) u.cur }

/-- A call whose records can be written leaves the callee's thread. -/
theorem enterDomain_enters {s : State} (c : Call) {b : Block} {page : Nat} (block : s.cur.block? s.cur.dom = some b)
    (hw : s.cur.hwPage = some page) (records : CallRecords s b page) : s.enterDomain c = s.calleeEnters c b page := by
  have good := writeCaller_good records
  trans if (s.writeCaller b page).1 then (s.writeCaller b page).2.saveLost else s.calleeEnters c b page
  · dsimp only [State.enterDomain, State.calleeEnters, State.countInside, Call.callee, Call.entry, State.writeCaller]
    simp only [block, hw]
    exact if_congr Iff.rfl rfl rfl
  · rw [good, if_neg (by decide)]

theorem reg_getD (t : Thread) (r : XReg) : t.x.toList.getD r.toNat 0 = t.reg r := by
  rw [List.getD_eq_getElem _ _ (by simpa using r.isLt), Vector.getElem_toList]
  rfl

theorem callee_reg (c : Call) (t : Thread) (b : Block) (dm : Domain) (u : Thread) (r : XReg) :
    (c.callee t b dm u).reg r = if r.toNat < c.n then t.reg r else 0 := by
  rw [show (c.callee t b dm u).reg r = _ from regFile_getElem _ r, reg_getD]

/-! ### Calls -/

/-- A call whose callee's block can be had, with nothing of the thread outstanding, does what it is to do from there. -/
theorem callWith_goes {s s0 : State} {dn : DomNo} {t : Thread} (go : State → Res) (free : s.callWaits = false)
    (takes : s.takeBlock s.cur.core s.cur dn = .ok s0 t) (ldo : s.cur.ldo = 0) (sto : s.cur.sto = 0) (idle : s.cur.vbusy = false) :
    callWith s dn go = (s, go { s0 with cur := t }) := by
  rw [callWith, free, if_neg (by decide), takes]
  exact if_neg (by simp [ldo, sto, idle])

/-- The call that a gate's descriptor, handle and grant make (R208). -/
def gateCall (gd : GateDesc) (h : Word) (x : BitVec 2 × Word × Word) : Call :=
  { gdom := gd.gdom, pc := gd.entry, n := gd.nwin.toNat, grant := x.1, gbase := x.2.1, glen := x.2.2
    gate := h.extractLsb' 0 32, addr := gd.addr }

theorem exec_gcall {s s0 s1 : State} {g : KReg} {d a b : XReg} {gd : GateDesc} {h : Word} {x : BitVec 2 × Word × Word} {t : Thread}
    (hg : GuardOn s g) (target : gateTarget s d a b = some gd.gdom) (free : s.callWaits = false)
    (takes : s.takeBlock s.cur.core s.cur gd.gdom = .ok s0 t) (ldo : s.cur.ldo = 0) (sto : s.cur.sto = 0) (idle : s.cur.vbusy = false)
    (passes : ∀ k, gateFor { s0 with cur := t } d a b k = k gd h x s1) (popped : s1.popped = []) :
    exec (.gcall g d a b) s = finish s (.moved (s1.enterDomain (gateCall gd h x))) := by
  have on : s.rd.pred g = true := hg
  show execGcall g d a b s = _
  rw [execGcall, on, if_neg (by decide), target]
  show finishOn (callWith s gd.gdom _) = _
  rw [callWith_goes _ free takes ldo sto idle, passes, commitPops_of_nil popped]
  rfl

theorem port?_of_unbound {t : Thread} (h : t.ports = Vector.replicate 6 {}) (r : XReg) : t.port? r = none := by
  have none_ : (t.ports.toList.getD (r.toNat - 8) {}).bound = false := by
    rw [h, Vector.toList_replicate]
    rcases lt_or_ge (r.toNat - 8) 6 with low | high
    · rw [List.getD_eq_getElem _ _ (by simpa using low), List.getElem_replicate]
    · rw [List.getD_eq_default _ _ (by simpa using high)]
  dsimp only [Thread.port?]
  rw [none_]
  simp only [Bool.false_eq_true, if_false, ite_self]

/-! ### Returns -/

/-- The state that a return leaves (R211): the level is left, and the caller stands as its frame `w` has it, with the results, the
window of its arguments cleared, and k1 set. -/
def State.gateReturned (s s1 : State) (e : Entry) (n : Nat) : State :=
  let t := s.cur
  let d := t.depth.toNat - 1
  let w := s.recWord e.cframe.toNat
  let s2 := s1.leaveLevel t false t.depth.toNat
  let u := s2.cur.backTo d e (if d = 0 then none else entryAt s t d) (s.domain e.cdom).vd w
  { s2 with cur := { u with
      x := regFile (fun i => if i < n then t.x.toList.getD i 0 else if e.nwin.toNat ≤ i then w (8 + i) else 0)
      taint := ((w 4).extractLsb' 8 16) &&& ~~~(BitVec.ofNat 16 (2 ^ (max n e.nwin.toNat) - 1))
      pw := u.pw ||| 2, lastPc := BitVec.allOnes 64 } }

section
variable {s : State} {e : Entry} (top : s.cur.top = some e) (n : Nat)

theorem gretRes_bottom (top : s.cur.top = none) : gretRes s n = .trap .prot 0x40017 := by
  dsimp only [gretRes]
  rw [top]

include top

theorem gretRes_handler (hm : s.cur.hm = true) (gate : e.gate ≠ 0) : gretRes s n = .trap .prot 0x40018 := by
  dsimp only [gretRes]
  rw [top]
  exact if_pos (by rw [hm]; simpa using gate)

theorem gretRes_returns (handler : s.cur.hm = true → e.gate = 0) (ldo : s.cur.ldo = 0) (sto : s.cur.sto = 0)
    (idle : s.cur.vbusy = false) (entryFree : s.anyBehind s.cur (s.cur.pageRecords (s.cur.depth.toNat - 1)) = false)
    (frameFree : s.recBehind s.cur e.cframe.toNat 1536 = false) (stays : ¬(s.cur.depth.toNat = 1 ∧ s.cur.orphan.isSome))
    (entryGood : (readEntry s s.cur (s.cur.depth.toNat - 1)).1 = false)
    (frameGood : (readEntry s s.cur (s.cur.depth.toNat - 1)).2.recBad (physRange e.cframe.toNat 1536) false = false) :
    gretRes s n = .moved
      (s.gateReturned ((readEntry s s.cur (s.cur.depth.toNat - 1)).2.recRead s.cur e.cframe.toNat 1536).2 e n) := by
  have may : ¬(s.cur.hm && e.gate != 0#32) = true := by
    rw [Bool.and_eq_true_iff]
    exact fun ⟨hm, gate⟩ => by simp [handler hm] at gate
  have free : ¬(s.cur.ldo ≠ 0 ∨ s.cur.sto ≠ 0 ∨ s.cur.vbusy = true ∨
      s.anyBehind s.cur (s.cur.pageRecords (s.cur.depth.toNat - 1)) = true ∨ s.recBehind s.cur e.cframe.toNat 1536 = true) := by
    simp [ldo, sto, idle, entryFree, frameFree]
  dsimp only [gretRes]
  rw [top]
  dsimp only
  rw [if_neg may, if_neg free, if_neg stays, entryGood, recRead_fst, frameGood, if_neg (by decide)]
  rfl

end

theorem exec_gret {s : State} {g : KReg} (hg : GuardOn s g) (n : BitVec 3) :
    exec (.gret g n) s = finish s (gretRes s n.toNat) := by
  show finish s (guarded s g _) = _
  rw [guarded_active hg]

/-- What a return brings back. -/
theorem gateReturned_spec (s s1 : State) (e : Entry) (n : Nat) :
    let u := s.gateReturned s1 e n
    let w := s.recWord e.cframe.toNat
    u.cur.dom = e.cdom ∧ u.cur.pc = e.retpc &&& ~~~3 ∧ u.cur.vdid = (s.domain e.cdom).vd ∧
      u.cur.depth.toNat = s.cur.depth.toNat - 1 ∧ u.cur.pred 1 = true ∧ u.cur.cb = w 3 ∧
      ∀ r : XReg, u.cur.reg r = if r.toNat < n then s.cur.reg r else if e.nwin.toNat ≤ r.toNat then w (8 + r.toNat) else 0 := by
  refine ⟨rfl, rfl, rfl, ?depth, ?k1, rfl, fun r => ?reg⟩
  case depth =>
    show (BitVec.ofNat 4 (s.cur.depth.toNat - 1)).toNat = _
    rw [BitVec.toNat_ofNat]
    exact Nat.mod_eq_of_lt (by omega)
  case k1 =>
    show (1#3 == 0#3 || (_ ||| 2#8).getLsbD 1) = true
    simp
  case reg => rw [show (s.gateReturned s1 e n).cur.reg r = _ from regFile_getElem _ r, reg_getD]

/-- Settles O33: a call whose checks pass is `enterDomain_enters`, and a return whose records can be read `gretRes_returns`; what stops a
return is `gretRes_bottom` and `gretRes_handler`. -/
theorem gateCalls : Obligations.GateCalls := by
  unfold Obligations.GateCalls
  refine ⟨?call, ?return_⟩
  case call =>
    intro s g d a b gd h x s0 s1 t1 bl page hg target free takes ldo sto idle passes popped block hw records
    rw [exec_gcall hg target free takes ldo sto idle passes popped, enterDomain_enters _ block hw records, finish_moved]
    exact ⟨_, rfl, rfl, rfl, rfl, rfl, rfl, callee_reg _ _ _ _ _, rfl, rfl, rfl, port?_of_unbound rfl, rfl,
      _, rfl, rfl, rfl, rfl, rfl, rfl, rfl, BitVec.ofNat_toNat .., rfl⟩
  case return_ =>
    intro s g n e hg
    rw [exec_gret hg]
    refine ⟨fun top => by rw [gretRes_bottom _ top, finish_trap], fun top hm gate => by
      rw [gretRes_handler top _ hm gate, finish_trap], fun top handler ldo sto idle entryFree frameFree stays entryGood frameGood => ?_⟩
    rw [gretRes_returns top _ handler ldo sto idle entryFree frameFree stays entryGood frameGood, finish_moved]
    have back := gateReturned_spec s ((readEntry s s.cur (s.cur.depth.toNat - 1)).2.recRead s.cur e.cframe.toNat 1536).2 e n.toNat
    generalize s.gateReturned _ e n.toNat = u at back
    exact ⟨_, rfl, rfl, back⟩

end Sys2Proof.Machine
end

section
/-! PROOF. Buffers for grants, the state of a call, and hypervisor calls (R207, R212, R216). -/

namespace Sys2Proof.Machine
open Sys2Proof.Safety

/-! ### Checking a buffer (R207) -/

/-- What `awin` does with a buffer. -/
def awinAt (s : State) (d : XReg) (e : BitVec 2) (base len : Word) : Res :=
  if len = 0 then putX s d 0 false
  else if 2 ^ 62 ≤ len.toNat ∨ 2 ^ 64 ≤ base.toNat + len.toNat - 1 then .trap .prot 0x40016
  else if windowHere s.cur base ≠ windowHere s.cur (base + len - 1) then .trap .straddle base
  else if windowHere s.cur base = .none then .trap .prot base
  else if windowHere s.cur base = .image ∧ e = 2#2 then .trap .prot base
  else putX s d (e.setWidth 64 <<< 62 ||| len) false

theorem exec_awin {s s2 : State} {g : KReg} {d a b : XReg} {base len : Word} {t : Bool} (e : BitVec 2) (hg : GuardOn s g)
    (fit : PortsFit s [a, b] [d]) (reads : ReadsTwo s a b base len t s2) :
    exec (.awin g d a b e) s = finish s (awinAt s2 d e base len) := by
  show finish s (guarded s g (legal s [a, b] [d] (useXX s a b _))) = _
  rw [guarded_active hg, legal_fit fit, useXX_reads reads]
  rfl

/-- A grant word holds the rights in its two highest bits above a length that leaves them free. -/
theorem grantWord_eq (e : BitVec 2) {len : Word} (short : len.toNat < 2 ^ 62) :
    e.setWidth 64 <<< 62 ||| len = e ++ len.extractLsb' 0 62 := by
  have rights : (e.setWidth 64 <<< 62 : Word).toNat = e.toNat <<< 62 := by
    rw [BitVec.toNat_shiftLeft, BitVec.toNat_setWidth_of_le (by decide), Nat.shiftLeft_eq]
    exact Nat.mod_eq_of_lt (by omega)
  apply BitVec.eq_of_toNat_eq
  rw [BitVec.toNat_or, BitVec.toNat_append, rights, BitVec.extractLsb'_toNat, Nat.shiftRight_zero, Nat.mod_eq_of_lt short]

section
variable {s s3 : State} {d : XReg} {e : BitVec 2} {base len : Word}

theorem awinAt_empty (zero : len = 0) (takes : Takes s d 0 s3) : awinAt s d e base len = .done (s3.setX d 0 false) := by
  rw [awinAt, if_pos zero, putX_takes takes]

variable (some_ : len ≠ 0)
include some_

theorem awinAt_long (long : ¬(len.toNat < 2 ^ 62 ∧ base.toNat + len.toNat - 1 < 2 ^ 64)) :
    awinAt s d e base len = .trap .prot 0x40016 := by
  rw [awinAt, if_neg some_, if_pos (by omega)]

variable (fits : len.toNat < 2 ^ 62 ∧ base.toNat + len.toNat - 1 < 2 ^ 64)
include fits

theorem awinAt_straddles (two : windowHere s.cur base ≠ windowHere s.cur (base + len - 1)) :
    awinAt s d e base len = .trap .straddle base := by
  rw [awinAt, if_neg some_, if_neg (by omega), if_pos two]

variable (one : windowHere s.cur base = windowHere s.cur (base + len - 1))
include one

theorem awinAt_closed (closed : windowHere s.cur base = .none ∨ windowHere s.cur base = .image ∧ e = 2) :
    awinAt s d e base len = .trap .prot base := by
  rw [awinAt, if_neg some_, if_neg (by omega), if_neg (not_not_intro one)]
  rcases closed with none_ | image
  · exact if_pos none_
  · rw [if_neg (by rw [image.1]; decide)]
    exact if_pos image

theorem awinAt_packs (window : windowHere s.cur base ≠ .none) (may : ¬(windowHere s.cur base = .image ∧ e = 2))
    (takes : Takes s d (e ++ len.extractLsb' 0 62) s3) :
    awinAt s d e base len = .done (s3.setX d (e ++ len.extractLsb' 0 62) false) := by
  rw [awinAt, if_neg some_, if_neg (by omega), if_neg (not_not_intro one), if_neg window, grantWord_eq e fits.1,
    putX_takes takes]
  exact if_neg may

end

/-! ### The state of a call (R212) -/

/-- What `gstat` does with a gate's handle. -/
def gstatAt (s : State) (d : XReg) (h : Word) : Res :=
  useEntry s h 2 fun e s2 => useGate s2 e.addr.toNat fun desc s3 =>
    destX s3 d (gateWord s3 desc) fun s4 => .done (s4.setX d (gateWord s3 desc) false).inFlight

section
variable {s : State} {g : KReg} {d a : XReg} {n : BitVec 3} (hg : GuardOn s g)
include hg

theorem exec_gstat_call (other : n ≠ 2) (fit : PortsFit s [] [d]) :
    exec (.gstat g d a n) s = finish s (putX s d (gstatWord s.cur n.toNat) false) := by
  show finish s (guarded s g (legal s (if n = 2#3 then [a] else []) [d] (if n = 2#3 then _ else _))) = _
  have other' : ¬n = 2#3 := other
  rw [guarded_active hg, if_neg other', if_neg other', legal_fit fit]

theorem exec_gstat_gate {s1 : State} {h : Word} {t : Bool} (gate : n = 2) (fit : PortsFit s [a] [d]) (reads : ReadsAs s a h t s1) :
    exec (.gstat g d a n) s = finish s (gstatAt s1 d h) := by
  have gate' : n = 2#3 := gate
  show execGstat g d a n s = _
  rw [execGstat, guarded_active hg, if_pos gate', if_pos gate', legal_fit fit, reads]
  rfl

end

theorem useEntry_out {s : State} {h : Word} {kind : Nat} (k : HEntry → State → Res)
    (out : (h.extractLsb' 12 20).toNat = 0 ∨ (s.domain s.cur.dom).htlen ≤ (h.extractLsb' 12 20).toNat) :
    useEntry s h kind k = .trap .stale h := if_pos out

/-- Sixteen bytes that exist lie in one stack or in the scratchpad (R299). -/
theorem presentAll_of_all {a : Nat} (h : (physRange a 16).all present = true) : presentAll a 16 = true := by
  have each : ∀ i < 16, present (a + i) = true := fun i hi =>
    List.all_eq_true.mp h _ (List.mem_map.mpr ⟨i, List.mem_range.mpr hi, rfl⟩)
  have first := each 0 (by decide)
  have last := each 15 (by decide)
  have block : scratchBase ≤ a ∨ a / 2 ^ 37 = (a + 15) / 2 ^ 37 := by
    rcases Bool.or_eq_true_iff.mp first with stack | scratch
    · have low := of_decide_eq_true (Bool.and_eq_true_iff.mp stack).2
      exact .inr (by omega)
    · exact .inl (of_decide_eq_true (Bool.and_eq_true_iff.mp scratch).1)
  simp only [presentAll, Bool.or_eq_true, Bool.and_eq_true, decide_eq_true_eq, beq_iff_eq]
  exact .inr ⟨⟨first, last⟩, block⟩

theorem cut_getD {α : Type} {n : Nat} (i : Nat) {fuel : Nat} {l : List α} (more : i < fuel) (inside : n * i < l.length) :
    (cut n fuel l).getD i [] = (l.drop (n * i)).take n := by
  induction i generalizing fuel l with
  | zero =>
    obtain ⟨m, rfl⟩ := Nat.exists_eq_add_of_lt more
    cases l with
    | nil => exact absurd inside (by simp)
    | cons a r => simp [cut]
  | succ i ih =>
    obtain ⟨m, rfl⟩ := Nat.exists_eq_add_of_lt more
    cases l with
    | nil => exact absurd inside (by simp)
    | cons a r =>
      rw [Nat.mul_succ] at inside ⊢
      rw [show i + 1 + m + 1 = (i + m + 1) + 1 by omega, cut, List.isEmpty_cons, if_neg (by decide), List.getD_cons_succ,
        ih (by omega) (by rw [List.length_drop]; omega), List.drop_drop, Nat.add_comm n]

theorem physRange_slice {α : Type} (f : Nat → α) {a n k m : Nat} (h : k + m ≤ n) :
    (((physRange a n).map f).drop k).take m = (physRange (a + k) m).map f := by
  refine List.ext_getElem (by simp [physRange]; omega) fun i _ _ => ?_
  simp [physRange, Nat.add_assoc]

theorem fatalAt_of_subset {s : State} {ps qs : List Nat} (sound : s.fatalAt ps = false) (sub : qs ⊆ ps) : s.fatalAt qs = false := by
  simp only [State.fatalAt, List.any_eq_false, Bool.and_eq_true, List.any_eq_true, not_and, not_exists] at sound ⊢
  exact fun d hd fatal q hq => sound d hd fatal q (sub hq)

/-- A dword of sound memory is the same read by itself and in a block. -/
theorem readDwords_physRead {s : State} {a n i : Nat} (sound : s.fatalAt (physRange a n) = false) (inside : 8 * i + 8 ≤ n) (va : Word) :
    (s.readDwords va (physRange a n)).1.getD i 0 = s.physRead (a + 8 * i) 8 := by
  have len : (physRange a n).length = n := by simp [physRange]
  have part : s.fatalAt (physRange (a + 8 * i) 8) = false := fatalAt_of_subset sound fun p hp => by
    simp only [physRange, List.mem_map, List.mem_range] at hp ⊢
    obtain ⟨j, hj, rfl⟩ := hp
    exact ⟨8 * i + j, by omega, by omega⟩
  show ((cut 8 (physRange a n).length (s.peek (physRange a n))).map leWord).getD i (leWord []) = leWord (s.peek _)
  rw [List.getD_map, peek_sound sound, peek_sound part, cut_getD i (by omega) (by simp [physRange]; omega), physRange_slice _ inside]

/-- A lookup that finds nothing is STALE, where the slot's bytes exist and are sound, and nothing stands ahead of reading them. -/
theorem useEntry_stale {s : State} {h : Word} {kind : Nat} (k : HEntry → State → Res)
    (present_ : (physRange ((s.domain s.cur.dom).htbase + 16 * (h.extractLsb' 12 20).toNat) 16).all present = true)
    (open_ : s.cur.gated = false) (first : s.ahead (physRange ((s.domain s.cur.dom).htbase + 16 * (h.extractLsb' 12 20).toNat) 16) = false)
    (sound : s.fatalAt (physRange ((s.domain s.cur.dom).htbase + 16 * (h.extractLsb' 12 20).toNat) 16) = false)
    (none_ : s.lookup s.cur.dom h kind = none) : useEntry s h kind k = .trap .stale h := by
  by_cases out : (h.extractLsb' 12 20).toNat = 0 ∨ (s.domain s.cur.dom).htlen ≤ (h.extractLsb' 12 20).toNat
  · exact useEntry_out k out
  have entry : s.names (s.hentry (s.domain s.cur.dom) (h.extractLsb' 12 20).toNat) h kind = false := by
    dsimp only [State.lookup] at none_
    rw [if_neg (by rw [presentAll_of_all present_]; simpa only [Bool.true_eq_false, or_false] using out)] at none_
    simpa only [ite_eq_right_iff, reduceCtorEq, imp_false, Bool.not_eq_true] using none_
  dsimp only [useEntry]
  rw [if_neg out, physLoad_of ⟨present_, open_, first⟩, readDwords_physRead sound (i := 0) (by decide),
    readDwords_physRead sound (i := 1) (by decide)]
  exact if_neg (Bool.not_eq_true _ |>.mpr entry)

theorem gstatAt_reads {s s2 s3 s4 : State} {d : XReg} {h : Word} {e : HEntry} {gd : GateDesc} (entry : FindsEntry s h 2 e s2)
    (gate : FindsGate s2 e.addr.toNat gd s3) (takes : Takes s3 d (gateWord s3 gd) s4) :
    gstatAt s d h = .done (s4.setX d (gateWord s3 gd) false).inFlight := by
  rw [gstatAt, entry, gate, takes]

theorem gstatWord_bottom {t : Thread} (top : t.top = none) (n : Nat) : gstatWord t n = if n = 4 then BitVec.allOnes 64 else 0 := by
  rw [gstatWord, top]

theorem gstatWord_called {t : Thread} {e : Entry} (top : t.top = some e) :
    gstatWord t 1 = e.glen ∧ gstatWord t 3 = t.chg - e.ecyc := by
  constructor <;> (rw [gstatWord, top]; rfl)

/-! ### Hypervisor calls (R216) -/

/-- The call that `hcall` makes. -/
def hyperCall (h : Domain) : Call := { gdom := h.num, pc := h.tvec, n := 6, gate := 0, addr := 0 }

/-- The callee of an `hcall` stands in a handler of HCALL, called by the thread `t`. -/
def State.handling (s : State) (t : Thread) (i : BitVec 13) : State :=
  { s with cur := { s.cur with
      st := putBit 0 stHM true, tcause := BitVec.ofNat 64 Cause.hcall.code, tval := i.setWidth 64, epc := t.pc + 4, est := t.stWord } }

section
variable {s : State} {g : KReg} {h : Domain} (hg : GuardOn s g) (i : BitVec 13) (served : s.hypervisor s.cur.vdid = some h)
include hg served

theorem exec_hcall_deep (deep : s.cur.depth = 8) : exec (.hcall g i) s = .next (s.trapped .prot 0x40011 s.cur.pc) := by
  have on : s.rd.pred g = true := hg
  show execHcall g i s = _
  rw [execHcall, on, if_neg (by decide), served]
  dsimp only
  rw [if_pos (by rw [deep]; rfl), finish_trap]

theorem exec_hcall {s0 : State} {t : Thread} (room : s.cur.depth ≠ 8) (free : s.callWaits = false)
    (takes : s.takeBlock s.cur.core s.cur h.num = .ok s0 t) (ldo : s.cur.ldo = 0) (sto : s.cur.sto = 0) (idle : s.cur.vbusy = false)
    (stays : (State.enterDomain { s0 with cur := t } (hyperCall h)).cur.place ≠ .gone) :
    exec (.hcall g i) s = finish s (.moved ((State.enterDomain { s0 with cur := t } (hyperCall h)).handling t i)) := by
  have on : s.rd.pred g = true := hg
  have room' : ¬s.cur.depth.toNat = 8 := fun deep => room (BitVec.eq_of_toNat_eq deep)
  show execHcall g i s = _
  rw [execHcall, on, if_neg (by decide), served]
  dsimp only
  rw [if_neg room', callWith_goes _ free takes ldo sto idle]
  exact congrArg (finish s) (if_neg stays)

end

/-- No gate is counted where none is named. -/
theorem countInside_ungated (s : State) (t : Thread) {c : Call} (none_ : c.addr = 0) : s.countInside t c = s := by
  rw [State.countInside, none_, decide_eq_true rfl, Bool.true_or, if_pos rfl]

theorem calleeEnters_cur (s : State) (c : Call) (b : Block) (page : Nat) : (s.calleeEnters c b page).cur =
    c.callee s.cur b (s.domain c.gdom) ((s.writeCaller b page).2.countInside s.cur c).cur := rfl

theorem calleeEnters_place (s : State) (h : Domain) (b : Block) (page : Nat) :
    (s.calleeEnters (hyperCall h) b page).cur.place = s.cur.place := by
  rw [calleeEnters_cur, countInside_ungated _ _ rfl, (accessed_writeCaller s b page).cur]
  rfl

/-- What a hypervisor call enters. -/
theorem handling_spec (s : State) (h : Domain) (b : Block) (page : Nat) (i : BitVec 13) :
    let u := (s.calleeEnters (hyperCall h) b page).handling s.cur i
    u.cur.dom = h.num ∧ u.cur.pc = h.tvec &&& ~~~3 ∧ u.cur.hm = true ∧ u.cur.tcause = 18 ∧ u.cur.tval = i.setWidth 64 ∧
      u.cur.epc = s.cur.pc + 4 ∧ u.cur.est = s.cur.stWord ∧ u.cur.depth = s.cur.depth + 1 ∧
      ∃ e, u.cur.top = some e ∧ e.gate = 0 ∧ e.nwin = 6 ∧ e.grant = 0 := by
  refine ⟨rfl, rfl, ?hm, rfl, rfl, rfl, rfl, rfl, _, rfl, rfl, rfl, rfl⟩
  case hm =>
    show (putBit 0 stHM true).getLsbD stHM = true
    decide

/-- Settles O34: a buffer by what `awinAt` finds, a gate's state by what `gstatAt` finds, and a hypervisor call as a call
(`enterDomain_enters`) into a handler. -/
theorem gateWords : Obligations.GateWords := by
  unfold Obligations.GateWords
  refine ⟨?awin, ?gstat, ?hcall⟩
  case awin =>
    intro s s2 g d a b e base len t hg fit reads last win fits
    have run := exec_awin e hg fit reads
    refine ⟨fun zero s3 takes => ?_, fun some_ long => ?_, fun some_ fits two => ?_, fun some_ fits one closed => ?_,
      fun some_ fits one window may s3 takes => ?_⟩
    · rw [Retires, run, awinAt_empty zero takes, finish_done]
    · rw [run, awinAt_long some_ long, finish_trap]
    · rw [run, awinAt_straddles some_ fits two, finish_trap]
    · rw [run, awinAt_closed some_ fits one closed, finish_trap]
    · rw [Retires, run, awinAt_packs some_ fits one window may takes, finish_done]
  case gstat =>
    intro s g d a n hg
    refine ⟨fun other fit s3 takes => ?_, ?gate, fun top => ?_, fun e top => gstatWord_called top⟩
    case gate =>
      rintro h t s1 rfl fit reads table slot at_
      have run := exec_gstat_gate hg rfl fit reads
      refine ⟨fun out => ?_, fun present_ open_ first sound none_ => ?_, fun e gd s2 s3 s4 entry gate takes => ?_⟩
      · rw [run, gstatAt, useEntry_out _ out, finish_trap]
      · rw [run, gstatAt, useEntry_stale _ present_ open_ first sound none_, finish_trap]
      · rw [Retires, run, gstatAt_reads entry gate takes, finish_done]
    · rw [Retires, exec_gstat_call hg other fit, putX_takes takes, finish_done]
    · simp [gstatWord_bottom top]
  case hcall =>
    intro s g i h hg served
    refine ⟨exec_hcall_deep hg i served, fun s0 t bl page room free takes ldo sto idle block hw records stays => ?_⟩
    have enters := enterDomain_enters (s := { s0 with cur := t }) (hyperCall h) block hw records
    have place : (State.enterDomain { s0 with cur := t } (hyperCall h)).cur.place = t.place := by
      rw [enters, calleeEnters_place]
    have spec := handling_spec { s0 with cur := t } h bl page i
    rw [exec_hcall hg i served room free takes ldo sto idle (place ▸ stays), enters, finish_moved]
    generalize State.handling _ t i = u at spec
    exact ⟨_, rfl, rfl, spec⟩

end Sys2Proof.Machine
end

section
/-! PROOF. No instruction and no step stops the machine (R217 to R220): every outcome is a next state. -/

namespace Sys2Proof.Machine

/-- The outcome is a next state. -/
def Goes (o : Out1) : Prop := ∃ t, o = .next t

theorem next_goes (t : State) : Goes (.next t) := ⟨t, rfl⟩

/-! ### The operations that many instructions share -/

/-- Whatever a word has come to, its end is a next state. -/
theorem finish_goes (s : State) (r : Res) : Goes (finish s r) := by
  cases r <;> exact next_goes _

theorem service_goes (s : State) (op : Nat) (args : List (XReg × Word)) (dom : Word) (slots : Domain → List Nat)
    (act : State → DomNo → State) : Goes (s.service op args dom slots act) := by
  fun_cases State.service s op args dom slots act <;> exact next_goes _

theorem control_goes (s : State) (host : BitVec 4) (endpoint : BitVec 16) (p : Packet) (op : Nat) (f : VdNo → State → State) :
    Goes (control s host endpoint p op f) := by
  fun_cases control s host endpoint p op f <;> exact next_goes _

theorem manage_goes (s : State) (host : BitVec 4) (p : Packet) (op : Nat) (f : State → Option State) :
    Goes (manage s host p op f) := by
  fun_cases manage s host p op f <;> exact next_goes _

theorem hostWrite_goes (s : State) (host : BitVec 4) (f : State → State) : Goes (hostWrite s host f) := by
  fun_cases hostWrite s host f <;> exact next_goes _

theorem spdmRequest_goes (s : State) (conn code : Nat) (request measured : List Byte) :
    Goes (spdmRequest s conn code request measured) := by
  fun_cases spdmRequest s conn code request measured <;> exact next_goes _

/-! ### Two events with a lemma of their own -/

theorem execForagerAccept_goes (c : CoreNo) (s : State) : Goes (execForagerAccept c s) := by
  fun_cases execForagerAccept c s <;> exact next_goes _

/-- R193: a request that is refused goes on too, be it answered with a refusal or kept to be sent again. -/
theorem execSpawnRequest_goes (c : CoreNo) (s : State) : Goes (execSpawnRequest c s) := by
  have refused (retry : Bool) (t u : State) : Goes (if retry then .next t else .next u) := by
    split <;> exact next_goes _
  fun_cases execSpawnRequest c s
  case case3 | case5 | case9 => exact refused _ _ _
  all_goals exact next_goes _

/-! ### Every instruction

First the words, all of which end through `finish`; then what is a next state at once, and what a shared operation of the part answers;
last the instructions that branch by themselves, each split along its own branches. -/

theorem exec_goes (i : Instr) (s : State) : Goes (exec i s) := by
  cases i <;> dsimp only [exec]
  case ret | jx | callx | nap | rdcyc | tret | yield | quit | sysrd | syswr | trap | brk | b | call | loop | ldI8 | ldN8 |
    ldI16 | ldN16 | ldI32 | ldN32 | ldI64 | ldc | st8 | st16 | st32 | st64 | lea | wchg | hop | probe | amo | rxAmo | fence |
    wait | msend | mrecv | waitm | mlease | mfree | mbload | mma | mmas | mzero | mdrain | magr | mstat | mreclaim | mfmt |
    xcopy | xcopyv | xgather | xscatter | xfill | xdeal | pbind | punbind | spawn | spawnW | kopen | kclose | kput | kwait |
    kend | kstat | gret | awin | gstat | add | sub | mul | mulhI | mulhN | divI | divN | remI | remN | addsatI | addsatN |
    subsatI | subsatN | abs | neg | minI | maxI | minN | maxN | and | or | xor | andn | orn | mov | sel | shl | shr | sar |
    rot | clz | ctz | popc | bswap | padd | psub | paddsatI | paddsatN | pminI | pminN | pmaxI | pmaxN | pshl | pshr | psar |
    pcmpEq | pcmpLtI | pcmpLtN | fadd | fsub | fmul | ffma | fmin | fmax | fabs | fneg | fcvtF32I32 | fcvtF32N32 | fcvtI32F32 |
    fcvtN32F32 | fcvtF32B16 | fcvtB16F32 | addi | andi | ori | xori | shli | shri | sari | roti | extI | extN | ins | movi |
    movh | cmp | fcmp | pand | por | pxor | pnot | pmov | psel | cmpiEq | cmpiNe | cmpiLt | cmpiLe | cmpiGt | cmpiGe |
    cmpiLtN | cmpiGeN | vadd | vsub | vmul | vfma | vmin | vmax | vabs | vneg | vand | vor | vxor | vshl | vshr | vsar | vsel |
    vcmp | vcvtFromF32 | vcvtToF32 | vex2 | vrcp | vrsq | vredSum | vredMax | vredMin | vbcast | vget | vperm | vpack |
    vunpack | vgath | vscat | vbindPop | vbindPush | vunbind | vfence => exact finish_goes _ _
  case nop | vliveClear | traceClear | evselWrite | tinv1 | tinv2 | pgrep | plainAccessComplete | wchgPoll | napWake |
    trapEntry | thermalSample | boostEnd | budgetRenewal | deferralExpiry | sessionTeardown | slotReset | coreReset |
    combReset | hiveReset | vdReset | firmwareColumnReset | warmReset | coldReset | powerPeriod | thermalRecord | domainKill |
    pqheadWrite => exact next_goes _
  case installTensor | dropHandle | offer | importHandle | closeGate => exact service_goes _ _ _ _ _ _
  case createQueue | destroyQueue | createGraph | freeGraph | setEventRing | acknowledgeEvents | setVdSchedule =>
    exact control_goes _ _ _ _ _ _
  case createVd | destroyVd | createDomain | setDataEndpoint | setRemoteEndpoint => exact manage_goes _ _ _ _ _
  case managementWrite | gtoffWrite | plimWrite | feataccWrite => exact hostWrite_goes _ _ _
  case getVersion | getCapabilities | negotiateAlgorithms | getDigests | getCertificate | challenge =>
    exact spdmRequest_goes _ _ _ _ _
  case hcall => fun_cases execHcall <;> exact finish_goes _ _
  case gcall => fun_cases execGcall <;> exact finish_goes _ _
  case relaxedLoadReturn => fun_cases execRelaxedLoadReturn <;> exact next_goes _
  case relaxedStorePerformed => fun_cases execRelaxedStorePerformed <;> exact next_goes _
  case bankPortService => fun_cases execBankPortService <;> exact next_goes _
  case sliceFill => fun_cases execSliceFill <;> exact next_goes _
  case scrub => fun_cases execScrub <;> exact next_goes _
  case normaliserServiceEnd => fun_cases execNormaliserServiceEnd <;> exact next_goes _
  case wchgWake => fun_cases execWchgWake <;> exact next_goes _
  case vectorBeat => fun_cases execVectorBeat <;> exact next_goes _
  case vectorCommandComplete => fun_cases execVectorCommandComplete <;> exact next_goes _
  case leaseGrant => fun_cases execLeaseGrant <;> exact next_goes _
  case leaseExpiry => fun_cases execLeaseExpiry <;> exact next_goes _
  case tileOperationStart => fun_cases execTileOperationStart <;> exact next_goes _
  case tileOperationComplete => fun_cases execTileOperationComplete <;> exact next_goes _
  case audit => fun_cases execAudit <;> exact next_goes _
  case foragerAccept => exact execForagerAccept_goes _ _
  case copyComplete => fun_cases execCopyComplete <;> exact next_goes _
  case messageDelivery => fun_cases execMessageDelivery <;> exact next_goes _
  case nack => fun_cases execNack <;> exact next_goes _
  case messageRetry => fun_cases execMessageRetry <;> exact next_goes _
  case pendingReportPost => fun_cases execPendingReportPost <;> exact next_goes _
  case keyedRecordArrival => fun_cases execKeyedRecordArrival <;> exact next_goes _
  case broodDecision => fun_cases execBroodDecision <;> exact next_goes _
  case idleRetirement => fun_cases execIdleRetirement <;> exact next_goes _
  case spawnRequest => exact execSpawnRequest_goes _ _
  case spawnAnswer => fun_cases execSpawnAnswer <;> exact next_goes _
  case launchRequest => fun_cases execLaunchRequest <;> exact next_goes _
  case slotFill => fun_cases execSlotFill <;> exact next_goes _
  case quitNotice => fun_cases execQuitNotice <;> exact next_goes _
  case doneMessage => fun_cases execDoneMessage <;> exact next_goes _
  case migrationDeparture => fun_cases execMigrationDeparture <;> exact next_goes _
  case migrationArrival => fun_cases execMigrationArrival <;> exact next_goes _
  case thermalDisplacement => fun_cases execThermalDisplacement <;> exact next_goes _
  case preemptSave => fun_cases execPreemptSave <;> exact next_goes _
  case contextResume => fun_cases execContextResume <;> exact next_goes _
  case sliceEnd => fun_cases execSliceEnd <;> exact next_goes _
  case slotHandover => fun_cases execSlotHandover <;> exact next_goes _
  case threadUnwind => fun_cases execThreadUnwind <;> exact next_goes _
  case graceExpiry => fun_cases execGraceExpiry <;> exact next_goes _
  case abandonBudgetExpiry => fun_cases execAbandonBudgetExpiry <;> exact next_goes _
  case threadKill => fun_cases execThreadKill <;> exact next_goes _
  case domainTeardown => fun_cases execDomainTeardown <;> exact next_goes _
  case translationWalk => fun_cases execTranslationWalk <;> exact next_goes _
  case rewalk => fun_cases execRewalk <;> exact next_goes _
  case launchPacket => fun_cases execLaunchPacket <;> exact next_goes _
  case graphReplay => fun_cases execGraphReplay <;> exact next_goes _
  case dispatch => fun_cases execDispatch <;> exact next_goes _
  case completionRecord => fun_cases execCompletionRecord <;> exact next_goes _
  case pauseVd => fun_cases execPauseVd; exacts [next_goes _, manage_goes _ _ _ _ _]
  case resumeVd => fun_cases execResumeVd; exacts [next_goes _, manage_goes _ _ _ _ _]
  case remoteDataAccess => fun_cases execRemoteDataAccess <;> exact next_goes _
  case deliveryTimeout => fun_cases execDeliveryTimeout <;> exact next_goes _
  case claim => fun_cases execClaim <;> exact next_goes _
  case heartbeat => fun_cases execHeartbeat <;> exact next_goes _
  case release => fun_cases execRelease <;> exact next_goes _
  case collectionWindowEnd => fun_cases execCollectionWindowEnd <;> exact next_goes _
  case heartbeatTimeout => fun_cases execHeartbeatTimeout <;> exact next_goes _
  case successorWindowEnd => fun_cases execSuccessorWindowEnd <;> exact next_goes _
  case getMeasurements => fun_cases execGetMeasurements <;> exact next_goes _
  case keyExchange => fun_cases execKeyExchange <;> exact next_goes _
  case finish => fun_cases execFinish <;> exact next_goes _
  case endSession => fun_cases execEndSession <;> exact next_goes _
  case updateChunk => fun_cases execUpdateChunk <;> exact next_goes _
  case updateVerify => fun_cases execUpdateVerify <;> exact next_goes _
  case updateCoreSwitch => fun_cases execUpdateCoreSwitch <;> exact next_goes _
  case resetComplete => fun_cases execResetComplete <;> exact next_goes _
  case boot => fun_cases execBoot <;> exact next_goes _
  case thermalTrip => fun_cases execThermalTrip; exact next_goes _

/-! ### A bundle, a turn, a step -/

theorem secondWord_goes (s : State) (before : Thread) (i1 : Instr) : Goes (secondWord s before i1) := by
  fun_cases secondWord s before i1
  case case4 => exact exec_goes _ _
  all_goals exact next_goes _

theorem runPair_goes (s : State) (i0 i1 : Instr) : Goes (runPair s i0 i1) := by
  fun_cases runPair s i0 i1
  case case1 => exact secondWord_goes _ _ _
  case case16 | case17 | case18 => exact exec_goes _ _
  all_goals exact next_goes _

/-- What runs a bundle's dword is the trap of a bundle that does not decode, a lone word, or a pair. -/
theorem runBits_goes (s : State) (bits : Word) : Goes (runBits s bits) := by
  fun_cases runBits s bits
  · exact next_goes _
  · split
    · exact next_goes _
    · exact next_goes _
    · exact exec_goes _ _
    · exact runPair_goes _ _ _

theorem runBundle_goes (s : State) : Goes (runBundle s) := by
  fun_cases runBundle s
  case case6 => exact runBits_goes _ _
  all_goals exact next_goes _

theorem issueThread_goes (s : State) (n : ThreadNo) : Goes (issueThread s n) := by
  fun_cases issueThread s n
  case case4 => exact runBundle_goes _
  all_goals exact next_goes _

theorem trySlots_goes (c : CoreNo) (l : List SlotNo) (s : State) : Goes (trySlots c l s).1 := by
  fun_induction trySlots c l s with
  | case1 => exact next_goes _
  | case2 _ _ _ _ ih => exact ih
  | case3 _ _ _ _ _ _ _ _ ih => exact ih
  | case4 => exact next_goes _
  | case5 => exact issueThread_goes _ _

theorem turn_goes (s : State) (c : CoreNo) : Goes (turn s c).1 := by
  fun_cases turn s c
  case case3 | case5 => exact execForagerAccept_goes _ _
  case case4 | case7 => exact trySlots_goes _ _ _
  all_goals exact next_goes _

theorem issueStep_goes (s : State) : Goes (issueStep s) := by
  fun_cases issueStep s
  case case2 | case4 => exact turn_goes _ _
  all_goals exact next_goes _

theorem runItem_goes (s : State) (item : Item) : Goes (runItem s item) := by
  fun_cases runItem s item
  case case2 => exact turn_goes _ _
  case case4 => exact exec_goes _ _
  all_goals exact next_goes _

theorem step_goes (s : State) : Goes (step s) := by
  change Goes (stepState s)
  fun_cases stepState s
  case case1 => exact runItem_goes _ _
  case case2 => exact next_goes _
  case case3 | case4 => exact issueStep_goes _

/-- Settles O59: every instruction ends in a next state, hence so do a bundle, a turn and a step, and a run never comes to an end. -/
theorem nothingStops : Obligations.NothingStops := by
  unfold Obligations.NothingStops
  exact ⟨exec_goes, step_goes, fun s t _ => step_goes t⟩

end Sys2Proof.Machine
end

section
/-! PROOF. The end of a thread at any depth (R194, R317, R321): the part leaves its levels, frees its records and keeps every thread's
number, so the thread that has ended is found, and stands nowhere. -/

namespace Sys2Proof.Machine
open Sys2Proof.Safety

/-! ### Threads that are alike before and after -/

/-- The threads of `u` are those of `s`, one by one, as far as `g` tells. -/
structure ThreadsAlike {α : Type} (g : Thread → α) (s u : State) : Prop where
  cur : g u.cur = g s.cur
  others : u.others.map g = s.others.map g

namespace ThreadsAlike

section
variable {α : Type} {g : Thread → α}

theorem refl (s : State) : ThreadsAlike g s s := ⟨rfl, rfl⟩

theorem trans {s t u : State} (h : ThreadsAlike g s t) (h' : ThreadsAlike g t u) : ThreadsAlike g s u :=
  ⟨h'.cur.trans h.cur, h'.others.trans h.others⟩

theorem of_accessed {s u : State} (h : Accessed s u) : ThreadsAlike g s u := ⟨congrArg g h.cur, congrArg (List.map g) h.others⟩

theorem modThread (s : State) {n : ThreadNo} {f : Thread → Thread} (hf : ∀ t : Thread, t.num = n → g (f t) = g t) :
    ThreadsAlike g s (s.modThread n f) := by
  unfold State.modThread
  split
  · next own => exact ⟨hf s.cur own, rfl⟩
  · refine ⟨rfl, ?_⟩
    rw [List.map_map]
    refine List.map_congr_left fun t _ => ?_
    simp only [Function.comp_apply]
    split
    · next own => exact hf t (beq_iff_eq.mp own)
    · rfl

theorem then_modThread {s u : State} (h : ThreadsAlike g s u) {n : ThreadNo} {f : Thread → Thread}
    (hf : ∀ t : Thread, t.num = n → g (f t) = g t) : ThreadsAlike g s (u.modThread n f) := h.trans (modThread u hf)

theorem foldl {β : Type} {f : State → β → State} (hf : ∀ s b, ThreadsAlike g s (f s b)) (l : List β) (s : State) :
    ThreadsAlike g s (l.foldl f s) := foldl_keeps (P := ThreadsAlike g s) (fun u b h => h.trans (hf u b)) l (refl s)

end

/-- With the numbers of all threads, whether a thread is found stays as it is. -/
theorem thread?_isSome {s u : State} (h : ThreadsAlike Thread.num s u) (n : ThreadNo) :
    (u.thread? n).isSome = (s.thread? n).isSome := by
  have listed : ∀ s : State, (s.thread? n).isSome = true ↔ s.cur.num = n ∨ n ∈ s.others.map Thread.num := fun s => by
    unfold State.thread?
    split
    · next own => simp [own]
    · next other => simp [other, List.find?_isSome]
  rw [Bool.eq_iff_iff, listed, listed, h.cur, h.others]

end ThreadsAlike

/-- A thread replaced by one of its number is found so. -/
theorem thread_modThread_const {s : State} {n : ThreadNo} {v : Thread} (hs : (s.thread? n).isSome) (hv : v.num = n) :
    (s.modThread n fun _ => v).thread? n = some v := by
  have same : (s.modThread n fun _ => v) = s.modThread n fun t => if t.num = n then v else t := by
    unfold State.modThread
    split
    · next own => simp [own]
    · congr 2
      funext t
      by_cases own : t.num = n <;> simp [own]
  obtain ⟨t, ht⟩ := Option.isSome_iff_exists.mp hs
  rw [same, thread_modThread, ht, Option.map_some, if_pos (num_of_thread? ht)]
  intro t
  split
  · next own => exact hv.trans own.symm
  · rfl

/-! ### Numbers are kept -/

theorem sameNumbers_postReport (s : State) (n : ThreadNo) (kind : BitVec 4) (dm : DomNo) (w0 w1 : Word) :
    ThreadsAlike Thread.num s (s.postReport n kind dm w0 w1) := by
  unfold State.postReport
  split
  · exact .refl s
  · dsimp only
    split
    · split
      · refine .then_modThread ?_ ?_
        · exact ⟨rfl, rfl⟩
        · exact fun _ _ => rfl
      · exact ⟨rfl, rfl⟩
    · exact .modThread s fun t _ => by split <;> rfl

theorem sameNumbers_partRead (s : State) (n : ThreadNo) (dm : DomNo) (a k : Nat) : ThreadsAlike Thread.num s (s.partRead n dm a k) := by
  have read : ThreadsAlike Thread.num s ((s.eccRead (physRange a k)).1.touch (physRange a k)) :=
    .of_accessed ((accessed_eccRead ..).trans (accessed_touch ..))
  unfold State.partRead
  dsimp only
  split
  · exact read.trans (sameNumbers_postReport ..)
  · exact read

theorem sameNumbers_partWrite (s : State) (n : ThreadNo) (dm : DomNo) (a : Nat) (bs : List Byte) :
    ThreadsAlike Thread.num s (s.partWrite n dm a bs) := by
  have written : ThreadsAlike Thread.num s (s.physWrite a bs) := .of_accessed (accessed_physWrite ..)
  unfold State.partWrite
  split
  · exact written
  · exact written.trans (sameNumbers_postReport ..)

theorem sameNumbers_freeBlock (s : State) (t : Thread) (d : DomNo) : ThreadsAlike Thread.num s (freeBlock s t d).1 := by
  unfold freeBlock
  split
  · exact .refl s
  · exact (sameNumbers_partWrite ..).trans ⟨rfl, rfl⟩

theorem sameNumbers_freeAll (s : State) (t : Thread) : ThreadsAlike Thread.num s (freeAll s t).1 := by
  have blocks : ∀ (l : List Block) (p : State × Thread),
      ThreadsAlike Thread.num p.1 (l.foldl (fun (p : State × Thread) b => freeBlock p.1 p.2 b.dom) p).1 := fun l => by
    induction l with
    | nil => exact fun p => .refl p.1
    | cons b l ih => exact fun p => (sameNumbers_freeBlock ..).trans (ih (freeBlock p.1 p.2 b.dom))
  have freed := blocks t.blocks (s, t)
  unfold freeAll
  dsimp only
  generalize t.blocks.foldl _ (s, t) = r at freed
  split
  · exact freed
  · exact freed
  · exact freed.trans (sameNumbers_partWrite ..)

theorem sameNumbers_releasePorts (s : State) (t : Thread) (ports : List Port) : ThreadsAlike Thread.num s (s.releasePorts t ports) := by
  refine .foldl (fun s p => ?_) ports s
  split
  · exact .refl s
  · split
    · exact ⟨rfl, rfl⟩
    · split
      · exact .modThread s fun _ _ => rfl
      · split
        · exact .modThread s fun _ _ => rfl
        · exact .refl s

theorem sameNumbers_dropGate (s : State) (gate : Nat) : ThreadsAlike Thread.num s (s.dropGate gate) := by
  have dropped : ThreadsAlike Thread.num s (s.dropNaming (namesGate gate)) := by
    refine .foldl (fun s d => .foldl (fun s i => ?_) _ s) _ s
    dsimp only
    split
    · exact sameNumbers_partWrite ..
    · exact .refl s
  exact dropped.trans ⟨rfl, rfl⟩

theorem sameNumbers_leaveGate (s : State) (t : Thread) (d : Nat) : ThreadsAlike Thread.num s (s.leaveGate t d) := by
  unfold State.leaveGate
  split
  · exact .refl s
  · exact .refl s
  · split
    · exact .refl s
    · next g _ _ _ =>
      have left : ThreadsAlike Thread.num s (s.addInside t g false) := (sameNumbers_partRead ..).trans (sameNumbers_partWrite ..)
      dsimp only
      split
      · exact left.trans (sameNumbers_dropGate ..)
      · exact left

theorem sameNumbers_leaveLevel (s : State) (t : Thread) (discard : Bool) (d : Nat) :
    ThreadsAlike Thread.num s (s.leaveLevel t discard d) := by
  unfold State.leaveLevel
  split
  · exact .refl s
  · dsimp only
    generalize ports : s.releasePorts t _ = s1
    generalize gate : State.leaveGate _ t d = s4
    have released : ThreadsAlike Thread.num s s1 := ports ▸ sameNumbers_releasePorts ..
    have left : ThreadsAlike Thread.num s s4 := by
      rw [← gate]
      refine .trans (.then_modThread ?_ ?_) (sameNumbers_leaveGate ..)
      · exact ⟨released.cur, released.others⟩
      · exact fun _ _ => rfl
    split
    · exact left
    · split
      · exact left
      · next u found =>
        refine .then_modThread (left.trans (sameNumbers_freeBlock ..)) fun v own => ?_
        exact ((freeBlock_num ..).2.trans (num_of_thread? found)).trans own.symm

theorem sameNumbers_leaveTo (s : State) (t : Thread) (d : Nat) : ThreadsAlike Thread.num s (s.leaveTo t d) :=
  .foldl (fun _ _ => sameNumbers_leaveLevel ..) _ s

theorem sameNumbers_endWorker (s : State) (t : Thread) : ThreadsAlike Thread.num s (s.endWorker t) := by
  unfold State.endWorker
  split <;> exact ⟨rfl, rfl⟩

theorem sameNumbers_endAccs (s : State) (n : ThreadNo) (kind : EndKind) : ThreadsAlike Thread.num s (s.endAccs n kind) := by
  unfold State.endAccs
  split <;> exact ⟨rfl, rfl⟩

/-! ### The end -/

/-- The state and a thread, once it has left its levels and given up its ports, blocks and hardware page (R321). -/
def State.strips (s : State) (t : Thread) : State × Thread :=
  let bottom := if t.depth = 0 then t.ports.toList else match entryAt s t 1 with
    | some f => (framePorts fun i => s.recWord f.cframe.toNat i).toList
    | none => []
  let u := (s.leaveTo t 0).releasePorts t (bottom ++ (t.susp.filter fun p => p.1 == 0).flatMap fun p => p.2.toList)
  freeAll u { (u.thread? t.num).getD t with depth := t.depth, top := t.top }

theorem strips_keeps (s : State) (t : Thread) : ThreadsAlike Thread.num s (s.strips t).1 ∧ (s.strips t).2.num = t.num := by
  unfold State.strips
  dsimp only
  generalize ports : (s.leaveTo t 0).releasePorts t _ = u
  have released : ThreadsAlike Thread.num s u := ports ▸ (sameNumbers_leaveTo ..).trans (sameNumbers_releasePorts ..)
  refine ⟨released.trans (sameNumbers_freeAll ..), (freeAll_num ..).2.trans ?_⟩
  cases found : u.thread? t.num with
  | none => rfl
  | some v =>
    show v.num = _
    exact num_of_thread? found

theorem countEnd_thread? (s : State) (t : Thread) (kind : EndKind) (cyc : Word) (n : ThreadNo) :
    (s.countEnd t kind cyc).thread? n = s.thread? n := by
  unfold State.countEnd
  split
  · rfl
  · dsimp only
    split
    · unfold State.countThread State.settlePart
      dsimp only
      split
      · rfl
      · split <;> rfl
    · rfl

section
variable {s : State} {n : ThreadNo} {t : Thread} (ht : s.thread? n = some t) (stands : t.place ≠ .gone)
include ht stands

theorem endThread_eq (kind : EndKind) : s.endThread n kind = ((((((s.strips t).1.dropLease n).endAccs n kind).endWorker t).forgets
    n).modThread n fun _ => (s.strips t).2.ended).countEnd t kind s.cyc := by
  cases num_of_thread? ht
  rw [State.endThread, ht]
  dsimp only
  rw [if_neg stands]
  rfl

/-- R321: a thread that ends stands nowhere. -/
theorem endThread_stands_nowhere (kind : EndKind) : ∃ w, (s.endThread n kind).thread? n = some w ∧ w.place = .gone := by
  obtain ⟨alike, num⟩ := strips_keeps s t
  rw [endThread_eq ht stands, countEnd_thread?]
  generalize s.strips t = r at alike num
  have accs := sameNumbers_endAccs (r.1.dropLease n) n kind
  have worker := sameNumbers_endWorker ((r.1.dropLease n).endAccs n kind) t
  generalize ((r.1.dropLease n).endAccs n kind).endWorker t = u at worker
  have kept : ThreadsAlike Thread.num s (u.forgets n) :=
    ⟨(worker.cur.trans accs.cur).trans alike.cur, (worker.others.trans accs.others).trans alike.others⟩
  refine ⟨_, thread_modThread_const ?_ (num.trans (num_of_thread? ht)), rfl⟩
  rw [kept.thread?_isSome, ht]
  rfl

end

end Sys2Proof.Machine
end

section
/-! PROOF. Threads that move (R273, R286 to R289, R315, R322, R360, R371): what one leaves behind in its records, carries with it, and
finds where it lands. -/

namespace Sys2Proof.Machine
open Sys2Proof.Safety

/-! ### What a change of a thread leaves -/

theorem modThread_damage (s : State) (n : ThreadNo) (f : Thread → Thread) : (s.modThread n f).damage = s.damage := by
  unfold State.modThread
  split <;> rfl

theorem modThread_combs (s : State) (n : ThreadNo) (f : Thread → Thread) : (s.modThread n f).combs = s.combs := by
  unfold State.modThread
  split <;> rfl

theorem modThread_hives (s : State) (n : ThreadNo) (f : Thread → Thread) : (s.modThread n f).hives = s.hives := by
  unfold State.modThread
  split <;> rfl

/-- A thread that is found, found changed. -/
theorem thread_modThread_some {s : State} {n : ThreadNo} {t : Thread} {f : Thread → Thread} (hf : ∀ t : Thread, (f t).num = t.num)
    (ht : s.thread? n = some t) : (s.modThread n f).thread? n = some (f t) := by
  rw [thread_modThread s n f hf, ht, Option.map_some]

/-- Changing every core: one that the change of an unlisted core leaves alone is found changed. -/
theorem core_map (s : State) (c : CoreNo) {f : Core → Core} (hn : ∀ k, (f k).num = k.num) (hd : f { num := c } = { num := c }) :
    ({ s with cores := s.cores.map f } : State).core c = f (s.core c) := by
  show getBy Core.num c { num := c } (s.cores.map f) = f (getBy Core.num c { num := c } s.cores)
  induction s.cores with
  | nil => exact hd.symm
  | cons k l ih =>
    rw [List.map_cons, getBy, getBy, hn]
    split
    · rfl
    · exact ih

/-! ### The top entry goes to the hardware page (R32) -/

theorem accessed_writeHwPage (s : State) (t : Thread) : Accessed s (writeHwPage s t).2 := by
  unfold writeHwPage
  split
  · exact .refl s
  · dsimp only
    split
    · exact accessed_recWrite ..
    · exact (accessed_recWrite ..).trans (accessed_recWrite ..)

theorem writeHwPage_damage_subset (s : State) (t : Thread) : (writeHwPage s t).2.damage ⊆ s.damage := by
  unfold writeHwPage
  split
  · exact List.Subset.refl _
  · dsimp only
    split
    · exact recWrite_damage_subset ..
    · exact List.Subset.trans (recWrite_damage_subset ..) (recWrite_damage_subset ..)

/-- The state once the part has shelved a thread's top entry. -/
def State.shelved (s : State) (t : Thread) : State := (writeHwPage s t).2.modThread t.num fun u => { u with top := none }

theorem shelveTop_eq {s : State} {t : Thread} (h : ShelvesTop s t) : s.shelveTop t = (false, s.shelved t) := by
  obtain ⟨written, page⟩ := h
  have kept : (t.depth != 0#4 && t.hwPage.isNone) = false := by
    by_cases depth : t.depth = 0
    · simp [depth]
    · rw [Option.isNone_eq_false_iff.mpr (page depth), Bool.and_false]
  unfold State.shelveTop
  rw [← written]
  simp only [written, kept]
  rfl

section
variable {s : State} {t : Thread}

theorem shelved_thread? (ht : s.thread? t.num = some t) : (s.shelved t).thread? t.num = some { t with top := none } := by
  have here : (writeHwPage s t).2.thread? t.num = some t := ((accessed_writeHwPage s t).thread? _).trans ht
  exact thread_modThread_some (f := fun u => { u with top := none }) (fun _ => rfl) here

theorem shelved_cache (c : CoreNo) : ((s.shelved t).core c).cache = (s.core c).cache := by
  rw [State.shelved, modThread_core]
  exact (accessed_writeHwPage s t).cache c

theorem shelved_damage_subset : (s.shelved t).damage ⊆ s.damage := by
  rw [State.shelved, modThread_damage]
  exact writeHwPage_damage_subset ..

end

/-! ### What a thread carries (R273, R288) -/

theorem carry_reg (t : Thread) (live : BitVec 16) (r : XReg) :
    (t.carry live).reg r = if live.getLsbD r.toNat then t.reg r else 0 := by
  show (regFile _)[r.toNat]'r.isLt = _
  rw [regFile_getElem]
  congr 1
  rw [List.getD_eq_getElem _ _ (by rw [Vector.length_toList]; exact r.isLt), Vector.getElem_toList]
  rfl

/-- What is left of a wait for a worker's record, or of one that ends with the departure (R295). -/
theorem rerun_wait {t : Thread} (h : t.wait = some .leaving ∨ t.wait = some .record) :
    t.rerun.wait = if t.wait = some .record then some .record else none := by
  rcases h with h | h <;> simp [Thread.rerun, h]

/-! ### Orphans (R319, R322) -/

/-- `u` is `t`, orphaned or not. -/
def Thread.MayOrphan (t u : Thread) : Prop := ∃ o b v, u = { t with orphan := o, botdom := b, chgvd := v }

/-- R322: a thread that leaves its slot may be orphaned, and nothing else changes. -/
theorem orphanLeaving_eq (s : State) (n : ThreadNo) :
    ∃ f, s.orphanLeaving n = s.modThread n f ∧ ∀ t : Thread, t.MayOrphan (f t) := by
  have same : s = s.modThread n id := by
    unfold State.modThread
    split
    · rfl
    · simp
  have stays : ∃ f, s = s.modThread n f ∧ ∀ t : Thread, t.MayOrphan (f t) := ⟨id, same, fun t => ⟨t.orphan, t.botdom, t.chgvd, rfl⟩⟩
  unfold State.orphanLeaving
  split
  · unfold State.orphanThread
    split
    · exact stays
    · split
      · exact stays
      · dsimp only
        split
        · exact stays
        · exact ⟨_, rfl, fun t => ⟨_, _, _, rfl⟩⟩
  · exact stays

theorem MayOrphan_num {t u : Thread} (h : t.MayOrphan u) : u.num = t.num := by
  obtain ⟨o, b, v, rfl⟩ := h
  rfl

/-- R322: the thread that leaves is found, orphaned or not. -/
theorem orphanLeaving_thread? {s : State} {n : ThreadNo} {t : Thread} (ht : s.thread? n = some t) :
    ∃ w, (s.orphanLeaving n).thread? n = some w ∧ t.MayOrphan w := by
  obtain ⟨f, leaves, orphans⟩ := orphanLeaving_eq s n
  rw [leaves]
  exact ⟨f t, thread_modThread_some (fun t => MayOrphan_num (orphans t)) ht, orphans t⟩

/-! ### Operations that no longer count (R164, R168) -/

theorem parkAll_thread? {s : State} {n : ThreadNo} {t : Thread} (ht : s.thread? n = some t) :
    (s.parkAll n).thread? n = some { t with tlo := 0 } :=
  thread_modThread_some (f := fun t => { t with tlo := 0 }) (fun _ => rfl) (by exact ht)

theorem parkAll_core (s : State) (n : ThreadNo) (c : CoreNo) : (s.parkAll n).core c = s.core c := modThread_core ..

/-- R164: on a comb where no operation of the thread is in flight, its slots are parked. -/
theorem parkAll_parks {s : State} {n : ThreadNo} {k : Comb} (hk : k ∈ (s.parkAll n).combs) (idle : ∀ o ∈ k.queue, o.thread ≠ n) :
    ∀ a ∈ k.accs, a.thread = n → a.parked = true := by
  rw [State.parkAll, modThread_combs] at hk
  obtain ⟨_, quieted, rfl⟩ := List.mem_map.mp hk
  obtain ⟨_, dropped, rfl⟩ := List.mem_map.mp quieted
  obtain ⟨m, -, rfl⟩ := List.mem_map.mp dropped
  have none_ : (m.tilesOf n).isEmpty = true := by
    rw [Comb.tilesOf, List.isEmpty_iff, List.filter_eq_nil_iff]
    intro o ho own
    have same : m.queue = (if (m.tilesOf n).isEmpty then m.park n else { m with parking := n :: m.parking.filter fun k => k != n }).queue := by
      split <;> rfl
    have other := idle _ (List.mem_map_of_mem (same ▸ ho))
    rw [if_pos own] at other
    exact other (beq_iff_eq.mp own)
  intro a ha own
  dsimp only at ha
  rw [if_pos none_] at ha
  obtain ⟨b, -, rfl⟩ := List.mem_map.mp ha
  split
  · rfl
  · next other =>
    rw [if_neg other] at own
    exact absurd (beq_iff_eq.mpr own) other

/-! ### Departure (R286) -/

/-- What travels of a thread, with its live registers, to another core. -/
def Thread.departs (t : Thread) (live : BitVec 16) (from_ target : CoreNo) : Thread :=
  ({ t.rerun.carry live with place := .travelling target, trip := { from_ := from_ }, leaving := none } : Thread).event 12 1

theorem depart_thread? {s : State} {t : Thread} {b : Block} (target : CoreNo) (ht : s.thread? t.num = some t)
    (hb : t.block? t.dom = some b) (shelves : ShelvesTop s t) (record : TravelRecord s b true) :
    ∃ w k, (s.depart t target).thread? t.num = some w ∧ Thread.MayOrphan
      (({ t with top := none, tlo := k } : Thread).departs ((s.safePoint t).getD 0xFFFF) t.core target) w := by
  obtain ⟨modes, shadow⟩ := record
  have here := shelved_thread? ht
  have damage1 := shelved_damage_subset (s := s) (t := t)
  have good1 : ((s.shelved t).recWrite t b.running (wordsBytes ((frameLow t t.depth.toNat 0 t.pc).take 8))).1 = false := by
    rw [recWrite_fst, wordsBytes_length, List.length_take, frameLow_length]
    exact recBad_write_of_subset damage1 modes
  have wrote1 := accessed_recWrite (s.shelved t) t b.running (wordsBytes ((frameLow t t.depth.toNat 0 t.pc).take 8))
  have damage2 := List.Subset.trans (recWrite_damage_subset (s.shelved t) t b.running
    (wordsBytes ((frameLow t t.depth.toNat 0 t.pc).take 8))) damage1
  unfold State.depart
  rw [hb, shelveTop_eq shelves]
  dsimp only
  rw [good1]
  generalize ((s.shelved t).recWrite t b.running _).2 = s2 at wrote1 damage2
  have good2 : (s2.recWrite t (b.running + 0xC0) (wordsBytes ((frameLow t t.depth.toNat 0 t.pc).drop 24))).1 = false := by
    rw [recWrite_fst, wordsBytes_length, List.length_drop, frameLow_length]
    exact recBad_write_of_subset damage2 shadow
  have wrote2 := accessed_recWrite s2 t (b.running + 0xC0) (wordsBytes ((frameLow t t.depth.toNat 0 t.pc).drop 24))
  rw [good2, if_neg (by decide)]
  generalize (s2.recWrite t (b.running + 0xC0) _).2 = s3 at wrote2
  have drained : ∃ k, (if combOf target = combOf t.core then s3.dropWait t.num else (s3.dropWait t.num).parkAll t.num).thread? t.num =
      some { t with top := none, tlo := k } := by
    have found : (s3.dropWait t.num).thread? t.num = some { t with top := none } :=
      (wrote2.thread? _).trans ((wrote1.thread? _).trans here)
    split
    · exact ⟨t.tlo, found⟩
    · exact ⟨0, parkAll_thread? found⟩
  obtain ⟨k, drained⟩ := drained
  obtain ⟨w, found, orphan⟩ := orphanLeaving_thread? (thread_modThread_some
    (f := fun u => u.departs ((s.safePoint t).getD 0xFFFF) t.core target) (fun _ => event_num ..) drained)
  exact ⟨w, k, found, orphan⟩

/-- R108, R286, R371: a thread that has drained leaves, unless its core's retry buffer is full. -/
theorem exec_migrationDeparture {s : State} {n : ThreadNo} {t : Thread} {c : CoreNo} {full : Bool} (ht : s.thread? n = some t)
    (leaves : t.leaving = some (c, full)) (stands : t.inSlot = true) (waits : t.wait = some .leaving ∨ t.wait = some .record)
    (norm : t.norm = false) (ldo : t.ldo = 0) (sto : t.sto = 0) (rest : full = true → t.cpo = 0 ∧ t.tlo = 0)
    (room : s.buffered t.core < 32) (behind : s.anyBehind t (t.pageRecords t.depth.toNat ++ t.runningRecord) = false) :
    exec (.migrationDeparture n) s = .next (s.depart t c) := by
  have others : (!full || (t.cpo == 0 && t.tlo == 0)) = true := by
    cases full with
    | false => rfl
    | true => simp [rest rfl]
  show execMigrationDeparture n s = _
  rw [execMigrationDeparture, ht]
  dsimp only
  rw [leaves]
  dsimp only
  rcases waits with waits | waits <;> simp [waits, stands, norm, ldo, sto, others, behind, State.canStage, room]

/-! ### Arrival (R288, R289, R322) -/

/-- R288: of a thread that has travelled its record is read back, unless it is to be unwound (R324). -/
theorem readBackDue_travelling {s : State} {t : Thread} {b : Block} {c : CoreNo} (hb : t.block? t.dom = some b)
    (hp : t.place = .travelling c) (record : TravelRecord s b false) :
    ∃ u f, s.readBackDue t = (false, u, f) ∧ (∀ n, u.thread? n = s.thread? n) ∧ SameBytes s u ∧
      (f = (fun v => v.landed (s.recWord b.running)) ∨ f = id ∧ s.unwindTarget t ≠ none) := by
  obtain ⟨modes, shadow⟩ := record
  unfold State.readBackDue
  split
  · next unwinds => exact ⟨_, _, rfl, fun _ => rfl, .of_damage rfl rfl, .inr ⟨rfl, Option.isSome_iff_ne_none.mp unwinds⟩⟩
  · have read1 := sameBytes_recRead s t b.running 0x40
    have same := read1.trans (sameBytes_recRead _ t (b.running + 0xC0) 0x80)
    have bad1 : (s.recRead t b.running 0x40).1 = false := (recRead_fst ..).trans modes
    have bad2 : ((s.recRead t b.running 0x40).2.recRead t (b.running + 0xC0) 0x80).1 = false := by
      rw [recRead_fst, read1.recBad]
      exact shadow
    refine ⟨_, _, ?_, ((accessed_recRead s t b.running 0x40).trans (accessed_recRead ..)).thread?, same, .inl rfl⟩
    unfold State.readBack
    rw [hb]
    dsimp only
    rw [hp]
    dsimp only
    rw [bad1, bad2, same.recWord, Bool.or_self]

/-- R288, R289: a thread that takes a slot on arrival stands there with what its message and its record hold. -/
theorem occupy_lands {s : State} {c d : CoreNo} {n : SlotNo} {t : Thread} {b : Block} (ht : s.thread? t.num = some t)
    (hb : t.block? t.dom = some b) (hp : t.place = .travelling d) (he : (readEntry s t t.depth.toNat).1 = false)
    (record : TravelRecord s b false) :
    (s.occupy c n t).mem = s.mem ∧ ∃ f : Thread → Thread,
      (s.occupy c n t).thread? t.num = some (({ f t with top := entryAt s t t.depth.toNat } : Thread).seated c n s.cyc) ∧
      (f = (fun v => v.landed (s.recWord b.running)) ∨ f = id ∧ s.unwindTarget t ≠ none) := by
  have entry := sameBytes_readEntry s t t.depth.toNat
  have looked := accessed_readEntry s t t.depth.toNat
  obtain ⟨u, f, read, threads, same, finds⟩ := readBackDue_travelling (s := (readEntry s t t.depth.toNat).2) hb hp
    ⟨(entry.recBad _).trans record.1, (entry.recBad _).trans record.2⟩
  rw [entry.recWord, entry.unwindTarget looked.domains] at finds
  have whole := entry.trans same
  have seats : s.occupy c n t = (u.modThread t.num fun v =>
      ({ f v with top := entryAt s t t.depth.toNat } : Thread).seated c n s.cyc).moveMail t.num c := by
    unfold State.occupy
    simp only [hp, he, read, whole.entryAt, Bool.or_self, Bool.false_eq_true, if_false]
  have num : ∀ v : Thread, (f v).num = v.num := by
    rcases finds with rfl | ⟨rfl, -⟩ <;> exact fun _ => rfl
  rw [seats]
  refine ⟨(modThread_mem ..).trans whole.1, f, ?_, finds⟩
  exact thread_modThread_some (f := fun v => ({ f v with top := entryAt s t t.depth.toNat } : Thread).seated c n s.cyc) num
    ((threads _).trans ((looked.thread? _).trans ht))

section
variable {s : State} {n : ThreadNo} {t : Thread} {c : CoreNo} (ht : s.thread? n = some t) (hp : t.place = .travelling c)
include ht hp

theorem exec_migrationArrival_waits (h : t.trip.refused = true ∨ s.cyc.toNat < t.trip.due.toNat) :
    exec (.migrationArrival n) s = .next s := by
  show execMigrationArrival n s = _
  rw [execMigrationArrival, ht]
  dsimp only
  rw [hp]
  rcases h with h | h <;> simp [h]

variable (sent : t.trip.refused = false) (due : t.trip.due.toNat ≤ s.cyc.toNat)
include sent due

theorem exec_migrationArrival : exec (.migrationArrival n) s =
    if t.lost then .next (s.lose t)
    else if s.killDue t then .next (s.endThread n t.killKind)
    else match s.openSlot c t.chgvd with
      | some m => .next (if s.resumeBehind t then s else s.occupy c m t)
      | none =>
        let k := s.core c
        if k.arrivals.length < 8 then
          .next ((s.setCore { k with arrivals := k.arrivals ++ [n] }).modThread n fun t => { t with place := .arrival c })
        else
          let (bad, s1, f) := s.readBackDue t
          if bad then .next (s1.lose t)
          else match (s1.modThread n f).intoCache c n with
            | some s2 => .next s2
            | none => .next ((s.modThread n fun t => { t with trip := { t.trip with refused := true } }).saveExhausted t.chgvd c) := by
  have comes : ¬(t.trip.refused || decide (s.cyc.toNat < t.trip.due.toNat)) = true := by simp [sent, due]
  show execMigrationArrival n s = _
  rw [execMigrationArrival, ht]
  dsimp only
  rw [hp]
  exact if_neg comes

/-- R322: a thread that is to be killed takes no place. -/
theorem migrationArrival_kills (kill : s.killDue t = true) :
    ∃ u w, exec (.migrationArrival n) s = .next u ∧ u.thread? n = some w ∧ w.place = .gone := by
  have stands : t.place ≠ .gone := by rw [hp]; nofun
  cases num_of_thread? ht
  rw [exec_migrationArrival ht hp sent due, if_pos kill]
  split
  · obtain ⟨w, found, gone⟩ := endThread_stands_nowhere ht stands .killed
    exact ⟨_, w, rfl, found, gone⟩
  · obtain ⟨w, found, gone⟩ := endThread_stands_nowhere ht stands t.killKind
    exact ⟨_, w, rfl, found, gone⟩

variable (lives : s.killDue t = false) (kept : t.lost = false)
include lives kept

theorem exec_migrationArrival_takes {m : SlotNo} (free : s.openSlot c t.chgvd = some m) (behind : s.resumeBehind t = false) :
    exec (.migrationArrival n) s = .next (s.occupy c m t) := by
  rw [exec_migrationArrival ht hp sent due]
  simp only [lives, kept, free, behind, Bool.false_eq_true, if_false]

theorem exec_migrationArrival_joins (full : s.openSlot c t.chgvd = none) (room : (s.core c).arrivals.length < 8) :
    exec (.migrationArrival n) s = .next ((s.setCore { s.core c with arrivals := (s.core c).arrivals ++ [n] }).modThread n fun t =>
      { t with place := .arrival c }) := by
  rw [exec_migrationArrival ht hp sent due]
  simp only [lives, kept, full, Bool.false_eq_true, if_false]
  exact if_pos room

end

end Sys2Proof.Machine
end

section
/-! PROOF. Saving, heat and the sharing of cores (R294, R295, R315, R352, R353, R360, R389): threads that the part takes out of their
slots, slots that it disables, slices that end and slots that are handed over. -/

namespace Sys2Proof.Machine
open Sys2Proof.Safety

/-! ### Saving into the cache (R273, R360) -/

theorem intoCache_room {s : State} {c : CoreNo} (n : ThreadNo) (room : (s.core c).cache.length < 32) :
    s.intoCache c n = some ((s.setCore { s.core c with cache := (s.core c).cache ++ [n] }).modThread n fun t =>
      { t with place := .cached c }) := by
  simp [State.intoCache, room]

/-- What a core's cache holds of a thread that has been saved with its live registers. -/
def Thread.saved (t : Thread) (live : BitVec 16) (c : CoreNo) : Thread := { t.rerun.carry live with place := .cached c }

/-- The state once the part holds nothing more for what a thread waits for, and its tile operations no longer count. -/
def State.quieted (s : State) (n : ThreadNo) : State :=
  (({ s with cores := s.cores.map fun k => { k with norm := k.norm.filter fun m => m != n } } : State).dropWait n).parkAll n

theorem quieted_cache (s : State) (n : ThreadNo) (c : CoreNo) : ((s.quieted n).core c).cache = (s.core c).cache := by
  rw [State.quieted, parkAll_core]
  exact (congrArg Core.cache (core_map s c (f := fun k => { k with norm := k.norm.filter fun m => m != n }) (fun _ => rfl) rfl) :)

theorem quieted_thread? {s : State} {n : ThreadNo} {t : Thread} (ht : s.thread? n = some t) :
    (s.quieted n).thread? n = some { t with tlo := 0 } := parkAll_thread? ht

/-- On every comb where the thread has nothing in flight its slots are parked (R164). -/
def State.Parked (s : State) (n : ThreadNo) : Prop :=
  ∀ k ∈ s.combs, (∀ o ∈ k.queue, o.thread ≠ n) → ∀ a ∈ k.accs, a.thread = n → a.parked = true

theorem quieted_parked (s : State) (n : ThreadNo) : (s.quieted n).Parked n := fun _ hk idle => parkAll_parks hk idle

theorem Parked_of_combs {s u : State} {n : ThreadNo} (h : s.Parked n) (e : u.combs = s.combs) : u.Parked n := by
  unfold State.Parked
  rw [e]
  exact h

/-- R360: a thread enters a cache that has room, orphaned or not, and nothing else changes of cores and combs. -/
theorem cached_orphanLeaving {s : State} {n : ThreadNo} {t : Thread} (c : CoreNo) (ht : s.thread? n = some t) :
    let u := ((s.setCore { s.core c with cache := (s.core c).cache ++ [n] }).modThread n fun t =>
      { t with place := .cached c }).orphanLeaving n
    (∃ w, u.thread? n = some w ∧ Thread.MayOrphan { t with place := .cached c } w) ∧ (u.core c).cache = (s.core c).cache ++ [n] ∧
      u.combs = s.combs := by
  intro u
  refine ⟨orphanLeaving_thread? (thread_modThread_some (f := fun t => { t with place := .cached c }) (fun _ => rfl) (by exact ht)), ?_⟩
  obtain ⟨f, leaves, -⟩ := orphanLeaving_eq ((s.setCore { s.core c with cache := (s.core c).cache ++ [n] }).modThread n fun t =>
      { t with place := .cached c }) n
  constructor
  · rw [show u = _ from leaves, modThread_core, modThread_core, core_setCore_of _ _ _ (by exact core_num ..)]
  · rw [show u = _ from leaves, modThread_combs, modThread_combs]
    rfl

section
variable {s : State} {c : CoreNo} {n : SlotNo} {t : Thread} (ht : s.thread? t.num = some t) (hp : t.place = .slot c n)
  (shelves : ShelvesTop s t)
include ht hp shelves

theorem saveContext_eq : s.saveContext t.num =
    ((((s.shelved t).quieted t.num).modThread t.num fun u => u.rerun.carry ((s.safePoint t).getD 0xFFFF)).intoCache c t.num).map
      fun u => u.orphanLeaving t.num := by
  have stands : t.core = c := by rw [Thread.core, hp]
  unfold State.saveContext
  rw [ht]
  dsimp only
  rw [shelveTop_eq shelves, stands]
  rfl

/-- R360: a thread whose core's cache has room is saved there with the registers of its safe point, and its slots are parked. -/
theorem saveContext_saves (room : (s.core c).cache.length < 32) :
    ∃ u w, s.saveContext t.num = some u ∧ u.thread? t.num = some w ∧
      Thread.MayOrphan (({ t with top := none, tlo := 0 } : Thread).saved ((s.safePoint t).getD 0xFFFF) c) w ∧
      (u.core c).cache = (s.core c).cache ++ [t.num] ∧ u.Parked t.num := by
  have found := thread_modThread_some (f := fun u => u.rerun.carry ((s.safePoint t).getD 0xFFFF)) (fun _ => rfl)
    (quieted_thread? (shelved_thread? ht))
  have cache : ((((s.shelved t).quieted t.num).modThread t.num fun u => u.rerun.carry ((s.safePoint t).getD 0xFFFF)).core c).cache =
      (s.core c).cache := by
    rw [modThread_core, quieted_cache, shelved_cache]
  have parked : (((s.shelved t).quieted t.num).modThread t.num fun u => u.rerun.carry ((s.safePoint t).getD 0xFFFF)).Parked t.num :=
    Parked_of_combs (quieted_parked _ _) (modThread_combs ..)
  rw [saveContext_eq ht hp shelves]
  generalize ((s.shelved t).quieted t.num).modThread t.num _ = s1 at found cache parked
  obtain ⟨⟨w, enters, orphan⟩, cached, combs⟩ := cached_orphanLeaving c found
  rw [intoCache_room t.num (cache ▸ room), Option.map_some]
  exact ⟨_, w, rfl, enters, orphan, cached.trans (by rw [cache]), Parked_of_combs parked combs⟩

end

/-! ### The engine's turn (R315, R360) -/

section
variable {s : State} {c : CoreNo} {n : SlotNo} {t : Thread} (saved : State → State)

theorem engineTurn_asks (asked : (s.saveQueue c).contains t.num = false) : s.engineTurn c t saved = s.askSave c t.num := by
  rw [State.engineTurn, asked]
  rfl

theorem engineTurn_waits (asked : (s.saveQueue c).contains t.num = true) (behind : (s.saveQueue c).head? ≠ some t.num) :
    s.engineTurn c t saved = s := by
  have first : ((s.saveQueue c).head? != some t.num) = true := bne_iff_ne.mpr behind
  rw [State.engineTurn, asked, first]
  rfl

theorem engineTurn_saves {u : State} (first : (s.saveQueue c).head? = some t.num) (savable : t.savable = true)
    (behind : s.saveBehind c t = false) (saves : s.saveContext t.num = some u) :
    s.engineTurn c t saved = saved (u.setCore { u.core c with saves := (u.core c).saves.filter fun n => n != t.num }) := by
  have asked : (s.saveQueue c).contains t.num = true := List.contains_iff_mem.mpr (List.mem_of_head? first)
  rw [State.engineTurn, asked, first, savable, behind, saves]
  simp

end

section
variable {s : State} {c : CoreNo} {n : SlotNo} {t : Thread} (ho : s.occupant c n = some t) (hv : (s.slotVd c n == some t.chgvd) = false)
include ho hv

theorem exec_preemptSave_defers (hd : s.deferred t = true) : exec (.preemptSave c n) s = .next (s.defers t.num) := by
  show execPreemptSave c n s = _
  rw [execPreemptSave, ho]
  dsimp only
  rw [hv, hd]
  rfl

theorem exec_preemptSave_turns (hd : s.deferred t = false) : exec (.preemptSave c n) s = .next (s.engineTurn c t id) := by
  show execPreemptSave c n s = _
  rw [execPreemptSave, ho]
  dsimp only
  rw [hv, hd]
  rfl

/-- R273, R360: the engine saves the thread that it has been asked to save first. -/
theorem preemptSave_saves (ht : s.thread? t.num = some t) (hp : t.place = .slot c n) (hd : s.deferred t = false)
    (first : (s.saveQueue c).head? = some t.num) (savable : t.savable = true) (behind : s.saveBehind c t = false)
    (room : (s.core c).cache.length < 32) (shelves : ShelvesTop s t) :
    ∃ u w, exec (.preemptSave c n) s = .next u ∧ u.thread? t.num = some w ∧
      Thread.MayOrphan (({ t with top := none, tlo := 0 } : Thread).saved ((s.safePoint t).getD 0xFFFF) c) w ∧
      (u.core c).cache = (s.core c).cache ++ [t.num] ∧ u.Parked t.num := by
  obtain ⟨u, w, saves, found, orphan, cache, parked⟩ := saveContext_saves ht hp shelves room
  rw [exec_preemptSave_turns ho hv hd, engineTurn_saves id first savable behind saves]
  refine ⟨_, w, rfl, found, orphan, ?_, parked⟩
  rw [id, core_setCore_of _ _ _ (by exact core_num ..)]
  exact cache

end

/-! ### Heat (R294, R295, R389) -/

/-- Of the numbers below a bound, looked at from the highest down, the first of which `p` holds. -/
theorem find?_range_reverse {p : Nat → Bool} {n : Nat} (hp : p n = true) (N : Nat) (hn : n < N)
    (above : ∀ m, n < m → m < N → p m = false) : (List.range N).reverse.find? p = some n := by
  induction N with
  | zero => exact absurd hn (Nat.not_lt_zero n)
  | succ N ih =>
    rw [List.range_succ, List.reverse_append, List.reverse_singleton, List.singleton_append, List.find?_cons]
    rcases Nat.lt_succ_iff_lt_or_eq.mp hn with lt | rfl
    · rw [above N lt (Nat.lt_succ_self N)]
      exact ih lt fun m hm hN => above m hm (Nat.lt_succ_of_lt hN)
    · rw [hp]

/-- R294: the disabled slots of a core after a sample. -/
def Core.sampled (k : Core) (x : BitVec 8) : BitVec 16 :=
  if k.hot.toNat ≤ x.toNat then (match (List.range 16).reverse.find? fun n => !k.disabled.getLsbD n with
    | some n => k.disabled ||| (1#16 <<< n)
    | none => k.disabled)
  else if x.toNat < k.coolAt then (match (List.range 16).find? fun n => k.disabled.getLsbD n with
    | some n => k.disabled &&& ~~~(1#16 <<< n)
    | none => k.disabled)
  else k.disabled

theorem exec_thermalSample (c : CoreNo) (x : BitVec 8) (s : State) :
    exec (.thermalSample c x) s = .next (s.setCore { s.core c with temp := x, disabled := (s.core c).sampled x }) := rfl

section
variable {k : Core} {x : BitVec 8}

theorem sampled_hot {n : Nat} (hn : n < 16) (hot : k.hot.toNat ≤ x.toNat) (enabled : k.disabled.getLsbD n = false)
    (above : ∀ m, n < m → m < 16 → k.disabled.getLsbD m = true) : k.sampled x = k.disabled ||| (1#16 <<< n) := by
  rw [Core.sampled, if_pos hot, find?_range_reverse (by simp [enabled]) 16 hn fun m lo hi => by simp [above m lo hi]]

theorem sampled_cool {n : Nat} (hn : n < 16) (hot : x.toNat < k.hot.toNat) (cool : x.toNat < k.coolAt)
    (off : k.disabled.getLsbD n = true) (below : ∀ m < n, k.disabled.getLsbD m = false) :
    k.sampled x = k.disabled &&& ~~~(1#16 <<< n) := by
  have low : (List.range 16).find? (fun n => k.disabled.getLsbD n) = some n :=
    List.find?_range_eq_some.mpr ⟨off, List.mem_range.mpr hn, fun m hm => by simp [below m hm]⟩
  rw [Core.sampled, if_neg (Nat.not_le.mpr hot), if_pos cool, low]

theorem sampled_between (hot : x.toNat < k.hot.toNat) (cool : k.coolAt ≤ x.toNat) : k.sampled x = k.disabled := by
  rw [Core.sampled, if_neg (Nat.not_le.mpr hot), if_neg (Nat.not_lt.mpr cool)]

end

/-- R295: the thread of a disabled slot that may migrate, and for which a core is cool, is to leave for it. -/
theorem exec_thermalDisplacement {s : State} {c d : CoreNo} {n : SlotNo} {t : Thread} (ho : s.occupant c n = some t)
    (off : (s.core c).disabled.getLsbD n.toNat = true) (hd : s.deferred t = false) (stays : t.leaving = none)
    (ports : t.portsBound = false) (vlive : t.vlive = false) (cool : s.coolCore t = some d) (norm : t.norm = false)
    (stands : t.stands = none) (closing : t.wait ≠ some .closing) (spawn : t.wait ≠ some .spawn) :
    exec (.thermalDisplacement c n) s =
      .next (((s.displaced t d false).dropWait t.num).modThread t.num fun t => t.leavesFor d) := by
  show execThermalDisplacement c n s = _
  rw [execThermalDisplacement, ho]
  simp [off, hd, stays, ports, vlive, cool, norm, stands, closing, spawn]

theorem displaced_thread? {s : State} {t : Thread} (d : CoreNo) (ht : s.thread? t.num = some t) :
    (s.displaced t d false).thread? t.num = some t :=
  thread_modThread_some (s := s.setHive { s.hive (hiveOf t.core) with displaced := (s.hive (hiveOf t.core)).displaced + 1 })
    (f := fun t => t) (fun _ => rfl) ht

theorem displaced_mem (s : State) (t : Thread) (d : CoreNo) (saved : Bool) : (s.displaced t d saved).mem = s.mem := modThread_mem ..

/-- R387: the hive counts the displacement. -/
theorem displaced_hive (s : State) (t : Thread) (d : CoreNo) (saved : Bool) :
    ((s.displaced t d saved).hive (hiveOf t.core)).displaced = (s.hive (hiveOf t.core)).displaced + 1 := by
  have kept : (s.displaced t d saved).hives =
      (s.setHive { s.hive (hiveOf t.core) with displaced := (s.hive (hiveOf t.core)).displaced + 1 }).hives := modThread_hives ..
  rw [State.hive, kept]
  show (State.hive (State.setHive _ _) _).displaced = _
  rw [hive_setHive_of _ _ _ (by exact hive_num ..)]

/-- R295, R369: what a thread that is to leave still waits for. -/
theorem leavesFor_wait (t : Thread) (d : CoreNo) : (t.leavesFor d).wait = match t.wait with
    | some .access => some .access
    | some .record => some .record
    | some (.refused a) => some (.refused a)
    | _ => some .leaving := by
  unfold Thread.leavesFor Thread.rerun
  dsimp only
  split
  · next e => rw [e]
  · split <;> simp_all

/-! ### Slices (R352) -/

/-- R352: while every VD is known to work or to be idle as it is, nothing is to be noted. -/
theorem noteWorks_steady {s : State} (steady : ∀ v ∈ s.vds, v.idleSince = none ↔ s.sharedWork v = true) : s.noteWorks = s := by
  have step : ∀ v ∈ s.vds, s.noteWork v = s := fun v hv => by
    unfold State.noteWork
    have known := steady v hv
    cases idle : v.idleSince <;> cases work : s.sharedWork v <;> simp_all
  unfold State.noteWorks
  generalize s.vds = l at step
  induction l with
  | nil => rfl
  | cons v l ih =>
    rw [List.foldl_cons, step v (List.mem_cons_self ..)]
    exact ih fun w hw => step w (List.mem_cons_of_mem _ hw)

section
variable {s : State} {c : CoreNo} (shared : s.isShared c = true) (steady : ∀ v ∈ s.vds, v.idleSince = none ↔ s.sharedWork v = true)
include shared steady

theorem exec_sliceEnd : exec (.sliceEnd c) s = match s.pickVd c with
    | none => .next (s.setCore { s.core c with sliceStart := s.cyc })
    | some v =>
      if (s.core c).sliceVd = some v then .next (s.setCore { s.core c with sliceStart := s.cyc })
      else if (s.core c).nextVd.isSome then .next s
      else .next (s.setCore { s.core c with
        nextVd := some v, handed := 0, pointer := (s.core c).lastCompute + 1, sliceStart := s.cyc }) := by
  show execSliceEnd c s = _
  rw [execSliceEnd, shared, noteWorks_steady steady]
  rfl

/-- R352: a slice that ends with no other VD picked goes on. -/
theorem sliceEnd_goes_on (same : s.pickVd c = none ∨ s.pickVd c = (s.core c).sliceVd) :
    exec (.sliceEnd c) s = .next (s.setCore { s.core c with sliceStart := s.cyc }) := by
  rw [exec_sliceEnd shared steady]
  cases pick : s.pickVd c with
  | none => rfl
  | some v =>
    rw [pick] at same
    exact if_pos (same.resolve_left nofun).symm

/-- R352, R353: the VD that is picked is to hold the core next, and the pointer starts behind LastCompute. -/
theorem sliceEnd_hands_over {v : VdNo} (pick : s.pickVd c = some v) (other : (s.core c).sliceVd ≠ some v)
    (idle : (s.core c).nextVd = none) : exec (.sliceEnd c) s = .next (s.setCore { s.core c with
      nextVd := some v, handed := 0, pointer := (s.core c).lastCompute + 1, sliceStart := s.cyc }) := by
  rw [exec_sliceEnd shared steady, pick]
  dsimp only
  rw [if_neg other, idle]
  rfl

/-- While the core is being handed over, nothing changes. -/
theorem sliceEnd_waits {v w : VdNo} (pick : s.pickVd c = some v) (other : (s.core c).sliceVd ≠ some v)
    (busy : (s.core c).nextVd = some w) : exec (.sliceEnd c) s = .next s := by
  rw [exec_sliceEnd shared steady, pick]
  dsimp only
  rw [if_neg other, busy]
  rfl

end

/-! ### Handing a core over (R315, R353) -/

/-- A thread without its deferral. -/
def Thread.undeferred (t : Thread) : Thread := { t with deferSince := none }

theorem ThreadsAlike.occupant {s u : State} (h : ThreadsAlike Thread.undeferred s u) (c : CoreNo) (n : SlotNo) :
    (u.occupant c n).map Thread.undeferred = (s.occupant c n).map Thread.undeferred := by
  have listed : ∀ s : State, (s.occupant c n).map Thread.undeferred = ((s.cur :: s.others).map Thread.undeferred
      |>.filter fun t => t.place != .gone).find? fun t => t.place == .slot c n := fun s => by
    rw [List.filter_map, List.find?_map]
    rfl
  rw [listed, listed, List.map_cons, List.map_cons, h.cur, h.others]

/-- R315: the deferral of each of some threads begins. -/
def State.defersAll (s : State) (l : List Thread) : State := l.foldl (fun (s : State) t => s.defers t.num) s

theorem defersAll_alike (s : State) (l : List Thread) : ThreadsAlike Thread.undeferred s (s.defersAll l) :=
  .foldl (fun s _ => ThreadsAlike.modThread (f := fun t => { t with deferSince := t.deferSince <|> some s.cyc }) s fun _ _ => rfl) l s

theorem defersAll_mem (s : State) (l : List Thread) : (s.defersAll l).mem = s.mem := foldl_mem _ (fun _ _ => modThread_mem ..) l s

theorem defersAll_core (s : State) (l : List Thread) (c : CoreNo) : (s.defersAll l).core c = s.core c := by
  have kept : (s.defersAll l).cores = s.cores :=
    foldl_field State.cores (f := fun (s : State) (t : Thread) => s.defers t.num) (fun _ _ => modThread_cores ..) l s
  rw [State.core, kept, State.core]

theorem askSave_core (s : State) (c : CoreNo) (n : ThreadNo) :
    (s.askSave c n).core c = { s.core c with saves := s.saveQueue c ++ [n] } :=
  core_setCore_of s _ c (by exact core_num s c)

/-- R353: the thread of a slot that is handed over joins the queue of its core's engine, and nothing else changes of the core. -/
theorem askHanded_core (s : State) (c : CoreNo) (n : SlotNo) :
    ∃ l, (s.askHanded c n).core c = { s.core c with saves := l } ∧ ∀ t, s.occupant c n = some t → t.num ∈ l := by
  cases there : s.occupant c n with
  | none =>
    have same : s.askHanded c n = s := by rw [State.askHanded, there]
    exact ⟨(s.core c).saves, by rw [same], fun v e => absurd e.symm (Option.some_ne_none v)⟩
  | some t =>
    have asks : s.askHanded c n = s.askSave c t.num := by rw [State.askHanded, there]
    have joins : ∀ w, some t = some w → w.num ∈ s.saveQueue c ++ [t.num] := fun w e =>
      Option.some.inj e ▸ List.mem_append_right _ (List.mem_singleton_self _)
    exact ⟨s.saveQueue c ++ [t.num], by rw [asks, askSave_core], joins⟩

theorem askHanded_mem (s : State) (c : CoreNo) (n : SlotNo) : (s.askHanded c n).mem = s.mem := by
  unfold State.askHanded
  split <;> rfl

/-- R315, R353: the threads in slots of a core that are still to be handed over and whose gates defer that. -/
def State.deferringIn (s : State) (c : CoreNo) : List Thread :=
  (((List.range 16).map (BitVec.ofNat 4)).filter fun n => !(s.core c).handed.getLsbD n.toNat).filterMap (s.deferredIn c)

section
variable {s : State} {c : CoreNo} {v : VdNo} {n : SlotNo} (next : (s.core c).nextVd = some v) (visit : s.visited (s.core c) = some n)
include next visit

theorem exec_slotHandover_hands (free : s.mayHand c n = true) : exec (.slotHandover c) s =
    .next (((s.defersAll (s.deferringIn c)).setCore { ((s.core c).handOver v n s.cyc) with pointer := n + 1 }).askHanded c n) := by
  show execSlotHandover c s = _
  rw [execSlotHandover]
  dsimp only
  rw [next]
  dsimp only
  rw [visit]
  exact if_pos free

theorem exec_slotHandover_waits (busy : s.mayHand c n = false) : exec (.slotHandover c) s =
    .next ((s.defersAll (s.deferringIn c)).setCore { (s.defersAll (s.deferringIn c)).core c with pointer := n }) := by
  show execSlotHandover c s = _
  rw [execSlotHandover]
  dsimp only
  rw [next]
  dsimp only
  rw [visit]
  exact if_neg (by rw [busy]; decide)

/-- R353: a slot that is handed over: the pointer moves on, and a thread that stands in the slot is to be saved. -/
theorem slotHandover_hands (free : s.mayHand c n = true) : ∃ u l, exec (.slotHandover c) s = .next u ∧ u.mem = s.mem ∧
    u.core c = { (s.core c).handOver v n s.cyc with pointer := n + 1, saves := l } ∧
    ∀ t, s.occupant c n = some t → t.num ∈ l := by
  rw [exec_slotHandover_hands next visit free]
  generalize set : (s.defersAll (s.deferringIn c)).setCore _ = s1
  have alike : ThreadsAlike Thread.undeferred s s1 := by
    rw [← set]
    exact ⟨(defersAll_alike s (s.deferringIn c)).cur, (defersAll_alike s (s.deferringIn c)).others⟩
  have core : s1.core c = { (s.core c).handOver v n s.cyc with pointer := n + 1 } := by
    rw [← set]
    exact core_setCore_of _ _ _ (by exact (handOver_num ..).trans (core_num ..))
  obtain ⟨l, asked, joins⟩ := askHanded_core s1 c n
  refine ⟨_, l, rfl, ?_, asked.trans (by rw [core]), fun t ht => ?_⟩
  · rw [askHanded_mem, ← set]
    exact defersAll_mem ..
  · have same := alike.occupant c n
    rw [ht, Option.map_some] at same
    obtain ⟨w, there, e⟩ := Option.map_eq_some_iff.mp same
    have num : w.num = t.num := (congrArg Thread.num e :)
    exact num ▸ joins w there

end

end Sys2Proof.Machine
end

section
/-! PROOF. Motion and heat (R286 to R289, R294, R295, R315, R322, R352, R353, R360, R361, R371): the clauses of O42 from the laws of
threads that move, of the engine and of cores that are shared. -/

namespace Sys2Proof.Machine
open Sys2Proof.Safety

/-! ### What travels and what is saved (R273, R286) -/

section
variable (t : Thread) (live : BitVec 16)

theorem departs_reg (from_ target : CoreNo) (r : XReg) :
    (t.departs live from_ target).reg r = if live.getLsbD r.toNat then t.reg r else 0 := by
  refine Eq.trans ?_ (carry_reg t.rerun live r)
  unfold Thread.departs Thread.event
  split <;> rfl

theorem departs_wait (from_ target : CoreNo) : (t.departs live from_ target).wait = t.rerun.wait := event_wait ..

theorem saved_reg (c : CoreNo) (r : XReg) : (t.saved live c).reg r = if live.getLsbD r.toNat then t.reg r else 0 :=
  carry_reg t.rerun live r

end

/-! ### Refused migrations (R371) -/

/-- The trip of a thread that has been refused: held for its backoff, one NACK more. -/
def Trip.heldBack (p : Trip) (now : Word) : Trip :=
  { p with refused := false, nacks := p.nacks + 1, due := now + BitVec.ofNat 64 (32 * 2 ^ min (p.nacks + 1) 7) }

/-- With no message and no `spawn.w` request refused, the NACK is the thread's. -/
theorem exec_nack_thread {s : State} {c : CoreNo} {t : Thread} (messages : ((s.core c).retry.find? fun m => m.refused) = none)
    (spawns : (s.spawns.find? fun p => p.2.refused && p.2.from_ == c) = none)
    (left : (s.threads.find? fun t => t.leftFrom c && t.trip.refused) = some t) :
    exec (.nack c) s = .next ((s.modThread t.num fun u => { u with trip := t.trip.heldBack s.cyc }).nackSeen t.num) := by
  show execNack c s = _
  rw [execNack]
  dsimp only
  rw [messages]
  dsimp only
  rw [spawns]
  dsimp only
  rw [left]
  rfl

theorem nackSeen_thread? {s : State} {n : ThreadNo} {t : Thread} (ht : s.thread? n = some t) :
    (s.nackSeen n).thread? n = some (t.event 13 1) :=
  thread_modThread_some (f := fun t => t.event 13 1) (fun _ => event_num ..) ht

/-! ### The end of a deferral (R315) -/

/-- A thread at the end of its deferral. -/
def Thread.deferralEnds (t : Thread) (now : Word) : Thread :=
  if t.deferSince.any fun u => 65536 ≤ (now - u).toNat then { t with deferOver := true, deferSince := none } else t

theorem exec_deferralExpiry (n : ThreadNo) (s : State) :
    exec (.deferralExpiry n) s = .next (s.modThread n fun t => t.deferralEnds s.cyc) := rfl

section
variable {t : Thread} {now : Word}

theorem deferralEnds_num (t : Thread) (now : Word) : (t.deferralEnds now).num = t.num := by
  unfold Thread.deferralEnds
  split <;> rfl

theorem deferralEnds_over {y : Word} (since : t.deferSince = some y) (expired : 65536 ≤ (now - y).toNat) :
    t.deferralEnds now = { t with deferOver := true, deferSince := none } := by
  refine if_pos ?_
  rw [since]
  exact decide_eq_true expired

theorem deferralEnds_early (early : ∀ y, t.deferSince = some y → (now - y).toNat < 65536) : t.deferralEnds now = t := by
  refine if_neg ?_
  cases since : t.deferSince with
  | none => exact Bool.false_ne_true
  | some y => exact fun expired => absurd (of_decide_eq_true expired) (Nat.not_le.mpr (early y since))

end

/-! ### The statement -/

/-- Settles O42: `exec_migrationDeparture` and `depart_thread?` give what leaves, `occupy_lands` and `migrationArrival_kills` what
arrives, `preemptSave_saves` what the engine saves; `sampled_hot`, `sampled_cool`, `sampled_between` and `exec_thermalDisplacement`
are heat, `exec_sliceEnd` and `slotHandover_hands` the sharing of a core. -/
theorem motionAndHeat : Obligations.MotionAndHeat := by
  unfold Obligations.MotionAndHeat
  intro live
  refine ⟨⟨?departure, ?arrival, ?nack, ?save, ?expiry⟩, ?sample, ?displacement, ?slice, ?handover, ?boost, ?budget⟩
  case departure =>
    intro s n t c full b ht own leaves stands waits norm ldo sto rest room hb behind shelves record
    cases own
    obtain ⟨w, k, found, o, bd, v, rfl⟩ := depart_thread? c ht hb shelves record
    refine ⟨_, _, exec_migrationDeparture ht leaves stands waits norm ldo sto rest room behind, found, event_place .., event_leaving ..,
      event_trip .., ?_, event_pc .., event_dom .., event_top .., fun r => ?_⟩
    · exact (departs_wait ..).trans (rerun_wait (t := { t with top := none, tlo := k }) waits)
    · exact departs_reg { t with top := none, tlo := k } ..
  case arrival =>
    intro s n t c ht own hp
    cases own
    refine ⟨exec_migrationArrival_waits ht hp, fun sent due => ⟨migrationArrival_kills ht hp sent due, ?_, ?_⟩⟩
    · intro m b lives free hb he record kept behind
      obtain ⟨mem, f, found, finds⟩ := occupy_lands (c := c) (n := m) ht hb hp he record
      refine ⟨_, _, exec_migrationArrival_takes ht hp sent due lives kept free behind, found, rfl, ?_⟩
      rcases finds with rfl | ⟨rfl, unwinds⟩
      · exact ⟨rfl, rfl, rfl, rfl, rfl, mem, fun _ => ⟨rfl, rfl⟩⟩
      · exact ⟨rfl, rfl, rfl, rfl, rfl, mem, fun stays => absurd stays unwinds⟩
    · intro lives kept full room
      refine ⟨_, exec_migrationArrival_joins ht hp sent due lives kept full room, ?_, ?_, modThread_mem ..⟩
      · exact thread_modThread_some (f := fun t => { t with place := .arrival c }) (fun _ => rfl) (by exact ht)
      · rw [modThread_core, core_setCore_of _ _ _ (by exact core_num ..)]
  case nack =>
    intro s c t messages spawns left ht nacks
    have held := thread_modThread_some (f := fun u => { u with trip := t.trip.heldBack s.cyc }) (fun _ => rfl) ht
    exact ⟨_, _, exec_nack_thread messages spawns left, nackSeen_thread? held, event_place .., (modThread_mem ..).trans (modThread_mem ..),
      event_trip ..⟩
  case save =>
    intro s c n t ho ht hp hv
    refine ⟨fun hd => ?_, fun hd unasked => ?_, fun hd asked behind => ?_, fun hd first savable behind room shelves _ => ?_⟩
    · exact ⟨_, exec_preemptSave_defers ho hv hd, modThread_mem ..,
        thread_modThread_some (f := fun t => { t with deferSince := t.deferSince <|> some s.cyc }) (fun _ => rfl) ht⟩
    · rw [exec_preemptSave_turns ho hv hd, engineTurn_asks id unasked]
      exact ⟨_, rfl, by rw [askSave_core], rfl, rfl, rfl⟩
    · rw [exec_preemptSave_turns ho hv hd, engineTurn_waits id asked behind]
    · obtain ⟨u, _, saves, found, ⟨o, bd, v, rfl⟩, cache, parked⟩ :=
        preemptSave_saves ho hv ht hp hd first savable behind room shelves
      exact ⟨u, _, saves, found, rfl, fun r => saved_reg { t with top := none, tlo := 0 } _ c r, rfl, rfl, rfl, rfl, rfl, cache,
        parked⟩
  case expiry =>
    intro s n t ht
    have found := thread_modThread_some (f := fun t => t.deferralEnds s.cyc) (fun t => deferralEnds_num t s.cyc) ht
    exact ⟨_, exec_deferralExpiry n s, modThread_mem .., fun y since expired => found.trans (by rw [deferralEnds_over since expired]),
      fun early => found.trans (by rw [deferralEnds_early early])⟩
  case sample =>
    intro s c x k
    refine ⟨_, exec_thermalSample c x s, ?_⟩
    rw [core_setCore_of _ _ _ (by exact core_num ..)]
    exact ⟨rfl, rfl, fun n hn hot enabled above => sampled_hot hn hot enabled above,
      fun n hn hot cool off below => sampled_cool hn hot cool off below, fun hot cool => sampled_between hot cool⟩
  case displacement =>
    intro s c d n t ho ht off hd stays ports vlive cool norm stands closing spawn
    have leaves := thread_modThread_some (f := fun t => t.leavesFor d) (fun _ => rfl)
      (s := (s.displaced t d false).dropWait t.num) (displaced_thread? d ht)
    refine ⟨_, _, exec_thermalDisplacement ho off hd stays ports vlive cool norm stands closing spawn, leaves, rfl, rfl, ?_, ?_,
      leavesFor_wait t d⟩
    · exact (modThread_mem ..).trans (displaced_mem s t d false)
    · rw [State.hive, modThread_hives]
      exact displaced_hive s t d false
  case slice =>
    intro s c shared steady
    by_cases same : s.pickVd c = none ∨ s.pickVd c = (s.core c).sliceVd
    · refine ⟨_, sliceEnd_goes_on shared steady same, rfl, rfl, fun v pick other => ?_, fun _ => ?_⟩
      · rw [pick] at same
        exact absurd (same.resolve_left nofun).symm other
      · rw [core_setCore_of _ _ _ (by exact core_num ..)]
        exact ⟨rfl, rfl⟩
    · obtain ⟨v, pick⟩ := Option.ne_none_iff_exists'.mp fun none_ => same (.inl none_)
      have other : (s.core c).sliceVd ≠ some v := fun e => same (.inr (pick.trans e.symm))
      cases next : (s.core c).nextVd with
      | none =>
        refine ⟨_, sliceEnd_hands_over shared steady pick other next, rfl, rfl, fun w picked _ _ => ?_, fun h => absurd h same⟩
        rw [core_setCore_of _ _ _ (by exact core_num ..)]
        exact ⟨pick.symm.trans picked, rfl, rfl, rfl⟩
      | some w =>
        exact ⟨_, sliceEnd_waits shared steady pick other next, rfl, rfl, fun _ _ _ idle => absurd idle (Option.some_ne_none w),
          fun h => absurd h same⟩
  case handover =>
    intro s c v n k next visit
    refine ⟨fun free => ?_, fun busy => ?_⟩
    · obtain ⟨u, l, hands, mem, core, joins⟩ := slotHandover_hands next visit free
      refine ⟨u, hands, mem, ?_⟩
      rw [core]
      refine ⟨rfl, fun t ht => .inl (joins t ht), fun more => ?_, fun last => ?_⟩
      · rw [handOver_more s.cyc more]
        exact ⟨rfl, next⟩
      · rw [handOver_last s.cyc last]
        exact ⟨rfl, rfl⟩
    · refine ⟨_, exec_slotHandover_waits next visit busy, ?_, defersAll_mem ..⟩
      rw [core_setCore_of _ _ _ (by exact core_num ..), defersAll_core]
  case boost => exact fun s v => ⟨_, rfl, vd_setVd_of _ _ _ (vd_num s v), rfl⟩
  case budget =>
    refine fun s => ⟨_, rfl, fun v hv => ?_, fun k hk => ?_, rfl, List.length_map ..⟩
    · obtain ⟨_, -, rfl⟩ := List.mem_map.mp hv
      rfl
    · obtain ⟨_, -, rfl⟩ := List.mem_map.mp hk
      rfl

end Sys2Proof.Machine
end
